-- ==== Sys2Proof/Word.lean ====
section
/-! DEFINITION. The word types of Yunahild: 64-bit scalars, 512-byte vector registers (R16, R18), bytes. -/

namespace Sys2Proof

/-- A scalar register, a PC, a system register: 64 bits (R18). -/
abbrev Word := BitVec 64

/-- One byte of memory. -/
abbrev Byte := BitVec 8

/-- A v-, m- or transposer row register: 512 bytes, 128 lanes of 32 bits (R18, R214). -/
abbrev Vec := BitVec 4096

/-- A predicate register: one bit per lane (R18). -/
abbrev Pred := BitVec 128

end Sys2Proof
end

