-- ==== Sys2Proof/Config.lean ====
section
/-! DEFINITION. What the spec leaves open, as constants without a body: nothing can be proved about a value of
theirs, so a theorem holds for every value. Each is applied to a plain counter of State (`nfree`) or to the
operands it depends on. Log entries 1, 6 and 7 name them. -/

namespace Sys2Proof.Config

/-- Which of the events that may happen next does happen (R147, R256, R281, R286, R328: the order and the moment
are not promised). DESIGN CHOICE, log 1: safe. -/
opaque choice : Nat → Nat

/-- An unpredictable 64-bit value (R3). Log 6: safe. -/
opaque freeWord : Nat → Word

/-- An unpredictable 512-byte value (R3). Log 6: safe. -/
opaque freeVec : Nat → Vec

/-- The choice behind an unpredictable domain tag; `Tag.wellFormed` values are made from it (R3, R237). Log 6. -/
opaque freeTag : Nat → BitVec 32

/-- An unpredictable full/empty bit (R3). Log 6: safe. -/
opaque freeBit : Nat → Bool

/-- Whether the service of a full/empty or barrier operation through a window still keeps its core held (R117, R301, R302:
the time that it takes is not given). Log 11: safe. -/
opaque windowHeld : Nat → Bool

/-- Whether data or a reply of a fixed-latency operation is late in a cycle and holds its core: contention on its way, a repair, a
refresh or an ECC retry, whose times are not given (R95, R104, R266, R270). Log 11: safe. -/
opaque lateHeld : Nat → Bool

/-- The 512-bit key that the boot ROM loads into slot 0, by words of 64 bits (R337). Log 7: safe. -/
opaque romKey : Nat → Word

/-- The verification key of the boot ROM, a point of P-384 (R389). Log 34: safe. -/
opaque romPublic : Nat × Nat

/-- Whether the digest and the signature of a repair record verify (R389), for the banks and the soft repairs that it lists: the bytes
of the record are not given. Log 38: safe. -/
opaque recordOk : List (Nat × Nat × Nat) → List (Nat × Word) → Bool

/-- Whether the part is KZ9-YH-MOD (R2). Log 23: safe. -/
opaque isModule : Bool

/-- The device's number (R388). Log 23: safe. -/
opaque deviceNumber : Nat

/-- The measured values of the monitor capability (R392, R393). Log 23: safe. -/
opaque measured : Nat → Word

end Sys2Proof.Config
end

