-- ==== Sys2Proof/Machine/Float.lean ====
section
/-! DEFINITION. Number formats, decoding, exact arithmetic and rounding (R169 to R178), and the special functions of
R222. A float is held exactly, as a sign, an integer and a power of two, and rounded once by `roundFmt`. -/

namespace Sys2Proof.Machine

/-- A value before rounding: NaN, an infinity, or `m × 2^e` with a sign, zero included. `more` says that the exact
magnitude lies strictly between `m × 2^e` and `(m + 1) × 2^e`. -/
inductive FVal where
  | nan
  | inf (neg : Bool)
  | num (neg : Bool) (m : Nat) (e : Int) (more : Bool)
  deriving DecidableEq, Repr

/-- Number of bits of a natural number; 0 for 0. -/
def bitLen (n : Nat) : Nat := if n = 0 then 0 else Nat.log2 n + 1

/-- Mantissa bits M of a floating-point format code (R169). -/
def fmtM (f : Nat) : Nat := match f with | 0 => 23 | 1 => 7 | 2 => 10 | 3 => 3 | _ => 2

/-- Exponent bias (R169). -/
def fmtBias (f : Nat) : Nat := match f with | 0 => 127 | 1 => 127 | 2 => 15 | 3 => 7 | _ => 15

/-- Bits of an element of a format code (R169, R172). -/
def fmtBits (f : Nat) : Nat := match f with | 0 => 32 | 1 => 16 | 2 => 16 | 3 => 8 | 4 => 8 | 5 => 32 | 6 => 8 | _ => 16

/-- Bytes of an element of a format code. -/
def fmtSize (f : Nat) : Nat := fmtBits f / 8

/-- Whether a format code is floating point (R169); 5 to 7 are integers (R172). -/
def isFloat (f : Nat) : Bool := f < 5

/-- All-ones exponent field of a floating-point format. -/
def fmtEmax (f : Nat) : Nat := 2 ^ (fmtBits f - 1 - fmtM f) - 1

/-- The canonical NaN (R171). -/
def canonNaN (f : Nat) : Nat :=
  match f with | 0 => 0x7FC00000 | 1 => 0x7FC0 | 2 => 0x7E00 | 3 => 0x7F | _ => 0x7E

/-- The encoding of the largest finite value without its sign (R171). -/
def maxFinite (f : Nat) : Nat :=
  match f with | 0 => 0x7F7FFFFF | 1 => 0x7F7F | 2 => 0x7BFF | 3 => 0x7E | _ => 0x7B

/-- The sign bit's weight. -/
def signBit (f : Nat) : Nat := 2 ^ (fmtBits f - 1)

/-- The value of an encoding, its bits above the format's ignored (R170). -/
def decodeF (f bits : Nat) : FVal :=
  let b := bits % 2 ^ fmtBits f
  let neg := decide (signBit f ≤ b)
  let m := b % 2 ^ fmtM f
  let e := b / 2 ^ fmtM f % (fmtEmax f + 1)
  if f = 3 ∧ e = 15 ∧ m = 7 then .nan
  else if f ≠ 3 ∧ e = fmtEmax f then if m = 0 then .inf neg else .nan
  else if e = 0 then .num neg m (1 - (fmtBias f : Int) - fmtM f) false
  else .num neg (m + 2 ^ fmtM f) ((e : Int) - fmtBias f - fmtM f) false

/-- The sign of a value put on an encoding. -/
def withSign (f : Nat) (neg : Bool) (x : Nat) : Nat := if neg then x + signBit f else x

/-- Whether a magnitude cut down to an integer `q` with remainder `r` of `d` parts goes up one (R175). `more` adds a
nonzero part smaller than one of the d parts. -/
def roundsUp (rm : Nat) (neg : Bool) (q r d : Nat) (more : Bool) : Bool :=
  let inexact := decide (r ≠ 0) || more
  match rm with
  | 0 => decide (2 * r > d) || (decide (2 * r = d) && (more || decide (q % 2 = 1)))
  | 1 => false
  | 2 => neg && inexact
  | _ => !neg && inexact

/-- `m × 2^e`, with `more`, as an integer multiple of 2^q, rounded by rm (R175). -/
def roundTo (rm : Nat) (neg : Bool) (m : Nat) (e q : Int) (more : Bool) : Nat :=
  if q ≤ e then
    let n := m * 2 ^ (e - q).toNat
    if roundsUp rm neg n 0 1 more then n + 1 else n
  else
    let d := 2 ^ (q - e).toNat
    let n := m / d
    if roundsUp rm neg n (m % d) d more then n + 1 else n

/-- The encoding of `n × 2^q`, n below 2^(M+2), or overflow (R176). -/
def encodeF (f : Nat) (neg : Bool) (n : Nat) (q : Int) (sat : Bool) : Nat :=
  let M := fmtM f
  let n' := if n ≥ 2 ^ (M + 1) then n / 2 else n
  let q' := if n ≥ 2 ^ (M + 1) then q + 1 else q
  if n' < 2 ^ M then withSign f neg n'
  else
    let field := (q' + M + fmtBias f).toNat
    let enc := field * 2 ^ M + (n' - 2 ^ M)
    if enc ≤ maxFinite f then withSign f neg enc
    else if sat then withSign f neg (maxFinite f)
    else if f = 3 then canonNaN f
    else withSign f neg (fmtEmax f * 2 ^ M)

/-- round_fmt (R176): the encoding of a value in a floating-point format. -/
def roundFmt (x : FVal) (f rm : Nat) (sat : Bool) : Nat :=
  match x with
  | .nan => canonNaN f
  | .inf neg =>
    if f ≠ 3 then withSign f neg (fmtEmax f * 2 ^ fmtM f)
    else if sat then withSign f neg (maxFinite f) else canonNaN f
  | .num neg m e more =>
    if m = 0 ∧ more = false then withSign f neg 0
    else
      let q := max (e + bitLen m - 1 - fmtM f) (1 - (fmtBias f : Int) - fmtM f)
      encodeF f neg (roundTo rm neg m e q more) q sat

/-- The value as a signed multiple of 2^e0, for e0 not above its exponent. -/
def scaled (neg : Bool) (m : Nat) (e e0 : Int) : Int :=
  let v : Int := (m * 2 ^ (e - e0).toNat : Nat)
  if neg then -v else v

/-- The negation of a value. -/
def FVal.neg : FVal → FVal
  | .nan => .nan
  | .inf s => .inf !s
  | .num s m e more => .num (!s) m e more

/-- The magnitude of a value. -/
def FVal.abs : FVal → FVal
  | .nan => .nan
  | .inf _ => .inf false
  | .num _ m e more => .num false m e more

/-- Exact sum; an exact zero sum of unlike zeros or operands is −0 under RDN and +0 otherwise (R177). -/
def fadd (rm : Nat) : FVal → FVal → FVal
  | .nan, _ => .nan
  | _, .nan => .nan
  | .inf a, .inf b => if a = b then .inf a else .nan
  | .inf a, _ => .inf a
  | _, .inf b => .inf b
  | .num s m e _, .num s' m' e' _ =>
    if m = 0 ∧ m' = 0 then .num (if s = s' then s else decide (rm = 2)) 0 0 false
    else
      let e0 := min e e'
      let v := scaled s m e e0 + scaled s' m' e' e0
      if v = 0 then .num (decide (rm = 2)) 0 0 false
      else .num (decide (v < 0)) v.natAbs e0 false

/-- Exact product (R177). -/
def fmul : FVal → FVal → FVal
  | .nan, _ => .nan
  | _, .nan => .nan
  | .inf a, .inf b => .inf (a ^^ b)
  | .inf a, .num s m _ _ => if m = 0 then .nan else .inf (a ^^ s)
  | .num s m _ _, .inf b => if m = 0 then .nan else .inf (s ^^ b)
  | .num s m e _, .num s' m' e' _ => .num (s ^^ s') (m * m') (e + e') false

/-- Exact a × b + c (R177). -/
def ffma (rm : Nat) (a b c : FVal) : FVal := fadd rm (fmul a b) c

/-- Order by value, −0 and +0 equal; none with a NaN. -/
def fcmp : FVal → FVal → Option Ordering
  | .nan, _ => none
  | _, .nan => none
  | .inf a, .inf b => some (if a = b then .eq else if a then .lt else .gt)
  | .inf a, .num _ _ _ _ => some (if a then .lt else .gt)
  | .num _ _ _ _, .inf b => some (if b then .gt else .lt)
  | .num s m e _, .num s' m' e' _ =>
    let e0 := min e e'
    some (compare (scaled s m e e0) (scaled s' m' e' e0))

/-- Whether a value's sign is minus. -/
def FVal.isNeg : FVal → Bool
  | .nan => false
  | .inf s => s
  | .num s _ _ _ => s

/-- Whether `a` is below `b` in the order of R220, −0 below +0; neither is a NaN. -/
def below (a b : FVal) : Bool :=
  match fcmp a b with
  | some .lt => true
  | some .eq => a.isNeg && !b.isNeg
  | _ => false

/-- Minimum (R220). -/
def fminV (a b : FVal) : FVal :=
  match a, b with
  | .nan, x => x
  | x, .nan => x
  | x, y => if below y x then y else x

/-- Maximum (R220). -/
def fmaxV (a b : FVal) : FVal :=
  match a, b with
  | .nan, x => x
  | x, .nan => x
  | x, y => if below x y then y else x

/-- Signed reading of the low w bits. -/
def sintOf (w x : Nat) : Int :=
  let y := x % 2 ^ w
  if y < 2 ^ (w - 1) then y else (y : Int) - 2 ^ w

/-- The low w bits of an integer. -/
def wrapInt (w : Nat) (x : Int) : Nat := (x % (2 ^ w : Nat)).toNat

/-- An integer clamped to a range. -/
def clampInt (lo hi x : Int) : Int := if x < lo then lo else if x > hi then hi else x

/-- An integer clamped to the signed range of w bits, as w bits (R172). -/
def clampS (w : Nat) (x : Int) : Nat := wrapInt w (clampInt (-(2 ^ (w - 1) : Nat)) ((2 ^ (w - 1) : Nat) - 1) x)

/-- The value rounded to an integer by rm and clamped to the signed range of w bits (R177); NaN gives 0. -/
def fToInt (rm w : Nat) : FVal → Nat
  | .nan => 0
  | .inf neg => clampS w (if neg then -(2 ^ w : Nat) else (2 ^ w : Nat))
  | .num neg m e more =>
    let n : Int := roundTo rm neg m e 0 more
    clampS w (if neg then -n else n)

/-- The value of a signed integer. -/
def ofInt (x : Int) : FVal := .num (decide (x < 0)) x.natAbs 0 false

/-- An element's conversion between two formats (R177, R225), in fmtBits fd bits. -/
def convertF (fa fd rm : Nat) (sat : Bool) (x : Nat) : Nat :=
  if isFloat fa then
    if isFloat fd then roundFmt (decodeF fa x) fd rm sat else fToInt rm (fmtBits fd) (decodeF fa x)
  else
    let v := sintOf (fmtBits fa) x
    if isFloat fd then roundFmt (ofInt v) fd rm sat else clampS (fmtBits fd) v

/-- A result of fmtBits f bits widened into a 32-bit lane (R214). -/
def laneOf (f : Nat) (u : Bool) (x : Nat) : BitVec 32 :=
  if isFloat f || u then BitVec.ofNat 32 (x % 2 ^ fmtBits f) else BitVec.ofInt 32 (sintOf (fmtBits f) x)

/-! ### Special functions (R222): exact where the value is a dyadic number, else by integer fixed-point sums whose
error lies far below the bits kept; UNVERIFIED that no argument needs more bits, log 8. -/

/-- Fraction bits of the fixed-point sums. -/
def fxP : Nat := 400

/-- A sum computed to a few units of 2^e, its last 60 bits given up for `more`. -/
def approx (neg : Bool) (m : Nat) (e : Int) : FVal := .num neg (m / 2 ^ 60) (e + 60) true

/-- Σ z^(2k+1)/(2k+1) from the k-th term `p`, for z in fixed point: artanh z. -/
def artanhSum (z2 : Nat) : Nat → Nat → Nat → Nat → Nat
  | 0, _, _, acc => acc
  | fuel + 1, k, p, acc => artanhSum z2 fuel (k + 1) (p * z2 / 2 ^ fxP) (acc + p / (2 * k + 1))

/-- artanh z for z at most 1/3 in fixed point. -/
def artanhFx (z : Nat) : Nat := artanhSum (z * z / 2 ^ fxP) 140 0 z 0

/-- ln 2. -/
def ln2Fx : Nat := 2 * artanhFx (2 ^ fxP / 3)

/-- Σ x^n/n! from the n-th term `t`. -/
def expSum (x : Nat) : Nat → Nat → Nat → Nat → Nat
  | 0, _, _, acc => acc
  | fuel + 1, n, t, acc => expSum x fuel (n + 1) (t * x / 2 ^ fxP / (n + 1)) (acc + t)

/-- 2^f for f in [0, 1) in fixed point. -/
def pow2Fx (f : Nat) : Nat := expSum (f * ln2Fx / 2 ^ fxP) 100 0 (2 ^ fxP) 0

/-- e^−x for x in fixed point, as a mantissa in (1/2, 1] and n with the value mantissa × 2^−n. -/
def expNeg (x : Nat) : Nat × Nat :=
  let y := x * 2 ^ fxP / ln2Fx
  let n := y / 2 ^ fxP
  let f := y % 2 ^ fxP
  if f = 0 then (2 ^ fxP, n) else (pow2Fx (2 ^ fxP - f) / 2, n)

/-- m × 2^e in fixed point. -/
def toFx (m : Nat) (e : Int) : Nat :=
  if 0 ≤ e + fxP then m * 2 ^ (e + fxP).toNat else m / 2 ^ (-(e + fxP)).toNat

/-- Whether m × 2^e, m nonzero, is at least 2^k. -/
def atLeast (m : Nat) (e k : Int) : Bool := k ≤ e + bitLen m - 1

/-- Just below and just above 1. -/
def belowOne (neg : Bool) : FVal := .num neg (2 ^ 200 - 1) (-200) true

/-- 2^a. -/
def exp2V : FVal → FVal
  | .nan => .nan
  | .inf neg => if neg then .num false 0 0 false else .inf false
  | .num neg m e _ =>
    if m = 0 then .num false 1 0 false
    else if atLeast m e 12 then if neg then .num false 1 (-4000) true else .num false 1 4000 false
    else
      let x := toFx m e
      let exact := decide (0 ≤ e) || decide (m % 2 ^ (-e).toNat = 0)
      let n : Int := x / 2 ^ fxP
      let f := x % 2 ^ fxP
      if exact then .num false 1 (if neg then -n else n) false
      else if !atLeast m e (-300) then if neg then belowOne false else .num false (2 ^ 200) (-200) true
      else if neg then approx false (pow2Fx (2 ^ fxP - f)) (-n - 1 - fxP)
      else approx false (pow2Fx f) (n - fxP)

/-- log₂ a. -/
def log2V : FVal → FVal
  | .nan => .nan
  | .inf neg => if neg then .nan else .inf false
  | .num neg m e _ =>
    if m = 0 then .inf true
    else if neg then .nan
    else
      let b := bitLen m - 1
      let n : Int := e + b
      if m = 2 ^ b then .num (decide (n < 0)) n.natAbs 0 false
      else
        let z := (m - 2 ^ b) * 2 ^ fxP / (m + 2 ^ b)
        let l := 2 * artanhFx z * 2 ^ fxP / ln2Fx
        if 0 ≤ n then approx false (n.toNat * 2 ^ fxP + l) (-fxP)
        else approx true ((-n).toNat * 2 ^ fxP - l) (-fxP)

/-- 1/a. -/
def rcpV : FVal → FVal
  | .nan => .nan
  | .inf neg => .num neg 0 0 false
  | .num neg m e _ =>
    if m = 0 then .inf neg
    else
      let k := bitLen m + 40
      .num neg (2 ^ k / m) (-e - k) (decide (2 ^ k % m ≠ 0))

/-- √a. -/
def sqrtV : FVal → FVal
  | .nan => .nan
  | .inf neg => if neg then .nan else .inf false
  | .num neg m e _ =>
    if m = 0 then .num neg 0 0 false
    else if neg then .nan
    else
      let m' := (if e % 2 = 0 then m else 2 * m) * 2 ^ 80
      let e' := if e % 2 = 0 then e else e - 1
      let r := Nat.sqrt m'
      .num false r (e' / 2 - 40) (decide (r * r ≠ m'))

/-- 1/√a. -/
def rsqrtV : FVal → FVal
  | .nan => .nan
  | .inf neg => if neg then .nan else .num false 0 0 false
  | .num neg m e _ =>
    if m = 0 then .inf neg
    else if neg then .nan
    else
      let m' := if e % 2 = 0 then m else 2 * m
      let e' := if e % 2 = 0 then e else e - 1
      let k := bitLen m' + 40
      let r := Nat.sqrt (2 ^ (2 * k) / m')
      .num false r (-(e' / 2) - k) (decide (r * r * m' ≠ 2 ^ (2 * k)))

/-- tanh a. -/
def tanhV : FVal → FVal
  | .nan => .nan
  | .inf neg => .num neg 1 0 false
  | .num neg m e _ =>
    if m = 0 then .num neg 0 0 false
    else if !atLeast m e (-44) then .num neg (m * 2 ^ 64 - 1) (e - 64) true
    else if atLeast m e 6 then belowOne neg
    else
      let (g, n) := expNeg (2 * toFx m e)
      let t := g / 2 ^ n
      approx neg ((2 ^ fxP - t) * 2 ^ fxP / (2 ^ fxP + t)) (-fxP)

/-- 1/(1 + e^−a). -/
def sigmoidV : FVal → FVal
  | .nan => .nan
  | .inf neg => if neg then .num false 0 0 false else .num false 1 0 false
  | .num neg m e _ =>
    if m = 0 then .num false 1 (-1) false
    else if atLeast m e 8 then if neg then .num false 1 (-400) true else belowOne false
    else
      let (g, n) := expNeg (toFx m e)
      let t := g / 2 ^ n
      if !atLeast m e (-300) then
        if neg then .num false (2 ^ 200 - 1) (-201) true else .num false (2 ^ 200) (-201) true
      else if neg then approx false (g * 2 ^ fxP / (2 ^ fxP + t)) (-fxP - n)
      else approx false (2 ^ (2 * fxP) / (2 ^ fxP + t)) (-fxP)

/-- Σ (−1)^k z^(2k+1)/(2k+1) with z = 1/d: arctan (1/d). -/
def arctanSum (d2 : Nat) : Nat → Nat → Nat → Int → Int
  | 0, _, _, acc => acc
  | fuel + 1, k, p, acc =>
    let t : Int := p / (2 * k + 1)
    arctanSum d2 fuel (k + 1) (p / d2) (if k % 2 = 0 then acc + t else acc - t)

/-- π in fixed point, by Machin's formula. -/
def piFx : Nat := (16 * arctanSum 25 200 0 (2 ^ fxP / 5) 0 - 4 * arctanSum 57121 100 0 (2 ^ fxP / 239) 0).toNat

/-- Σ (2z)^n/(1·3·…·(2n+1)) from the n-th term `t`, z = x² in fixed point. -/
def erfSum (z : Nat) : Nat → Nat → Nat → Nat → Nat
  | 0, _, _, acc => acc
  | fuel + 1, n, t, acc => erfSum z fuel (n + 1) (t * 2 * z / 2 ^ fxP / (2 * n + 3)) (acc + t)

/-- erf a. -/
def erfV : FVal → FVal
  | .nan => .nan
  | .inf neg => .num neg 1 0 false
  | .num neg m e _ =>
    if m = 0 then .num neg 0 0 false
    else if 12 * 2 ^ fxP ≤ toFx m e then belowOne neg
    else
      let z := toFx (m * m) (2 * e)
      let s := erfSum z 900 0 (2 ^ fxP) 0
      let (g, n) := expNeg z
      let c := 2 * 2 ^ (2 * fxP) / Nat.sqrt (piFx * 2 ^ fxP)
      approx neg (m * (s * g / 2 ^ (fxP + n) * c / 2 ^ fxP)) (e - fxP)

/-- The function FN of VFSPEC (R222). -/
def specV (fn : Nat) (x : FVal) : FVal :=
  match fn with
  | 0 => exp2V x
  | 1 => log2V x
  | 2 => rcpV x
  | 3 => rsqrtV x
  | 4 => sqrtV x
  | 5 => tanhV x
  | 6 => sigmoidV x
  | _ => erfV x

end Sys2Proof.Machine
end

