-- ==== Sys2Proof/Syntax.lean ====
section
/-! DEFINITION. The slot formats of R46 as records of their fields, and `Instr`: one constructor for each row of
spec/opcode_table.json. A slot operation carries the fields of its slot as encoded; an event carries the words that
firmware, the host or a link gives with it, while the core, context or command it concerns is the focus of the state
(`Machine.Focus`), as it is for a slot operation. -/

namespace Sys2Proof

/-- C slot fields (R46), highest bits first. -/
structure CSlot where
  imm : BitVec 32
  fn  : BitVec 5
  mir : BitVec 1
  w   : BitVec 2
  i   : BitVec 1
  sb  : BitVec 5
  sa  : BitVec 5
  sd  : BitVec 5
  deriving DecidableEq, Repr

/-- A slot fields (R46). -/
structure ASlot where
  off  : BitVec 26
  step : BitVec 6
  sc   : BitVec 3
  w    : BitVec 2
  h    : BitVec 4
  xs   : BitVec 5
  dr   : BitVec 6
  mir  : BitVec 1
  sdly : BitVec 3
  deriving DecidableEq, Repr

/-- V slot fields (R46). -/
structure VSlot where
  aux  : BitVec 12
  rm   : BitVec 3
  qa   : BitVec 1
  step : BitVec 2
  fd   : BitVec 3
  fa   : BitVec 3
  z    : BitVec 1
  p    : BitVec 3
  vc   : BitVec 6
  vb   : BitVec 6
  va   : BitVec 6
  vd   : BitVec 6
  mir  : BitVec 1
  sdly : BitVec 3
  deriving DecidableEq, Repr

/-- M slot fields (R46); `rsv` is the reserved bit 11. -/
structure MSlot where
  aux  : BitVec 4
  h    : BitVec 1
  spn  : BitVec 3
  cbf  : BitVec 2
  n    : BitVec 8
  vs   : BitVec 6
  q    : BitVec 1
  src  : BitVec 1
  sb   : BitVec 5
  sa   : BitVec 5
  md   : BitVec 7
  af   : BitVec 2
  inf  : BitVec 3
  mode : BitVec 3
  b    : BitVec 1
  rsv  : BitVec 1
  sdly : BitVec 3
  deriving DecidableEq, Repr

/-- T slot fields (R46); `rsv` is the reserved bits [31:29]. -/
structure TSlot where
  rsv  : BitVec 3
  step : BitVec 2
  fmt  : BitVec 3
  idx  : BitVec 7
  v    : BitVec 6
  sdly : BitVec 3
  deriving DecidableEq, Repr

/-- X slot fields (R46). -/
structure XSlot where
  imm : BitVec 18
  fd2 : BitVec 3
  fs  : BitVec 3
  h2  : BitVec 4
  h   : BitVec 4
  sc  : BitVec 3
  tag : BitVec 6
  scc : BitVec 5
  sb  : BitVec 5
  sa  : BitVec 5
  deriving DecidableEq, Repr

/-- The six slots of a bundle, in the order C, A, V, M, T, X of R44; `toNat` gives the SLOT code of R64. -/
inductive Slot where
  | c | a | v | m | t | x
  deriving DecidableEq, Repr

/-- The bundle header (R43). -/
structure Header where
  rsv   : BitVec 12
  rv    : BitVec 1
  g     : BitVec 1
  d     : BitVec 1
  stall : BitVec 5
  rep   : BitVec 6
  pres  : BitVec 6
  deriving DecidableEq, Repr

/-- One constructor for each row of the opcode table, slot operations first, then events. -/
inductive Instr where
  /-- CNOP (R31): C-slot NOP; does nothing. -/
  | cnop (f : CSlot)
  /-- END (R85): Finishes the stage instance once its started operations have landed. -/
  | endInst (f : CSlot)
  /-- ADD (R68): Writes a + b at width w, sign-extended. -/
  | add (f : CSlot)
  /-- SUB (R68): Writes a − b at width w. -/
  | sub (f : CSlot)
  /-- MUL (R68): Writes the low w bits of a × b. -/
  | mul (f : CSlot)
  /-- MULH (R68): Writes the high w bits of the signed product. -/
  | mulh (f : CSlot)
  /-- MULHN (R68): Writes the high w bits of the unsigned product. -/
  | mulhn (f : CSlot)
  /-- DIV (R69): Writes the signed quotient, all ones on division by zero. -/
  | div (f : CSlot)
  /-- DIVN (R69): Writes the unsigned quotient. -/
  | divn (f : CSlot)
  /-- REM (R69): Writes the signed remainder, the dividend on division by zero. -/
  | rem (f : CSlot)
  /-- REMN (R69): Writes the unsigned remainder. -/
  | remn (f : CSlot)
  /-- AND (R68): Writes a AND b. -/
  | and (f : CSlot)
  /-- OR (R68): Writes a OR b. -/
  | or (f : CSlot)
  /-- XOR (R68): Writes a XOR b. -/
  | xor (f : CSlot)
  /-- ANDN (R68): Writes a AND NOT b. -/
  | andn (f : CSlot)
  /-- SHL (R68): Shifts a left by b mod w. -/
  | shl (f : CSlot)
  /-- SHR (R68): Shifts a right logically by b mod w. -/
  | shr (f : CSlot)
  /-- SAR (R68): Shifts a right arithmetically by b mod w. -/
  | sar (f : CSlot)
  /-- ROL (R68): Rotates a left by b mod w within w bits. -/
  | rol (f : CSlot)
  /-- MIN (R68): Writes the signed minimum. -/
  | min (f : CSlot)
  /-- MAX (R68): Writes the signed maximum. -/
  | max (f : CSlot)
  /-- MINN (R68): Writes the unsigned minimum. -/
  | minn (f : CSlot)
  /-- MAXN (R68): Writes the unsigned maximum. -/
  | maxn (f : CSlot)
  /-- CLZ (R68): Counts leading zero bits of a. -/
  | clz (f : CSlot)
  /-- CTZ (R68): Counts trailing zero bits of a. -/
  | ctz (f : CSlot)
  /-- POPC (R68): Counts the one bits of a. -/
  | popc (f : CSlot)
  /-- SEQ (R68): Writes 1 when a = b, else 0. -/
  | seq (f : CSlot)
  /-- SLT (R68): Writes 1 when a < b signed. -/
  | slt (f : CSlot)
  /-- SLTN (R68): Writes 1 when a < b unsigned. -/
  | sltn (f : CSlot)
  /-- SEL (R68): Writes a when s[F] is nonzero, else b. -/
  | sel (f : CSlot)
  /-- LI (R68): Writes b, an immediate or a register. -/
  | li (f : CSlot)
  /-- LIH (R70): Writes IMM in the high 32 bits over the low 32 bits of s[SA]. -/
  | lih (f : CSlot)
  /-- LEA (R70): Writes s[SA] + (B << F[2:0]). -/
  | lea (f : CSlot)
  /-- POPQ (R71): Pops the head load-data queue entry into a scalar, freezing while it is unfilled. -/
  | popq (f : CSlot)
  /-- BR (R73): Branches always. -/
  | br (f : CSlot)
  /-- BEQ (R73): Branches when a = b. -/
  | beq (f : CSlot)
  /-- BNE (R73): Branches when a differs from b. -/
  | bne (f : CSlot)
  /-- BLT (R73): Branches when a < b signed. -/
  | blt (f : CSlot)
  /-- BGE (R73): Branches when a ≥ b signed. -/
  | bge (f : CSlot)
  /-- BLTN (R73): Branches when a < b unsigned. -/
  | bltn (f : CSlot)
  /-- BGEN (R73): Branches when a ≥ b unsigned. -/
  | bgen (f : CSlot)
  /-- BPANY (R73): Branches when any bit of the predicate is 1. -/
  | bpany (f : CSlot)
  /-- BPALL (R73): Branches when every bit of the predicate is 1. -/
  | bpall (f : CSlot)
  /-- CALL (R74): Writes the return address to s[SD] and branches. -/
  | call (f : CSlot)
  /-- RET (R74): Branches to s[SA]. -/
  | ret (f : CSlot)
  /-- JMPR (R74): Branches to s[SA] plus an optional offset. -/
  | jmpr (f : CSlot)
  /-- LOOP (R76): Starts a hardware loop on lp0 or lp1 with count s[SA]. -/
  | loop (f : CSlot)
  /-- LEXIT (R79): Leaves a hardware loop early. -/
  | lexit (f : CSlot)
  /-- SPL (R81): Writes the low w bits of a scalar to spill memory. -/
  | spl (f : CSlot)
  /-- FIL (R81): Reads spill bytes into a scalar, sign-extended. -/
  | fil (f : CSlot)
  /-- MFS (R83): Reads a system register into a scalar. -/
  | mfs (f : CSlot)
  /-- MTS (R83): Writes a scalar to a system register, clearing TAGS bits written as 1. -/
  | mts (f : CSlot)
  /-- TRAP (R352): With SYS = 0, raises program trap 0x18 after the issue. -/
  | trap (f : CSlot)
  /-- TRAP_SYS (R352): With SYS = 1, blocks the context until wellhead firmware answers its service request. -/
  | trapSys (f : CSlot)
  /-- ERET (R353): Leaves handler mode, restores set-aside state and replays the snapshot at shifted cycles. -/
  | eret (f : CSlot)
  /-- CHK (R361): Compares two scalars and traps 0x0D when they differ. -/
  | chk (f : CSlot)
  /-- BLEND (R212): Lends vector bank k to the M slot. -/
  | blend (f : CSlot)
  /-- BRET (R212): Takes a lent vector bank back from the M slot. -/
  | bret (f : CSlot)
  /-- ANOP (R31): A-slot NOP; stops the sticky A operation. -/
  | anop (f : ASlot)
  /-- LDQ (R114): Loads w bits into a scalar queue entry. -/
  | ldq (f : ASlot)
  /-- LDQV (R114): Loads 512 bytes into a vector queue entry. -/
  | ldqv (f : ASlot)
  /-- LDQG (R115): Gathers 128 elements at vector offsets into an element entry. -/
  | ldqg (f : ASlot)
  /-- LDQS (R115): Loads 128 strided elements into an element entry. -/
  | ldqs (f : ASlot)
  /-- STS (R114): Stores the low w bits of a scalar. -/
  | sts (f : ASlot)
  /-- STV (R114): Stores the 512 bytes of a vector register. -/
  | stv (f : ASlot)
  /-- STVP (R115): Stores the lanes of a vector register whose predicate bit is 1. -/
  | stvp (f : ASlot)
  /-- STG (R115): Scatters lanes of a vector register to vector offsets. -/
  | stg (f : ASlot)
  /-- LDF (R118): Reads a FULL word, optionally setting it EMPTY, or blocks while it is EMPTY. -/
  | ldf (f : ASlot)
  /-- STE (R118): Writes an EMPTY word and sets it FULL, or blocks while it is FULL. -/
  | ste (f : ASlot)
  /-- SETF (R118): Sets a word FULL. -/
  | setf (f : ASlot)
  /-- SETE (R118): Sets a word EMPTY. -/
  | sete (f : ASlot)
  /-- TSTF (R118): Reads a word and its full/empty state into a status entry. -/
  | tstf (f : ASlot)
  /-- TLD (R120): Loads 128 elements along dimension 0 of a shape record, clipping out-of-bound elements. -/
  | tld (f : ASlot)
  /-- TST (R120): Stores 128 elements along dimension 0 of a shape record, dropping clipped elements. -/
  | tst (f : ASlot)
  /-- XLT (R123): Translates a virtual address into a handle on its page. -/
  | xlt (f : ASlot)
  /-- HDROP (R124): Makes a handle EMPTY. -/
  | hdrop (f : ASlot)
  /-- HINFO (R125): Writes a handle's description word to a scalar. -/
  | hinfo (f : ASlot)
  /-- HST (R244): Transforms, thresholds and stores a register set as a compressed tile. -/
  | hst (f : ASlot)
  /-- HLD (R247): Reads a compressed tile into registers in packed, dense or plain form. -/
  | hld (f : ASlot)
  /-- AMOADD (R128): Atomically adds a to the location and returns the old value. -/
  | amoadd (f : ASlot)
  /-- AMOMIN (R128): Atomic signed minimum. -/
  | amomin (f : ASlot)
  /-- AMOMAX (R128): Atomic signed maximum. -/
  | amomax (f : ASlot)
  /-- AMOMINN (R128): Atomic unsigned minimum. -/
  | amominn (f : ASlot)
  /-- AMOMAXN (R128): Atomic unsigned maximum. -/
  | amomaxn (f : ASlot)
  /-- AMOAND (R128): Atomic AND. -/
  | amoand (f : ASlot)
  /-- AMOOR (R128): Atomic OR. -/
  | amoor (f : ASlot)
  /-- AMOXOR (R128): Atomic XOR. -/
  | amoxor (f : ASlot)
  /-- AMOSWP (R128): Atomic swap. -/
  | amoswp (f : ASlot)
  /-- AMOCAS (R128): Atomic compare and swap with a success flag. -/
  | amocas (f : ASlot)
  /-- AMOINCW (R129): Atomic increment that wraps to 0 at the bound. -/
  | amoincw (f : ASlot)
  /-- AMOBFA (R129): Atomic bounded add with a success flag. -/
  | amobfa (f : ASlot)
  /-- AMOFADD (R128): Atomic FP32 add rounded RNE. -/
  | amofadd (f : ASlot)
  /-- LDACQ (R130): Acquiring load at scope SC. -/
  | ldacq (f : ASlot)
  /-- STREL (R130): Releasing store at scope SC, logged when narrow. -/
  | strel (f : ASlot)
  /-- PACQ (R131): Promotes narrow releases of target cores and then reads a flag with acquire semantics. -/
  | pacq (f : ASlot)
  /-- DRN (R132): Holds the core until the named earlier paths have drained at scope SC. -/
  | drn (f : ASlot)
  /-- BARV (R301): Records k arrivals at a barrier object, closing a phase when EXPECT is reached. -/
  | barv (f : ASlot)
  /-- BWAIT (R302): Waits until a barrier object has left a given phase. -/
  | bwait (f : ASlot)
  /-- FLADD (R297): Adds a value to a flag of one core. -/
  | fladd (f : ASlot)
  /-- FLSET (R298): Writes a value to a flag on a mask or group of cores. -/
  | flset (f : ASlot)
  /-- FLWAIT (R299): Waits until a local flag meets a condition, optionally subtracting. -/
  | flwait (f : ASlot)
  /-- VNOP (R31): V-slot NOP; stops the sticky V operation. -/
  | vnop (f : VSlot)
  /-- VFADD (R219): Lane-wise a + b, rounded. -/
  | vfadd (f : VSlot)
  /-- VFSUB (R219): Lane-wise a − b. -/
  | vfsub (f : VSlot)
  /-- VFMUL (R219): Lane-wise a × b. -/
  | vfmul (f : VSlot)
  /-- VFMA (R219): Lane-wise fused a × b + c. -/
  | vfma (f : VSlot)
  /-- VFMS (R219): Lane-wise fused a × b − c. -/
  | vfms (f : VSlot)
  /-- VFNMA (R219): Lane-wise fused −(a × b) + c. -/
  | vfnma (f : VSlot)
  /-- VFMIN (R220): Lane-wise floating minimum. -/
  | vfmin (f : VSlot)
  /-- VFMAX (R220): Lane-wise floating maximum. -/
  | vfmax (f : VSlot)
  /-- VFABS (R219): Lane-wise absolute value. -/
  | vfabs (f : VSlot)
  /-- VFNEG (R219): Lane-wise negation. -/
  | vfneg (f : VSlot)
  /-- VFCMP (R221): Floating comparison into a predicate. -/
  | vfcmp (f : VSlot)
  /-- VFSPEC (R222): Correctly rounded special function per lane. -/
  | vfspec (f : VSlot)
  /-- VFCLASS (R223): Classifies each lane into a one-hot mask. -/
  | vfclass (f : VSlot)
  /-- VIADD (R224): Lane-wise integer add. -/
  | viadd (f : VSlot)
  /-- VISUB (R224): Lane-wise integer subtract. -/
  | visub (f : VSlot)
  /-- VIMUL (R224): Lane-wise integer multiply. -/
  | vimul (f : VSlot)
  /-- VIMAD (R224): Lane-wise integer multiply-add. -/
  | vimad (f : VSlot)
  /-- VIAND (R224): Lane-wise AND. -/
  | viand (f : VSlot)
  /-- VIOR (R224): Lane-wise OR. -/
  | vior (f : VSlot)
  /-- VIXOR (R224): Lane-wise XOR. -/
  | vixor (f : VSlot)
  /-- VISHL (R224): Lane-wise shift left. -/
  | vishl (f : VSlot)
  /-- VISHR (R224): Lane-wise logical shift right. -/
  | vishr (f : VSlot)
  /-- VISAR (R224): Lane-wise arithmetic shift right. -/
  | visar (f : VSlot)
  /-- VIMIN (R224): Lane-wise integer minimum. -/
  | vimin (f : VSlot)
  /-- VIMAX (R224): Lane-wise integer maximum. -/
  | vimax (f : VSlot)
  /-- VICMP (R221): Integer comparison into a predicate. -/
  | vicmp (f : VSlot)
  /-- VCVT (R225): Converts each lane between formats. -/
  | vcvt (f : VSlot)
  /-- VPACK (R226): Converts lanes into one part of a packed register. -/
  | vpack (f : VSlot)
  /-- VUNPK (R226): Converts one part of a packed register into lanes. -/
  | vunpk (f : VSlot)
  /-- VSCACC (R227): Scales a partial sum by a block scale and adds it to a running sum. -/
  | vscacc (f : VSlot)
  /-- VSCAL (R227): Scales a partial sum by a block scale. -/
  | vscal (f : VSlot)
  /-- VMOV (R228): Copies lanes of a register. -/
  | vmov (f : VSlot)
  /-- VSEL (R228): Selects lanes from two registers by a predicate. -/
  | vsel (f : VSlot)
  /-- VBCAST (R228): Broadcasts a lane or a scalar to every lane. -/
  | vbcast (f : VSlot)
  /-- VINS (R228): Inserts a scalar into one lane. -/
  | vins (f : VSlot)
  /-- VEXT (R229): Takes lanes into a scalar, shape record or threshold register. -/
  | vext (f : VSlot)
  /-- VPERM (R228): Permutes lanes by an index register. -/
  | vperm (f : VSlot)
  /-- VROT (R228): Rotates lanes by K positions. -/
  | vrot (f : VSlot)
  /-- VIOTA (R228): Writes IMM + i to lane i. -/
  | viota (f : VSlot)
  /-- VLI (R228): Writes an immediate to every lane. -/
  | vli (f : VSlot)
  /-- VRSUM (R230): Sums active lanes by a fixed tree into every lane. -/
  | vrsum (f : VSlot)
  /-- VRMAX (R230): Maximum of active lanes into every lane. -/
  | vrmax (f : VSlot)
  /-- VRMIN (R230): Minimum of active lanes into every lane. -/
  | vrmin (f : VSlot)
  /-- PSET (R231): Sets the first n predicate bits. -/
  | pset (f : VSlot)
  /-- PAND (R231): Predicate AND. -/
  | pand (f : VSlot)
  /-- POR (R231): Predicate OR. -/
  | por (f : VSlot)
  /-- PXOR (R231): Predicate XOR. -/
  | pxor (f : VSlot)
  /-- PNOT (R231): Predicate NOT. -/
  | pnot (f : VSlot)
  /-- PCNT (R231): Counts the ones of a predicate under a mask into a scalar. -/
  | pcnt (f : VSlot)
  /-- PFIRST (R231): Writes the index of the lowest set predicate bit to a scalar. -/
  | pfirst (f : VSlot)
  /-- HFWD (R249): Computes one forward Haar pair per lane. -/
  | hfwd (f : VSlot)
  /-- HINV (R249): Computes one inverse Haar pair per lane. -/
  | hinv (f : VSlot)
  /-- HTHR (R250): Hard-thresholds the lanes of a coefficient row. -/
  | hthr (f : VSlot)
  /-- HTAG_SET (R251): Sets a register's domain tag without touching its data. -/
  | htagSet (f : VSlot)
  /-- HTAG_READ (R251): Reads a register's domain tag into a scalar. -/
  | htagRead (f : VSlot)
  /-- HCMP (R252): Writes 1 << POS when any active lane is nonzero. -/
  | hcmp (f : VSlot)
  /-- SPLV (R232): Spills a vector-side register to spill memory. -/
  | splv (f : VSlot)
  /-- FILV (R232): Fills a vector-side register from spill memory. -/
  | filv (f : VSlot)
  /-- VCHK (R233): Compares two vector registers and their tags and traps 0x0D when they differ. -/
  | vchk (f : VSlot)
  /-- MNOP (R31): M-slot NOP; stops the sticky M operation. -/
  | mnop (f : MSlot)
  /-- FGRID (R187): Loads a grid record into a grid slot. -/
  | fgrid (f : MSlot)
  /-- FLOAD (R190): Fills array rows of a stationary buffer from a scratchpad tile, optionally through codebooks. -/
  | fload (f : MSlot)
  /-- FSEL (R191): Writes a buffer's row map from a vector register. -/
  | fsel (f : MSlot)
  /-- FMX (R199): Pushes N rows through a buffer and writes or accumulates column sums. -/
  | fmx (f : MSlot)
  /-- FMX_HAAR (R200): Haar-aware push of the stored rows of a compressed tile. -/
  | fmxHaar (f : MSlot)
  /-- FMXD (R201): Sends gradients back through a buffer, forming per-row derivative sums. -/
  | fmxd (f : MSlot)
  /-- FMXC (R202): Accumulates coefficient gradients into the other buffer. -/
  | fmxc (f : MSlot)
  /-- FGOUT (R203): Reads gradients out of a GRAD buffer. -/
  | fgout (f : MSlot)
  /-- FKNOT (R204): Inserts a knot and re-expresses the split interval in every mapped cell. -/
  | fknot (f : MSlot)
  /-- FOOG (R205): Reads, and optionally clears, the out-of-grid counters. -/
  | foog (f : MSlot)
  /-- FCLR_BUFFER (R207): FCLR code 0: makes buffer B EMPTY with zero entries and row map. -/
  | fclrBuffer (f : MSlot)
  /-- FCLR_COUNTERS (R207): FCLR code 2: clears every out-of-grid counter. -/
  | fclrCounters (f : MSlot)
  /-- FCLR_GRID (R207): FCLR code 3: makes every grid slot not VALID. -/
  | fclrGrid (f : MSlot)
  /-- FCLR_GRAD (R207): FCLR codes 4 to 7: makes buffer B GRAD with the chosen quarter. -/
  | fclrGrad (f : MSlot)
  /-- FRDC (R208): Reads stored buffer entries back into registers. -/
  | frdc (f : MSlot)
  /-- TNOP (R31): T-slot NOP; stops the sticky T operation. -/
  | tnop (f : TSlot)
  /-- TXI (R235): Writes a vector register into a transposer row. -/
  | txi (f : TSlot)
  /-- TXO (R235): Reads a transposer column into a vector register. -/
  | txo (f : TSlot)
  /-- TXC (R235): Clears the transposer buffer. -/
  | txc (f : TSlot)
  /-- XNOP (R31): X-slot NOP; does nothing. -/
  | xnop (f : XSlot)
  /-- COPY (R134): Starts a one-dimensional converting copy under a copy tag. -/
  | copy (f : XSlot)
  /-- COPY2D (R134): Starts a two-dimensional pitched copy. -/
  | copy2d (f : XSlot)
  /-- COPYT (R134): Starts a transposing two-dimensional copy. -/
  | copyt (f : XSlot)
  /-- WAITANY (R139): Waits until any tag of a mask is DONE. -/
  | waitany (f : XSlot)
  /-- WAITALL (R139): Waits until every tag of a mask is DONE. -/
  | waitall (f : XSlot)
  /-- FFRDY (R140): Records a watch that sets a word FULL when a mask of tags is DONE. -/
  | ffrdy (f : XSlot)
  /-- TAGCLR (R141): Returns DONE tags of a mask to IDLE. -/
  | tagclr (f : XSlot)
  /-- XDT (R264): Loads a decoding table into a slot under a tag. -/
  | xdt (f : XSlot)
  /-- XDS (R265): Starts a transducer decoding job under a tag. -/
  | xds (f : XSlot)
  /-- XDQ (R266): Samples the progress of the latest job on a tag. -/
  | xdq (f : XSlot)
  /-- LAUNCH (R311): Places a launch record in a spring queue under a tag. -/
  | launch (f : XSlot)
  /-- LWAIT (R314): Waits for a completion word and reads it, optionally taking it. -/
  | lwait (f : XSlot)
  /-- DEFER (R315): Appends the active lanes of registers to the deferral queue. -/
  | defer (f : XSlot)
  /-- DEFRUN (R317): Forms and starts a batch of one path's deferral entries. -/
  | defrun (f : XSlot)
  /-- PPUT (R305): Puts one or two words into a pond, blocking while it is full. -/
  | pput (f : XSlot)
  /-- PGET (R305): Takes one or two words from a pond, blocking while it is empty. -/
  | pget (f : XSlot)
  /-- GRPBAR (R307): Waits until every live member of a group has arrived. -/
  | grpbar (f : XSlot)
  /-- EVWAIT (R310): Waits for any of a set of events and consumes them. -/
  | evwait (f : XSlot)
  /-- EVSIG (R309): Sets events in a target instance's event set. -/
  | evsig (f : XSlot)
  /-- MFLUSH (R103): Writes back or discards L2 and Mere copies of a page range. -/
  | mflush (f : XSlot)
  /-- CNTRD (R104): Reads a Mere counter into a scalar 24 cycles later. -/
  | cntrd (f : XSlot)
  /-- PENDING_TRAP (R357): A fault or asynchronous trap reaching a context that is not issuing is recorded as pending and taken at its next issue. -/
  | pendingTrap (cause info : Nat)
  /-- FUNCTION_LEVEL_RESET (R334): A function-level reset stops, discards, shoots down, scrubs and ends all work of one virtual function. -/
  | functionLevelReset (vf : Nat)
  /-- FUNCTION_RESET_TIMEOUT (R335): A function-level reset not complete within 2^21 base-die cycles escalates to the next step of the watchdog ladder. -/
  | functionResetTimeout (vf : Nat)
  /-- SHOOT_DOWN_COMMAND (R330): A shoot-down command invalidates TLB entries, revokes handles, waits for outstanding accesses and optionally writes back L1 lines. -/
  | shootDownCommand (asid all wb va count : Nat)
  /-- ADDRESS_SPACE_DESCRIPTOR_WRITE (R324): Firmware writes an address-space descriptor through KDDATA with STRUCT 0x01. -/
  | addressSpaceDescriptorWrite (index word : Nat)
  /-- KEY_SLOT_DESCRIPTOR_WRITE (R337): Firmware writes a key-slot descriptor through KDDATA with STRUCT 0x02. -/
  | keySlotDescriptorWrite (index word : Nat)
  /-- KEY_PORT_WRITE (R337): Firmware writes key material into an unloaded slot through the key port, STRUCT 0x03, after which the slot is LOADED. -/
  | keyPortWrite (index word : Nat)
  /-- KEY_SLOT_UNLOAD (R340): A key slot is unloaded: its lines are written back and dropped, its key erased and LOADED cleared. -/
  | keySlotUnload (index : Nat)
  /-- BANK_STATUS_WRITE (R375): Firmware writes a bank status word through KDDATA with STRUCT 0x05. -/
  | bankStatusWrite (index word : Nat)
  /-- RETIREMENT_COMMAND (R376): Writing GO = 1 with an in-service PBANK starts retirement of a bank into a spare, or into a reduced map when no spare remains. -/
  | retirementCommand (index word : Nat)
  /-- COLLECTIVE_CHANNEL_WRITE (R373): Firmware writes a collective channel descriptor through KDDATA with STRUCT 0x07. -/
  | collectiveChannelWrite (index word : Nat)
  /-- FUNCTION_LIMITS_WRITE (R388): Firmware writes a function limit word, STRUCT 0x08: FWL, WQ, RWLIM, RPLIM, default LWDOG, queue grants or CTO. -/
  | functionLimitsWrite (index word : Nat)
  /-- HOST_QUEUE_GRANT_WRITE (R388): Firmware grants a host queue to a function through STRUCT 0x09. -/
  | hostQueueGrantWrite (index word : Nat)
  /-- FLUSH_COMMAND (R388): Writing word 2 of the flush structure starts the write-back or discard of a physical range of L2 and Mere lines under one key index. -/
  | flushCommand (word : Nat)
  /-- REGISTER_WRITE (R7): A write to a register with no row of its own replaces, clears or ignores its fields by their access codes. -/
  | registerWrite (unit index word : Nat)
  /-- QWC_DOORBELL (R385): A write to QWC lets the device consume entries up to the write count, or sets STATE to overflow. -/
  | qwcDoorbell (queue count : Nat)
  /-- QCTL_RST (R386): Writing RST = 1 resets a host queue's counts and state after any entry being read is finished. -/
  | qctlRst (queue : Nat)
  /-- HOST_MEMORY_ACCESS (R382): A host CXL.mem access reaches device HBM through the HDM decoder under key slot 0. -/
  | hostMemoryAccess (write addr data : Nat)
  /-- LINK_FLIT_RECEIVE (R387): A tarn link port receives a flit, retrying it after a CRC error. -/
  | linkFlitReceive (port good : Nat)
  /-- LINK_PORT_FAIL (R387): A port with more than 1,024 retries in 2^20 base-die cycles goes to ST 3 and drops its packets. -/
  | linkPortFail (port : Nat)
  /-- COLLECTIVE_PACKET_RECEIVE (R373): An ingress port accepts, drops or advances the attempt for a collective packet by its attempt number. -/
  | collectivePacketReceive (chan attempt data : Nat)
  /-- ABORT_TOKEN_START (R374): Firmware advances a channel's attempt and sends an abort token on every port of the channel. -/
  | abortTokenStart (chan : Nat)
  /-- ABORT_TOKEN_RECEIVE (R374): A port receiving a newer abort token sets ATTEMPT, discards older buffered packets and forwards the token. -/
  | abortTokenReceive (chan attempt port : Nat)
  /-- SERVICE_ANSWER (R352): Firmware answers a service request, resuming the blocked context with its 64-bit answer in s[SD]. -/
  | serviceAnswer (word : Nat)
  /-- THROTTLE (R394): A site at THROT or excess package power lowers the tower's compute clock in 100 MHz steps. -/
  | throttle (tower : Nat)
  /-- CLOCK_RECOVERY_STEP (R394): Once the cause has ended, the throttled clock recovers one step per millisecond. -/
  | clockRecoveryStep (tower : Nat)
  /-- CRITICAL_TEMPERATURE (R394): At 110 °C the tower's compute clocks stop and the ladder advances to warm reset. -/
  | criticalTemperature (tower : Nat)
  /-- TARN_LINK_TRAINING (R387): A tarn link port trains with its peer and moves among ST down, training and up, recording PEER and DEGR. -/
  | tarnLinkTraining (port st peer degr : Nat)
  /-- RECORD_PRIO_CHANGE (R281): The host or the wellhead changes the PRIO of a launch record that is queued or already selected, and W is kept. -/
  | recordPrioChange (queue pos prio : Nat)
  /-- ERROR_NOT_CONSUMED (R368): An uncorrectable error found where no context consumes it, such as in a scrub or a Mere line, goes to firmware with SRC 8 for handling at the launch boundary. -/
  | errorNotConsumed (line : Nat)
  /-- BUNDLE_ISSUE (R49): One issue of a bundle: its header takes effect and its present slots execute, while absent A, V, M and T slots re-issue their sticky operations stepped. -/
  | bundleIssue
  /-- OPERATION_START (R56): An A, V, M or T operation starts after its start delay, reads its operands and pops the load-data queue. -/
  | operationStart
  /-- RESULT_LANDING (R57): A result in flight lands in its destination register in its landing cycle, ordered by R57. -/
  | resultLanding
  /-- LOAD_DATA_FILL (R112): Data for an allocated load-data queue entry arrives and fills it, ending any freeze of a pop waiting on it. -/
  | loadDataFill
  /-- BANK_SERVICE (R90): A scratchpad/L1 bank chooses and serves one waiting access in a cycle, by row, arrival, COREID and CTXID. -/
  | bankService
  /-- ACCESS_PERFORM (R144): An access started earlier performs at its bank, L1 or home slice and enters the coherence order of its location. -/
  | accessPerform
  /-- RELEASE_PERFORM (R149): A release performs its write once every earlier A-path access of its context has performed at its scope. -/
  | releasePerform
  /-- WAITER_READY (R286): A change of a blocking condition makes every context waiting on it READY within 12 cycles. -/
  | waiterReady
  /-- CONTEXT_SWITCH (R285): In cycle t + 3 after the issuing context blocks or ends, the core chooses the next READY context, which issues in t + 4. -/
  | contextSwitch
  /-- FREEZE_WATCHDOG_EXPIRY (R356): The freeze watchdog reaches FWL held cycles, ends the freeze and raises trap 0x0F with the held work resumed as its hold kind states. -/
  | freezeWatchdogExpiry
  /-- HELD_ENTRY_COMMIT (R366): After a commit, one held-buffer entry enters its path per cycle in program order and performs. -/
  | heldEntryCommit
  /-- ARRAY_PUSH_ROW (R194): In cycle start + k × c a push row's operands are read, each row-edge unit searches its grid and the out-of-grid counters update. -/
  | arrayPushRow
  /-- FLOAD_BEGIN (R190): A waiting FLOAD begins on the weight path when the FLOAD ahead completes, setting the buffer descriptor and clearing other rows. -/
  | floadBegin
  /-- FLOAD_COMPLETE (R190): An FLOAD finishes writing its last row at g + 128 + 2 × ceil(C/128). -/
  | floadComplete
  /-- CODEBOOK_TABLE_READ (R269): The weight path reads a block's codebook table and index bytes and expands the block once the whole table has arrived. -/
  | codebookTableRead
  /-- FGRID_SLOT_WRITE (R187): The grid slot named by an FGRID record becomes VALID at start + 20. -/
  | fgridSlotWrite
  /-- TXI_ROW_WRITE (R235): The transposer row written by a TXI takes effect at the end of cycle start + 15. -/
  | txiRowWrite
  /-- COPY_CHUNK (R137): The copy engine translates and moves one chunk of a copy command, stopping the command with a copy fault on a missing or refused translation. -/
  | copyChunk
  /-- COPY_COMPLETE (R138): A copy command completes when all its writes have performed at its scope and its tag becomes DONE. -/
  | copyComplete
  /-- MFLUSH_COMPLETE (R103): An MFLUSH finishes treating every line of its range and sets its tag DONE. -/
  | mflushComplete
  /-- LOG_PROMOTION (R155): The L1 write-back unit promotes a promotion-log entry, writing back every dirty line of GEN no later than the entry's. -/
  | logPromotion
  /-- L1_WRITE_BACK (R155): The L1 write-back unit writes one dirty line to its home slice per base-die cycle. -/
  | l1WriteBack
  /-- PACQ_REQUEST_ARRIVAL (R156): A PACQ request arrives at a target's L1 write-back unit, takes its cut and merges with work in progress. -/
  | pacqRequestArrival
  /-- PACQ_REPLY (R157): A target replies to a PACQ request once its cut is promoted, and the issuing core reads the flag when every target has replied. -/
  | pacqReply
  /-- DRN_COMPLETE (R152): A DRN's hold ends when every condition for its earlier paths holds, and it acts on the paths of its later mask. -/
  | drnComplete
  /-- HELD_SERVICE_ANSWER (R303): The remote serving point of a PPUT, PGET, LWAIT or GRPBAR answers, completing or blocking the held issue. -/
  | heldServiceAnswer
  /-- FLAG_OPERATION_ARRIVAL (R296): An FLADD or FLSET arrives at a target core's flag file and updates the flag, or is discarded when the core holds no region of the launch. -/
  | flagOperationArrival
  /-- EVENT_SIGNAL_ARRIVAL (R308): An EVSIG arrives at its target instance and ORs its mask into the event set, or is discarded for a missing or ended instance. -/
  | eventSignalArrival
  /-- JOB_DISPATCH (R257): A transducer job leaves its core's job queue for a lane in issue order. -/
  | jobDispatch
  /-- BLOCK_DECODE (R261): A lane checks a coded block's header and decodes it state step by state step, raising a format or table fault on failure. -/
  | blockDecode
  /-- CHUNK_WRITE (R263): A lane writes a chunk of decoded output, each word waiting for EMPTY, writing its value and setting FULL. -/
  | chunkWrite
  /-- JOB_COMPLETE (R265): A decoding job completes when every write has performed at its scope and its tag becomes DONE. -/
  | jobComplete
  /-- JOB_SUSPEND (R263): A job of a suspended launch stops at its next chunk boundary and the number of chunks written is saved. -/
  | jobSuspend
  /-- XDT_COMPLETE (R264): A decoding table is placed in both base dies once no block decodes with the old one, and the XDT's tag becomes DONE or it faults with 0x10. -/
  | xdtComplete
  /-- LAUNCH_ENQUEUE (R311): A LAUNCH record is read, checked under R278 and entered in its spring queue once the parent's releases have performed and the queue has room. -/
  | launchEnqueue
  /-- LAUNCH_SELECTION (R281): For a free context with no bindable instance, the scheduler selects the head of the non-empty spring queue with the highest effective priority. -/
  | launchSelection
  /-- INSTANCE_BIND (R282): A selected launch binds a stage instance to a free context meeting R282, forming its region and pond space and starting it in the state of R283. -/
  | instanceBind
  /-- PREEMPTION (R290): The scheduler saves a context of a lower-priority launch at its next drain point to bind a waiting instance. -/
  | preemption
  /-- CONTEXT_SAVE (R289): A context at a drain point is saved: waits withdrawn, results landed, the log promoted and its state written to a save area. -/
  | contextSave
  /-- CONTEXT_RESUME (R290): A saved or parked context resumes on a free context that R282 allows, ahead of unstarted instances of its launch. -/
  | contextResume
  /-- REBALANCE_CHECK (R291): Every 4,096 compute cycles a core checks for source and target stages and may park one context and bind a new target instance. -/
  | rebalanceCheck
  /-- DEFERRAL_BATCH_START (R318): A formed deferral batch starts on a free context of the issuing core, or on the issuer after its END. -/
  | deferralBatchStart
  /-- STAGE_INSTANCE_END (R293): A stage instance ends once its END has taken effect and its deferral entries have run, and its context is freed. -/
  | stageInstanceEnd
  /-- LAUNCH_COMPLETE (R294): When every instance and every command of a launch has ended, shadow writes commit and the completion word is written. -/
  | launchComplete
  /-- COMPLETION_WORD_WRITE (R294): The completion status is written to a scratchpad word after it becomes EMPTY, setting it FULL. -/
  | completionWordWrite
  /-- LAUNCH_WATCHDOG_EXPIRY (R360): The launch watchdog expires and every context of the launch ends, the launch being replayed or completed with status 2. -/
  | launchWatchdogExpiry
  /-- LAUNCH_REPLAY (R372): Firmware ends a shadowed launch, discards its versions and places its record again at the tail of its spring queue. -/
  | launchReplay
  /-- SHOOT_DOWN_ACKNOWLEDGE (R330): A shoot-down is acknowledged after its last step has ended. -/
  | shootDownAcknowledge
  /-- PAGE_WALK (R329): A TLB miss waits for a walker, reads up to four table entries and fills the TLBs or ends in a fault. -/
  | pageWalk
  /-- BANK_LINE_MOVE (R376): One line of an evacuating bank is locked, moved to its target and unlocked, and after the last line the map changes. -/
  | bankLineMove
  /-- FLUSH_COMMAND_COMPLETE (R388): The flush command has treated every line of its range and word 2 reads 0. -/
  | flushCommandComplete
  /-- QUEUE_ENTRY_CONSUME (R385): The device reads one host-queue entry, increments RC and checks the record, entering or refusing it. -/
  | queueEntryConsume
  /-- HOST_COMPLETION_TIMEOUT (R383): A HOST-path access outstanding at CTO completes with poisoned read data or a dropped write. -/
  | hostCompletionTimeout
  /-- FIRMWARE_TRAP_RESUME (R355): Firmware resolves a firmware-first trap and resumes the context as if by ERET. -/
  | firmwareTrapResume
  /-- FIRMWARE_TRAP_FORWARD (R355): Firmware forwards a held trap to the launch handler with FWD = 1. -/
  | firmwareTrapForward
  /-- FIRMWARE_SWAP_GO (R390): Writing GO in the firmware capability makes firmware verify the staged image and swap it in on all wellheads. -/
  | firmwareSwapGo
  /-- FIRMWARE_SWAP_TIMEOUT (R390): A swap not ended within 2^24 base-die cycles advances the ladder to a wellhead restart. -/
  | firmwareSwapTimeout
  /-- WELLHEAD_RESTART (R360): The wellheads restart with the last verified image while running contexts run on and firmware-first requests stay held. -/
  | wellheadRestart
  /-- COLD_RESET (R337): At cold reset state takes its reset values and the boot ROM loads key slot 0 before any core starts. -/
  | coldReset
  /-- WARM_RESET (R395): A warm reset ends every context, writes back the Mere, scrubs on-die state and reapplies the repair record before cores start. -/
  | warmReset
  /-- HOST_CXL_RESET (R395): A host CXL reset does all a warm reset does and resets and retrains the link. -/
  | hostCxlReset
  /-- JOB_RESUMPTION (R263): When a suspended launch resumes, its stopped job's lane decodes the current block again from its header and writes nothing before the saved chunk. -/
  | jobResumption
  deriving DecidableEq, Repr

end Sys2Proof
end

