-- ==== Sys2Proof/Machine/State.lean ====
section
/-! DEFINITION. The state of the whole device as plain data: every piece the spec gives the machine, and the model's own
bookkeeping. Default values of fields are the values after reset; INVENTORY.md gives the rule of each. Maps are lists
of a number and a value; a number a map does not list has the default value its reader names. -/

namespace Sys2Proof.Machine

/-- A sparse table: the value of a key is that of its first entry. -/
abbrev Map (α : Type) := List (Nat × α)

/-- Bytes by address, addresses strictly rising, no entry equal to the byte an unlisted address reads as. -/
abbrev Mem := List Host.Cell

/-- The register classes of TRAPINFO.CLASS, in the order of their codes (R64). -/
inductive RegClass where
  | s | v | m | p | h | sh | th | lp
  deriving DecidableEq, Repr

/-- A register: its class and number. Class m, numbers 32 to 95, names the lent banks (R28, R212). -/
structure RegId where
  cls : RegClass
  n   : Nat
  deriving DecidableEq, Repr

/-- A v- or m-register: 512 bytes and its domain tag (R237); a context starts with 0, PLAIN FP32 exact (R283). -/
structure VReg where
  bits : Vec := 0
  tag  : BitVec 32 := 0x100#32
  deriving DecidableEq, Repr

/-- The states of a handle (R122). -/
inductive HState where
  | empty | valid | revoked
  deriving DecidableEq, Repr

/-- A handle h3 to h15, or a TLB entry: the page, its attributes (R125, R326), its address space (R328). -/
structure Handle where
  st   : HState := .empty
  psz  : Nat := 0
  va   : Nat := 0
  pa   : Nat := 0
  rd   : Bool := false
  wr   : Bool := false
  amo  : Bool := false
  ca   : Bool := false
  lay  : Nat := 0
  key  : Nat := 0
  asid : Nat := 0
  deriving DecidableEq, Repr

/-- A hardware loop register (R75). -/
structure LoopReg where
  start : BitVec 52 := 0
  len   : BitVec 23 := 0
  act   : Bool := false
  count : BitVec 32 := 0
  deriving DecidableEq, Repr

/-- An entry of the load-data queue (R111): `filled` says that its value is fixed, `due` is the schedule cycle of a
fixed-latency fill (R112), and other data has `arrived` or not; `poisoned` gives the source code and line of corrupt data
(R368, R369). -/
structure QEntry where
  id       : Nat
  data     : Vec := 0
  filled   : Bool := false
  arrived  : Bool := false
  due      : Option Nat := none
  poisoned : Option (Nat × Nat) := none
  deriving DecidableEq, Repr

/-- A sticky operation with its step counter; `none` is NOP (R53). -/
structure Sticky where
  op : Option Instr := none
  k  : Nat := 0
  deriving DecidableEq, Repr

/-- What a write in flight carries to its register (R57). `vec` writes the bits of `mask` (R215) and the tag when it
has one; `acc` adds into the destination as it stands at the landing (R199). `row` is a row of a push that the array has
not computed yet, its elements from `first` on; `corrupt` is the landing fault that stands for a row (R211). -/
inductive Payload where
  | scalar (x : Word)
  | pred (mask data : Pred)
  | vec (mask data : Vec) (tag : Option (BitVec 32))
  | acc (af : Nat) (byte len : Nat) (cols : Nat) (tag : BitVec 32)
  | shape (x : BitVec 256)
  | thr (x : BitVec 128)
  | handle (h : Handle)
  | row (push k : Nat) (acc : Bool) (af byte len first : Nat) (tag : BitVec 32)
  | corrupt (info : Word)
  deriving DecidableEq, Repr

/-- A result in flight: its landing cycle, its operation's place in program order, the register (R56, R57). -/
structure Landing where
  due : Nat
  ord : Nat
  reg : RegId
  val : Payload
  hm  : Bool := false
  deriving DecidableEq, Repr

/-- An operation issued and not yet started (R56); `bad` says that it collides with another (R58, R198). -/
structure Start where
  due : Nat
  ord : Nat
  op  : Instr
  k   : Nat
  idx : Nat
  hm  : Bool := false
  bad : Bool := false
  deriving DecidableEq, Repr

/-- An entry of the pipeline snapshot buffer (R350). -/
inductive Snap where
  | result (r ord : Nat) (reg : RegId) (val : Payload)
  | start (r : Nat) (e : Start)
  | replay (e : Start)
  deriving DecidableEq, Repr

/-- A trap to be taken: cause and TRAPINFO (R346), FSLOT, the faulting operations to replay (R350), whether the boundary
lies before the fault cycle (R343), DEFER (R357), whether it arose in handler mode (R347), OWED of a trap that firmware
holds, whether a 0x0A has the record of R64 (R346). -/
structure TrapReq where
  cause  : Nat
  info   : Word := 0
  fslot  : Nat := 7
  replay : List Start := []
  before : Bool := true
  defer  : Bool := false
  hm     : Bool := false
  owed   : Nat := 0
  r64    : Bool := false
  deriving DecidableEq, Repr

/-- What a blocked context waits for: the condition's single point (R284, R286). -/
inductive WaitOn where
  | tags
  | word (core addr : Nat)
  | gword (pa : Nat)
  | earlier (core ctx : Nat)
  | pond (launch q : Nat)
  | flag (core launch f : Nat)
  | group (launch g : Nat)
  | event
  | deferQueue (core : Nat)
  | batch (core ctx : Nat)
  | service
  | firmware
  | rendezvous (launch : Nat)
  deriving DecidableEq, Repr

/-- The states of a context (R284), with the free context and the one whose END has been taken (R85). -/
inductive CtxState where
  | free | ready | issuing | blocked | saving | ended
  deriving DecidableEq, Repr

/-- The stage instance a context runs (R282), or the deferral batch of a path and its issuer (R318). -/
structure InstId where
  launch : Nat
  stage  : Nat
  num    : Nat
  batch  : Option (Nat × Nat) := none
  deriving DecidableEq, Repr

/-- Where a byte is: a core's scratchpad/L1 SRAM, or a physical address (R86, R101). -/
inductive Loc where
  | sp (core addr : Nat)
  | gm (pa : Nat)
  deriving DecidableEq, Repr

/-- The access paths of R24. -/
inductive Path where
  | ctxls | copy | mxr | xduce | atom | vert | link | host
  deriving DecidableEq, Repr

/-- One element of an access: where, how many bytes, the bytes to store, its byte in the queue entry. -/
structure Elem where
  loc  : Loc
  size : Nat
  data : Nat := 0
  pos  : Nat := 0
  deriving DecidableEq, Repr

/-- What an access does when it performs (R144); FLADD, FLSET and EVSIG perform at a flag file or an event set (R296,
R309); `record` is LAUNCH's read of its record (R311). -/
inductive AccKind where
  | load | store | amo (op : BitVec 8) (a b : Nat)
  | flag (target f : Nat) (add : Bool) (val : BitVec 32)
  | event (stage num : Nat) (mask : BitVec 32)
  | record
  deriving DecidableEq, Repr

/-- An access started and not yet performed (R113, R144): `id` is its place among the starts of its core (R163), `ord` its
operation; its handle, path, σ (R148), whether it is a narrow release, its queue entry; its function and address space (R332);
whether what it writes and brings is unpredictable (R58), whether its launch is shadowed (R168), whether the freeze watchdog has
ended the hold for it (R356), the slots of the vertical bus that it takes if it enters from the held buffer (R96, R366), the
base-die cycle it began in (R383). -/
structure Access where
  id     : Nat
  ctx    : Nat
  ord    : Nat
  h      : Nat := 0
  path   : Path
  kind   : AccKind
  els    : List Elem
  acq    : Option Nat := none
  rel    : Option Nat := none
  narrow : Bool := false
  entry  : Option Nat := none
  status : Bool := false
  ca     : Bool := false
  key    : Nat := 0
  launch : Nat := 0
  due    : Option Nat := none
  bad    : Bool := false
  shadow : Bool := false
  loose  : Bool := false
  slots  : Nat := 1
  vf     : Nat := 0
  asid   : Nat := 0
  since  : Nat := 0
  deriving DecidableEq, Repr

/-- A copy command in the copy engine (R134, R138); `done` counts elements written, `olds` keeps bytes of its source that
it has overwritten, `cut` the virtual ranges shot down since it issued (R330), `since` the base-die cycle in which its next chunk
began (R383). -/
structure CopyCmd where
  id     : Nat
  ctx    : Nat
  inst   : InstId
  ord    : Nat
  tag    : Nat
  op     : Nat
  mode   : Nat
  fs     : Nat
  fd     : Nat
  sc     : Nat
  srcH   : Nat
  src    : Handle
  dstH   : Nat
  dst    : Handle
  so     : Word
  dofs   : Word
  rows   : Nat
  cols   : Nat
  spitch : Int
  dpitch : Int
  done   : Nat := 0
  olds   : List (Loc × Nat) := []
  cut    : List (Nat × Nat) := []
  since  : Nat := 0
  deriving DecidableEq, Repr

/-- An MFLUSH command, with the handle that it names, or a firmware flush (R103, R388). -/
structure FlushCmd where
  id  : Nat
  tag : Nat := 0
  inst : Option InstId := none
  vf  : Nat := 0
  pa  : Nat
  len : Nat
  key : Nat
  op  : Nat
  hn  : Nat := 0
  deriving DecidableEq, Repr

/-- The states of a transducer job, in the order of XDQ.ST (R266). -/
inductive JobState where
  | none | queued | running | waiting | done | faulted | suspended
  deriving DecidableEq, Repr

/-- A transducer job or table load (R257, R264, R265). `pos` is where the block in progress lies in the source, `c0` its
first chunk, `iw` and `tw` the bytes of index streams and tables before it; `out` holds the words of the block still to
be written, by chunk, `mid` that a chunk is partly written, `sub` the fault that follows them, `next` the next block's
`pos`, `c0`, `iw` and `tw`, `tid` the table in use; `begun` says that it has run; `chunk` is the next chunk to write; `free` is when its lane has done what went before, in eighths of a base-die
cycle (R256). -/
structure Job where
  id     : Nat
  core   : Nat
  ctx    : Nat
  inst   : InstId
  ord    : Nat
  tag    : Nat
  isXdt  : Bool
  slot   : Nat := 0
  srcH   : Nat
  src    : Handle
  dstH   : Nat := 0
  so     : Word
  io     : Nat := 0
  tabo   : Nat := 0
  nblk   : Nat := 0
  sc     : Nat := 0
  st     : JobState := .queued
  blk    : Nat := 0
  chunk  : Nat := 0
  lane   : Nat := 0
  pos    : Nat := 0
  c0     : Nat := 0
  iw     : Nat := 0
  tw     : Nat := 0
  out    : List (Nat × Nat × BitVec 32) := []
  mid    : Bool := false
  begun  : Bool := false
  sub    : Nat := 0
  next   : Nat × Nat × Nat × Nat := (0, 0, 0, 0)
  tid    : Option Nat := none
  free   : Nat := 0
  cut    : List (Nat × Nat) := []
  deriving DecidableEq, Repr

/-- A LAUNCH on its way to its spring queue (R311): the access that reads its record, and the record with its corrupt line once
it has been read. -/
structure LaunchReq where
  id     : Nat
  core   : Nat
  ctx    : Nat
  inst   : InstId
  ord    : Nat
  tag    : Nat
  loc    : Handle
  hn     : Nat
  read   : Access
  got    : Option (Nat × Option (Nat × Nat)) := none
  deriving DecidableEq, Repr

/-- An action made ready at start or issue that enters its path then, or at a commit (R366). -/
inductive Action where
  | access (a : Access)
  | copy (c : CopyCmd)
  | flush (c : FlushCmd)
  | job (j : Job)
  | launch (r : LaunchReq)
  | accesses (l : List Access)
  deriving DecidableEq, Repr

/-- An undo journal entry: a 128-byte line of spill memory or of the region, its bytes and full/empty bits (R365). -/
structure JEntry where
  spill : Bool
  line  : Nat
  data  : Nat
  full  : Nat
  deriving DecidableEq, Repr

/-- A watch of FFRDY: the tags, the word to set FULL, the scope (R140). -/
structure Watch where
  mask : Word
  core : Nat
  addr : Nat
  sc   : Nat := 0
  deriving DecidableEq, Repr

/-- The per-context state that a save keeps (R289 step 4, R359) and a checkpoint holds (R364). -/
structure Arch where
  pc      : Word := 0  -- PC (R49)
  idx     : Nat := 0  -- index of the issue within its bundle (R50)
  s       : Map Word := []  -- s0 to s31 (R18)
  v       : Map VReg := []  -- v0 to v63, and the lent banks (R18, R28)
  m       : Map VReg := []  -- m0 to m31 (R18)
  p       : Map Pred := []  -- p0 to p7 (R18)
  h       : Map Handle := []  -- h3 to h15 (R122)
  sh      : Map (BitVec 256) := []  -- shape records (R119)
  th      : Map (BitVec 128) := []  -- threshold registers (R240)
  lp0     : LoopReg := {}  -- outer hardware loop (R75)
  lp1     : LoopReg := {}  -- inner hardware loop (R75)
  tagDone : Word := 0  -- DONE tags (R133)
  tagPend : Word := 0  -- PENDING tags (R133)
  queue   : List QEntry := []  -- load-data queue, head first (R111)
  spill   : Mem := []  -- spill memory (R81)
  slotTag : Map (BitVec 32) := []  -- domain tags of spilled vectors (R232)
  stA     : Sticky := {}  -- sticky operation of the A slot (R53)
  stV     : Sticky := {}  -- of the V slot
  stM     : Sticky := {}  -- of the M slot
  stT     : Sticky := {}  -- of the T slot
  check   : Bool := true  -- CHECK, the scoreboard check (R60)
  lent    : BitVec 4 := 0  -- banks lent (R212)
  grp     : Option (Nat × Nat) := none  -- the group and generation a GRPBAR has joined (R307)
  bad     : List RegId := []  -- registers with a corrupt value (R368)
  badSpill : List Nat := []  -- bytes of spill memory with a corrupt value (R368)
  deriving DecidableEq, Repr

/-- An open segment (R362): its checkpoint, undo journal (newest first), held buffer and rewind count; `again` says that
its opening bundle issues again after a rewind (R369), `bad` that its journal or checkpoint holds an error (R369). -/
structure Segment where
  o       : Nat
  ck      : Arch
  flight  : List Landing
  starts  : List Start
  ordo    : Nat
  journal : List JEntry := []
  held    : List Action := []
  rewinds : Nat := 0
  again   : Bool := false
  bad     : Bool := false
  deriving DecidableEq, Repr

/-- What the C slot of the issue in progress makes of the next PC: nothing, a taken branch (R72), LOOP's or LEXIT's own
next PC (R77), or ERET's placement of the resume issue (R353). -/
inductive NextPC where
  | seq
  | branch (t : Word)
  | own (t : Word)
  | placed
  deriving DecidableEq, Repr

/-- What handler mode sets aside (R348). -/
structure Aside where
  stA   : Sticky
  stV   : Sticky
  stM   : Sticky
  stT   : Sticky
  lp0   : LoopReg
  lp1   : LoopReg
  queue : List QEntry
  answer : Option (Nat × Nat) := none
  trapEnd : Option TrapReq := none
  svc   : Option (Nat × Nat) := none
  chkNext : Option Bool := none
  deriving DecidableEq, Repr

/-- Why the scheduler saves a context: for an instance of a launch that waits (R290), or to bind a new instance of a stage
(R291). -/
inductive SaveFor where
  | preempt (launch stage num : Nat)
  | move (stage : Nat)
  deriving DecidableEq, Repr

/-- A hardware context (R18), with what the issue in progress has decided. -/
structure Ctx where
  a        : Arch := {}  -- what a save keeps
  st       : CtxState := .free  -- state (R284)
  inst     : Option InstId := none  -- what it runs (R282)
  wait     : Option WaitOn := none  -- what it waits for (R286)
  woken    : Bool := false  -- that may have come true
  wokeFor  : Nat := 0  -- compute cycles since it has (R286)
  frm      : Nat := 0  -- the cycle it may issue from (R49)
  noStall  : Bool := false  -- the resume issue owes no stall (R353)
  seq      : Nat := 0  -- issues so far
  hmode    : Bool := false  -- handler mode (R348)
  aside    : Option Aside := none  -- what handler mode sets aside (R348)
  hs       : Map Word := []  -- s28 to s31 of the other mode (R348)
  cause    : Word := 0  -- TRAPCAUSE (R345)
  tpc      : Word := 0  -- TRAPPC (R345)
  tinfo    : Word := 0  -- TRAPINFO (R346)
  tr64     : Bool := false  -- its layout is that of R64 though the cause is 0x0A (R346)
  snap     : List Snap := []  -- pipeline snapshot buffer (R350)
  fsnap    : List Snap := []  -- the snapshot of a trap that firmware holds (R347)
  flight   : List Landing := []  -- results in flight (R56)
  starts   : List Start := []  -- operations issued and not started (R56)
  faults   : List (Start × Nat × Word) := []  -- start faults of this cycle (R343)
  lfault   : Option Word := none  -- landing fault of this cycle (R211)
  pend     : List TrapReq := []  -- pending traps, oldest first (R357)
  fwHeld   : Option TrapReq := none  -- the trap that firmware holds (R347)
  svc      : Option (Nat × Nat) := none  -- service request: its SD and number (R352)
  resume   : Option (Nat × Option (Nat × Word)) := none  -- how firmware resumes it: OWED, and SD with the answer (R352, R355)
  answer   : Option (Nat × Nat) := none  -- answer of a held service (R303)
  asked    : Option Instr := none  -- the held service it has asked for (R303)
  begun    : Bool := false  -- a starting A operation has begun (R131)
  blen     : Nat := 4  -- bytes of the bundle in progress
  brep     : Nat := 0  -- REP of the bundle in progress (R50)
  next     : NextPC := .seq  -- next PC (R49)
  ending   : Bool := false  -- END in this issue (R85)
  trapEnd  : Option TrapReq := none  -- TRAP in this issue (R346)
  chkNext  : Option Bool := none  -- CHECK from the next issue on (R60)
  watches  : List Watch := []  -- watches of FFRDY (R140)
  tagNew   : Word := 0  -- tags completed in this schedule cycle (R84)
  seg      : Option Segment := none  -- open segment (R362)
  rewPend  : Bool := false  -- a rewind is pending (R369)
  entering : List Action := []  -- committed actions still to enter their paths (R366)
  entered  : Option Nat := none  -- the compute cycle in which one last did
  entLoose : Bool := false  -- the freeze watchdog has ended the hold for the first of them (R356)
  spillW   : List (Nat × Nat × Nat) := []  -- spill memory writes of this cycle (R82)
  olds     : List (Nat × Mem) := []  -- the SRAM before an issue's writes, for its own array reads (R145)
  saveFor  : Option SaveFor := none  -- why it is to be saved (R290, R291)
  deriving DecidableEq, Repr

/-- A scratchpad region: launch, first byte in SRAM, size, flag file (R86, R87, R296); whether it holds pond storage, whether the
launch's last context on the core has ended (R86). -/
structure Region where
  launch : Nat
  base   : Nat
  size   : Nat
  flags  : Map (BitVec 32) := []
  keep   : Bool := false
  ended  : Bool := false
  deriving DecidableEq, Repr

/-- A buffer descriptor (R184). -/
inductive BufDesc where
  | empty
  | coef (mode cf spn : Nat)
  | grad (qs : Nat)
  deriving DecidableEq, Repr

/-- A stationary buffer: descriptor, rows of 128 cells of 32 entries of 16 bits, row map (R184); the rows that FLOADs have
written under the descriptor (R190), those with an uncorrectable error (R211). -/
structure Buffer where
  desc   : BufDesc := .empty
  rows   : Map (BitVec 65536) := []
  rowMap : Map Nat := []
  loaded : List Nat := []
  bad    : List Nat := []
  deriving DecidableEq, Repr

/-- A VALID grid slot: rule, knots and reciprocal widths in FP32 (R184, R186); whether it holds an uncorrectable error
(R211). -/
structure Grid where
  rule   : Nat
  knots  : List (BitVec 32)
  widths : List (BitVec 32)
  bad    : Bool := false
  deriving DecidableEq, Repr

/-- A streaming operation in the array (R194, R197): its start, rows taken (`k` of `n`), the rows of its register or queue
source and of FMXC's gradients as numbers, or the SRAM address, pitch and rotation of its scratchpad rows; `adv` counts
the cycles by which a hold has let the array run ahead of the schedule (R209), `dst` are its destination registers. -/
structure Push where
  id    : Nat
  op    : Instr
  ctx   : Nat
  ord   : Nat
  start : Nat
  n     : Nat
  c     : Nat
  k     : Nat := 0
  adv   : Nat := 0
  rows  : List Nat := []
  gs    : List Nat := []
  sp    : Bool := false
  base  : Nat := 0
  pitch : Int := 0
  rot   : Nat := 0
  dst   : List RegId := []
  bad   : Bool := false
  deriving DecidableEq, Repr

/-- An FLOAD on the weight path or waiting for it (R190): `g` is the cycle it began, earlier by the cycles that a hold let
the array run ahead; `ks` the coefficients of a cell of each row; `reads` counts the reads of codebook tables and indices
made (R269), whose data are `tabs` and `idxs`; `rows` are the rows read without codebooks; `bad` says that it collides
with another operation (R58). -/
structure FLoad where
  id    : Nat := 0
  op    : Instr
  ctx   : Nat
  ord   : Nat
  idx   : Nat := 0
  inst  : Option InstId := none
  g     : Option Int := none
  base  : Nat
  pitch : Nat
  rot   : Nat
  bad   : Bool := false
  ks    : List Nat
  reads : Nat := 0
  tabs  : List Nat := []
  idxs  : List Nat := []
  rows  : List Nat := []
  deriving DecidableEq, Repr

/-- A change of the array state that takes effect in a later cycle (R187, R191, R207); `spoil` leaves a resource, numbered as in
`uses`, unpredictable (R58). -/
inductive ArrChange where
  | grid (slot : Nat) (g : Grid)
  | rowMap (b : BitVec 1) (m : Map Nat)
  | counters
  | grids
  | buffer (b : BitVec 1) (d : BufDesc) (keepMap : Bool)
  | spoil (resource key : Nat)
  deriving DecidableEq, Repr

/-- The function array of a core (R184) and the operations in it. `uses` lists what an operation still reads or writes: a
buffer (0, 1), a row map (2, 3), the counters (4), a grid slot (8 to 23); whether it writes it; the last cycle (R209).
`portTo` is the cycle the input port is free from, `port` the streaming operation that took it last (R198), `wpFree` the
cycle that the weight path is free from. -/
structure ArrayState where
  b0      : Buffer := {}
  b1      : Buffer := {}
  grid    : Map Grid := []
  below   : Map (BitVec 16) := []
  above   : Map (BitVec 16) := []
  pushes  : List Push := []
  loads   : List FLoad := []
  changes : List (Nat × ArrChange) := []
  uses    : List (Nat × Bool × Nat) := []
  portTo  : Nat := 0
  port    : Option Push := none
  wpFree  : Nat := 0
  deriving DecidableEq, Repr

/-- A deferral queue entry (R315), tagged with the instance of the context that made it. -/
structure DefEntry where
  inst : InstId
  path : Nat
  lane : BitVec 32
  vals : List (BitVec 32)
  deriving DecidableEq, Repr

/-- A deferral batch formed and not yet run (R317): its issuer, the place of the DEFRUN among the starts of the core; `entry` is
its path's ENTRY (R316). -/
structure Batch where
  ctx  : Nat
  inst : InstId
  mark : Nat
  path : Nat
  entry : Nat
  ents : List DefEntry
  deriving DecidableEq, Repr

/-- A promotion log entry (R153); `ord` is the serial number of the release, which orders the core's accesses. -/
structure LogEntry where
  num : BitVec 32
  gen : BitVec 16
  core : Bool
  ctx : Nat
  ord : Nat
  deriving DecidableEq, Repr

/-- An L1 line (R89, R153): valid and dirty bytes, generation, the shadow version it belongs to, its function. -/
structure L1Line where
  pa    : Nat
  key   : Nat
  ver   : Option Nat := none
  data  : BitVec 1024
  valid : BitVec 128
  dirty : BitVec 128
  gen   : BitVec 16 := 0
  vf    : Nat := 0
  deriving DecidableEq, Repr

/-- A PACQ request: issuing core, target, its cut once it has arrived, answered (R156). -/
structure PacqReq where
  id     : Nat
  core   : Nat
  target : Nat
  vf     : Nat
  cut    : Option (BitVec 32) := none
  done   : Bool := false
  deriving DecidableEq, Repr

/-- A retirement in progress on a core or slice (R376): source, target, lines moved, lines in all; whether the next line is locked
in motion, and for how many cycles; whether it waits for what it takes out of service to be given up (R377). -/
structure Retire where
  kind   : Nat
  src    : Nat
  dst    : Nat
  moved  : Nat := 0
  lines  : Nat
  spare  : Bool
  locked : Bool := false
  age    : Nat := 0
  wait   : Bool := false
  deriving DecidableEq, Repr

/-- One of the 256 cores (R16, R18). -/
structure Core where
  ctxs    : Map Ctx := []  -- contexts 0 to 3 (R18)
  cyc     : Nat := 0  -- schedule cycles (R48)
  clk     : Nat := 0  -- compute cycles (R48)
  issuing : Option Nat := none  -- the issuing context (R285)
  last    : Nat := 3  -- the one that issued last
  pickAt  : Option Nat := none  -- the cycle of its next choice (R285)
  midIss  : Bool := false  -- an issue is in progress
  sp      : Mem := []  -- scratchpad/L1 SRAM (R86)
  empt    : List Nat := []  -- words that are EMPTY (R91)
  regions : List Region := []  -- regions (R86)
  arr     : ArrayState := {}  -- function array (R184)
  arrOf   : Option Nat := none  -- the launch that its state belongs to (R185)
  xpOf    : Option Nat := none  -- the launch that the transposer buffer belongs to (R235)
  xpose   : Map Vec := []  -- transposer buffer (R235)
  xposeW  : List (Nat × Nat × Vec) := []  -- its row writes to come: cycle, row, data
  xclear  : Bool := false  -- a TXC of this cycle
  defq    : List DefEntry := []  -- deferral queue (R315)
  batches : List Batch := []  -- deferral batches (R317)
  plog    : List LogEntry := []  -- promotion log, oldest first (R153)
  gen     : BitVec 16 := 0  -- current generation (R153)
  plnum   : BitVec 32 := 0  -- number of the newest log entry (R84, R153)
  l1      : List L1Line := []  -- L1 (R89)
  acc     : List Access := []  -- accesses started and not performed (R144)
  pacq    : List PacqReq := []  -- PACQ requests it is asked (R156)
  copyq   : List CopyCmd := []  -- copy engine (R138)
  flushq  : List FlushCmd := []  -- MFLUSH commands (R103)
  jobq    : List Job := []  -- transducer jobs not dispatched (R257)
  tlb     : List Handle := []  -- first-level TLB, newest first (R328)
  holdcnt : Word := 0  -- HOLDCNT (R84)
  holdRun : Nat := 0  -- cycles of the hold in progress (R356)
  hold    : Option Nat := none  -- kind of the hold (R356)
  holdIss : Bool := false  -- it holds an issue
  portTo  : Nat := 0  -- the access port is free from this cycle (R243)
  bankHeld : Nat := 0  -- cycles held for banks by the start in hand (R116)
  rewHold : Nat := 0  -- cycles of a rewind still to hold (R369)
  busTo   : Nat := 0  -- vertical-bus cycle from which slots are not granted (R97)
  mark    : Nat := 0  -- serial number that accesses of this cycle begin from (R163)
  claims  : List Nat := []  -- banks that accesses of rows 1 and 2 take in the bank cycle that ends with the core's turn (R90)
  served  : List Nat := []  -- banks taken in the bank cycle before it
  replies : List Nat := []  -- cycles in which replies of CNTRD and XDQ land (R104, R266)
  fullAt  : Option Nat := none  -- the compute cycle in which its array last took a row at full rate (R198)
  turnOwed : Bool := false  -- its array holds a cycle for a full-rate turn that it loses (R288)
  spLog   : Nat := 32  -- logical scratchpad banks in service (R377)
  spSpare : Nat := 2  -- spare scratchpad banks (R375)
  nvb     : Map Nat := []  -- NVB of its contexts (R377)
  nmb     : Map Nat := []  -- NMB of its contexts (R377)
  rgSpare : Nat := 2  -- spare register banks (R375)
  banks   : Map Word := []  -- bank status words (R375)
  retCmd  : Word := 0  -- PBANK of its retirement command (R375)
  retire  : Option Retire := none  -- retirement in progress (R376)
  todo    : List (Nat × Start) := []  -- operations of this cycle still to run
  lastVF  : Option Nat := none  -- function of the last context bound (R333)
  lag     : Nat := 0  -- what it has behind the faster tower's clock (R394)
  deriving DecidableEq, Repr

/-- A line of the L2 or the Mere, plaintext under a key (R102, R339); `dirty` has a bit for each 16-byte block, and only
the data of dirty blocks is kept, the others being what lies below. -/
structure CLine where
  pa    : Nat
  key   : Nat
  data  : BitVec 1024
  dirty : BitVec 8 := 0
  deriving DecidableEq, Repr

/-- The fields of a launch record (R277), its pond descriptors and group entries (R279), its parameter block. -/
structure LaunchRec where
  pblock  : Nat := 0
  tuse    : Bool := false
  muse    : Bool := false
  hnd     : Bool := false
  segprot : Bool := false
  shadow  : Bool := false
  queue   : Nat := 0
  prio    : Nat := 0
  nstg    : Nat := 1
  splen   : Nat := 0
  code    : Nat := 0
  param   : Nat := 0
  spimg   : Nat := 0
  compl   : Nat := 0
  rgn     : Nat := 2
  rest    : Nat := 4
  slots   : Nat := 0
  handler : Nat := 0
  lwdog   : Nat := 0
  clen    : Nat := 1
  plen    : Nat := 0
  stages  : List (Nat × Nat) := []
  ponds   : List (Nat × Nat × Nat × Nat) := []
  groups  : List (Nat × List (Nat × Nat × Nat)) := []
  deriving DecidableEq, Repr

/-- Where a stage instance is (R282, R289, R293). -/
inductive InstState where
  | unstarted
  | bound (core ctx : Nat)
  | saved
  | ended
  deriving DecidableEq, Repr

/-- A stage instance of a launch: its state, event set (R308), saved context (R289). -/
structure InstRec where
  stage  : Nat
  num    : Nat
  st     : InstState := .unstarted
  events : BitVec 32 := 0
  saved  : Option Arch := none
  sNoStall : Bool := false
  pend   : List TrapReq := []
  parked : Bool := false
  watches : List Watch := []
  hs     : Map Word := []
  rec0   : Word × Word × Word := (0, 0, 0)
  sSeq   : Nat := 0
  deriving DecidableEq, Repr

/-- A pond: its ring's words, oldest first, and its home core (R282, R305); the cycle from which it is full, and the
earlier spans in which it was (R291). -/
structure Pond where
  home  : Option Nat := none
  words : List (BitVec 32) := []
  fullFrom : Option Nat := none
  fulls : List (Nat × Nat) := []
  deriving DecidableEq, Repr

/-- A group's generation and the members arrived in it (R307). -/
structure GroupGen where
  gen     : Nat := 0
  began   : Nat := 0
  arrived : List (Nat × Nat) := []
  deriving DecidableEq, Repr

/-- A VALID decoding table: symbol width, dispatch entries (R258, R259). -/
structure DTable where
  sw      : Nat
  entries : List Nat
  deriving DecidableEq, Repr

/-- A shadow version of a 64 KiB unit (R371): the unit's plaintext, the key of each 16-byte block (R341), the bytes that the
launch has written. -/
structure ShadowUnit where
  data    : Mem
  keys    : Map Nat := []
  written : Nat := 0
  deriving DecidableEq, Repr

/-- A selected launch (R281 to R294, R371). -/
structure Launch where
  rc       : LaunchRec
  vf       : Nat := 0
  asid     : Nat := 0
  parent   : Option Nat := none
  insts    : List InstRec := []
  ponds    : Map Pond := []
  gens     : Map GroupGen := []
  dtabs    : Map DTable := []
  selAt    : Nat := 0
  selClk   : Nat := 0
  replays  : Nat := 0
  shadow   : Map ShadowUnit := []
  later    : List (LaunchRec × Nat) := []
  orphans  : List (InstId × Watch) := []
  killed   : Bool := false
  complete : Bool := false
  wordDue  : Bool := false
  deriving DecidableEq, Repr

/-- A record in a spring queue (R280): who submitted it, when it became the head. -/
structure QRec where
  rc     : LaunchRec
  vf     : Nat
  asid   : Nat
  parent : Option Nat
  headAt : Nat := 0
  replays : Nat := 0
  deriving DecidableEq, Repr

/-- A key slot (R337): LOADED, GLOBAL, OWNER; the key material is in no register's reach. -/
structure KeySlot where
  loaded : Bool := false
  glob   : Bool := false
  owner  : Nat := 0
  key    : List Word := []
  deriving DecidableEq, Repr

/-- A host queue's registers and grant (R384, R388); the base-die cycle from which its next entry could be read (R383). -/
structure HostQueue where
  base    : Word := 0
  en      : Bool := false
  lsz     : Nat := 0
  asid    : Nat := 0
  wc      : BitVec 32 := 0
  rc      : BitVec 32 := 0
  st      : Nat := 0
  lastref : Nat := 0
  nref    : Nat := 0
  grant   : Option Nat := none
  since   : Nat := 0
  deriving DecidableEq, Repr

/-- A non-leaf entry in a walk cache (R329): its address space, its level, the part of the address that the level and those above
it have used, the table it leads to. -/
structure WalkEntry where
  asid  : Nat
  level : Nat
  pre   : Nat
  table : Nat
  deriving DecidableEq, Repr

/-- A TLB miss: the core and function that need it, its address space and address, the compute cycle it began in, whether it holds a
walker, whether it has ended, and in a fault (R328, R329); whose it is: an XLT's 4 × core + context + 1 and place, or 0 and the
number of a copy command or job. -/
structure Walk where
  id    : Nat
  core  : Nat
  vf    : Nat
  asid  : Nat
  va    : Nat
  since : Nat
  begun : Bool := false
  done  : Bool := false
  bad   : Bool := false
  user  : Nat × Nat := (0, 0)
  deriving DecidableEq, Repr

/-- A shoot-down in progress (R330): its command and the step it stands at. -/
structure ShootDown where
  asid  : Nat
  all   : Bool
  wb    : Bool
  va    : Nat
  count : Nat
  pages : List (Nat × Nat) := []
  old   : List (Nat × Nat) := []
  deriving DecidableEq, Repr

/-- A function-level reset in progress, or done, of a function (R334, R335). -/
structure FlrState where
  vf    : Nat
  since : Nat
  deriving DecidableEq, Repr

/-- The CXL port (R382): lanes and GT/s it trains to, whether IDE is required, and keyed. -/
structure CxlPort where
  lanes  : Nat := 16
  speed  : Nat := 128
  ideReq : Bool := false
  ideKey : Bool := false
  deriving DecidableEq, Repr

/-- What R388 says of a wellhead's own state: the mode its code runs in (0 User, 1 Supervisor, 3 Machine), and of the last exception
the mode it came from and its cause. -/
structure Hart where
  mode   : Nat := 3
  before : Nat := 3
  cause  : Nat := 0
  deriving DecidableEq, Repr

/-- The device outside the cores. -/
structure Dev where
  hbm      : Mem := []  -- HBM, as stored (R99, R336)
  blockKey : Map Nat := []  -- key number of a 16-byte block of HBM (R341)
  hostMem  : Mem := []  -- host memory (R101)
  l2       : List CLine := []  -- L2 of all slices (R100)
  mere     : List CLine := []  -- Mere of both base dies (R102)
  badLines : List Loc := []  -- lines with an uncorrectable error (R368)
  l2Log    : Nat := 2048  -- logical L2 banks in service (R377)
  l2Spare  : Nat := 128  -- spare L2 banks (R375)
  l2Banks  : Map Word := []  -- bank status words of the slices (R375)
  l2Ret    : Map Retire := []  -- their retirements in progress (R376)
  l2Cmd    : Map Word := []  -- PBANK of their retirement commands (R375)
  mereCnt  : Map Word := []  -- counters of the Mere (R104)
  asd      : Map Word := []  -- address-space descriptors (R324)
  keys     : Map KeySlot := [(0, { loaded := true })]  -- key slots (R337)
  keyPort  : Map (List Word) := []  -- key material written so far (R337)
  oldKeys  : Map (List Word) := []  -- erased keys under which blocks still stand (R340)
  tlb2     : Map (List Handle) := []  -- TLBs of the clusters (R328)
  tlb3     : Map (List Handle) := []  -- banks 0 to 15 of the TLBs of the towers, by 16 × tower + bank (R328)
  walks    : List Walk := []  -- TLB misses in arrival order (R328, R329)
  wcache   : Map (List WalkEntry) := []  -- walk caches of the base dies, newest first (R329)
  evicts   : Nat := 0  -- counts victims of the L2 and the Mere (R99, R102)
  shoot    : List ShootDown := []  -- shoot-downs in progress (R330)
  limits   : Map Word := []  -- limit words of the functions (R388)
  pool     : Map Nat := []  -- shadow versions left to a function (R371)
  grants   : Map Nat := []  -- by how many its pool may still grow (R397)
  springs  : Map (List QRec) := []  -- spring queues, head first (R280)
  launches : Map Launch := []  -- selected launches (R281)
  jobs     : List Job := []  -- transducer jobs dispatched (R257)
  lreqs    : List LaunchReq := []  -- LAUNCHes on their way (R311)
  hostq    : Map HostQueue := []  -- host queues (R384)
  ports    : Map Word := []  -- tarn port status words (R387)
  retries  : Map (List Nat) := []  -- base-die cycles of a port's retries (R387)
  chans    : Map Word := []  -- collective channels (R373)
  chanUse  : Map Nat := []  -- the launch that a channel is assigned to (R373)
  chanBuf  : List (Nat × Nat × Nat × Nat) := []  -- their buffered packets: channel, attempt, data, function (R332, R373)
  tokens   : List (Nat × Nat × Nat) := []  -- abort tokens sent (R374)
  kdsel    : Map Word := []  -- KDSEL of the wellheads (R388)
  harts    : Map Hart := []  -- their modes and exceptions (R388)
  flushA   : Word := 0  -- flush structure word 0 (R388)
  flushK   : Word := 0  -- word 1
  flush    : Option FlushCmd := none  -- flush command in progress
  fwStaged : BitVec 32 := 0  -- version of the verified staged image (R389)
  fwRun    : BitVec 32 := 0  -- running version (R392)
  fwImage  : Option (BitVec 32) := none  -- version of the last image verified (R390)
  fwStage  : Word := 0  -- STAGE (R390)
  fwStatus : Nat := 0  -- swap status (R390)
  fwSince  : Nat := 0  -- when the swap began (R390)
  fwDown   : Bool := false  -- the wellheads restart (R360)
  record   : List (Nat × Nat × Nat) := []  -- repair record: kind, core or slice, bank (R108)
  softRec  : List (Nat × Word) := []  -- its soft repairs of vertical buses (R395)
  soft     : Map Word := []  -- soft-repair registers of the vertical buses (R395)
  repair   : Word := 0  -- repair words (R392)
  repairN  : Word := 0
  thr      : Map Nat := []  -- throttle steps of the towers (R394)
  throt    : Nat := 760  -- THROT in units of 0.125 degrees (R394)
  stopped  : Map Bool := []  -- towers whose clocks have stopped (R394)
  thrSites : List Nat := []  -- sites that throttle (R393)
  thrAt    : Map Nat := []  -- base-die cycle of a tower's last step (R394)
  temps    : Map Nat := []  -- temperatures of sites, in units of 0.125 degrees (R393)
  stages   : List Nat := []  -- module power stages that report a fault (R392)
  cxl      : CxlPort := {}  -- CXL port (R382)
  unloads  : List Nat := []  -- key slots being unloaded (R340)
  linkErr  : Nat := 0  -- errors counted on the CXL link (R383)
  firmEv   : Map Nat := []  -- events that firmware counts for a function (R294)
  flr      : List FlrState := []  -- function-level resets in progress (R334)
  ladder   : Nat := 0  -- step of the recovery ladder (R360)
  base     : Nat := 0  -- base-die cycles (R15)
  baseFrac : Nat := 0  -- and the rest of its division
  deriving DecidableEq, Repr

/-- The core, context and operation the model runs now: for an operation its step counter, issue index, place in
program order, whether it collides with another (R58); `pre` says that the issue's checks have been made for every slot
of the bundle (R63); for an event the command, access or launch it concerns. -/
structure Focus where
  core : Nat := 0
  ctx  : Nat := 0
  id   : Nat := 0
  aux  : Nat := 0
  k    : Nat := 0
  idx  : Nat := 0
  ord  : Nat := 0
  bad  : Bool := false
  pre  : Bool := false
  deriving DecidableEq, Repr

/-- An event to come: its row and what it concerns. -/
structure Event where
  row  : Instr
  core : Nat := 0
  ctx  : Nat := 0
  id   : Nat := 0
  aux  : Nat := 0
  deriving DecidableEq, Repr

/-- The whole device. `inputs` are the outside events still to come; `nfree` numbers the free values of Config;
`uid` numbers accesses and commands; `cur` is the place in the round of the core whose compute cycle comes next, `plan` the losing
layers of the columns in this round (R288). -/
structure State where
  cores  : Map Core := []
  dev    : Dev := {}
  foc    : Focus := {}
  inputs : List Event := []
  cur    : Nat := 0
  plan   : List Nat := []
  nfree  : Nat := 0
  uid    : Nat := 1
  deriving DecidableEq, Repr

/-- Why the model stops without a next state. -/
inductive Fault where
  /-- A host access (HOST_MEMORY_ACCESS) names a physical address outside HBM, where the address map of R101 and R382
  has nothing. Safe: the model stops where nothing is said to happen. -/
  | unbackedPhysical (pa : Nat)
  deriving DecidableEq, Repr

/-- Why the model refuses an instruction. -/
inductive Refusal where
  /-- Raised by exec's arm of an instruction that has no meaning yet. Safe: no next state. -/
  | notModelled (mnemonic : String)
  deriving DecidableEq, Repr

/-- The machine right after cold reset: nothing bound, every queue, log, TLB and buffer empty, key slot 0 loaded by
the boot ROM (R337); every field at the default its structure names. -/
def State.reset : State := {}

end Sys2Proof.Machine
end

