-- ==== Sys2Proof/Machine/Ops.lean ====
section
/-! DEFINITION. Named operations on the state: tables, memory, the focus, registers, results in flight, the load-data
queue, waits, and taking a trap and returning from one (R343 to R354). -/

namespace Sys2Proof.Machine

/-! ### Tables -/

/-- The value of key `k`, if the table lists it. -/
def Map.find? {α : Type} : Map α → Nat → Option α
  | [], _ => none
  | (j, x) :: r, k => if j = k then some x else Map.find? r k

/-- The value of key `k`, or `d` where the table does not list it. -/
def Map.get {α : Type} (m : Map α) (k : Nat) (d : α) : α := (m.find? k).getD d

/-- The table with `x` for key `k`. -/
def Map.set {α : Type} : Map α → Nat → α → Map α
  | [], k, x => [(k, x)]
  | (j, y) :: r, k, x =>
    if j = k then (k, x) :: r else if k < j then (k, x) :: (j, y) :: r else (j, y) :: Map.set r k x

/-- The table without key `k`. -/
def Map.drop {α : Type} (m : Map α) (k : Nat) : Map α := m.filter fun e => e.1 ≠ k

/-! ### Memory: bytes by address, an unlisted byte 0 (log 4) -/

/-- The byte at an address. -/
def Mem.byte : Mem → Nat → Byte
  | [], _ => 0
  | (j, b) :: r, a => if j = a then b else Mem.byte r a

/-- Byte `b` at address `a` before the first higher address. -/
def Mem.insert : Mem → Nat → Byte → Mem
  | [], a, b => [(a, b)]
  | (j, c) :: r, a, b => if a < j then (a, b) :: (j, c) :: r else (j, c) :: Mem.insert r a b

/-- The memory with byte `b` at address `a`, in canonical form. -/
def Mem.put (m : Mem) (a : Nat) (b : Byte) : Mem :=
  let r := m.filter fun e => !(e.1 == a)
  if b = 0 then r else Mem.insert r a b

/-- Every address above `lo`, strictly rising, and no byte 0. -/
def Mem.above : Nat → Mem → Bool
  | _, [] => true
  | lo, (j, b) :: r => decide (lo ≤ j) && decide (b ≠ 0) && Mem.above (j + 1) r

/-- The canonical form: addresses strictly rising, no entry equal to what an unlisted address reads as. -/
def Memory.wf (m : Mem) : Bool := Mem.above 0 m

/-- `n` bytes from address `a`, little-endian (R6). -/
def Mem.read (m : Mem) (a : Nat) : Nat → Nat
  | 0 => 0
  | n + 1 => (m.byte a).toNat + 256 * Mem.read m (a + 1) n

/-- The memory with the `n` low bytes of `v` at address `a`, little-endian. -/
def Mem.write (m : Mem) (a : Nat) : Nat → Nat → Mem
  | 0, _ => m
  | n + 1, v => Mem.write (m.put a (BitVec.ofNat 8 v)) (a + 1) n (v / 256)

/-! ### Bits -/

/-- Bits [hi:lo] of a number. -/
def bits (x hi lo : Nat) : Nat := x / 2 ^ lo % 2 ^ (hi + 1 - lo)

/-- Bit `i` of a number. -/
def bit (x i : Nat) : Bool := x.testBit i

/-- 1 for true. -/
def b2n (b : Bool) : Nat := if b then 1 else 0

/-- Element `i` of `w` bits. -/
def elemOf (x i w : Nat) : Nat := x / 2 ^ (w * i) % 2 ^ w

/-- `n` elements of `w` bits, element 0 lowest. -/
def packElems (w : Nat) : List Nat → Nat
  | [] => 0
  | x :: r => x % 2 ^ w + 2 ^ w * packElems w r

/-- Lane `i` of a vector (R18). -/
def lane (v : Vec) (i : Nat) : BitVec 32 := v.extractLsb' (32 * i) 32

/-- The vector whose lane i is `g i`. -/
def mkVec (g : Nat → BitVec 32) : Vec := BitVec.ofNat 4096 (packElems 32 ((List.range 128).map fun i => (g i).toNat))

/-- The bits of the lanes whose bit is 1 in `m`. -/
def laneMask (m : Nat → Bool) : Vec := mkVec fun i => if m i then BitVec.allOnes 32 else 0

/-- The bits of bytes [lo, lo + n). -/
def byteMask (lo n : Nat) : Vec := BitVec.ofNat 4096 ((2 ^ (8 * n) - 1) * 2 ^ (8 * lo))

/-- The predicate whose bit i is `g i`. -/
def mkPred (g : Nat → Bool) : Pred := BitVec.ofNat 128 (packElems 1 ((List.range 128).map fun i => b2n (g i)))

/-- Sign extension of the low `w` bits to 64. -/
def sx (x w : Nat) : Word := BitVec.ofInt 64 (sintOf w x)

/-- Zero extension of the low `w` bits to 64. -/
def zx (x w : Nat) : Word := BitVec.ofNat 64 (x % 2 ^ w)

/-- Sign extension of a field to 64 bits. -/
def sext {n : Nat} (x : BitVec n) : Word := x.signExtend 64

/-- Bits of a width code W (R46). -/
def widthBits (w : BitVec 2) : Nat := 8 * 2 ^ w.toNat

/-! ### Focus -/

/-- Core `n`. -/
def State.coreAt (s : State) (n : Nat) : Core := s.cores.get n {}

/-- The state with core `n` changed by `g`. -/
def State.modCoreAt (s : State) (n : Nat) (g : Core → Core) : State := { s with cores := s.cores.set n (g (s.coreAt n)) }

/-- Context `n` of a core. -/
def Core.ctxAt (c : Core) (n : Nat) : Ctx := c.ctxs.get n {}

/-- The state with context `n` of core `c` changed by `g`. -/
def State.modCtxAt (s : State) (c n : Nat) (g : Ctx → Ctx) : State :=
  s.modCoreAt c fun k => { k with ctxs := k.ctxs.set n (g (k.ctxAt n)) }

/-- The core in focus. -/
def State.core (s : State) : Core := s.coreAt s.foc.core

/-- The context in focus. -/
def State.ctx (s : State) : Ctx := s.core.ctxAt s.foc.ctx

/-- The state with the core in focus changed. -/
def State.modCore (s : State) (g : Core → Core) : State := s.modCoreAt s.foc.core g

/-- The state with the context in focus changed. -/
def State.modCtx (s : State) (g : Ctx → Ctx) : State := s.modCtxAt s.foc.core s.foc.ctx g

/-- The state with the saved part of the context in focus changed. -/
def State.modArch (s : State) (g : Arch → Arch) : State := s.modCtx fun c => { c with a := g c.a }

/-- The state with the device changed. -/
def State.modDev (s : State) (g : Dev → Dev) : State := { s with dev := g s.dev }

/-- The state with the focus on a core and a context. -/
def State.focusOn (s : State) (core ctx : Nat) : State := { s with foc := { core := core, ctx := ctx } }

/-- The schedule cycle of the core in focus (R48). -/
def State.cyc (s : State) : Nat := s.core.cyc

/-- A number for a free value, and the state that will give the next. -/
def State.fresh (s : State) : Nat × State := (2 * s.nfree, { s with nfree := s.nfree + 1 })

/-- A serial number for an access or command, and the state that will give the next. -/
def State.newId (s : State) : Nat × State := (s.uid, { s with uid := s.uid + 1 })

/-- Launch `n`, if it has been selected. -/
def State.launchAt (s : State) (n : Nat) : Option Launch := s.dev.launches.find? n

/-- The state with launch `n` changed, where there is one. -/
def State.modLaunch (s : State) (n : Nat) (g : Launch → Launch) : State :=
  match s.launchAt n with
  | none => s
  | some l => s.modDev fun d => { d with launches := d.launches.set n (g l) }

/-- The launch of a context. -/
def State.launchOf (s : State) (c : Ctx) : Option Launch := c.inst.bind fun i => s.launchAt i.launch

/-- The number of the launch of the context in focus; no launch has number 0. -/
def State.lid (s : State) : Nat := (s.ctx.inst.map (·.launch)).getD 0

/-- The launch of the context in focus. -/
def State.launch? (s : State) : Option Launch := s.launchOf s.ctx

/-- The virtual function of the context in focus (R84); 0 when unbound. -/
def State.vfid (s : State) : Nat := (s.launch?.map (·.vf)).getD 0

/-- The address space of the context in focus. -/
def State.asid (s : State) : Nat := (s.launch?.map (·.asid)).getD 0

/-- A limit word of a function (R388), with its reset value. -/
def State.limit (s : State) (vf word : Nat) : Nat :=
  ((s.dev.limits.find? (8 * vf + word)).map (·.toNat)).getD
    (match word with | 0 => 4096 | 1 => 192 | 2 => 3 | 3 => 2 | 4 => 16384 | 6 => 4 | _ => 0)

/-- Position of a core (R13, R14): layer, cluster number, column number, tower. -/
def coreLayer (n : Nat) : Nat := bits n 6 5
def coreTower (n : Nat) : Nat := bits n 7 7
def corePos (n : Nat) : Nat := bits n 2 0
def coreCL (n : Nat) : Nat := 16 * coreTower n + 4 * coreLayer n + bits n 4 3
def coreCOL (n : Nat) : Nat := 32 * coreTower n + 8 * bits n 4 3 + corePos n

/-! ### Registers -/

/-- A scalar register; s0 reads 0 (R66). -/
def Arch.sReg (a : Arch) (n : Nat) : Word := if n = 0 then 0 else a.s.get n 0

/-- A predicate register; p0 is all true (R18). -/
def Arch.pReg (a : Arch) (n : Nat) : Pred := if n = 0 then BitVec.allOnes 128 else a.p.get n 0

/-- A vector register. -/
def Arch.vReg (a : Arch) (n : Nat) : VReg := a.v.get n {}

/-- A matrix register, or one of a lent bank from number 32 on (R212). -/
def Arch.mReg (a : Arch) (n : Nat) : VReg := if n < 32 then a.m.get n {} else a.v.get (n - 32) {}

/-- Bits of a shape record that are reserved and written 0 (R119). -/
def shapeMask : BitVec 256 := BitVec.allOnes 256 - BitVec.ofNat 256 (0xFFFFFF * 2 ^ 40)

/-- The value of an accumulating landing (R181, R199): each element of `cols` added to what the register holds. -/
def accumulate (af byte len cols : Nat) (old : Vec) : Vec :=
  let w := fmtBits af
  let was := old.toNat / 2 ^ (8 * byte)
  let sum := packElems w ((List.range len).map fun j =>
    roundFmt (fadd 0 (decodeF af (elemOf was j w)) (decodeF af (elemOf cols j w))) af 0 false)
  let mask := byteMask byte (len * fmtSize af)
  (old &&& ~~~mask) ||| (BitVec.ofNat 4096 (sum * 2 ^ (8 * byte)) &&& mask)

/-- What a landing makes of a vector register. -/
def VReg.land (r : VReg) : Payload → VReg
  | .vec mask data tag => { bits := (r.bits &&& ~~~mask) ||| (data &&& mask), tag := tag.getD r.tag }
  | .acc af byte len cols tag => { bits := accumulate af byte len cols r.bits, tag := tag }
  | _ => r

/-- The write of a result to its register (R57); writes to s0 and p0 are discarded (R66). -/
def Arch.write (a : Arch) (r : RegId) (v : Payload) : Arch :=
  match r.cls, v with
  | .s, .scalar x => if r.n = 0 then a else { a with s := a.s.set r.n x }
  | .p, .pred mask data =>
    if r.n = 0 then a else { a with p := a.p.set r.n ((a.p.get r.n 0 &&& ~~~mask) ||| (data &&& mask)) }
  | .v, w => { a with v := a.v.set r.n ((a.vReg r.n).land w) }
  | .m, w =>
    if r.n < 32 then { a with m := a.m.set r.n ((a.mReg r.n).land w) }
    else { a with v := a.v.set (r.n - 32) ((a.mReg r.n).land w) }
  | .h, .handle h => { a with h := a.h.set r.n h }
  | .sh, .shape x => { a with sh := a.sh.set r.n (x &&& shapeMask) }
  | .th, .thr x => { a with th := a.th.set r.n x }
  | _, _ => a

/-- A register that a result is written to is corrupt no longer (R368). -/
def Arch.cleanse (a : Arch) (r : RegId) : Arch := { a with bad := a.bad.filter (· ≠ r) }

/-! ### Results in flight (R56, R57) -/

/-- Insertion by place in program order. -/
def insertLanding (x : Landing) : List Landing → List Landing
  | [] => [x]
  | y :: r => if x.ord < y.ord then x :: y :: r else y :: insertLanding x r

/-- Landings in program order. -/
def sortLandings (l : List Landing) : List Landing := l.foldl (fun acc x => insertLanding x acc) []

/-- Register bytes that an accumulating result adds into. -/
def Payload.adds : Payload → Option (Nat × Nat)
  | .acc af byte len _ _ => some (byte, len * fmtSize af)
  | .row _ _ true af byte len _ _ => some (byte, len * fmtSize af)
  | _ => none

/-- Whether result `x` adds to some of the bytes that `l` adds to. -/
def Landing.meets (x l : Landing) : Bool :=
  decide (x.reg = l.reg) && match x.val.adds, l.val.adds with
    | some (a, m), some (b, n) => decide (a < b + n) && decide (b < a + m)
    | _, _ => false

/-- A sum that lands by cycle `t`, while one of an operation issued earlier is still to come, is added with it: pushes to one destination
are added in the order in which they issue (R181, R199; DEDUCED, log 78). -/
def Ctx.inTurn (c : Ctx) (t : Nat) : Ctx :=
  { c with flight := c.flight.map fun l =>
      if l.due ≤ t then { l with due := (c.flight.filter fun x => x.meets l && decide (x.ord < l.ord)).foldl (fun d x => max d x.due) l.due }
      else l }

/-- The results due by cycle `t` written to their registers, the one issued later last (R57); a corrupt row is a landing
fault, and the later rows of its operation are discarded (R211). -/
def Ctx.landDue (c : Ctx) (t : Nat) : Ctx :=
  let c := c.inTurn t
  let due := sortLandings (c.flight.filter fun l => l.due ≤ t)
  if due.isEmpty then c
  else
    let bad := due.filterMap fun l => match l.val with | .corrupt info => some (info, l.ord) | _ => none
    { c with a := due.foldl (fun a l => (a.write l.reg l.val).cleanse l.reg) c.a
             flight := c.flight.filter fun l => decide (t < l.due) && !(bad.any fun x => x.2 = l.ord)
             lfault := match bad with | (info, _) :: _ => some info | [] => c.lfault }

/-- A well-formed domain tag made from any word (R237). -/
def toTag (x : BitVec 32) : BitVec 32 :=
  let n := x.toNat
  let tree := if bit n 0 then 1 + 2 * (1 + bits n 3 1 % 6) + 16 * bits n 4 4 else 0
  BitVec.ofNat 32 (tree + 32 * bits n 7 5 + 256 * bits n 8 8)

/-- The handles a context could read now: an empty one, its own, and those in flight to it. -/
def Ctx.ownHandles (c : Ctx) : List Handle :=
  {} :: c.a.h.map Prod.snd ++ c.flight.filterMap fun l => match l.val with | .handle h => some h | _ => none

/-- An unpredictable handle (R3): one that the context could read. -/
def Ctx.freeHandle (c : Ctx) (n : Nat) : Handle :=
  c.ownHandles.getD ((Config.freeWord n).toNat % c.ownHandles.length) {}

/-- An unpredictable value in place of a result of context `c`: the whole register with its tag, lanes and bytes that the
operation would keep included (R3, R58). -/
def Payload.free (c : Ctx) (n : Nat) : Payload → Payload
  | .scalar _ => .scalar (Config.freeWord n)
  | .pred _ _ => .pred (BitVec.allOnes 128) ((Config.freeVec n).truncate 128)
  | .shape _ => .shape ((Config.freeVec n).truncate 256)
  | .thr _ => .thr ((Config.freeVec n).truncate 128)
  | .corrupt info => .corrupt info
  | .handle _ => .handle (c.freeHandle n)
  | .vec _ _ _ | .acc _ _ _ _ _ | .row _ _ _ _ _ _ _ _ =>
    .vec (BitVec.allOnes 4096) (Config.freeVec n) (some (toTag (Config.freeTag n)))

/-- A result of the operation in focus, landing `lat` cycles from now; one of a colliding operation is free (R58). -/
def post (r : RegId) (lat : Nat) (v : Payload) (s : State) : State :=
  if (r.cls = .s ∨ r.cls = .p) ∧ r.n = 0 then s
  else
    let (n, s) := if s.foc.bad then s.fresh else (0, s)
    let v := if s.foc.bad then v.free s.ctx n else v
    let l : Landing := { due := s.cyc + lat, ord := s.foc.ord, reg := r, val := v, hm := s.ctx.hmode }
    s.modCtx fun c => { c with flight := c.flight ++ [l] }

/-- A scalar result. -/
def postS (n lat : Nat) (x : Word) (s : State) : State := post ⟨.s, n⟩ lat (.scalar x) s

/-- A whole vector register's result with its tag. -/
def postV (n lat : Nat) (x : Vec) (tag : BitVec 32) (s : State) : State :=
  post ⟨.v, n⟩ lat (.vec (BitVec.allOnes 4096) x (some tag)) s

/-! ### The load-data queue (R111, R112) -/

/-- The queue with entry `id` filled. -/
def fillIn (id : Nat) (data : Vec) (poisoned : Option (Nat × Nat)) (q : List QEntry) : List QEntry :=
  q.map fun e => if e.id = id then { e with data := data, filled := true, poisoned := poisoned } else e

/-- A context with queue entry `id` filled, wherever its queue stands: in use, set aside (R348), or in the checkpoint of
an open segment (R364). -/
def Ctx.fill (c : Ctx) (id : Nat) (data : Vec) (poisoned : Option (Nat × Nat)) : Ctx :=
  { c with a := { c.a with queue := fillIn id data poisoned c.a.queue }
           aside := c.aside.map fun x => { x with queue := fillIn id data poisoned x.queue }
           seg := c.seg.map fun g => { g with ck := { g.ck with queue := fillIn id data poisoned g.ck.queue } } }

/-- The data of entry `id` arrives (R112). -/
def arriveIn (id : Nat) (q : List QEntry) : List QEntry :=
  q.map fun e => if e.id = id ∧ e.filled = true then { e with arrived := true } else e

/-- A context with the data of queue entry `id` arrived, wherever its queue stands. -/
def Ctx.arrive (c : Ctx) (id : Nat) : Ctx :=
  { c with a := { c.a with queue := arriveIn id c.a.queue }
           aside := c.aside.map fun x => { x with queue := arriveIn id x.queue }
           seg := c.seg.map fun g => { g with ck := { g.ck with queue := arriveIn id g.ck.queue } } }

/-- Whether an entry's data has arrived by schedule cycle `t`. -/
def QEntry.ready (e : QEntry) (t : Nat) : Bool :=
  e.filled && match e.due with | some d => decide (d ≤ t) | none => e.arrived

/-- Entry allocated for the operation in focus; its number and the state. -/
def allocEntry (due : Option Nat) (s : State) : Nat × State :=
  let (id, s) := s.newId
  (id, s.modArch fun a => { a with queue := a.queue ++ [{ id := id, due := due }] })

/-- The head entry taken; an empty queue is refused before (R216). -/
def popEntry (s : State) : QEntry × State :=
  match s.ctx.a.queue with
  | [] => ({ id := 0 }, s)
  | e :: r => (e, s.modArch fun a => { a with queue := r })

/-! ### Waits (R284 to R286) -/

/-- Every context of the device changed. -/
def State.mapCtxs (s : State) (g : Ctx → Ctx) : State :=
  { s with cores := s.cores.map fun e => (e.1, { e.2 with ctxs := e.2.ctxs.map fun x => (x.1, g x.2) }) }

/-- Whether the point that serves a held operation has answered that it blocks: the context waits there already (R303). -/
def Ctx.deferred (c : Ctx) : Bool := match c.answer with | some (0, _) => true | _ => false

/-- Every context that waits on a condition of `p` is to be made READY (R286). -/
def wake (p : WaitOn → Bool) (s : State) : State :=
  s.mapCtxs fun c => if (c.st = .blocked ∨ c.deferred = true) ∧ (c.wait.map p).getD false then { c with woken := true } else c

/-- The core in focus has no issuing context any more; it chooses one in three cycles (R285). -/
def leaveIssue (s : State) : State :=
  if s.core.issuing = some s.foc.ctx then
    s.modCore fun k => { k with issuing := none, last := s.foc.ctx, pickAt := some (k.cyc + 3) }
  else s

/-- Committing the open segment of a context (R362, R366): its held effects enter their paths. -/
def Ctx.commit (c : Ctx) : Ctx :=
  match c.seg with
  | none => { c with rewPend := false }
  | some g => { c with seg := none, rewPend := false, entering := c.entering ++ g.held }

/-- The issue in focus blocks on `w` (R52, R285); a block closes the segment (R362). -/
def blockOn (w : WaitOn) (s : State) : State :=
  leaveIssue (s.modCtx fun c => { c.commit with
    st := .blocked, wait := some w, woken := c.deferred && c.woken, answer := c.answer.filter (fun x => x.1 = 1), asked := none
    begun := false })

/-! ### Taking a trap (R343 to R351) -/

/-- The word of TRAPCAUSE (R345). -/
def causeWord (nsnap owed rep fslot : Nat) (replay before defer fwd : Bool) (code : Nat) : Word :=
  BitVec.ofNat 64 (min nsnap 255 * 2 ^ 32 + owed % 32 * 2 ^ 27 + rep % 64 * 2 ^ 21 + fslot % 8 * 2 ^ 18
    + b2n replay * 2 ^ 17 + b2n before * 2 ^ 16 + b2n defer * 2 ^ 15 + b2n fwd * 2 ^ 14 + code % 256)

/-- What the pipeline snapshot buffer receives at reference cycle `b` (R350). -/
def Ctx.snapshot (c : Ctx) (b : Nat) (replay : List Start) : List Snap :=
  c.flight.map (fun l => .result (l.due - b) l.ord l.reg l.val) ++ c.starts.map (fun e => .start (e.due - b) e)
    ++ replay.map .replay

/-- s28 to s31 of a register table. -/
def handlerScalars (m : Map Word) : Map Word := [28, 29, 30, 31].map fun i => (i, m.get i 0)

/-- The register table with s28 to s31 from `hs`. -/
def withHandlerScalars (m hs : Map Word) : Map Word := [28, 29, 30, 31].foldl (fun m i => m.set i (hs.get i 0)) m

/-- A context at the entry of its handler (R348): the record written, sticky operations, loops, queue and snapshot set
aside, the first handler bundle at `entry` in cycle f + 4, whatever its STALL (DEDUCED, log 58). -/
def Ctx.enterHandler (c : Ctx) (q : TrapReq) (snap : List Snap) (fwd : Bool) (f : Nat) (entry : Word) : Ctx :=
  { c with
    cause := causeWord snap.length q.owed c.a.idx q.fslot (decide (q.replay ≠ [])) q.before q.defer fwd q.cause
    tpc := c.a.pc
    tinfo := q.info
    tr64 := q.r64
    snap := snap
    flight := []
    starts := []
    aside := some { stA := c.a.stA, stV := c.a.stV, stM := c.a.stM, stT := c.a.stT, lp0 := c.a.lp0, lp1 := c.a.lp1
                    queue := c.a.queue, answer := c.answer.filter (fun x => x.1 = 1), trapEnd := c.trapEnd, svc := c.svc, chkNext := c.chkNext }
    hmode := true
    hs := handlerScalars c.a.s
    frm := f + 4
    noStall := true
    next := .seq
    answer := none
    trapEnd := none
    svc := none
    chkNext := none
    begun := false
    a := { c.a with stA := {}, stV := {}, stM := {}, stT := {}, lp0 := {}, lp1 := {}, queue := [], pc := entry, idx := 0
                    s := withHandlerScalars c.a.s c.hs } }

/-- Whether a cause goes to wellhead firmware first (R347). -/
def firmwareFirst (cause : Nat) : Bool := cause = 0x0B || cause = 0x12 || cause = 0x13 || cause = 0x14

/-- The address of a launch's handler (R277). -/
def Launch.handlerPC (l : Launch) : Word := BitVec.ofNat 64 (l.rc.code + l.rc.handler)

/-- The launch of the context in focus is killed by firmware (R347, R360): the context waits for that. -/
def killHere (s : State) : State :=
  leaveIssue ((s.modLaunch s.lid fun l => { l with killed := true }).modCtx fun c =>
    { c with st := .blocked, wait := some .firmware })

/-- A trap is taken in the context in focus (R343 to R351): the segment closes (R362), the snapshot is taken, and the
handler is entered; or firmware holds the context; or the launch has no handler, or the trap arose in handler mode, and
is killed (R347). It is the one trap of its cycle (R344). -/
def takeTrap (q : TrapReq) (s : State) : State :=
  let s := s.modCtx fun c => { c.commit with asked := none, faults := [], lfault := none }
  let f := s.cyc
  let snap := s.ctx.snapshot (if q.before then f else f + 1) q.replay
  match s.launch? with
  | none => killHere s
  | some l =>
    if firmwareFirst q.cause then
      leaveIssue (s.modCtx fun c =>
        { c with fwHeld := some q, fsnap := snap, flight := [], starts := [], next := .seq, st := .blocked
                 wait := some .firmware, woken := false })
    else if !l.rc.hnd || s.ctx.hmode || q.hm then killHere s
    else s.modCtx fun c => c.enterHandler q snap false f l.handlerPC

/-- A pending trap of a context (R357): DEFER when it is not issuing, and a blocked wait is withdrawn. -/
def Ctx.pendTrap (c : Ctx) (q : TrapReq) : Ctx :=
  let held := decide (c.wait = some .firmware) || decide (c.wait = some .service)
  { c with pend := c.pend ++ [{ q with before := true, defer := decide (c.st ≠ .issuing), hm := c.hmode }]
           woken := c.woken || (decide (c.st = .blocked) && !held) }

/-- The entries of a snapshot put back for a return in cycle `e` (R353): every placement at e + 1 + r. `hm` says that the context is
in handler mode, whose work they then are. -/
def placeFlight (e : Nat) (hm : Bool) (snap : List Snap) : List Landing :=
  snap.filterMap fun
    | .result r ord reg val => some { due := e + 1 + r, ord := ord, reg := reg, val := val, hm := hm }
    | _ => none

/-- The operations of a snapshot put back for a return in cycle `e` (R353). -/
def placeStarts (e : Nat) (replay hm : Bool) (snap : List Snap) : List Start :=
  snap.filterMap fun
    | .start r op => some { op with due := e + 1 + r, hm := hm }
    | .replay op => if replay then some { op with due := e, hm := hm } else none
    | _ => none

/-- A context put back at (pc, rep) for a return in cycle `e` (R353). -/
def Ctx.place (c : Ctx) (e : Nat) (snap : List Snap) (replay : Bool) (pc : Word) (rep owed : Nat) : Ctx :=
  { c with flight := c.flight ++ placeFlight e c.hmode snap
           starts := c.starts ++ placeStarts e replay c.hmode snap
           frm := e + 1 + owed
           noStall := true
           next := .placed
           a := { c.a with pc := pc, idx := rep } }

/-- The return from handler mode in cycle `e` (R353): handler work discarded, what was set aside restored, the snapshot
put back, the resume point as TRAPPC and TRAPCAUSE give it (R354). -/
def Ctx.returnFrom (c : Ctx) (e : Nat) : Ctx :=
  match c.aside with
  | none => c
  | some x =>
    let cw := c.cause.toNat
    let c' : Ctx := { c with
      hmode := false
      aside := none
      hs := handlerScalars c.a.s
      flight := []
      starts := []
      snap := []
      answer := x.answer
      trapEnd := x.trapEnd
      svc := x.svc
      chkNext := x.chkNext
      a := { c.a with queue := x.queue, stA := x.stA, stV := x.stV, stM := x.stM, stT := x.stT, lp0 := x.lp0
                      lp1 := x.lp1, s := withHandlerScalars c.a.s c.hs } }
    c'.place e c.snap (bit cw 17) c.tpc (bits cw 26 21) (bits cw 31 27)

/-- Firmware's return of a context it holds, in cycle `e` (R352, R355): the record is unchanged, and a service's answer
lands in the resume issue's cycle. -/
def Ctx.firmwareReturn (c : Ctx) (e owed : Nat) (ans : Option (Nat × Word)) : Ctx :=
  let c' := { c.place e c.fsnap true c.a.pc c.a.idx owed with
    fsnap := [], fwHeld := none, svc := none, resume := none, next := .seq }
  match ans with
  | none => c'
  | some (sd, x) =>
    if sd = 0 then c'
    else { c' with flight := c'.flight ++ [{ due := e + 1 + owed, ord := 8 * c.seq + 7, reg := ⟨.s, sd⟩, val := .scalar x, hm := c.hmode }] }

/-! ### Start faults (R343) -/

/-- The operation in focus as it stands in its start cycle. -/
def State.startOf (s : State) (i : Instr) : Start :=
  { due := s.cyc, ord := s.foc.ord, op := i, k := s.foc.k, idx := s.foc.idx, hm := s.ctx.hmode, bad := s.foc.bad }

/-- The operation in focus faults in its start cycle (R343): it changes nothing, and the trap is taken after the
cycle. -/
def startFault (i : Instr) (cause : Nat) (info : Word) (s : State) : State :=
  s.modCtx fun c => { c with faults := c.faults ++ [(s.startOf i, cause, info)] }

/-- TRAPINFO of R64. -/
def info64 (slot opc rep : Nat) (cls reg fld : Nat) : Word :=
  BitVec.ofNat 64 (reg % 256 * 2 ^ 32 + cls % 8 * 2 ^ 29 + rep % 64 * 2 ^ 23 + fld % 128 * 2 ^ 16 + opc % 256 * 2 ^ 8
    + slot % 8)

/-- The code of a register class in TRAPINFO (R64). -/
def RegClass.code : RegClass → Nat
  | .s => 0 | .v => 1 | .m => 2 | .p => 3 | .h => 4 | .sh => 5 | .th => 6 | .lp => 7

/-! ### Holds (R287) -/

/-- One held compute cycle: no schedule cycle passes, HOLDCNT and the freeze watchdog count. -/
def heldCycle (s : State) : State :=
  s.modCore fun k => { k with clk := k.clk + 1, holdcnt := k.holdcnt + 1, holdRun := k.holdRun + 1 }

/-- One held cycle of a rewind (R369), which the watchdog does not count. -/
def rewindCycle (s : State) : State :=
  s.modCore fun k => { k with clk := k.clk + 1, holdcnt := k.holdcnt + 1, rewHold := k.rewHold - 1 }

end Sys2Proof.Machine
end

