-- ==== Sys2Proof/Machine/Cipher.lean ====
section
/-! DEFINITION. The cipher of the memory controllers (R336): AES-256-XTS, a 128-byte line being the data unit. The rule names the
cipher by its standard name; AES and the order of XTS are those of their standards (PRESUMED, log 7). -/

namespace Sys2Proof.Machine

/-- The bytes of a 16-byte block, the one at the lowest address first. -/
abbrev Block := List Nat

/-- Sixteen bytes of a number. -/
def toBlock (x : Nat) : Block := (List.range 16).map fun i => elemOf x i 8

/-- Byte-wise exclusive or. -/
def xorBytes (a b : List Nat) : List Nat := List.zipWith (fun x y => x ^^^ y) a b

/-- The substitution table of AES, 32 entries a row, entry 0 lowest. -/
def sboxRows : List Nat :=
  [0xc072a49cafa2d4adf04759fa7dc982ca76abd7fe2b670130c56f6bf27b777c63,
   0x75b227ebe28012079a059618c323c7041531d871f1e5a534ccf73f362693fdb7,
   0xcf584c4a39becb6a5bb1fc20ed00d153842fe329b3d63b52a05a6e1b1a2c8309,
   0xd2f3ff1021dab6bcf5389d928f40a351a89f3c507f02f94585334d43fbaaefd0,
   0xdb0b5ede14b8ee4688902a22dc4f816073195d643d7ea7c41744975fec130ccd,
   0x08ae7a65eaf4566ca94ed58d6d37c8e779e4959162acd3c25c2406490a3a32e0,
   0x9e1dc186b95735610ef6034866b53e708a8bbd4b1f74dde8c6b4a61c2e2578ba,
   0x16bb54b00f2d99416842e6bf0d89a18cdf2855cee9871e9b948ed9691198f8e1]

/-- Its inverse. -/
def invSboxRows : List Nat :=
  [0xcbe9dec444438e3487ff2f9b8239e37cfbd7f3819ea340bf38a53630d56a0952,
   0x25d18b6d49a25b76b224d92866a12e084ec3fa420b954cee3d23c2a632947b54,
   0x849d8da75746155edab9edfd5048706c92b6655dcc5ca4d41698688664f6f872,
   0x6b8a130103bdafc1020f3fca8f1e2cd00645b3b80558e4f70ad3bc8c00abd890,
   0x6edf751ce837f9e28535ade72274ac9673e6b4f0cecff297eadc674f4111913a,
   0xf45acd78fec0db9a2079d2c64b3e56fc1bbe18aa0e62b76f89c5291d711af147,
   0xef9cc9939f7ae52d0d4ab519a97f51605fec8027591012b131c7078833a8dd1f,
   0x7d0c2155631469e126d677ba7e042b17619953833cbbebc8b0f52aae4d3be0a0]

/-- An entry of a table. -/
def boxAt (t : List Nat) (x : Nat) : Nat := elemOf (t.getD (x / 32) 0) (x % 32) 8

/-- Multiplication by x in the field of AES. -/
def xtime (x : Nat) : Nat := (2 * x) % 256 ^^^ (if 128 ≤ x then 0x1B else 0)

/-- Multiplication by a constant below 16. -/
def mulByte (a x : Nat) : Nat :=
  (if bit a 0 then x else 0) ^^^ (if bit a 1 then xtime x else 0) ^^^ (if bit a 2 then xtime (xtime x) else 0)
    ^^^ (if bit a 3 then xtime (xtime (xtime x)) else 0)

/-- Row r of the block moved by r columns; `inverse` moves it back. -/
def shiftRows (inverse : Bool) (b : Block) : Block :=
  (List.range 16).map fun i => b.getD (i % 4 + 4 * ((i / 4 + (if inverse then 4 - i % 4 else i % 4)) % 4)) 0

/-- Each column multiplied by the circulant matrix whose first row is `m`. -/
def mixColumns (m : List Nat) (b : Block) : Block :=
  (List.range 16).map fun i => (List.range 4).foldl (fun x j =>
    x ^^^ mulByte (m.getD ((j + 4 - i % 4) % 4) 0) (b.getD (i / 4 * 4 + j) 0)) 0

/-- The key schedule with one more word. -/
def nextWord (w : List (List Nat)) : List (List Nat) :=
  let i := w.length
  let t := w.getD (i - 1) []
  let t := if i % 8 = 0 then
      xorBytes ((t.rotateLeft 1).map (boxAt sboxRows)) [2 ^ (i / 8 - 1), 0, 0, 0]
    else if i % 8 = 4 then t.map (boxAt sboxRows) else t
  w ++ [xorBytes (w.getD (i - 8) []) t]

/-- The fifteen round keys of a 256-bit key. -/
def roundKeys (key : Nat) : List Block :=
  let w := (List.range 52).foldl (fun w _ => nextWord w) ((List.range 8).map fun i => (List.range 4).map fun j => elemOf key (4 * i + j) 8)
  (List.range 15).map fun r => (w.drop (4 * r)).take 4 |>.flatten

/-- AES-256 encryption of a block. -/
def aesEncrypt (key : Nat) (b : Block) : Block :=
  let ks := roundKeys key
  let b := ((ks.drop 1).take 13).foldl (fun b k =>
    xorBytes (mixColumns [2, 3, 1, 1] (shiftRows false (b.map (boxAt sboxRows)))) k) (xorBytes b (ks.getD 0 []))
  xorBytes (shiftRows false (b.map (boxAt sboxRows))) (ks.getD 14 [])

/-- AES-256 decryption of a block. -/
def aesDecrypt (key : Nat) (b : Block) : Block :=
  let ks := roundKeys key
  let b := (((ks.drop 1).take 13).reverse).foldl (fun b k =>
    mixColumns [14, 11, 13, 9] (xorBytes ((shiftRows true b).map (boxAt invSboxRows)) k)) (xorBytes b (ks.getD 14 []))
  xorBytes ((shiftRows true b).map (boxAt invSboxRows)) (ks.getD 0 [])

/-- The tweak of a block of a line (R336): the line's address bits [45:7] under the tweak key, multiplied by x once for each block
before it. -/
def xtsTweak (key block : Nat) : Nat :=
  (List.range (block % 8)).foldl (fun t _ => (2 * t) % 2 ^ 128 ^^^ (if bit t 127 then 0x87 else 0))
    (packElems 8 (aesEncrypt (key / 2 ^ 256) (toBlock (block / 8 % 2 ^ 39))))

/-- A 16-byte block of HBM encrypted under a 512-bit key, the data key lowest; `block` is its address in units of 16 bytes. -/
def xtsEncrypt (key block x : Nat) : Nat :=
  let t := xtsTweak key block
  packElems 8 (aesEncrypt (key % 2 ^ 256) (toBlock (x ^^^ t))) ^^^ t

/-- The same decrypted. -/
def xtsDecrypt (key block x : Nat) : Nat :=
  let t := xtsTweak key block
  packElems 8 (aesDecrypt (key % 2 ^ 256) (toBlock (x ^^^ t))) ^^^ t

end Sys2Proof.Machine
end

