-- ==== Sys2Proof/Decode.lean ====
section
/-! DEFINITION. Encodings of R43, R44, R46 and R62: the decoder, total on every word, and after it the encoder written
from the same tables. A slot word whose opcode R62 does not assign decodes to `none` (the machine's trap 0x02). -/

namespace Sys2Proof

/-- The C slot's fields out of its word (R46). -/
def CSlot.unpack (w : BitVec 64) : CSlot where
  imm := w.extractLsb' 32 32
  fn := w.extractLsb' 27 5
  mir := w.extractLsb' 26 1
  w := w.extractLsb' 24 2
  i := w.extractLsb' 23 1
  sb := w.extractLsb' 18 5
  sa := w.extractLsb' 13 5
  sd := w.extractLsb' 8 5

/-- The C slot's word from its fields and opcode (R46). -/
def CSlot.pack (f : CSlot) (op : BitVec 8) : BitVec 64 :=
  f.imm ++ f.fn ++ f.mir ++ f.w ++ f.i ++ f.sb ++ f.sa ++ f.sd ++ op

/-- The A slot's fields out of its word (R46). -/
def ASlot.unpack (w : BitVec 64) : ASlot where
  off := w.extractLsb' 38 26
  step := w.extractLsb' 32 6
  sc := w.extractLsb' 29 3
  w := w.extractLsb' 27 2
  h := w.extractLsb' 23 4
  xs := w.extractLsb' 18 5
  dr := w.extractLsb' 12 6
  mir := w.extractLsb' 11 1
  sdly := w.extractLsb' 8 3

/-- The A slot's word from its fields and opcode (R46). -/
def ASlot.pack (f : ASlot) (op : BitVec 8) : BitVec 64 :=
  f.off ++ f.step ++ f.sc ++ f.w ++ f.h ++ f.xs ++ f.dr ++ f.mir ++ f.sdly ++ op

/-- The V slot's fields out of its word (R46). -/
def VSlot.unpack (w : BitVec 64) : VSlot where
  aux := w.extractLsb' 52 12
  rm := w.extractLsb' 49 3
  qa := w.extractLsb' 48 1
  step := w.extractLsb' 46 2
  fd := w.extractLsb' 43 3
  fa := w.extractLsb' 40 3
  z := w.extractLsb' 39 1
  p := w.extractLsb' 36 3
  vc := w.extractLsb' 30 6
  vb := w.extractLsb' 24 6
  va := w.extractLsb' 18 6
  vd := w.extractLsb' 12 6
  mir := w.extractLsb' 11 1
  sdly := w.extractLsb' 8 3

/-- The V slot's word from its fields and opcode (R46). -/
def VSlot.pack (f : VSlot) (op : BitVec 8) : BitVec 64 :=
  f.aux ++ f.rm ++ f.qa ++ f.step ++ f.fd ++ f.fa ++ f.z ++ f.p ++ f.vc ++ f.vb ++ f.va ++ f.vd ++ f.mir ++ f.sdly ++ op

/-- The M slot's fields out of its word (R46). -/
def MSlot.unpack (w : BitVec 64) : MSlot where
  aux := w.extractLsb' 60 4
  h := w.extractLsb' 59 1
  spn := w.extractLsb' 56 3
  cbf := w.extractLsb' 54 2
  n := w.extractLsb' 46 8
  vs := w.extractLsb' 40 6
  q := w.extractLsb' 39 1
  src := w.extractLsb' 38 1
  sb := w.extractLsb' 33 5
  sa := w.extractLsb' 28 5
  md := w.extractLsb' 21 7
  af := w.extractLsb' 19 2
  inf := w.extractLsb' 16 3
  mode := w.extractLsb' 13 3
  b := w.extractLsb' 12 1
  rsv := w.extractLsb' 11 1
  sdly := w.extractLsb' 8 3

/-- The M slot's word from its fields and opcode (R46). -/
def MSlot.pack (f : MSlot) (op : BitVec 8) : BitVec 64 :=
  f.aux ++ f.h ++ f.spn ++ f.cbf ++ f.n ++ f.vs ++ f.q ++ f.src ++ f.sb ++ f.sa ++ f.md ++ f.af ++ f.inf ++ f.mode ++ f.b ++ f.rsv ++ f.sdly ++ op

/-- The T slot's fields out of its word (R46). -/
def TSlot.unpack (w : BitVec 32) : TSlot where
  rsv := w.extractLsb' 29 3
  step := w.extractLsb' 27 2
  fmt := w.extractLsb' 24 3
  idx := w.extractLsb' 17 7
  v := w.extractLsb' 11 6
  sdly := w.extractLsb' 8 3

/-- The T slot's word from its fields and opcode (R46). -/
def TSlot.pack (f : TSlot) (op : BitVec 8) : BitVec 32 :=
  f.rsv ++ f.step ++ f.fmt ++ f.idx ++ f.v ++ f.sdly ++ op

/-- The X slot's fields out of its word (R46). -/
def XSlot.unpack (w : BitVec 64) : XSlot where
  imm := w.extractLsb' 46 18
  fd2 := w.extractLsb' 43 3
  fs := w.extractLsb' 40 3
  h2 := w.extractLsb' 36 4
  h := w.extractLsb' 32 4
  sc := w.extractLsb' 29 3
  tag := w.extractLsb' 23 6
  scc := w.extractLsb' 18 5
  sb := w.extractLsb' 13 5
  sa := w.extractLsb' 8 5

/-- The X slot's word from its fields and opcode (R46). -/
def XSlot.pack (f : XSlot) (op : BitVec 8) : BitVec 64 :=
  f.imm ++ f.fd2 ++ f.fs ++ f.h2 ++ f.h ++ f.sc ++ f.tag ++ f.scc ++ f.sb ++ f.sa ++ op

/-- The bundle header's fields out of its word (R43). -/
def Header.unpack (w : BitVec 32) : Header where
  rsv   := w.extractLsb' 20 12
  rv    := w.extractLsb' 19 1
  g     := w.extractLsb' 18 1
  d     := w.extractLsb' 17 1
  stall := w.extractLsb' 12 5
  rep   := w.extractLsb' 6 6
  pres  := w.extractLsb' 0 6

/-- The bundle header's word (R43). -/
def Header.pack (h : Header) : BitVec 32 :=
  h.rsv ++ h.rv ++ h.g ++ h.d ++ h.stall ++ h.rep ++ h.pres

/-- Whether the header says that a slot is present (R43, PRES). -/
def Header.present (h : Header) : Slot → Bool
  | .c => h.pres.getLsbD 0
  | .a => h.pres.getLsbD 1
  | .v => h.pres.getLsbD 2
  | .m => h.pres.getLsbD 3
  | .t => h.pres.getLsbD 4
  | .x => h.pres.getLsbD 5

/-- The slots in the order in which they follow the header (R44). -/
def Slot.all : List Slot := [.c, .a, .v, .m, .t, .x]

/-- A slot's length in bytes (R44). -/
def Slot.bytes : Slot → Nat
  | .t => 4
  | _  => 8

/-- The SLOT code of R64. -/
def Slot.code : Slot → Nat
  | .c => 0 | .a => 1 | .v => 2 | .m => 3 | .t => 4 | .x => 5

/-- A bundle's length in bytes: 4, 8 for each present C, A, V, M and X slot, 4 for a present T slot (R44). -/
def Header.length (h : Header) : Nat :=
  (Slot.all.filter h.present).foldl (fun n sl => n + sl.bytes) 4

/-- The operation that an opcode and the fields of the C slot encode (R62). -/
def operationC (op : Nat) (f : CSlot) : Option Instr :=
  match op with
  | 0x00 => some (.cnop f)
  | 0x01 => some (.endInst f)
  | 0x10 => some (.add f)
  | 0x11 => some (.sub f)
  | 0x12 => some (.mul f)
  | 0x13 => some (.mulh f)
  | 0x14 => some (.mulhn f)
  | 0x15 => some (.div f)
  | 0x16 => some (.divn f)
  | 0x17 => some (.rem f)
  | 0x18 => some (.remn f)
  | 0x19 => some (.and f)
  | 0x1A => some (.or f)
  | 0x1B => some (.xor f)
  | 0x1C => some (.andn f)
  | 0x1D => some (.shl f)
  | 0x1E => some (.shr f)
  | 0x1F => some (.sar f)
  | 0x20 => some (.rol f)
  | 0x21 => some (.min f)
  | 0x22 => some (.max f)
  | 0x23 => some (.minn f)
  | 0x24 => some (.maxn f)
  | 0x25 => some (.clz f)
  | 0x26 => some (.ctz f)
  | 0x27 => some (.popc f)
  | 0x28 => some (.seq f)
  | 0x29 => some (.slt f)
  | 0x2A => some (.sltn f)
  | 0x2B => some (.sel f)
  | 0x2C => some (.li f)
  | 0x2D => some (.lih f)
  | 0x2E => some (.lea f)
  | 0x2F => some (.popq f)
  | 0x40 => some (.br f)
  | 0x41 => some (.beq f)
  | 0x42 => some (.bne f)
  | 0x43 => some (.blt f)
  | 0x44 => some (.bge f)
  | 0x45 => some (.bltn f)
  | 0x46 => some (.bgen f)
  | 0x47 => some (.bpany f)
  | 0x48 => some (.bpall f)
  | 0x49 => some (.call f)
  | 0x4A => some (.ret f)
  | 0x4B => some (.jmpr f)
  | 0x4C => some (.loop f)
  | 0x4D => some (.lexit f)
  | 0x50 => some (.spl f)
  | 0x51 => some (.fil f)
  | 0x60 => some (.mfs f)
  | 0x61 => some (.mts f)
  | 0x62 => some (if f.fn.getLsbD 0 then .trapSys f else .trap f)
  | 0x63 => some (.eret f)
  | 0x64 => some (.chk f)
  | 0x65 => some (.blend f)
  | 0x66 => some (.bret f)
  | _ => none

/-- The operation a C slot word encodes (R62). -/
def decodeC (w : BitVec 64) : Option Instr := operationC (w.extractLsb' 0 8).toNat (CSlot.unpack w)

/-- The operation that an opcode and the fields of the A slot encode (R62). -/
def operationA (op : Nat) (f : ASlot) : Option Instr :=
  match op with
  | 0x00 => some (.anop f)
  | 0x01 => some (.ldq f)
  | 0x02 => some (.ldqv f)
  | 0x03 => some (.ldqg f)
  | 0x04 => some (.ldqs f)
  | 0x08 => some (.sts f)
  | 0x09 => some (.stv f)
  | 0x0A => some (.stvp f)
  | 0x0B => some (.stg f)
  | 0x10 => some (.ldf f)
  | 0x11 => some (.ste f)
  | 0x12 => some (.setf f)
  | 0x13 => some (.sete f)
  | 0x14 => some (.tstf f)
  | 0x18 => some (.tld f)
  | 0x19 => some (.tst f)
  | 0x20 => some (.xlt f)
  | 0x21 => some (.hdrop f)
  | 0x22 => some (.hinfo f)
  | 0x28 => some (.hst f)
  | 0x29 => some (.hld f)
  | 0x30 => some (.amoadd f)
  | 0x31 => some (.amomin f)
  | 0x32 => some (.amomax f)
  | 0x33 => some (.amominn f)
  | 0x34 => some (.amomaxn f)
  | 0x35 => some (.amoand f)
  | 0x36 => some (.amoor f)
  | 0x37 => some (.amoxor f)
  | 0x38 => some (.amoswp f)
  | 0x39 => some (.amocas f)
  | 0x3A => some (.amoincw f)
  | 0x3B => some (.amobfa f)
  | 0x3C => some (.amofadd f)
  | 0x40 => some (.ldacq f)
  | 0x41 => some (.strel f)
  | 0x42 => some (.pacq f)
  | 0x43 => some (.drn f)
  | 0x48 => some (.barv f)
  | 0x49 => some (.bwait f)
  | 0x4A => some (.fladd f)
  | 0x4B => some (.flset f)
  | 0x4C => some (.flwait f)
  | _ => none

/-- The operation a A slot word encodes (R62). -/
def decodeA (w : BitVec 64) : Option Instr := operationA (w.extractLsb' 0 8).toNat (ASlot.unpack w)

/-- The operation that an opcode and the fields of the V slot encode (R62). -/
def operationV (op : Nat) (f : VSlot) : Option Instr :=
  match op with
  | 0x00 => some (.vnop f)
  | 0x10 => some (.vfadd f)
  | 0x11 => some (.vfsub f)
  | 0x12 => some (.vfmul f)
  | 0x13 => some (.vfma f)
  | 0x14 => some (.vfms f)
  | 0x15 => some (.vfnma f)
  | 0x16 => some (.vfmin f)
  | 0x17 => some (.vfmax f)
  | 0x18 => some (.vfabs f)
  | 0x19 => some (.vfneg f)
  | 0x1A => some (.vfcmp f)
  | 0x1B => some (.vfspec f)
  | 0x1C => some (.vfclass f)
  | 0x20 => some (.viadd f)
  | 0x21 => some (.visub f)
  | 0x22 => some (.vimul f)
  | 0x23 => some (.vimad f)
  | 0x24 => some (.viand f)
  | 0x25 => some (.vior f)
  | 0x26 => some (.vixor f)
  | 0x27 => some (.vishl f)
  | 0x28 => some (.vishr f)
  | 0x29 => some (.visar f)
  | 0x2A => some (.vimin f)
  | 0x2B => some (.vimax f)
  | 0x2C => some (.vicmp f)
  | 0x30 => some (.vcvt f)
  | 0x31 => some (.vpack f)
  | 0x32 => some (.vunpk f)
  | 0x33 => some (.vscacc f)
  | 0x34 => some (.vscal f)
  | 0x38 => some (.vmov f)
  | 0x39 => some (.vsel f)
  | 0x3A => some (.vbcast f)
  | 0x3B => some (.vins f)
  | 0x3C => some (.vext f)
  | 0x3D => some (.vperm f)
  | 0x3E => some (.vrot f)
  | 0x3F => some (.viota f)
  | 0x40 => some (.vli f)
  | 0x44 => some (.vrsum f)
  | 0x45 => some (.vrmax f)
  | 0x46 => some (.vrmin f)
  | 0x48 => some (.pset f)
  | 0x49 => some (.pand f)
  | 0x4A => some (.por f)
  | 0x4B => some (.pxor f)
  | 0x4C => some (.pnot f)
  | 0x4D => some (.pcnt f)
  | 0x4E => some (.pfirst f)
  | 0x50 => some (.hfwd f)
  | 0x51 => some (.hinv f)
  | 0x52 => some (.hthr f)
  | 0x53 => some (if f.aux.getLsbD 11 then .htagRead f else .htagSet f)
  | 0x54 => some (.hcmp f)
  | 0x58 => some (.splv f)
  | 0x59 => some (.filv f)
  | 0x5C => some (.vchk f)
  | _ => none

/-- The operation a V slot word encodes (R62). -/
def decodeV (w : BitVec 64) : Option Instr := operationV (w.extractLsb' 0 8).toNat (VSlot.unpack w)

/-- The operation that an opcode and the fields of the M slot encode (R62). -/
def operationM (op : Nat) (f : MSlot) : Option Instr :=
  match op with
  | 0x00 => some (.mnop f)
  | 0x01 => some (.fgrid f)
  | 0x02 => some (.fload f)
  | 0x03 => some (.fsel f)
  | 0x04 => some (if f.h = 1#1 then .fmxHaar f else .fmx f)
  | 0x05 => some (.fmxd f)
  | 0x06 => some (.fmxc f)
  | 0x07 => some (.fgout f)
  | 0x08 => some (.fknot f)
  | 0x09 => some (.foog f)
  | 0x0A => some (match f.aux.toNat with
    | 2 => .fclrCounters f
    | 3 => .fclrGrid f
    | 4 | 5 | 6 | 7 => .fclrGrad f
    | _ => .fclrBuffer f)
  | 0x0B => some (.frdc f)
  | _ => none

/-- The operation a M slot word encodes (R62). -/
def decodeM (w : BitVec 64) : Option Instr := operationM (w.extractLsb' 0 8).toNat (MSlot.unpack w)

/-- The operation that an opcode and the fields of the T slot encode (R62). -/
def operationT (op : Nat) (f : TSlot) : Option Instr :=
  match op with
  | 0x00 => some (.tnop f)
  | 0x01 => some (.txi f)
  | 0x02 => some (.txo f)
  | 0x03 => some (.txc f)
  | _ => none

/-- The operation a T slot word encodes (R62). -/
def decodeT (w : BitVec 32) : Option Instr := operationT (w.extractLsb' 0 8).toNat (TSlot.unpack w)

/-- The operation that an opcode and the fields of the X slot encode (R62). -/
def operationX (op : Nat) (f : XSlot) : Option Instr :=
  match op with
  | 0x00 => some (.xnop f)
  | 0x01 => some (.copy f)
  | 0x02 => some (.copy2d f)
  | 0x03 => some (.copyt f)
  | 0x08 => some (.waitany f)
  | 0x09 => some (.waitall f)
  | 0x0A => some (.ffrdy f)
  | 0x0B => some (.tagclr f)
  | 0x10 => some (.xdt f)
  | 0x11 => some (.xds f)
  | 0x12 => some (.xdq f)
  | 0x18 => some (.launch f)
  | 0x19 => some (.lwait f)
  | 0x20 => some (.defer f)
  | 0x21 => some (.defrun f)
  | 0x28 => some (.pput f)
  | 0x29 => some (.pget f)
  | 0x30 => some (.grpbar f)
  | 0x31 => some (.evwait f)
  | 0x32 => some (.evsig f)
  | 0x38 => some (.mflush f)
  | 0x39 => some (.cntrd f)
  | _ => none

/-- The operation a X slot word encodes (R62). -/
def decodeX (w : BitVec 64) : Option Instr := operationX (w.extractLsb' 0 8).toNat (XSlot.unpack w)

/-- The operation that a slot's word encodes; the T slot reads the low 32 bits (R44, R62). -/
def decodeSlot (sl : Slot) (w : BitVec 64) : Option Instr :=
  match sl with
  | .c => decodeC w
  | .a => decodeA w
  | .v => decodeV w
  | .m => decodeM w
  | .t => decodeT (w.setWidth 32)
  | .x => decodeX w

/-- A little-endian number from bytes, lowest address first (R6). -/
def leNat : List (BitVec 8) → Nat
  | [] => 0
  | b :: bs => b.toNat + 256 * leNat bs

/-- The `n` little-endian bytes of a number (R6). -/
def leBytes : Nat → Nat → List (BitVec 8)
  | 0, _ => []
  | n + 1, w => BitVec.ofNat 8 w :: leBytes n (w / 256)

/-- The slot whose word a row of the opcode table with `nbits` bits gives: only the T slot is 32 bits wide, and the
table gives no bits to a row of another slot (R46); 64 bits are read as a C slot. -/
def tableSlot (nbits : Nat) : Slot := if nbits ≤ 32 then .t else .c

/-- What the decoder reads from an instruction whose bits are `w`, laid out as bytes in memory order. -/
def decodeTableWord (nbits w : Nat) : Option Instr :=
  let sl := tableSlot nbits
  decodeSlot sl (BitVec.ofNat 64 (leNat (leBytes sl.bytes (w % 2 ^ nbits))))

/-- The slot an instruction is an operation of; an event has none (R16). -/
def Instr.slot? : Instr → Option Slot
  | .cnop _ | .endInst _ | .add _ | .sub _ | .mul _ | .mulh _ | .mulhn _ | .div _ | .divn _ | .rem _ | .remn _ | .and
    _ | .or _ | .xor _ | .andn _ | .shl _ | .shr _ | .sar _ | .rol _ | .min _ | .max _ | .minn _ | .maxn _ | .clz _ |
    .ctz _ | .popc _ | .seq _ | .slt _ | .sltn _ | .sel _ | .li _ | .lih _ | .lea _ | .popq _ | .br _ | .beq _ | .bne
    _ | .blt _ | .bge _ | .bltn _ | .bgen _ | .bpany _ | .bpall _ | .call _ | .ret _ | .jmpr _ | .loop _ | .lexit _ |
    .spl _ | .fil _ | .mfs _ | .mts _ | .trap _ | .trapSys _ | .eret _ | .chk _ | .blend _ | .bret _ => some .c
  | .anop _ | .ldq _ | .ldqv _ | .ldqg _ | .ldqs _ | .sts _ | .stv _ | .stvp _ | .stg _ | .ldf _ | .ste _ | .setf _ |
    .sete _ | .tstf _ | .tld _ | .tst _ | .xlt _ | .hdrop _ | .hinfo _ | .hst _ | .hld _ | .amoadd _ | .amomin _ |
    .amomax _ | .amominn _ | .amomaxn _ | .amoand _ | .amoor _ | .amoxor _ | .amoswp _ | .amocas _ | .amoincw _ |
    .amobfa _ | .amofadd _ | .ldacq _ | .strel _ | .pacq _ | .drn _ | .barv _ | .bwait _ | .fladd _ | .flset _ |
    .flwait _ => some .a
  | .vnop _ | .vfadd _ | .vfsub _ | .vfmul _ | .vfma _ | .vfms _ | .vfnma _ | .vfmin _ | .vfmax _ | .vfabs _ | .vfneg
    _ | .vfcmp _ | .vfspec _ | .vfclass _ | .viadd _ | .visub _ | .vimul _ | .vimad _ | .viand _ | .vior _ | .vixor _
    | .vishl _ | .vishr _ | .visar _ | .vimin _ | .vimax _ | .vicmp _ | .vcvt _ | .vpack _ | .vunpk _ | .vscacc _ |
    .vscal _ | .vmov _ | .vsel _ | .vbcast _ | .vins _ | .vext _ | .vperm _ | .vrot _ | .viota _ | .vli _ | .vrsum _ |
    .vrmax _ | .vrmin _ | .pset _ | .pand _ | .por _ | .pxor _ | .pnot _ | .pcnt _ | .pfirst _ | .hfwd _ | .hinv _ |
    .hthr _ | .htagSet _ | .htagRead _ | .hcmp _ | .splv _ | .filv _ | .vchk _ => some .v
  | .mnop _ | .fgrid _ | .fload _ | .fsel _ | .fmx _ | .fmxHaar _ | .fmxd _ | .fmxc _ | .fgout _ | .fknot _ | .foog _
    | .fclrBuffer _ | .fclrCounters _ | .fclrGrid _ | .fclrGrad _ | .frdc _ => some .m
  | .tnop _ | .txi _ | .txo _ | .txc _ => some .t
  | .xnop _ | .copy _ | .copy2d _ | .copyt _ | .waitany _ | .waitall _ | .ffrdy _ | .tagclr _ | .xdt _ | .xds _ | .xdq
    _ | .launch _ | .lwait _ | .defer _ | .defrun _ | .pput _ | .pget _ | .grpbar _ | .evwait _ | .evsig _ | .mflush _
    | .cntrd _ => some .x
  | .pendingTrap _ _ | .functionLevelReset _ | .functionResetTimeout _ | .shootDownCommand _ _ _ _ _ |
    .addressSpaceDescriptorWrite _ _ | .keySlotDescriptorWrite _ _ | .keyPortWrite _ _ | .keySlotUnload _ |
    .bankStatusWrite _ _ | .retirementCommand _ _ | .collectiveChannelWrite _ _ | .functionLimitsWrite _ _ |
    .hostQueueGrantWrite _ _ | .flushCommand _ | .registerWrite _ _ _ | .qwcDoorbell _ _ | .qctlRst _ |
    .hostMemoryAccess _ _ _ | .linkFlitReceive _ _ | .linkPortFail _ | .collectivePacketReceive _ _ _ |
    .abortTokenStart _ | .abortTokenReceive _ _ _ | .serviceAnswer _ | .throttle _ | .clockRecoveryStep _ |
    .criticalTemperature _ | .tarnLinkTraining _ _ _ _ | .recordPrioChange _ _ _ | .errorNotConsumed _ | .bundleIssue
    | .operationStart | .resultLanding | .loadDataFill | .bankService | .accessPerform | .releasePerform |
    .waiterReady | .contextSwitch | .freezeWatchdogExpiry | .heldEntryCommit | .arrayPushRow | .floadBegin |
    .floadComplete | .codebookTableRead | .fgridSlotWrite | .txiRowWrite | .copyChunk | .copyComplete |
    .mflushComplete | .logPromotion | .l1WriteBack | .pacqRequestArrival | .pacqReply | .drnComplete |
    .heldServiceAnswer | .flagOperationArrival | .eventSignalArrival | .jobDispatch | .blockDecode | .chunkWrite |
    .jobComplete | .jobSuspend | .xdtComplete | .launchEnqueue | .launchSelection | .instanceBind | .preemption |
    .contextSave | .contextResume | .rebalanceCheck | .deferralBatchStart | .stageInstanceEnd | .launchComplete |
    .completionWordWrite | .launchWatchdogExpiry | .launchReplay | .shootDownAcknowledge | .pageWalk | .bankLineMove |
    .flushCommandComplete | .queueEntryConsume | .hostCompletionTimeout | .firmwareTrapResume | .firmwareTrapForward |
    .firmwareSwapGo | .firmwareSwapTimeout | .wellheadRestart | .coldReset | .warmReset | .hostCxlReset |
    .jobResumption => none

/-- The opcode of a slot operation (R62); 0 for an event, which has none. -/
def Instr.opcode : Instr → BitVec 8
  | .cnop _ => 0x00#8
  | .endInst _ => 0x01#8
  | .add _ => 0x10#8
  | .sub _ => 0x11#8
  | .mul _ => 0x12#8
  | .mulh _ => 0x13#8
  | .mulhn _ => 0x14#8
  | .div _ => 0x15#8
  | .divn _ => 0x16#8
  | .rem _ => 0x17#8
  | .remn _ => 0x18#8
  | .and _ => 0x19#8
  | .or _ => 0x1A#8
  | .xor _ => 0x1B#8
  | .andn _ => 0x1C#8
  | .shl _ => 0x1D#8
  | .shr _ => 0x1E#8
  | .sar _ => 0x1F#8
  | .rol _ => 0x20#8
  | .min _ => 0x21#8
  | .max _ => 0x22#8
  | .minn _ => 0x23#8
  | .maxn _ => 0x24#8
  | .clz _ => 0x25#8
  | .ctz _ => 0x26#8
  | .popc _ => 0x27#8
  | .seq _ => 0x28#8
  | .slt _ => 0x29#8
  | .sltn _ => 0x2A#8
  | .sel _ => 0x2B#8
  | .li _ => 0x2C#8
  | .lih _ => 0x2D#8
  | .lea _ => 0x2E#8
  | .popq _ => 0x2F#8
  | .br _ => 0x40#8
  | .beq _ => 0x41#8
  | .bne _ => 0x42#8
  | .blt _ => 0x43#8
  | .bge _ => 0x44#8
  | .bltn _ => 0x45#8
  | .bgen _ => 0x46#8
  | .bpany _ => 0x47#8
  | .bpall _ => 0x48#8
  | .call _ => 0x49#8
  | .ret _ => 0x4A#8
  | .jmpr _ => 0x4B#8
  | .loop _ => 0x4C#8
  | .lexit _ => 0x4D#8
  | .spl _ => 0x50#8
  | .fil _ => 0x51#8
  | .mfs _ => 0x60#8
  | .mts _ => 0x61#8
  | .trap _ => 0x62#8
  | .trapSys _ => 0x62#8
  | .eret _ => 0x63#8
  | .chk _ => 0x64#8
  | .blend _ => 0x65#8
  | .bret _ => 0x66#8
  | .anop _ => 0x00#8
  | .ldq _ => 0x01#8
  | .ldqv _ => 0x02#8
  | .ldqg _ => 0x03#8
  | .ldqs _ => 0x04#8
  | .sts _ => 0x08#8
  | .stv _ => 0x09#8
  | .stvp _ => 0x0A#8
  | .stg _ => 0x0B#8
  | .ldf _ => 0x10#8
  | .ste _ => 0x11#8
  | .setf _ => 0x12#8
  | .sete _ => 0x13#8
  | .tstf _ => 0x14#8
  | .tld _ => 0x18#8
  | .tst _ => 0x19#8
  | .xlt _ => 0x20#8
  | .hdrop _ => 0x21#8
  | .hinfo _ => 0x22#8
  | .hst _ => 0x28#8
  | .hld _ => 0x29#8
  | .amoadd _ => 0x30#8
  | .amomin _ => 0x31#8
  | .amomax _ => 0x32#8
  | .amominn _ => 0x33#8
  | .amomaxn _ => 0x34#8
  | .amoand _ => 0x35#8
  | .amoor _ => 0x36#8
  | .amoxor _ => 0x37#8
  | .amoswp _ => 0x38#8
  | .amocas _ => 0x39#8
  | .amoincw _ => 0x3A#8
  | .amobfa _ => 0x3B#8
  | .amofadd _ => 0x3C#8
  | .ldacq _ => 0x40#8
  | .strel _ => 0x41#8
  | .pacq _ => 0x42#8
  | .drn _ => 0x43#8
  | .barv _ => 0x48#8
  | .bwait _ => 0x49#8
  | .fladd _ => 0x4A#8
  | .flset _ => 0x4B#8
  | .flwait _ => 0x4C#8
  | .vnop _ => 0x00#8
  | .vfadd _ => 0x10#8
  | .vfsub _ => 0x11#8
  | .vfmul _ => 0x12#8
  | .vfma _ => 0x13#8
  | .vfms _ => 0x14#8
  | .vfnma _ => 0x15#8
  | .vfmin _ => 0x16#8
  | .vfmax _ => 0x17#8
  | .vfabs _ => 0x18#8
  | .vfneg _ => 0x19#8
  | .vfcmp _ => 0x1A#8
  | .vfspec _ => 0x1B#8
  | .vfclass _ => 0x1C#8
  | .viadd _ => 0x20#8
  | .visub _ => 0x21#8
  | .vimul _ => 0x22#8
  | .vimad _ => 0x23#8
  | .viand _ => 0x24#8
  | .vior _ => 0x25#8
  | .vixor _ => 0x26#8
  | .vishl _ => 0x27#8
  | .vishr _ => 0x28#8
  | .visar _ => 0x29#8
  | .vimin _ => 0x2A#8
  | .vimax _ => 0x2B#8
  | .vicmp _ => 0x2C#8
  | .vcvt _ => 0x30#8
  | .vpack _ => 0x31#8
  | .vunpk _ => 0x32#8
  | .vscacc _ => 0x33#8
  | .vscal _ => 0x34#8
  | .vmov _ => 0x38#8
  | .vsel _ => 0x39#8
  | .vbcast _ => 0x3A#8
  | .vins _ => 0x3B#8
  | .vext _ => 0x3C#8
  | .vperm _ => 0x3D#8
  | .vrot _ => 0x3E#8
  | .viota _ => 0x3F#8
  | .vli _ => 0x40#8
  | .vrsum _ => 0x44#8
  | .vrmax _ => 0x45#8
  | .vrmin _ => 0x46#8
  | .pset _ => 0x48#8
  | .pand _ => 0x49#8
  | .por _ => 0x4A#8
  | .pxor _ => 0x4B#8
  | .pnot _ => 0x4C#8
  | .pcnt _ => 0x4D#8
  | .pfirst _ => 0x4E#8
  | .hfwd _ => 0x50#8
  | .hinv _ => 0x51#8
  | .hthr _ => 0x52#8
  | .htagSet _ => 0x53#8
  | .htagRead _ => 0x53#8
  | .hcmp _ => 0x54#8
  | .splv _ => 0x58#8
  | .filv _ => 0x59#8
  | .vchk _ => 0x5C#8
  | .mnop _ => 0x00#8
  | .fgrid _ => 0x01#8
  | .fload _ => 0x02#8
  | .fsel _ => 0x03#8
  | .fmx _ => 0x04#8
  | .fmxHaar _ => 0x04#8
  | .fmxd _ => 0x05#8
  | .fmxc _ => 0x06#8
  | .fgout _ => 0x07#8
  | .fknot _ => 0x08#8
  | .foog _ => 0x09#8
  | .fclrBuffer _ => 0x0A#8
  | .fclrCounters _ => 0x0A#8
  | .fclrGrid _ => 0x0A#8
  | .fclrGrad _ => 0x0A#8
  | .frdc _ => 0x0B#8
  | .tnop _ => 0x00#8
  | .txi _ => 0x01#8
  | .txo _ => 0x02#8
  | .txc _ => 0x03#8
  | .xnop _ => 0x00#8
  | .copy _ => 0x01#8
  | .copy2d _ => 0x02#8
  | .copyt _ => 0x03#8
  | .waitany _ => 0x08#8
  | .waitall _ => 0x09#8
  | .ffrdy _ => 0x0A#8
  | .tagclr _ => 0x0B#8
  | .xdt _ => 0x10#8
  | .xds _ => 0x11#8
  | .xdq _ => 0x12#8
  | .launch _ => 0x18#8
  | .lwait _ => 0x19#8
  | .defer _ => 0x20#8
  | .defrun _ => 0x21#8
  | .pput _ => 0x28#8
  | .pget _ => 0x29#8
  | .grpbar _ => 0x30#8
  | .evwait _ => 0x31#8
  | .evsig _ => 0x32#8
  | .mflush _ => 0x38#8
  | .cntrd _ => 0x39#8
  | .pendingTrap _ _ | .functionLevelReset _ | .functionResetTimeout _ | .shootDownCommand _ _ _ _ _ |
    .addressSpaceDescriptorWrite _ _ | .keySlotDescriptorWrite _ _ | .keyPortWrite _ _ | .keySlotUnload _ |
    .bankStatusWrite _ _ | .retirementCommand _ _ | .collectiveChannelWrite _ _ | .functionLimitsWrite _ _ |
    .hostQueueGrantWrite _ _ | .flushCommand _ | .registerWrite _ _ _ | .qwcDoorbell _ _ | .qctlRst _ |
    .hostMemoryAccess _ _ _ | .linkFlitReceive _ _ | .linkPortFail _ | .collectivePacketReceive _ _ _ |
    .abortTokenStart _ | .abortTokenReceive _ _ _ | .serviceAnswer _ | .throttle _ | .clockRecoveryStep _ |
    .criticalTemperature _ | .tarnLinkTraining _ _ _ _ | .recordPrioChange _ _ _ | .errorNotConsumed _ | .bundleIssue
    | .operationStart | .resultLanding | .loadDataFill | .bankService | .accessPerform | .releasePerform |
    .waiterReady | .contextSwitch | .freezeWatchdogExpiry | .heldEntryCommit | .arrayPushRow | .floadBegin |
    .floadComplete | .codebookTableRead | .fgridSlotWrite | .txiRowWrite | .copyChunk | .copyComplete |
    .mflushComplete | .logPromotion | .l1WriteBack | .pacqRequestArrival | .pacqReply | .drnComplete |
    .heldServiceAnswer | .flagOperationArrival | .eventSignalArrival | .jobDispatch | .blockDecode | .chunkWrite |
    .jobComplete | .jobSuspend | .xdtComplete | .launchEnqueue | .launchSelection | .instanceBind | .preemption |
    .contextSave | .contextResume | .rebalanceCheck | .deferralBatchStart | .stageInstanceEnd | .launchComplete |
    .completionWordWrite | .launchWatchdogExpiry | .launchReplay | .shootDownAcknowledge | .pageWalk | .bankLineMove |
    .flushCommandComplete | .queueEntryConsume | .hostCompletionTimeout | .firmwareTrapResume | .firmwareTrapForward |
    .firmwareSwapGo | .firmwareSwapTimeout | .wellheadRestart | .coldReset | .warmReset | .hostCxlReset |
    .jobResumption => 0x00#8

/-- The slot and word that encode a slot operation (R46, R62), zero-extended to 64 bits for the T slot. -/
def encode (i : Instr) : Option (Slot × BitVec 64) :=
  match i with
  | .cnop f | .endInst f | .add f | .sub f | .mul f | .mulh f | .mulhn f | .div f | .divn f | .rem f | .remn f | .and
    f | .or f | .xor f | .andn f | .shl f | .shr f | .sar f | .rol f | .min f | .max f | .minn f | .maxn f | .clz f |
    .ctz f | .popc f | .seq f | .slt f | .sltn f | .sel f | .li f | .lih f | .lea f | .popq f | .br f | .beq f | .bne
    f | .blt f | .bge f | .bltn f | .bgen f | .bpany f | .bpall f | .call f | .ret f | .jmpr f | .loop f | .lexit f |
    .spl f | .fil f | .mfs f | .mts f | .trap f | .trapSys f | .eret f | .chk f | .blend f | .bret f => some (.c,
    f.pack i.opcode)
  | .anop f | .ldq f | .ldqv f | .ldqg f | .ldqs f | .sts f | .stv f | .stvp f | .stg f | .ldf f | .ste f | .setf f |
    .sete f | .tstf f | .tld f | .tst f | .xlt f | .hdrop f | .hinfo f | .hst f | .hld f | .amoadd f | .amomin f |
    .amomax f | .amominn f | .amomaxn f | .amoand f | .amoor f | .amoxor f | .amoswp f | .amocas f | .amoincw f |
    .amobfa f | .amofadd f | .ldacq f | .strel f | .pacq f | .drn f | .barv f | .bwait f | .fladd f | .flset f |
    .flwait f => some (.a, f.pack i.opcode)
  | .vnop f | .vfadd f | .vfsub f | .vfmul f | .vfma f | .vfms f | .vfnma f | .vfmin f | .vfmax f | .vfabs f | .vfneg
    f | .vfcmp f | .vfspec f | .vfclass f | .viadd f | .visub f | .vimul f | .vimad f | .viand f | .vior f | .vixor f
    | .vishl f | .vishr f | .visar f | .vimin f | .vimax f | .vicmp f | .vcvt f | .vpack f | .vunpk f | .vscacc f |
    .vscal f | .vmov f | .vsel f | .vbcast f | .vins f | .vext f | .vperm f | .vrot f | .viota f | .vli f | .vrsum f |
    .vrmax f | .vrmin f | .pset f | .pand f | .por f | .pxor f | .pnot f | .pcnt f | .pfirst f | .hfwd f | .hinv f |
    .hthr f | .htagSet f | .htagRead f | .hcmp f | .splv f | .filv f | .vchk f => some (.v, f.pack i.opcode)
  | .mnop f | .fgrid f | .fload f | .fsel f | .fmx f | .fmxHaar f | .fmxd f | .fmxc f | .fgout f | .fknot f | .foog f
    | .fclrBuffer f | .fclrCounters f | .fclrGrid f | .fclrGrad f | .frdc f => some (.m, f.pack i.opcode)
  | .tnop f | .txi f | .txo f | .txc f => some (.t, (f.pack i.opcode).setWidth 64)
  | .xnop f | .copy f | .copy2d f | .copyt f | .waitany f | .waitall f | .ffrdy f | .tagclr f | .xdt f | .xds f | .xdq
    f | .launch f | .lwait f | .defer f | .defrun f | .pput f | .pget f | .grpbar f | .evwait f | .evsig f | .mflush f
    | .cntrd f => some (.x, f.pack i.opcode)
  | .pendingTrap _ _ | .functionLevelReset _ | .functionResetTimeout _ | .shootDownCommand _ _ _ _ _ |
    .addressSpaceDescriptorWrite _ _ | .keySlotDescriptorWrite _ _ | .keyPortWrite _ _ | .keySlotUnload _ |
    .bankStatusWrite _ _ | .retirementCommand _ _ | .collectiveChannelWrite _ _ | .functionLimitsWrite _ _ |
    .hostQueueGrantWrite _ _ | .flushCommand _ | .registerWrite _ _ _ | .qwcDoorbell _ _ | .qctlRst _ |
    .hostMemoryAccess _ _ _ | .linkFlitReceive _ _ | .linkPortFail _ | .collectivePacketReceive _ _ _ |
    .abortTokenStart _ | .abortTokenReceive _ _ _ | .serviceAnswer _ | .throttle _ | .clockRecoveryStep _ |
    .criticalTemperature _ | .tarnLinkTraining _ _ _ _ | .recordPrioChange _ _ _ | .errorNotConsumed _ | .bundleIssue
    | .operationStart | .resultLanding | .loadDataFill | .bankService | .accessPerform | .releasePerform |
    .waiterReady | .contextSwitch | .freezeWatchdogExpiry | .heldEntryCommit | .arrayPushRow | .floadBegin |
    .floadComplete | .codebookTableRead | .fgridSlotWrite | .txiRowWrite | .copyChunk | .copyComplete |
    .mflushComplete | .logPromotion | .l1WriteBack | .pacqRequestArrival | .pacqReply | .drnComplete |
    .heldServiceAnswer | .flagOperationArrival | .eventSignalArrival | .jobDispatch | .blockDecode | .chunkWrite |
    .jobComplete | .jobSuspend | .xdtComplete | .launchEnqueue | .launchSelection | .instanceBind | .preemption |
    .contextSave | .contextResume | .rebalanceCheck | .deferralBatchStart | .stageInstanceEnd | .launchComplete |
    .completionWordWrite | .launchWatchdogExpiry | .launchReplay | .shootDownAcknowledge | .pageWalk | .bankLineMove |
    .flushCommandComplete | .queueEntryConsume | .hostCompletionTimeout | .firmwareTrapResume | .firmwareTrapForward |
    .firmwareSwapGo | .firmwareSwapTimeout | .wellheadRestart | .coldReset | .warmReset | .hostCxlReset |
    .jobResumption => none

/-- The mirror bit of an operation (R61); 0 for the slots that have none. -/
def Instr.mir : Instr → BitVec 1
  | .cnop f | .endInst f | .add f | .sub f | .mul f | .mulh f | .mulhn f | .div f | .divn f | .rem f | .remn f | .and
    f | .or f | .xor f | .andn f | .shl f | .shr f | .sar f | .rol f | .min f | .max f | .minn f | .maxn f | .clz f |
    .ctz f | .popc f | .seq f | .slt f | .sltn f | .sel f | .li f | .lih f | .lea f | .popq f | .br f | .beq f | .bne
    f | .blt f | .bge f | .bltn f | .bgen f | .bpany f | .bpall f | .call f | .ret f | .jmpr f | .loop f | .lexit f |
    .spl f | .fil f | .mfs f | .mts f | .trap f | .trapSys f | .eret f | .chk f | .blend f | .bret f => f.mir
  | .anop f | .ldq f | .ldqv f | .ldqg f | .ldqs f | .sts f | .stv f | .stvp f | .stg f | .ldf f | .ste f | .setf f |
    .sete f | .tstf f | .tld f | .tst f | .xlt f | .hdrop f | .hinfo f | .hst f | .hld f | .amoadd f | .amomin f |
    .amomax f | .amominn f | .amomaxn f | .amoand f | .amoor f | .amoxor f | .amoswp f | .amocas f | .amoincw f |
    .amobfa f | .amofadd f | .ldacq f | .strel f | .pacq f | .drn f | .barv f | .bwait f | .fladd f | .flset f |
    .flwait f => f.mir
  | .vnop f | .vfadd f | .vfsub f | .vfmul f | .vfma f | .vfms f | .vfnma f | .vfmin f | .vfmax f | .vfabs f | .vfneg
    f | .vfcmp f | .vfspec f | .vfclass f | .viadd f | .visub f | .vimul f | .vimad f | .viand f | .vior f | .vixor f
    | .vishl f | .vishr f | .visar f | .vimin f | .vimax f | .vicmp f | .vcvt f | .vpack f | .vunpk f | .vscacc f |
    .vscal f | .vmov f | .vsel f | .vbcast f | .vins f | .vext f | .vperm f | .vrot f | .viota f | .vli f | .vrsum f |
    .vrmax f | .vrmin f | .pset f | .pand f | .por f | .pxor f | .pnot f | .pcnt f | .pfirst f | .hfwd f | .hinv f |
    .hthr f | .htagSet f | .htagRead f | .hcmp f | .splv f | .filv f | .vchk f => f.mir
  | _ => 0#1

/-- The start delay of an A, V, M or T operation (R56); 0 for C and X. -/
def Instr.sdly : Instr → Nat
  | .anop f | .ldq f | .ldqv f | .ldqg f | .ldqs f | .sts f | .stv f | .stvp f | .stg f | .ldf f | .ste f | .setf f |
    .sete f | .tstf f | .tld f | .tst f | .xlt f | .hdrop f | .hinfo f | .hst f | .hld f | .amoadd f | .amomin f |
    .amomax f | .amominn f | .amomaxn f | .amoand f | .amoor f | .amoxor f | .amoswp f | .amocas f | .amoincw f |
    .amobfa f | .amofadd f | .ldacq f | .strel f | .pacq f | .drn f | .barv f | .bwait f | .fladd f | .flset f |
    .flwait f => f.sdly.toNat
  | .vnop f | .vfadd f | .vfsub f | .vfmul f | .vfma f | .vfms f | .vfnma f | .vfmin f | .vfmax f | .vfabs f | .vfneg
    f | .vfcmp f | .vfspec f | .vfclass f | .viadd f | .visub f | .vimul f | .vimad f | .viand f | .vior f | .vixor f
    | .vishl f | .vishr f | .visar f | .vimin f | .vimax f | .vicmp f | .vcvt f | .vpack f | .vunpk f | .vscacc f |
    .vscal f | .vmov f | .vsel f | .vbcast f | .vins f | .vext f | .vperm f | .vrot f | .viota f | .vli f | .vrsum f |
    .vrmax f | .vrmin f | .pset f | .pand f | .por f | .pxor f | .pnot f | .pcnt f | .pfirst f | .hfwd f | .hinv f |
    .hthr f | .htagSet f | .htagRead f | .hcmp f | .splv f | .filv f | .vchk f => f.sdly.toNat
  | .mnop f | .fgrid f | .fload f | .fsel f | .fmx f | .fmxHaar f | .fmxd f | .fmxc f | .fgout f | .fknot f | .foog f
    | .fclrBuffer f | .fclrCounters f | .fclrGrid f | .fclrGrad f | .frdc f => f.sdly.toNat
  | .tnop f | .txi f | .txo f | .txc f => f.sdly.toNat
  | _ => 0

end Sys2Proof
end

