-- ==== Sys2Proof/Machine/Flags.lean ====
section
/-! DEFINITION. Domain tags (R218, R237) and full/empty bits (R91), which are this machine's flags. -/

namespace Sys2Proof.Machine

/-! ### Domain tags (R237) -/

/-- DOM = 1: the data is in the Haar domain. -/
def tagHaar (t : BitVec 32) : Bool := t.getLsbD 0
/-- Levels L. -/
def tagL (t : BitVec 32) : Nat := bits t.toNat 3 1
/-- Layout LAY. -/
def tagLay (t : BitVec 32) : Nat := bits t.toNat 4 4
/-- Element format. -/
def tagFmt (t : BitVec 32) : Nat := bits t.toNat 7 5
/-- EXACT. -/
def tagExact (t : BitVec 32) : Bool := t.getLsbD 8

/-- A tag from its fields. -/
def mkTag (haar : Bool) (l lay fmt : Nat) (exact : Bool) : BitVec 32 :=
  BitVec.ofNat 32 (b2n haar + 2 * (l % 8) + 16 * (lay % 2) + 32 * (fmt % 8) + 256 * b2n exact)

/-- PLAIN, a format, exact. -/
def plainTag (fmt : Nat) : BitVec 32 := mkTag false 0 0 fmt true

/-- The tag with another format. -/
def setFmt (t : BitVec 32) (fmt : Nat) : BitVec 32 := mkTag (tagHaar t) (tagL t) (tagLay t) fmt (tagExact t)

/-- The tag with EXACT cleared when `lost`. -/
def clearExact (t : BitVec 32) (lost : Bool) : BitVec 32 :=
  mkTag (tagHaar t) (tagL t) (tagLay t) (tagFmt t) (tagExact t && !lost)

/-- A malformed tag (R237). -/
def tagMalformed (t : BitVec 32) : Bool :=
  decide (t.toNat / 512 ≠ 0) || (!tagHaar t && (decide (tagL t ≠ 0) || decide (tagLay t ≠ 0)))
    || (tagHaar t && (decide (tagL t = 0) || decide (tagL t = 7)))

/-- A source of a V operation: the v-register it names, none for a popped entry, and its tag. -/
abbrev Src := Option Nat × BitVec 32

/-- Whether two HAAR sources agree in L and layout (R218). -/
def sameTree (a b : BitVec 32) : Bool := decide (tagL a = tagL b) && decide (tagLay a = tagLay b)

/-- The first offending source of a tree clash (R218): the first, in operand order, whose L or layout differs from the first HAAR
source's (DESIGN CHOICE, log 105); `first` is the first HAAR tag met. -/
def treeClash (first : Option (BitVec 32)) : List Src → Option Src
  | [] => none
  | (n, t) :: r =>
    if tagHaar t then
      match first with
      | none => treeClash (some t) r
      | some u => if sameTree u t then treeClash first r else some (n, t)
    else treeClash first r

/-- The first HAAR source. -/
def firstHaar (l : List Src) : Option Src := l.find? fun x => tagHaar x.2

/-- The result tag of the linear class (R218). -/
def linearTag (l : List Src) (fd : Nat) : BitVec 32 :=
  match firstHaar l with
  | none => plainTag fd
  | some (_, t) => mkTag true (tagL t) (tagLay t) fd ((l.filter fun x => tagHaar x.2).all fun x => tagExact x.2)

/-! ### Full/empty bits (R91): the words listed in `empt` are EMPTY, every other FULL -/

/-- Whether the word at an SRAM byte address is FULL. -/
def Core.full (k : Core) (addr : Nat) : Bool := !(k.empt.contains (addr / 4))

/-- The core with the word at an SRAM byte address set FULL or EMPTY. -/
def Core.setFull (k : Core) (addr : Nat) (full : Bool) : Core :=
  let rest := k.empt.filter (· ≠ addr / 4)
  { k with empt := if full then rest else addr / 4 :: rest }

end Sys2Proof.Machine
end

