-- ==== Sys2Proof/Machine/Operands.lean ====
section
/-! DEFINITION. Operand forms: effective fields (R54), the registers each operation reads and writes and when (R56, R59),
the checks 5 and 6 of R63, and reading a register of an operation that starts now. -/

namespace Sys2Proof.Machine

/-! ### Kinds of operation -/

/-- Start delay and the cycle an operation starts in when issued in cycle `c` (R56). -/
def startCycle (i : Instr) (c : Nat) : Nat := c + i.sdly

/-- The one-shot operations (R55). -/
def oneShot : Instr → Bool
  | .xlt _ | .hdrop _ | .hinfo _ | .ldacq _ | .strel _ | .pacq _ | .drn _ | .barv _ | .bwait _ | .fladd _ | .flset _
  | .flwait _ | .amoadd _ | .amomin _ | .amomax _ | .amominn _ | .amomaxn _ | .amoand _ | .amoor _ | .amoxor _
  | .amoswp _ | .amocas _ | .amoincw _ | .amobfa _ | .amofadd _ | .pset _ | .pfirst _ | .htagSet _ | .htagRead _
  | .vchk _ | .fgrid _ | .fsel _ | .fknot _ | .foog _ | .fclrBuffer _ | .fclrCounters _ | .fclrGrid _ | .fclrGrad _
  | .frdc _ => true
  | _ => false

/-- The operations whose bundle must have REP = 0 (R50). -/
def needsRep0 : Instr → Bool
  | .br _ | .beq _ | .bne _ | .blt _ | .bge _ | .bltn _ | .bgen _ | .bpany _ | .bpall _ | .call _ | .ret _ | .jmpr _
  | .loop _ | .lexit _ | .endInst _ | .trap _ | .trapSys _ | .eret _ => true
  | _ => false

/-- An explicit NOP, which starts nothing (R58). -/
def isNop : Instr → Bool
  | .cnop _ | .anop _ | .vnop _ | .mnop _ | .tnop _ | .xnop _ => true
  | _ => false

/-- The streaming operations of the array (R194). -/
def streaming : Instr → Bool
  | .fmx _ | .fmxHaar _ | .fmxd _ | .fmxc _ => true
  | _ => false

/-- The SLOT code of an operation (R64); 7 for an event. -/
def slotCode (i : Instr) : Nat := match i.slot? with | some s => s.code | none => 7

/-! ### Effective fields (R54) -/

/-- The effective offset of an A access: s[XS] + OFF, stepped by `size`, in 64 bits (R94). -/
def effOff (a : Arch) (f : ASlot) (size k : Nat) : Word :=
  a.sReg f.xs.toNat + sext f.off + BitVec.ofInt 64 (k * f.step.toInt * size)

/-- A stepped V register field, modulo 64. -/
def vField (f : VSlot) (x : BitVec 6) (k : Nat) : Nat := (x.toNat + k * f.step.toNat) % 64

/-- Which of VD, VA, VB and VC an operation uses as vector registers. -/
structure VUse where
  d : Bool := false
  a : Bool := false
  b : Bool := false
  c : Bool := false
  deriving DecidableEq, Repr

/-- The register class a V-slot CLS code names for SPLV and FILV (R232). -/
def spillClass (f : VSlot) : RegClass := match bits f.aux.toNat 11 10 with | 0 => .v | 1 => .sh | 2 => .th | _ => .p

/-- Byte offset and length of SPLV and FILV (R232). -/
def spillPlace (f : VSlot) : Nat × Nat :=
  (16 * bits f.aux.toNat 8 0, match spillClass f with | .v => 512 | .sh => 32 | _ => 16)

/-- The bytes of spill memory an operation reads: the first and their number (R81, R233, R317). -/
def spillRead (i : Instr) : Nat × Nat :=
  match i with
  | .fil f => (f.imm.toNat, widthBits f.w / 8)
  | .filv f => spillPlace f
  | .defrun f => (0x1800 + 4 * (f.imm.toNat % 128), 4)
  | _ => (0, 0)

/-- The vector register fields of each V operation (R219 to R233, R248). -/
def vUse : Instr → VUse
  | .vfadd _ | .vfsub _ | .vfmul _ | .vfmin _ | .vfmax _ | .viadd _ | .visub _ | .vimul _ | .viand _ | .vior _ | .vixor _
  | .vishl _ | .vishr _ | .visar _ | .vimin _ | .vimax _ | .vscal _ | .vsel _ | .vperm _ | .hfwd _ | .hinv _ =>
    { d := true, a := true, b := true }
  | .vfma _ | .vfms _ | .vfnma _ | .vimad _ | .vscacc _ => { d := true, a := true, b := true, c := true }
  | .vfabs _ | .vfneg _ | .vfspec _ | .vfclass _ | .vcvt _ | .vpack _ | .vunpk _ | .vmov _ | .vrot _ | .vrsum _ | .vrmax _
  | .vrmin _ | .hthr _ => { d := true, a := true }
  | .vfcmp _ | .vicmp _ | .vchk _ => { a := true, b := true }
  | .vbcast f => { d := true, a := !f.aux.getLsbD 7 }
  | .vins _ | .viota _ | .vli _ | .htagSet _ => { d := true }
  | .vext _ | .htagRead _ | .hcmp _ => { a := true }
  | .splv f => { a := decide (spillClass f = .v) }
  | .filv f => { d := decide (spillClass f = .v) }
  | _ => {}

/-- The V-slot fields of an operation. -/
def vSlot? : Instr → Option VSlot
  | .vfadd f | .vfsub f | .vfmul f | .vfma f | .vfms f | .vfnma f | .vfmin f | .vfmax f | .vfabs f | .vfneg f | .vfcmp f
  | .vfspec f | .vfclass f | .viadd f | .visub f | .vimul f | .vimad f | .viand f | .vior f | .vixor f | .vishl f
  | .vishr f | .visar f | .vimin f | .vimax f | .vicmp f | .vcvt f | .vpack f | .vunpk f | .vscacc f | .vscal f | .vmov f
  | .vsel f | .vbcast f | .vins f | .vext f | .vperm f | .vrot f | .viota f | .vli f | .vrsum f | .vrmax f | .vrmin f
  | .pset f | .pand f | .por f | .pxor f | .pnot f | .pcnt f | .pfirst f | .hfwd f | .hinv f | .hthr f | .htagSet f
  | .htagRead f | .hcmp f | .splv f | .filv f | .vchk f => some f
  | _ => none

/-- The vector registers a V operation names, as stepped: sources in field order. -/
def vSources (i : Instr) (f : VSlot) (k : Nat) : List Nat :=
  let u := vUse i
  (if u.a ∧ f.qa = 0#1 then [vField f f.va k] else []) ++ (if u.b then [vField f f.vb k] else [])
    ++ (if u.c then [vField f f.vc k] else [])

/-- Latency of a V operation (R234, R248). -/
def vLatency : Instr → Nat
  | .pset _ | .pand _ | .por _ | .pxor _ | .pnot _ | .filv _ | .htagSet _ | .htagRead _ => 1
  | .vrsum _ | .vrmax _ | .vrmin _ => 8
  | .vfspec _ => 12
  | _ => 4

/-! ### The function array's geometry (R195 to R199) -/

/-- A stationary buffer. -/
def ArrayState.buf (a : ArrayState) (b : BitVec 1) : Buffer := if b = 0#1 then a.b0 else a.b1

/-- Count N: 0 means 256 (R46). -/
def mCount (f : MSlot) : Nat := if f.n = 0 then 256 else f.n.toNat

/-- Registers that `n` rows of `brow` bytes take (reg_layout, R195). -/
def rowRegs (brow n : Nat) : Nat :=
  if brow > 512 then n * ((brow + 511) / 512)
  else if brow ≤ 128 then (n + 3) / 4 else if brow ≤ 256 then (n + 1) / 2 else n

/-- The last of `n` rows of `brow` bytes that register `i` of the layout holds. -/
def lastRow (brow n i : Nat) : Nat :=
  if brow > 512 then i / ((brow + 511) / 512)
  else min ((i + 1) * (if brow ≤ 128 then 4 else if brow ≤ 256 then 2 else 1)) n - 1

/-- Where row `k` of `brow` bytes lies: its first register and its byte in it (R195). -/
def rowPlace (brow k : Nat) : Nat × Nat :=
  if brow > 512 then (k * ((brow + 511) / 512), 0)
  else
    let p := if brow ≤ 128 then 128 else if brow ≤ 256 then 256 else 512
    (k / (512 / p), k % (512 / p) * p)

/-- Whether a format code is an 8-bit float. -/
def isFP8 (f : Nat) : Bool := f = 3 || f = 4

/-- Input length of a push through a buffer, for input format `iff` (R196); none for a combination it refuses. -/
def inputLen (d : BufDesc) (iff : Nat) : Option Nat :=
  match d with
  | .coef 0 cf 0 => if isFP8 cf then if isFP8 iff then some 256 else none else if iff < 5 then some 128 else none
  | .coef 0 _ spn =>
    if 1 ≤ iff ∧ iff < 5 then some (match spn with | 1 => 504 | 2 => 384 | 3 => 252 | _ => 192) else none
  | .coef _ _ _ => if iff < 5 then some 128 else none
  | _ => none

/-- Cycles between push rows (R197). -/
def rowCycles (d : BufDesc) (iff af : Nat) : Nat :=
  match d with
  | .coef 0 cf 0 => if isFP8 cf ∧ af = 0 then 2 else 1
  | .coef 0 cf spn => ((inputLen (.coef 0 cf spn) iff).getD 128 * fmtSize iff + 511) / 512
  | .coef 2 _ _ => 2
  | .coef 3 _ _ => 3
  | _ => 1

/-- Elements of a result row of FMXD: 256 through an FP8 LIN buffer (R201). -/
def backLen (d : BufDesc) : Nat := match d with | .coef 0 cf 0 => if isFP8 cf then 256 else 128 | _ => 128

/-- Registers an M operation reads (r) and writes (d) on one issue (R54, R199 to R203). -/
def mStep (i : Instr) (a : ArrayState) : Nat × Nat :=
  match i with
  | .fmx f =>
    let l := (inputLen (a.buf f.b).desc f.inf.toNat).getD 128
    (if f.src = 0#1 then rowRegs (l * fmtSize f.inf.toNat) (mCount f) else 0,
     rowRegs (128 * fmtSize f.af.toNat) (mCount f))
  | .fmxHaar f => (0, rowRegs (128 * fmtSize f.af.toNat) (mCount f))
  | .fmxd f =>
    (if f.src = 0#1 ∨ f.mode ≠ 0 then rowRegs (128 * fmtSize f.inf.toNat) (mCount f) else 0,
     rowRegs (backLen (a.buf f.b).desc * fmtSize f.af.toNat) (mCount f))
  | .fmxc f =>
    let l := (inputLen (a.buf f.b).desc f.inf.toNat).getD 128
    (if f.src = 0#1 then rowRegs (l * fmtSize f.inf.toNat) (mCount f) else 0,
     rowRegs (128 * fmtSize f.af.toNat) (mCount f))
  | .fgout f => (0, (mCount f))
  | .frdc f => (0, rowRegs 256 (mCount f))
  | .foog _ => (0, 1)
  | _ => (0, 0)

/-- Whether an M operation's destination is a v-register (VT, R199, R201, R205). -/
def mToV : Instr → Bool
  | .fmx f | .fmxHaar f | .fmxd f | .foog f => f.aux.getLsbD 3
  | _ => false

/-- The first destination register of an M operation, as stepped (R54). -/
def mDest (i : Instr) (f : MSlot) (k d : Nat) : Nat := (if mToV i then f.md.toNat % 64 else f.md.toNat) + k * d

/-- The registers an M operation writes. -/
def mDests (i : Instr) (f : MSlot) (k : Nat) (a : ArrayState) : List RegId :=
  let d := (mStep i a).2
  (List.range d).map fun j => ⟨if mToV i then .v else .m, mDest i f k d + j⟩

/-- L1 of R197. -/
def pushLatency (c : Nat) : Nat := 262 + 2 * c

/-- The cycles for which a streaming operation keeps the input port, N × c (R198). -/
def portCycles (i : Instr) (a : ArrayState) : Nat :=
  match i with
  | .fmx f | .fmxHaar f | .fmxd f | .fmxc f => (mCount f) * rowCycles (a.buf f.b).desc f.inf.toNat f.af.toNat
  | _ => 0

/-! ### Registers read, in field order from the lowest bit upward (R59, R64) -/

/-- A scalar read; s0 is never in flight (R66). -/
def rS {n : Nat} (x : BitVec n) : List RegId := if x = 0 then [] else [⟨.s, x.toNat⟩]

/-- `n` vector registers from `x`. -/
def rVs (x n : Nat) : List RegId := (List.range n).map fun j => ⟨.v, x + j⟩

/-- Levels field of a threshold register: S = 2^L positions (R240). -/
def thL (t : BitVec 128) : Nat := bits t.toNat 98 96

/-- The registers that hold an M operation's inputs from VS on. -/
def mInputs (f : MSlot) (r k : Nat) : List RegId := if f.q = 1#1 then [] else rVs (f.vs.toNat + k * r) r

/-- Registers an operation reads, its counter being `k`. -/
def readsOf (i : Instr) (k : Nat) (s : State) : List RegId :=
  let a := s.ctx.a
  match i with
  | .add f | .sub f | .mul f | .mulh f | .mulhn f | .div f | .divn f | .rem f | .remn f | .and f | .or f | .xor f | .andn f
  | .shl f | .shr f | .sar f | .rol f | .min f | .max f | .minn f | .maxn f | .seq f | .slt f | .sltn f | .lea f | .chk f
  | .beq f | .bne f | .blt f | .bge f | .bltn f | .bgen f | .lih f => rS f.sa ++ rS f.sb
  | .sel f => rS f.sa ++ rS f.sb ++ rS f.fn
  | .li f => rS f.sb
  | .clz f | .ctz f | .popc f | .ret f | .jmpr f | .loop f | .spl f | .mts f => rS f.sa
  | .bpany f | .bpall f => [⟨.p, f.sa.toNat⟩]
  | .eret _ => ((s.ctx.flight.filter (·.hm)).map (·.reg))
  | .ldq f | .ldqv f | .ldf f | .setf f | .sete f | .tstf f | .ldacq f => rS f.xs ++ [⟨.h, f.h.toNat⟩]
  | .hld f => rS f.xs ++ [⟨.h, f.h.toNat⟩, ⟨.th, f.off.toNat / 2 ^ 23 % 8⟩]
  | .ldqg f | .stv f => [⟨.v, f.dr.toNat⟩] ++ rS f.xs ++ [⟨.h, f.h.toNat⟩]
  | .stg f => [⟨.v, f.dr.toNat⟩, ⟨.v, f.dr.toNat + 1⟩] ++ rS f.xs ++ [⟨.h, f.h.toNat⟩]
  | .stvp f => [⟨.v, f.dr.toNat⟩, ⟨.p, f.xs.toNat % 8⟩, ⟨.h, f.h.toNat⟩]
  | .ldqs f | .sts f | .ste f | .strel f | .barv f | .bwait f | .amoadd f | .amomin f | .amomax f | .amominn f
  | .amomaxn f | .amoand f | .amoor f | .amoxor f | .amoswp f | .amoincw f | .amofadd f =>
    rS f.dr ++ rS f.xs ++ [⟨.h, f.h.toNat⟩]
  | .amocas f | .amobfa f => rS f.dr ++ rS (f.dr + 1#6) ++ rS f.xs ++ [⟨.h, f.h.toNat⟩]
  | .pacq f => rS (f.dr.extractLsb' 0 5) ++ rS f.xs ++ [⟨.h, f.h.toNat⟩]
  | .fladd f | .flset f => rS f.dr ++ rS f.xs
  | .flwait f => rS f.dr
  | .tld f | .tst f =>
    let n := f.off.toNat / 2 ^ 23 % 8
    let rank := bits (a.sh.get n 0).toNat 37 35
    (match i with | .tst _ => [⟨.v, f.dr.toNat⟩] | _ => [])
      ++ (if f.xs = 0 then [] else (List.range rank).map fun j => ⟨.s, f.xs.toNat + j⟩)
      ++ [⟨.h, f.h.toNat⟩, ⟨.sh, n⟩]
  | .xlt f => rS f.xs
  | .hinfo f => [⟨.h, f.h.toNat⟩]
  | .hst f =>
    let n := f.off.toNat / 2 ^ 23 % 8
    rVs f.dr.toNat (2 ^ thL (a.th.get n 0)) ++ rS f.xs ++ [⟨.h, f.h.toNat⟩, ⟨.th, n⟩]
  | .fgrid f | .fload f | .fmxHaar f => rS f.sa ++ rS f.sb
  | .fsel f => mInputs f 1 0
  | .fmx f => if f.src = 1#1 then rS f.sa ++ rS f.sb else mInputs f (mStep i s.core.arr).1 k
  | .fmxd f =>
    if f.mode = 0 then if f.src = 1#1 then rS f.sa ++ rS f.sb else mInputs f (mStep i s.core.arr).1 k
    else rS f.sa ++ rS f.sb ++ mInputs f (mStep i s.core.arr).1 k
  | .fmxc f =>
    let (r, d) := mStep i s.core.arr
    ((List.range d).map fun j => ⟨.m, f.md.toNat + k * d + j⟩)
      ++ (if f.src = 1#1 then rS f.sa ++ rS f.sb else mInputs f r k)
  | .fgout f | .fknot f | .frdc f => rS f.sa
  | .txi f => [⟨.v, (f.v.toNat + k * f.step.toNat) % 64⟩]
  | .copy f => rS f.sa ++ rS f.sb ++ rS f.scc ++ [⟨.h, f.h.toNat⟩, ⟨.h, f.h2.toNat⟩]
  | .copy2d f | .copyt f =>
    rS f.sa ++ rS f.sb ++ rS f.scc ++ [⟨.h, f.h.toNat⟩, ⟨.h, f.h2.toNat⟩] ++ rS (f.imm.extractLsb' 3 5)
  | .xds f => rS f.sa ++ rS f.sb ++ rS f.scc ++ [⟨.h, f.h.toNat⟩, ⟨.h, f.h2.toNat⟩]
  | .waitany f | .waitall f | .tagclr f | .pput f | .grpbar f | .evwait f => rS f.sa
  | .ffrdy f | .evsig f => rS f.sa ++ rS f.sb
  | .mflush f => rS f.sa ++ rS f.sb ++ [⟨.h, f.h.toNat⟩]
  | .xdt f | .launch f | .lwait f => rS f.sa ++ [⟨.h, f.h.toNat⟩]
  | .defer f =>
    rS f.sa ++ rVs (f.imm.toNat % 64) (bits f.imm.toNat 7 6 + 1) ++ [⟨.p, bits f.imm.toNat 10 8⟩]
  | .splv f =>
    match spillClass f with
    | .v => [⟨.v, vField f f.va k⟩]
    | c => [⟨c, f.va.toNat % 8⟩]
  | .filv _ | .htagSet _ => []
  | .htagRead f => [⟨.v, vField f f.va k⟩]
  | .vbcast f =>
    (if f.aux.getLsbD 7 then rS (f.va.extractLsb' 0 5) else (vSources i f k).map (⟨.v, ·⟩)) ++ [⟨.p, f.p.toNat⟩]
  | .vins f => rS (f.va.extractLsb' 0 5) ++ [⟨.p, f.p.toNat⟩]
  | .pset f => (if f.aux.getLsbD 8 then rS (f.va.extractLsb' 0 5) else []) ++ [⟨.p, f.p.toNat⟩]
  | .pand f | .por f | .pxor f => [⟨.p, f.va.toNat⟩, ⟨.p, f.vb.toNat⟩, ⟨.p, f.p.toNat⟩]
  | .pnot f | .pcnt f | .pfirst f => [⟨.p, f.va.toNat⟩, ⟨.p, f.p.toNat⟩]
  | .vsel f => (vSources i f k).map (⟨.v, ·⟩) ++ [⟨.p, f.vc.toNat⟩, ⟨.p, f.p.toNat⟩]
  | .hthr f => (vSources i f k).map (⟨.v, ·⟩) ++ [⟨.th, f.vb.toNat % 8⟩, ⟨.p, f.p.toNat⟩]
  | .vext f | .vchk f => (vSources i f k).map (⟨.v, ·⟩)
  | i =>
    match vSlot? i with
    | some f => (vSources i f k).map (⟨.v, ·⟩) ++ [⟨.p, f.p.toNat⟩]
    | none => []

/-! ### Registers written by an operation still to start, with latencies from its start (R59) -/

/-- The result registers of an A, V, M or T operation and their latencies; the first that collides is the one that TRAPINFO names: of
XLT the handle (R64; DESIGN CHOICE, log 48). -/
def destsOf (i : Instr) (k : Nat) (s : State) : List (RegId × Nat) :=
  match i with
  | .xlt f => [(⟨.h, f.h.toNat⟩, 8)] ++ (rS f.dr).map (·, 8)
  | .hinfo f => (rS f.dr).map (·, 2)
  | .hld f =>
    let n := 2 ^ thL (s.ctx.a.th.get (f.off.toNat / 2 ^ 23 % 8) 0)
    (List.range n).map fun j => (⟨.v, f.dr.toNat + j⟩, 8 + j)
  | .fmx f | .fmxHaar f =>
    let c := rowCycles (s.core.arr.buf f.b).desc f.inf.toNat f.af.toNat
    let brow := 128 * fmtSize f.af.toNat
    (mDests i f k s.core.arr).zipIdx.map fun (r, j) => (r, pushLatency c + lastRow brow (mCount f) j * c)
  | .fmxd f =>
    let c := rowCycles (s.core.arr.buf f.b).desc f.inf.toNat f.af.toNat
    let brow := backLen (s.core.arr.buf f.b).desc * fmtSize f.af.toNat
    (mDests i f k s.core.arr).zipIdx.map fun (r, j) => (r, pushLatency c + lastRow brow (mCount f) j * c)
  | .fgout f => (mDests i f k s.core.arr).zipIdx.map fun (r, j) => (r, 8 + j)
  | .frdc f => (mDests i f k s.core.arr).zipIdx.map fun (r, j) => (r, 8 + lastRow 256 (mCount f) j)
  | .foog f => (mDests i f k s.core.arr).map (·, 4)
  | .txo f => [(⟨.v, (f.v.toNat + k * f.step.toNat) % 64⟩, 4)]
  | .vfcmp f | .vicmp f => [(⟨.p, f.vd.toNat % 8⟩, 4)]
  | .pset f | .pand f | .por f | .pxor f | .pnot f => [(⟨.p, f.vd.toNat % 8⟩, 1)]
  | .pcnt f | .pfirst f | .hcmp f => (rS f.vd).map (·, 4)
  | .htagRead f => (rS f.vd).map (·, 1)
  | .vext f =>
    match bits f.aux.toNat 11 10 with
    | 0 => (rS f.vd).map (·, 4)
    | 1 => [(⟨.sh, f.vd.toNat % 8⟩, 4)]
    | _ => [(⟨.th, f.vd.toNat % 8⟩, 4)]
  | .filv f =>
    match spillClass f with
    | .v => [(⟨.v, vField f f.vd k⟩, 1)]
    | c => [(⟨c, f.vd.toNat % 8⟩, 1)]
  | i =>
    match vSlot? i with
    | some f => if (vUse i).d then [(⟨.v, vField f f.vd k⟩, vLatency i)] else []
    | none => []

/-- Whether a write to `r` by an operation of the context in focus, issued before, is still in flight in cycle `t`: it
lands later (R59). -/
def inFlightAt (s : State) (t : Nat) (r : RegId) : Bool :=
  s.ctx.flight.any (fun l => decide (l.reg = r) && decide (t < l.due))
    || s.ctx.starts.any fun e => (destsOf e.op e.k s).any fun d => decide (d.1 = r) && decide (t < e.due + d.2)

/-- Whether a write to `r` by another issue than the one in focus is in flight now (R59): one made before it, or one made since, where
SDLY delays the read. The writes of the read's own issue do not count, with or without the check (DEDUCED, log 15). -/
def inFlightNow (s : State) (r : RegId) : Bool :=
  let other (ord : Nat) : Bool := decide (ord / 8 ≠ s.foc.ord / 8)
  s.ctx.flight.any (fun l => decide (l.reg = r) && decide (s.cyc < l.due) && other l.ord)
    || s.ctx.starts.any fun e => other e.ord
        && (destsOf e.op e.k s).any fun d => decide (d.1 = r) && decide (s.cyc < e.due + d.2)

/-- A read without a check, of a register in flight, is unpredictable (R59). -/
def State.unsure (s : State) (r : RegId) : Bool := !s.ctx.a.check && inFlightNow s r

/-- A number for the free value of a register in this operation. -/
def freeKey (s : State) (r : RegId) : Nat := 2 * ((s.nfree * 8 + r.cls.code) * 128 + r.n) + 1

/-- The registers an operation of the context in focus reads when it starts now. -/
def rdS (s : State) (n : Nat) : Word :=
  if n ≠ 0 ∧ s.unsure ⟨.s, n⟩ then Config.freeWord (freeKey s ⟨.s, n⟩) else s.ctx.a.sReg n
def rdP (s : State) (n : Nat) : Pred :=
  if n ≠ 0 ∧ s.unsure ⟨.p, n⟩ then (Config.freeVec (freeKey s ⟨.p, n⟩)).truncate 128 else s.ctx.a.pReg n
def rdV (s : State) (n : Nat) : VReg :=
  if s.unsure ⟨.v, n⟩ then
    { bits := Config.freeVec (freeKey s ⟨.v, n⟩), tag := toTag (Config.freeTag (freeKey s ⟨.v, n⟩)) }
  else s.ctx.a.vReg n
def rdM (s : State) (n : Nat) : VReg :=
  if s.unsure ⟨.m, n⟩ then
    { bits := Config.freeVec (freeKey s ⟨.m, n⟩), tag := toTag (Config.freeTag (freeKey s ⟨.m, n⟩)) }
  else s.ctx.a.mReg n
def rdSh (s : State) (n : Nat) : BitVec 256 :=
  if s.unsure ⟨.sh, n⟩ then (Config.freeVec (freeKey s ⟨.sh, n⟩)).truncate 256 &&& shapeMask else s.ctx.a.sh.get n 0
def rdTh (s : State) (n : Nat) : BitVec 128 :=
  if s.unsure ⟨.th, n⟩ then (Config.freeVec (freeKey s ⟨.th, n⟩)).truncate 128 else s.ctx.a.th.get n 0
/-- An unpredictable translation (R126) is one that the context could read: any of its own handles, or an empty one (R3). -/
def rdH (s : State) (n : Nat) : Handle :=
  if s.unsure ⟨.h, n⟩ then s.ctx.freeHandle (freeKey s ⟨.h, n⟩) else s.ctx.a.h.get n {}

/-- Whether source B is the immediate, and its value (R65). -/
def operandB (s : State) (f : CSlot) : Word := if f.i = 1#1 then sext f.imm else rdS s f.sb.toNat

/-! ### Check 5 of R63: operands -/

/-- What check 5 finds: the cause, and the register concerned. -/
structure Ill where
  cause : Nat := 6
  cls   : Nat := 0
  reg   : Nat := 0
  deriving DecidableEq, Repr

/-- 0x06 when `b`. -/
def ill (b : Bool) : Option Ill := if b then some {} else none

/-- The first of several findings. -/
def firstIll : List (Option Ill) → Option Ill
  | [] => none
  | none :: r => firstIll r
  | some x :: _ => some x

/-- Whether a v-register lies in a bank lent to the M slot (R212). -/
def Arch.isLent (a : Arch) (n : Nat) : Bool := a.lent.getLsbD (n / 16)

/-- 0x06 naming the first of some v-registers that is lent. -/
def illLent (a : Arch) (l : List Nat) : Option Ill :=
  (l.find? fun n => a.isLent n).map fun n => { cls := 1, reg := n }

/-- 0x06 that concerns register `reg` of a class, when `b` (R64). -/
def illReg (b : Bool) (cls : RegClass) (reg : Nat) : Option Ill := if b then some { cls := cls.code, reg := reg } else none

/-- 0x06 when DR names no scalar (R109). -/
def illScalarDR (f : ASlot) : Option Ill := illReg (decide (32 ≤ f.dr.toNat)) .s f.dr.toNat

/-- 0x06 for a handle that an operation may not name. -/
def illHandle (b : Bool) (f : ASlot) : Option Ill := illReg b .h f.h.toNat

/-- The slot plan's layers that own a vertical-bus slot: the plan of a launch bound in the core's column (R98). -/
def ownsBusSlot (s : State) : Bool :=
  match s.launch? with
  | none => true
  | some l => (List.range 8).any fun i => bits l.rc.slots (2 * i + 1) (2 * i) = coreLayer s.foc.core

/-- 0x06 for an access through h2 from a layer without a slot (R97). -/
def illBus (s : State) (f : ASlot) : Option Ill := illHandle (f.h = 2#4 && !ownsBusSlot s) f

/-- The floating-point formats, the integer formats and all of them (R217). -/
def inFloat (x : BitVec 3) : Bool := decide (x.toNat < 5)
def inInt (x : BitVec 3) : Bool := decide (5 ≤ x.toNat)

/-- Formats a V operation refuses (R217, R248). -/
def illFormats : Instr → Bool
  | .vfadd f | .vfsub f | .vfmul f | .vfma f | .vfms f | .vfnma f | .vfmin f | .vfmax f | .vfabs f | .vfneg f | .vfspec f
  | .vscal f | .vscacc f | .hfwd f | .hinv f => !(inFloat f.fa && inFloat f.fd)
  | .hthr f => !(inFloat f.fa) || decide (f.fd ≠ f.fa)
  | .vfcmp f => !inFloat f.fa
  | .vfclass f => !inFloat f.fa || decide (f.fd ≠ 5#3)
  | .viadd f | .visub f | .vimul f | .vimad f | .viand f | .vior f | .vixor f | .vishl f | .vishr f | .visar f | .vimin f
  | .vimax f => !inInt f.fa || decide (f.fd ≠ f.fa)
  | .vicmp f => !inInt f.fa
  | .viota f => decide (f.fd ≠ 5#3)
  | .vrsum f | .vrmax f | .vrmin f =>
    if f.aux.getLsbD 8 then !inInt f.fa || decide (f.fd ≠ 5#3) else !(inFloat f.fa && inFloat f.fd)
  | _ => false

/-- A predicate destination that may not be p0. -/
def illP0 (i : Instr) : Option Ill :=
  match i with
  | .vfcmp f | .vicmp f | .pset f | .pand f | .por f | .pxor f | .pnot f => illReg (decide (f.vd = 0)) .p 0
  | .filv f => illReg (decide (spillClass f = .p) && decide (f.vd.toNat % 8 = 0)) .p 0
  | _ => none

/-- What check 5 refuses in a V operation besides formats, p0 and lent banks. -/
def illV (i : Instr) : Bool :=
  match i with
  | .pset f => !f.aux.getLsbD 8 && decide (bits f.aux.toNat 7 0 > 128)
  | .vpack f => decide (fmtSize f.fd.toNat * (bits f.aux.toNat 1 0 + 1) > 4)
  | .vunpk f => decide (fmtSize f.fa.toNat * (bits f.aux.toNat 1 0 + 1) > 4)
  | .vext f =>
    match bits f.aux.toNat 11 10 with
    | 1 => decide (bits f.aux.toNat 6 0 > 15)
    | 2 => decide (bits f.aux.toNat 6 0 > 31)
    | _ => false
  | .splv f | .filv f =>
    let off := bits f.aux.toNat 8 0
    let (align, len) := match spillClass f with | .v => (32, 512) | .sh => (2, 32) | _ => (1, 16)
    decide (off % align ≠ 0) || decide (16 * off + len > 8192)
  | .hthr f => decide (bits f.aux.toNat 2 0 = 0) || decide (bits f.aux.toNat 2 0 = 7)
  | .htagSet f => tagMalformed (f.aux.zeroExtend 32 &&& 0x1FF#32)
  | _ => false

/-- The v-registers a V operation names, destination first. -/
def vNames (i : Instr) (k : Nat) : List Nat :=
  match vSlot? i with
  | none => []
  | some f => (if (vUse i).d then [vField f f.vd k] else []) ++ vSources i f k

/-- 0x06 for the destination registers of an M operation outside the banks it may reach (R199, R210). DEDUCED (log 51):
an effective MD that steps into a bank that is not lent traps whatever CHECK is (R54, R212), where R273 says of its
bundle with CHECK = 0 only that the collision it speaks of raises no trap. -/
def illDests (s : State) (l : List RegId) : Option Ill :=
  let a := s.ctx.a
  let bad (r : RegId) : Bool :=
    match r.cls with
    | .v => decide (r.n > 63) || a.isLent r.n
        || decide (r.n / 16 ≥ s.core.nvb.get s.foc.ctx 4)
    | _ => decide (r.n > 95) || (decide (32 ≤ r.n) && !a.isLent (r.n - 32))
        || (decide (r.n < 32) && decide (r.n / 16 ≥ s.core.nmb.get s.foc.ctx 2))
  (l.find? bad).map fun r => { cls := r.cls.code, reg := r.n }

/-- 0x06 for the source registers of an M operation. -/
def illMSources (a : Arch) (l : List RegId) : Option Ill :=
  (l.find? fun r => decide (r.cls = .v) && (decide (r.n > 63) || a.isLent r.n)).map fun r =>
    { cls := 1, reg := r.n }

/-- Checks of an M operation's encoded operands. -/
def illM (i : Instr) (k : Nat) (s : State) : Option Ill :=
  let ar := s.core.arr
  match i with
  | .fgrid f => ill (f.src = 0#1)
  | .fload f =>
    let cf := f.inf.toNat
    let fr := 64 * bits f.aux.toNat 0 0 + f.vs.toNat
    ill (decide (f.src = 0#1) || decide (cf = 0) || decide (cf ≥ 5) || (decide (f.cbf ≠ 0) && decide (cf ≠ 1))
      || (decide (f.spn ≠ 0) && (decide (f.mode ≠ 0) || isFP8 cf)) || decide (fr + (mCount f) > 128))
  | .fsel f => firstIll [ill (f.src = 1#1 || (f.q = 1#1 && decide (f.vs ≠ 0))), illMSources s.ctx.a (readsOf i k s)]
  | .fmx f =>
    firstIll [illReg (mToV i && f.md.getLsbD 6) .v f.md.toNat, ill (f.src = 0#1 && f.q = 1#1 && decide (f.vs ≠ 0)),
      ill (!inFloat f.inf), illDests s (mDests i f k ar), illMSources s.ctx.a (readsOf i k s)]
  | .fmxHaar f =>
    firstIll [illReg (mToV i && f.md.getLsbD 6) .v f.md.toNat, ill (decide (f.mode ≠ 0) || decide (f.spn ≠ 0) || f.src = 0#1),
      ill (!inFloat f.inf), illDests s (mDests i f k ar)]
  | .fmxd f =>
    firstIll [illReg (mToV i && f.md.getLsbD 6) .v f.md.toNat, ill ((f.src = 0#1 || decide (f.mode ≠ 0)) && f.q = 1#1 && decide (f.vs ≠ 0)),
      ill (decide (f.inf.toNat > 2)), ill (decide (f.spn ≠ 0)),
      ill (decide (f.mode ≠ 0) && (decide (bits f.aux.toNat 2 0 ≥ 5) || f.src = 1#1)),
      illDests s (mDests i f k ar), illMSources s.ctx.a (readsOf i k s)]
  | .fmxc f =>
    firstIll [ill (f.src = 0#1 && f.q = 1#1 && decide (f.vs ≠ 0)), ill (!inFloat f.inf),
      illDests s ((readsOf i k s).filter fun r => decide (r.cls = .m)), illMSources s.ctx.a (readsOf i k s)]
  | .fgout f | .frdc f => illDests s (mDests i f k ar)
  | .foog f => firstIll [illReg (mToV i && f.md.getLsbD 6) .v f.md.toNat, illDests s (mDests i f k ar)]
  | .fclrBuffer f => ill (decide (f.aux ≠ 0))
  | _ => none

/-- Check 5 of R63 for an operation with its counter `k`. JMPR's IMM[1:0] is not checked: the target that it forms is, at its fetch
(R72, R74; DESIGN CHOICE, log 102). -/
def operandCheck (i : Instr) (k : Nat) (s : State) : Option Ill :=
  let a := s.ctx.a
  match i with
  | .popq _ => ill a.queue.isEmpty
  | .br f | .beq f | .bne f | .blt f | .bge f | .bltn f | .bgen f | .bpany f | .bpall f | .call f =>
    ill (decide (f.imm.toNat % 4 ≠ 0))
  | .loop f =>
    let n := (rdS s f.sa.toNat).toNat
    let start := (a.pc + BitVec.ofNat 64 s.ctx.blen).toNat
    let e := (a.pc + sext f.imm).toNat
    firstIll [ill (decide (f.imm.toNat % 4 ≠ 0)),
      illReg (decide (n > 2 ^ 32 - 1)) .s f.sa.toNat,
      ill (decide (e < start) || decide (e - start ≥ 2 ^ 23)),
      if f.fn.getLsbD 0 then
        illReg (a.lp0.act && !(decide (a.lp0.start.toNat ≤ start) && decide (e ≤ a.lp0.start.toNat + a.lp0.len.toNat))) .lp 0
      else illReg a.lp1.act .lp 1]
  | .lexit f => if f.fn.getLsbD 0 then illReg (!a.lp1.act) .lp 1 else illReg (!a.lp0.act) .lp 0
  | .spl f | .fil f =>
    let w := widthBits f.w / 8
    ill (decide (f.imm.toNat % w ≠ 0) || decide (f.imm.toNat + w > 8192))
  | .mfs f | .mts f =>
    ill (!([0x0, 0x1, 0x8, 0x9, 0xA, 0xB, 0xC, 0xD, 0x10, 0x11, 0x12, 0x13, 0x18, 0x19, 0x1A, 0x20, 0x21, 0x22].contains
      (f.imm.toNat % 65536)))
  | .blend f =>
    let b := f.fn.toNat % 4
    ill (decide (b ≥ s.core.nvb.get s.foc.ctx 4) || a.lent.getLsbD b)
  | .bret f =>
    let b := f.fn.toNat % 4
    ill (decide (b ≥ s.core.nvb.get s.foc.ctx 4) || !a.lent.getLsbD b)
  | .ldq f | .ldqv f | .ldacq f => illBus s f
  | .ldqg f => firstIll [ill (f.w = 3#2), illLent a [f.dr.toNat], illBus s f]
  | .ldqs f => firstIll [illScalarDR f, ill (f.w = 3#2), illBus s f]
  | .sts f | .strel f => firstIll [illScalarDR f, illBus s f]
  | .stv f | .tst f => firstIll [illLent a [f.dr.toNat], illBus s f]
  | .tld f => illBus s f
  | .stvp f => firstIll [illReg (decide (f.xs.toNat ≥ 8)) .p f.xs.toNat, illLent a [f.dr.toNat], illBus s f]
  | .stg f =>
    firstIll [ill (f.w = 3#2), illReg (decide (f.dr = 63#6)) .v 64, illLent a [f.dr.toNat, f.dr.toNat + 1], illBus s f]
  | .ldf f | .setf f | .sete f | .tstf f =>
    firstIll [illHandle (decide (f.h.toNat ≥ 3)) f, ill (decide (f.sdly ≠ 0)), illBus s f]
  | .ste f => firstIll [illScalarDR f, illHandle (decide (f.h.toNat ≥ 3)) f, ill (decide (f.sdly ≠ 0)), illBus s f]
  | .xlt f => firstIll [illScalarDR f, illHandle (decide (f.h.toNat < 3)) f]
  | .hdrop f => illHandle (decide (f.h.toNat < 3)) f
  | .hinfo f => illScalarDR f
  | .hst f => illBus s f
  | .hld _ => none
  | .amoadd f | .amomin f | .amomax f | .amominn f | .amomaxn f | .amoand f | .amoor f | .amoxor f | .amoswp f
  | .amoincw f =>
    firstIll [illReg (decide (f.dr = 0) || decide (f.dr.toNat ≥ 32)) .s f.dr.toNat, ill (decide (f.w.toNat < 2)), illBus s f]
  | .amofadd f =>
    firstIll [illReg (decide (f.dr = 0) || decide (f.dr.toNat ≥ 32)) .s f.dr.toNat, ill (decide (f.w ≠ 2#2)), illBus s f]
  | .amocas f | .amobfa f =>
    firstIll [illReg (decide (f.dr = 0) || decide (f.dr.toNat ≥ 32)) .s f.dr.toNat, illReg (decide (f.dr.toNat = 31)) .s 32,
      ill (decide (f.w.toNat < 2)), illBus s f]
  | .pacq f => firstIll [ill (decide (f.sc.toNat < 5) || decide (f.w.toNat < 2)), illBus s f]
  | .drn f =>
    let o := f.off.toNat
    ill (decide (bits o 25 16 ≠ 0) || decide (bits o 7 0 = 0) || decide (bits o 15 8 = 0))
  | .barv f | .bwait f =>
    firstIll [illScalarDR f, illHandle (decide (f.h.toNat ≥ 3)) f, ill (decide (f.sdly ≠ 0) || decide (f.step ≠ 0)), illBus s f]
  | .fladd f => illScalarDR f
  | .flset f => illScalarDR f
  | .flwait f => firstIll [illScalarDR f, ill (decide (f.sdly ≠ 0) || decide (bits f.off.toNat 7 6 = 3))]
  | .txi f | .txo f => illLent a [(f.v.toNat + k * f.step.toNat) % 64]
  | .ffrdy f => illReg (decide (f.h.toNat ≥ 3)) .h f.h.toNat
  | .cntrd f => ill (decide (f.imm.toNat % 32 > 5))
  | .defer f =>
    let vs := f.imm.toNat % 64
    let nv := bits f.imm.toNat 7 6 + 1
    firstIll [illReg (decide (vs + nv - 1 > 63)) .v 64, illLent a ((List.range nv).map (vs + ·))]
  | i =>
    if i.slot? = some .v then firstIll [illP0 i, ill (illFormats i || illV i), illLent a (vNames i k)]
    else illM i k s

/-! ### Check 6 of R63: the scoreboard (R58, R59, R198) -/

/-- Whether an operation starting in cycle `t` collides with one of its slot issued before (R58), or a streaming
operation would share the input port with one of its own context (R198). -/
def collides (i : Instr) (t : Nat) (s : State) (e : Start) : Bool :=
  decide (slotCode e.op = slotCode i)
    && (decide (e.due = t)
      || (streaming i && streaming e.op && decide (t < e.due + portCycles e.op s.core.arr)
        && decide (e.due < t + portCycles i s.core.arr)))

/-- Whether the port is busy in cycle `t` with a push of the context in focus that has started (R198). -/
def portBusyOwn (i : Instr) (t : Nat) (s : State) : Bool :=
  streaming i && decide ((s.core.arr.port.map (·.ctx)) = some s.foc.ctx) && decide (t < s.core.arr.portTo)

/-- Check 6 for an operation issued now: the register that TRAPINFO names (R64), if the check fails. -/
def scoreCheck (i : Instr) (k : Nat) (s : State) : Option (Nat × Nat) :=
  let t := startCycle i s.cyc
  match (readsOf i k s).find? (inFlightAt s t) with
  | some r => some (r.cls.code, r.n)
  | none =>
    if (i.slot? ≠ some .c ∧ i.slot? ≠ some .x) ∧ (s.ctx.starts.any (collides i t s) ∨ portBusyOwn i t s) then
      match destsOf i k s with
      | [] => some (0, 0)
      | (r, _) :: _ => some (r.cls.code, r.n)
    else
      match i with
      | .eret _ =>
        (s.ctx.starts.find? (·.hm)).map fun e =>
          match destsOf e.op e.k s with
          | [] => (0, 0)
          | (r, _) :: _ => (r.cls.code, r.n)
      | _ => none

/-- The lend hazard of BLEND and BRET (R213): "the first such register" is the lowest-numbered one (DESIGN CHOICE, log 104). -/
def lendHazard (i : Instr) (s : State) : Option Ill :=
  let c := s.ctx
  match i with
  | .blend f =>
    let inBank (n : Nat) : Bool := decide (n / 16 = f.fn.toNat % 4)
    let regs := (c.flight.filter fun l => decide (l.reg.cls = .v) && inBank l.reg.n).map (·.reg.n)
      ++ c.starts.flatMap fun e =>
        let names : List Nat := match e.op with
          | .txi f | .txo f => [(f.v.toNat + e.k * f.step.toNat) % 64]
          | op => vNames op e.k ++ ((destsOf op e.k s).filter fun d => decide (d.1.cls = .v)).map fun d => d.1.n
        names.filter inBank
    (regs.foldl (fun m n => match m with | none => some n | some x => some (min x n)) none).map fun n =>
      { cause := 5, cls := 1, reg := n }
  | .bret f =>
    let inBank (r : RegId) : Bool := decide (r.cls = .m) && decide (32 ≤ r.n) && decide ((r.n - 32) / 16 = f.fn.toNat % 4)
    let regs := ((c.flight.map (·.reg)).filter inBank).map (·.n)
      ++ c.starts.flatMap fun e => ((((destsOf e.op e.k s).map Prod.fst) ++ readsOf e.op e.k s).filter inBank).map RegId.n
    (regs.foldl (fun m n => match m with | none => some n | some x => some (min x n)) none).map fun n =>
      { cause := 5, cls := 2, reg := n }
  | _ => none

end Sys2Proof.Machine
end

