-- ==== Sys2Proof/Machine/Memory.lean ====
section
/-! DEFINITION. The memory hierarchy: scratchpad regions (R86 to R94), HBM under keys with the Mere and the L2 above it
(R99 to R103, R336 to R341), the L1 (R89), shadow versions (R168, R371), page tables and TLBs (R324 to R329). -/

namespace Sys2Proof.Machine

/-! ### Scratchpad regions -/

/-- The region of a launch on a core. -/
def Core.region? (k : Core) (launch : Nat) : Option Region := k.regions.find? fun r => r.launch = launch

/-- Bytes of SRAM that regions take. -/
def Core.regionBytes (k : Core) : Nat := (k.regions.map Region.size).sum

/-- Whether a core has an L1: some logical bank in service belongs to no region (R89). -/
def Core.hasL1 (k : Core) : Bool := decide (k.regionBytes < k.spLog * 131072)

/-- The core a fixed handle's offset addresses and the local offset there (R93). -/
def windowOf (core h off : Nat) : Nat × Nat :=
  match h with
  | 0 => (core, off)
  | 1 => (core / 8 * 8 + bits off 24 22, bits off 21 0)
  | _ => (core / 128 * 128 + bits off 23 22 * 32 + core % 32, bits off 21 0)

/-- Extent of a handle: the region size, 32 MiB, 16 MiB (R93), or its page (R94). -/
def pageBytes (psz : Nat) : Nat := match psz with | 0 => 65536 | 1 => 2097152 | _ => 1073741824

/-- Where the `n` bytes at offset `off` of h0, h1 or h2 lie for a launch: the core and the SRAM address; none when a
byte is outside the extent (R94). -/
def spPlace (s : State) (core launch h off n : Nat) : Option (Nat × Nat) :=
  let extent := match h with | 0 => 2 ^ 63 | 1 => 33554432 | _ => 16777216
  if off + n > extent then none
  else
    let (c, o) := windowOf core h off
    match (s.coreAt c).region? launch with
    | none => none
    | some r => if o + n ≤ r.size then some (c, r.base + o) else none

/-- The bank of a line of SRAM (R86, R88). -/
def bankOf (line : Nat) : Nat := 4 * (line / 524288) + bits line 8 7

/-- `n` bytes of a core's SRAM. -/
def spRead (s : State) (c addr n : Nat) : Nat := (s.coreAt c).sp.read addr n

/-- Contexts that wait on a word or barrier object touching [addr, addr + n) of a core are woken (R118, R300). -/
def wakeWords (c addr n : Nat) (s : State) : State :=
  wake (fun | .word c' a => decide (c' = c) && decide (a / 16 * 16 < addr + n) && decide (addr < a / 16 * 16 + 16)
            | _ => false) s

/-- `n` bytes written to a core's SRAM. -/
def spWrite (c addr n v : Nat) (s : State) : State :=
  wakeWords c addr n (s.modCoreAt c fun k => { k with sp := k.sp.write addr n v })

/-- The full/empty bit of a word set at its bank (R91). -/
def spSetFull (c addr : Nat) (full : Bool) (s : State) : State :=
  wakeWords c (addr / 4 * 4) 4 (s.modCoreAt c fun k => k.setFull addr full)

/-! ### HBM, the Mere and the L2 -/

/-- A physical address in HBM; in the host window (R101). -/
def inHBM (pa : Nat) : Bool := decide (pa < 0x6000000000)
def inHost (pa : Nat) : Bool := decide (0x200000000000 ≤ pa) && decide (pa < 0x400000000000)

/-- The home slice of a physical address (R99). -/
def home (pa : Nat) : Nat :=
  bits pa 13 7 ^^^ bits pa 20 14 ^^^ bits pa 27 21 ^^^ bits pa 34 28 ^^^ bits pa 41 35 ^^^ bits pa 45 42

/-- The line of an address. -/
def lineOf (pa : Nat) : Nat := pa / 128 * 128

/-- A resident line. -/
def findLine (l : List CLine) (pa : Nat) : Option CLine := l.find? fun c => c.pa = lineOf pa

/-- The data of a 16-byte block of a line where it is dirty. -/
def CLine.dirtyBlock (c : CLine) (block : Nat) : Option Nat :=
  if c.dirty.getLsbD (block % 8) then some (elemOf c.data.toNat (block % 8) 128) else none

/-- The key a block is held under and its plaintext, wherever its latest write stands: L2, Mere, HBM (R102, R341). -/
def blockAt (d : Dev) (block : Nat) : Nat × Nat :=
  let here (l : List CLine) : Option (Nat × Nat) :=
    (findLine l (16 * block)).bind fun c => (c.dirtyBlock block).map fun x => (c.key, x)
  match here d.l2 with
  | some x => x
  | none =>
    match here d.mere with
    | some x => x
    | none => (d.blockKey.get block 0, d.hbm.read (16 * block) 16)

/-- The words of a key as a number, lowest first. -/
def keyOf (l : List Word) : Nat := packElems 64 (l.map BitVec.toNat)

/-- The key that a key number stands for: slot 0's is the boot ROM's, and one beyond the slots is a key that has been erased
(R337, R340). -/
def keyMaterial (d : Dev) (k : Nat) : Nat :=
  if k = 0 then keyOf ((List.range 8).map Config.romKey)
  else if k < 1024 then keyOf (d.keys.get k {}).key
  else keyOf (d.oldKeys.get k [])

/-- What a read under key `k` returns of plaintext that stands under key `k'` (R336, R341): as written under the same key, else
decrypted under the other. -/
def underKey (d : Dev) (k k' block x : Nat) : Nat :=
  if k = k' ∨ keyMaterial d k = keyMaterial d k' then x
  else xtsDecrypt (keyMaterial d k) block (xtsEncrypt (keyMaterial d k') block x)

/-- What a read of a block under key `k` returns (R341). -/
def blockUnder (d : Dev) (k block : Nat) : Nat :=
  let (k', x) := blockAt d block
  underKey d k k' block x

/-- Pieces of [a, a + n) that lie in one unit of `u` bytes each: address, length, offset in the whole. -/
def cuts (u a n : Nat) : List (Nat × Nat × Nat) :=
  if n = 0 then []
  else (List.range ((a % u + n + u - 1) / u)).map fun i =>
    let l := a / u * u + i * u
    let lo := max l a
    (lo, min (l + u) (a + n) - lo, lo - a)

/-- The bytes [pa, pa + n) of the blocks that `g` gives. -/
def bytesOf (g : Nat → Nat) (pa n : Nat) : Nat :=
  (cuts 16 pa n).foldl (fun x (a, len, o) => x + g (a / 16) / 2 ^ (8 * (a % 16)) % 2 ^ (8 * len) * 2 ^ (8 * o)) 0

/-- The bytes a read at the home under key `k` returns, nothing changed. -/
def homePeek (d : Dev) (k pa n : Nat) : Nat :=
  if inHost pa then d.hostMem.read pa n else bytesOf (blockUnder d k) pa n

/-- A block with byte `i` replaced. -/
def putByte (x i b : Nat) : Nat := x - elemOf x i 8 * 256 ^ i + b % 256 * 256 ^ i

/-- Counter index of the Mere for a tower and function: a request counts in the tower of its address's home (R104; DESIGN CHOICE,
log 49). -/
def mereKey (pa vf i : Nat) : Nat := ((home pa / 64) * 32 + vf) * 8 + i

/-- A Mere counter counted up. -/
def countMere (pa vf i : Nat) (d : Dev) : Dev :=
  { d with mereCnt := d.mereCnt.set (mereKey pa vf i) (d.mereCnt.get (mereKey pa vf i) 0 + 1) }

/-- The dirty blocks of a line written to HBM under its key. -/
def hbmTake (c : CLine) (d : Dev) : Dev :=
  (List.range 8).foldl (fun d i =>
    match c.dirtyBlock i with
    | none => d
    | some x =>
      { d with hbm := d.hbm.write (c.pa + 16 * i) 16 x, blockKey := d.blockKey.set (c.pa / 16 + i) c.key }) d

/-- Lines of a tower's Mere: four dies of 384 MiB (R11, R20). -/
def mereLines : Nat := 12582912

/-- The freely chosen one of some lines (R99, R102: which line makes room is not given; DESIGN CHOICE, log 9). -/
def victimOf (l : List CLine) (d : Dev) : Option CLine := l[Config.choice (2 * d.evicts + 1) % l.length]?

/-- The Mere without a line. -/
def mereDrop (pa : Nat) (d : Dev) : Dev := { d with mere := d.mere.filter fun c => c.pa ≠ lineOf pa }

/-- A dirty Mere line written to HBM; it stays, clean (R102, R103). -/
def mereFlush (pa vf : Nat) (d : Dev) : Dev :=
  match findLine d.mere pa with
  | none => d
  | some c =>
    if c.dirty = 0 then d
    else
      let d := countMere pa vf 4 (hbmTake c d)
      { d with mere := { c with dirty := 0, data := 0 } :: d.mere.filter fun x => x.pa ≠ c.pa }

/-- Room in the Mere of an address's tower: where it is full a line of it leaves (R11, R102). -/
def mereRoom (pa vf : Nat) (d : Dev) : Dev :=
  let l := d.mere.filter fun c => home c.pa / 64 = home pa / 64
  if l.length < mereLines then d
  else
    match victimOf l d with
    | none => d
    | some c => { mereDrop c.pa (mereFlush c.pa vf d) with evicts := d.evicts + 1 }

/-- A lookup in the Mere under a key (R102, R339): counted, a line under another key written back and dropped, a missing
line brought in. -/
def mereLookup (pa key vf : Nat) (write : Bool) (d : Dev) : Dev :=
  let hit := match findLine d.mere pa with | some c => decide (c.key = key) | none => false
  let d := countMere pa vf ((if write then 2 else 0) + (if hit then 0 else 1)) d
  if hit then d
  else
    let d := mereRoom pa vf (mereDrop pa (mereFlush pa vf d))
    { d with mere := { pa := lineOf pa, key := key, data := 0 } :: d.mere }

/-- A line's blocks `src` put over those of `dst`. -/
def CLine.over (src dst : CLine) : CLine :=
  let mask : BitVec 1024 := BitVec.ofNat 1024 (packElems 128 ((List.range 8).map fun i =>
    if src.dirty.getLsbD i then 2 ^ 128 - 1 else 0))
  { dst with data := (dst.data &&& ~~~mask) ||| (src.data &&& mask), dirty := dst.dirty ||| src.dirty }

/-- The L2 without a line. -/
def l2Drop (pa : Nat) (d : Dev) : Dev := { d with l2 := d.l2.filter fun c => c.pa ≠ lineOf pa }

/-- A dirty L2 line written to the Mere; it stays, clean (R103). Its request counts under the function whose access or flush moves
it, 0 for a key's unloading (R104; DESIGN CHOICE, log 49). -/
def l2Flush (pa vf : Nat) (d : Dev) : Dev :=
  match findLine d.l2 pa with
  | none => d
  | some c =>
    if c.dirty = 0 then d
    else
      let d := mereLookup pa c.key vf true d
      let m := (findLine d.mere pa).getD { pa := c.pa, key := c.key, data := 0 }
      let d := { d with mere := c.over m :: d.mere.filter fun x => x.pa ≠ c.pa }
      { d with l2 := { c with dirty := 0, data := 0 } :: d.l2.filter fun x => x.pa ≠ c.pa }

/-- Banks of a slice in service (R107): sixteen, less those that are retired without a replacement. -/
def sliceBanks (d : Dev) (i : Nat) : Nat :=
  ((List.range 17).filter fun p => decide (bits ((d.l2Banks.get (32 * i + p)
    (BitVec.ofNat 64 (if p < 16 then 2 ^ 16 else 0))).toNat) 17 16 = 1)).length

/-- Room in the home slice of an address: where its banks are full a line of it leaves for the Mere (R99, R107). -/
def l2Room (pa vf : Nat) (d : Dev) : Dev :=
  let l := d.l2.filter fun c => home c.pa = home pa
  if l.length < 1024 * sliceBanks d (home pa) then d
  else
    match victimOf l d with
    | none => d
    | some c => { l2Drop c.pa (l2Flush c.pa vf d) with evicts := d.evicts + 1 }

/-- The line of an address brought into its home slice under a key (R102, R339). -/
def l2Touch (pa key vf : Nat) (d : Dev) : Dev :=
  let hit := match findLine d.l2 pa with | some c => decide (c.key = key) | none => false
  if hit then d
  else
    let d := mereLookup pa key vf false (l2Room pa vf (l2Drop pa (l2Flush pa vf d)))
    { d with l2 := { pa := lineOf pa, key := key, data := 0 } :: d.l2 }

/-- The lines that [pa, pa + n) touches. -/
def linesOf (pa n : Nat) : List Nat :=
  if n = 0 then [] else (List.range ((pa + n - 1) / 128 + 1 - pa / 128)).map fun i => 128 * (pa / 128 + i)

/-- The lines of an access in HBM brought in; host-window bytes are not cached here. -/
def touchAll (pa n key vf : Nat) (d : Dev) : Dev :=
  if inHost pa then d else (linesOf pa n).foldl (fun d l => l2Touch l key vf d) d

/-- One byte written at its home under a key (R341). -/
def homePut (key pa : Nat) (b : Nat) (d : Dev) : Dev :=
  if inHost pa then { d with hostMem := d.hostMem.put pa (BitVec.ofNat 8 b) }
  else
    let old := blockUnder d key (pa / 16)
    let new := putByte old (pa % 16) b
    let c := (findLine d.l2 pa).getD { pa := lineOf pa, key := key, data := 0 }
    let k := pa / 16 % 8
    let one : CLine := { pa := lineOf pa, key := key, data := BitVec.ofNat 1024 (new * 2 ^ (128 * k)),
                         dirty := BitVec.ofNat 8 (2 ^ k) }
    { d with l2 := one.over c :: d.l2.filter fun x => x.pa ≠ lineOf pa }

/-- `n` bytes written one after another at their homes. -/
def homePuts (key pa : Nat) : Nat → Nat → Dev → Dev
  | 0, _, d => d
  | n + 1, v, d => homePuts key (pa + 1) n (v / 256) (homePut key pa v d)

/-- Contexts that wait on a global word of [pa, pa + n) are woken (R314). -/
def wakeGlobal (pa n : Nat) (s : State) : State :=
  wake (fun | .gword a => decide (a < pa + n) && decide (pa < a + 4) | _ => false) s

/-- A read at the home slice. -/
def homeRead (pa n key vf : Nat) (s : State) : Nat × State :=
  let s := s.modDev (touchAll pa n key vf)
  (homePeek s.dev key pa n, s)

/-- A write at the home slice. -/
def homeWrite (pa n v key vf : Nat) (s : State) : State :=
  wakeGlobal pa n (s.modDev fun d => homePuts key pa n v (touchAll pa n key vf d))

/-- Whether an address lies in a line with an uncorrectable error (R368). -/
def badGlobal (s : State) (pa n : Nat) : Bool :=
  (linesOf pa n).any fun l => s.dev.badLines.any fun x => x = .gm l
def badSp (s : State) (c addr n : Nat) : Bool :=
  (linesOf addr n).any fun l => s.dev.badLines.any fun x => x = .sp c l

/-! ### Shadow versions (R168, R371) -/

/-- A new version of a 64 KiB unit: its blocks as they stand, each under its key. -/
def copyUnit (d : Dev) (unit : Nat) : ShadowUnit :=
  let bs := (List.range 4096).map fun i => (4096 * unit + i, blockAt d (4096 * unit + i))
  { data := bs.foldl (fun m b => m.write (16 * b.1) 16 b.2.2) []
    keys := (bs.filter fun b => b.2.1 ≠ 0).map fun b => (b.1, b.2.1) }

/-- The key of a block of a version, and what a read of it under key `k` returns (R341). -/
def ShadowUnit.keyAt (m : ShadowUnit) (block : Nat) : Nat := m.keys.get block 0
def ShadowUnit.under (m : ShadowUnit) (d : Dev) (k block : Nat) : Nat :=
  underKey d k (m.keyAt block) block (m.data.read (16 * block) 16)

/-- One byte written to a version under a key (R341): a block under another key is written whole. -/
def ShadowUnit.put (d : Dev) (k pa b : Nat) (m : ShadowUnit) : ShadowUnit :=
  let block := pa / 16
  let same := decide (k = m.keyAt block) || decide (keyMaterial d k = keyMaterial d (m.keyAt block))
  let mask := if same then 2 ^ (pa % 65536) else (2 ^ 16 - 1) * 2 ^ (16 * block % 65536)
  { data := m.data.write (16 * block) 16 (putByte (m.under d k block) (pa % 16) b)
    keys := if k = 0 then Map.drop m.keys block else m.keys.set block k
    written := m.written ||| mask }

/-- `n` bytes written to a version one after another. -/
def ShadowUnit.puts (d : Dev) (k pa : Nat) : Nat → Nat → ShadowUnit → ShadowUnit
  | 0, _, m => m
  | n + 1, v, m => ShadowUnit.puts d k (pa + 1) n (v / 256) (m.put d k pa v)

/-- The version of the unit of `pa` in a shadowed launch. -/
def versionOf (s : State) (ver : Option Nat) (pa : Nat) : Option ShadowUnit :=
  ver.bind fun l => (s.launchAt l).bind fun x => x.shadow.find? (pa / 65536)

/-- The versions left to a function, and by how many its pool may grow: together the units of HBM, until firmware says otherwise (R371,
R397; DESIGN CHOICE, log 59). -/
def State.poolOf (s : State) (vf : Nat) : Nat := s.dev.pool.get vf (2 ^ 22)
def State.grantOf (s : State) (vf : Nat) : Nat := s.dev.grants.get vf (2 ^ 22)

/-- Whether a write of a launch to `pa` finds the pool of versions empty (R371). -/
def poolEmpty (s : State) (ver : Option Nat) (pa : Nat) : Bool :=
  match ver with
  | none => false
  | some l =>
    match s.launchAt l with
    | none => false
    | some x => inHBM pa && (versionOf s ver pa).isNone && decide (s.poolOf x.vf = 0)

/-- A read below the L1: the launch's version where there is one, else the home (R168). An access to a version passes the L2 and the
Mere under the address of its unit (DESIGN CHOICE, log 99). -/
def lowRead (ver : Option Nat) (pa n key vf : Nat) (s : State) : Nat × State :=
  match versionOf s ver pa with
  | some m => (bytesOf (m.under s.dev key) pa n, s.modDev (touchAll pa n key vf))
  | none => homeRead pa n key vf s

/-- A write below the L1: a shadowed launch's goes to its version, made at the first write (R371). -/
def lowWrite (ver : Option Nat) (pa n v key vf : Nat) (s : State) : State :=
  match ver with
  | some l =>
    if inHBM pa then
      let m := (versionOf s ver pa).getD (copyUnit s.dev (pa / 65536))
      let s := if (versionOf s ver pa).isSome then s else
        s.modDev fun d => { d with pool := d.pool.set vf (s.poolOf vf - 1) }
      wakeGlobal pa n ((s.modLaunch l fun x => { x with shadow := x.shadow.set (pa / 65536) (m.puts s.dev key pa n v) }).modDev
        (touchAll pa n key vf))
    else homeWrite pa n v key vf s
  | none => homeWrite pa n v key vf s

/-! ### The L1 (R89, R153) -/

/-- The lines that the L1 of a core has room for: the logical banks in service that are in no region (R86, R89). -/
def Core.l1Lines (k : Core) : Nat := (k.spLog * 131072 - k.regionBytes) / 128

/-- A line of a core's L1. -/
def findL1 (k : Core) (ver : Option Nat) (pa : Nat) : Option L1Line :=
  k.l1.find? fun x => decide (x.pa = lineOf pa) && decide (x.ver = ver)

/-- The bytes of a line that stay valid when it is written back: of eight bytes some of which were dirty, the dirty ones only,
so that the others are read again with them (R142). -/
def keepValid (valid dirty : BitVec 128) : BitVec 128 :=
  BitVec.ofNat 128 (packElems 8 ((List.range 16).map fun i =>
    if elemOf dirty.toNat i 8 = 0 then elemOf valid.toNat i 8 else elemOf dirty.toNat i 8))

/-- The mask of 1024 bits of a mask of 128 bytes. -/
def byteBits (m : BitVec 128) : BitVec 1024 :=
  BitVec.ofNat 1024 (packElems 8 ((List.range 128).map fun i => if m.getLsbD i then 255 else 0))

/-- Runs of dirty bytes written below one by one. -/
def writeDirty (x : L1Line) (vf : Nat) (s : State) : State :=
  (List.range 128).foldl (fun s i =>
    if x.dirty.getLsbD i then lowWrite x.ver (x.pa + i) 1 (elemOf x.data.toNat i 8) x.key vf s else s) s

/-- A line of core `c`'s L1 written back; it stays, clean (R155). -/
def l1Flush (c : Nat) (x : L1Line) (s : State) : State :=
  let s := if x.dirty = 0 then s else writeDirty x x.vf s
  s.modCoreAt c fun k => { k with l1 := k.l1.map fun y =>
    if y.pa = x.pa ∧ y.ver = x.ver then { y with dirty := 0, valid := keepValid y.valid y.dirty } else y }

/-- A line of core `c`'s L1 dropped. -/
def l1Drop (c : Nat) (x : L1Line) (s : State) : State :=
  s.modCoreAt c fun k => { k with l1 := k.l1.filter fun y => !(decide (y.pa = x.pa) && decide (y.ver = x.ver)) }

/-- Serial order of generations (R153). -/
def genLe (a b : BitVec 16) : Bool := decide ((b - a).toNat < 32768)

/-- The dirty lines of core `c` with a generation up to `g` written back (R155). -/
def flushUpTo (c : Nat) (g : BitVec 16) (s : State) : State :=
  ((s.coreAt c).l1.filter fun x => decide (x.dirty ≠ 0) && genLe x.gen g).foldl (fun s x => l1Flush c x s) s

/-- The oldest log entry of core `c` promoted (R155). -/
def promoteOldest (c : Nat) (s : State) : State :=
  match (s.coreAt c).plog with
  | [] => s
  | e :: r => (flushUpTo c e.gen s).modCoreAt c fun k => { k with plog := r }

/-- Every log entry of core `c` with a generation up to `g` promoted, oldest first (R155). -/
def promoteUpTo (c : Nat) (g : BitVec 16) (s : State) : State :=
  ((s.coreAt c).plog.filter fun e => genLe e.gen g).foldl (fun s _ => promoteOldest c s) s

/-- A dirty line of core `c` written back for a reason other than a promotion: the log entries it follows are promoted
first (R155). -/
def l1WriteBack (c : Nat) (x : L1Line) (s : State) : State :=
  if x.dirty = 0 then s else l1Flush c x (promoteUpTo c x.gen s)

/-- A line under another key, or of no or another version, leaves the L1 before an access (R339). -/
def l1Clear (c pa key : Nat) (ver : Option Nat) (s : State) : State :=
  match (s.coreAt c).l1.find? fun x => decide (x.pa = lineOf pa) && (decide (x.key ≠ key) || decide (x.ver ≠ ver)) with
  | none => s
  | some x => l1Drop c x (l1WriteBack c x s)

/-- A cacheable read of bytes of one line by core `c`: from the L1 when all of them are valid there, else the line is read
again from below under its dirty bytes, and is then valid whole (R142; log 10). -/
def l1Read (c : Nat) (ver : Option Nat) (pa n key vf : Nat) (s : State) : Nat × State :=
  let s := l1Clear c pa key ver s
  let line := findL1 (s.coreAt c) ver pa
  let have' := (line.map (·.valid)).getD 0
  let want : BitVec 128 := BitVec.ofNat 128 ((2 ^ n - 1) * 2 ^ (pa % 128))
  let (data, s) :=
    if want &&& ~~~have' = 0 then ((line.map (·.data)).getD 0, s)
    else
      let (low, s) := lowRead ver (lineOf pa) 128 key vf s
      let m := byteBits ((line.map (·.dirty)).getD 0)
      let new : BitVec 1024 := ((line.map (·.data)).getD 0 &&& m) ||| (BitVec.ofNat 1024 low &&& ~~~m)
      let l : L1Line := { pa := lineOf pa, key := key, ver := ver, data := new, valid := BitVec.allOnes 128,
                          dirty := (line.map (·.dirty)).getD 0, gen := (line.map (·.gen)).getD 0, vf := vf }
      (new, s.modCoreAt c fun k => { k with
        l1 := l :: k.l1.filter fun y => !(decide (y.pa = l.pa) && decide (y.ver = ver)) })
  (data.toNat / 2 ^ (8 * (pa % 128)) % 2 ^ (8 * n), s)

/-- A cacheable write of bytes of one line by core `c`; a clean line takes the current generation (R153). -/
def l1Write (c : Nat) (ver : Option Nat) (pa n v key vf : Nat) (s : State) : State :=
  let s := l1Clear c pa key ver s
  let line := (findL1 (s.coreAt c) ver pa).getD { pa := lineOf pa, key := key, ver := ver, data := 0, valid := 0, dirty := 0 }
  let sel : BitVec 128 := BitVec.ofNat 128 ((2 ^ n - 1) * 2 ^ (pa % 128))
  let m := byteBits sel
  let new : BitVec 1024 := (line.data &&& ~~~m) ||| (BitVec.ofNat 1024 (v * 2 ^ (8 * (pa % 128))) &&& m)
  s.modCoreAt c fun k =>
    let l := { line with data := new, valid := line.valid ||| sel, dirty := line.dirty ||| sel,
                         gen := if line.dirty = 0 then k.gen else line.gen, vf := vf }
    { k with l1 := l :: k.l1.filter fun y => !(decide (y.pa = l.pa) && decide (y.ver = ver)) }

/-- Pieces of [pa, pa + n) that lie in one line each: address, length, offset in the whole. -/
def pieces (pa n : Nat) : List (Nat × Nat × Nat) :=
  (linesOf pa n).map fun l =>
    let lo := max l pa
    let hi := min (l + 128) (pa + n)
    (lo, hi - lo, lo - pa)

/-- A global read by a core's context, line by line: through its L1 when cacheable and there is one (R89). -/
def globalRead (c : Nat) (ca : Bool) (ver : Option Nat) (pa n key vf : Nat) (s : State) : Nat × State :=
  (pieces pa n).foldl (fun (acc, s) (a, k, o) =>
    let (x, s) := if ca && (s.coreAt c).hasL1 then l1Read c ver a k key vf s else lowRead ver a k key vf s
    (acc + x * 2 ^ (8 * o), s)) (0, s)

/-- A global write by a core's context, line by line (R144). -/
def globalWrite (c : Nat) (ca : Bool) (ver : Option Nat) (pa n v key vf : Nat) (s : State) : State :=
  (pieces pa n).foldl (fun s (a, k, o) =>
    let x := v / 2 ^ (8 * o) % 2 ^ (8 * k)
    if ca && (s.coreAt c).hasL1 then l1Write c ver a k x key vf s else lowWrite ver a k x key vf s) s

/-- An acquire of scope COLUMN or wider: the L1 loses every clean line, and every clean byte of its dirty lines (R150). -/
def l1Invalidate (c : Nat) (s : State) : State :=
  s.modCoreAt c fun k => { k with
    l1 := (k.l1.filter fun x => x.dirty ≠ 0).map fun x => { x with valid := x.dirty } }

/-! ### Translation (R324 to R328) -/

/-- Whether a function may use a key slot (R338); slot 0 belongs to function 0 (R337). -/
def keyUsable (d : Dev) (vf key : Nat) : Bool :=
  let k := d.keys.get key {}
  k.loaded && ((decide (key ≠ 0) && k.glob) || decide (k.owner = vf))

/-- The levels of a walk: shift of the index, its bits, bytes of the next table, page size code of a leaf (R325). -/
def walkLevels : List (Nat × Nat × Nat × Option Nat) :=
  [(39, 13, 4096, none), (30, 9, 4096, some 2), (21, 9, 256, some 1), (16, 5, 0, some 0)]

/-- The handle a leaf entry gives for a virtual address, unless the walk faults (R326, R327). -/
def leafOf (d : Dev) (asid vf va e psz : Nat) : Option Handle :=
  let size := pageBytes psz
  let pa := bits e 45 8 * 256
  let key := bits e 55 46
  if bits e 57 56 ≥ 2 || pa % size ≠ 0 || !(inHBM pa || inHost pa) then none
  else if inHBM pa && !keyUsable d vf key then none
  else if inHost pa && key ≠ 0 then none
  else some { st := .valid, psz := psz, va := va / size * size, pa := pa, rd := bit e 61, wr := bit e 60, amo := bit e 59,
              ca := bit e 58, lay := bits e 57 56, key := key, asid := asid }

/-- A walk from the table at `table` through the levels that remain (R325 to R327). -/
def walkFrom (d : Dev) (asid vf va table : Nat) : List (Nat × Nat × Nat × Option Nat) → Option Handle
  | [] => none
  | (shift, n, next, leaf) :: r =>
    if !inHBM table then none
    else
      let e := homePeek d 0 (table + 8 * bits va (shift + n - 1) shift) 8
      if !bit e 63 || bits e 7 0 ≠ 0 then none
      else if bit e 62 then leaf.bind fun psz => leafOf d asid vf va e psz
      else if r.isEmpty || bits e 61 46 ≠ 0 || (bits e 45 8 * 256) % next ≠ 0 then none
      else walkFrom d asid vf va (bits e 45 8 * 256) r

/-- The page that holds a virtual address of an address space, by a walk (R325); none is a page fault. The function is
the address space's owner. -/
def walkPage (d : Dev) (asid va : Nat) : Option Handle :=
  let a := (d.asd.get asid 0).toNat
  if va ≥ 2 ^ 52 || !bit a 63 then none
  else walkFrom d asid (bits a 50 46) va (bits a 45 16 * 65536) walkLevels

/-- The deepest entry of a walk cache for an address: its level and the table it leads to (R329). -/
def cachedTable (l : List WalkEntry) (asid va : Nat) : Option (Nat × Nat) :=
  [2, 1, 0].findSome? fun i =>
    (l.find? fun e => decide (e.asid = asid) && decide (e.level = i) && decide (e.pre = va / 2 ^ (walkLevels.getD i default).1)).map
      fun e => (i, e.table)

/-- The table entries that a walk from level `i` reads, and the non-leaf entries it finds (R328, R329). -/
def walkTrail (d : Dev) (asid va : Nat) : Nat → Nat → List (Nat × Nat × Nat × Option Nat) → List Nat × List WalkEntry
  | _, _, [] => ([], [])
  | i, table, (shift, n, next, _) :: r =>
    if !inHBM table then ([], [])
    else
      let a := table + 8 * bits va (shift + n - 1) shift
      let e := homePeek d 0 a 8
      if bit e 63 && !bit e 62 && decide (bits e 7 0 = 0) && !r.isEmpty && decide (bits e 61 46 = 0)
          && decide ((bits e 45 8 * 256) % next = 0) && inHBM (bits e 45 8 * 256) then
        let x := walkTrail d asid va (i + 1) (bits e 45 8 * 256) r
        (a :: x.1, { asid := asid, level := i, pre := va / 2 ^ shift, table := bits e 45 8 * 256 } :: x.2)
      else ([a], [])

/-- A walk by a walker of a tower's base die (R328, R329): it starts from its walk cache, reads its entries at their homes under
the function's tag (R332), and leaves the non-leaf entries in the cache. -/
def walkDo (tower asid va : Nat) (s : State) : Option Handle × State :=
  let a := (s.dev.asd.get asid 0).toNat
  if va ≥ 2 ^ 52 || !bit a 63 then (none, s)
  else
    let vf := bits a 50 46
    let cache := s.dev.wcache.get tower []
    let (i, table) := match cachedTable cache asid va with | some (l, t) => (l + 1, t) | none => (0, bits a 45 16 * 65536)
    let h := walkFrom s.dev asid vf va table (walkLevels.drop i)
    let (reads, found) := walkTrail s.dev asid va i table (walkLevels.drop i)
    (h, s.modDev fun d =>
      let d := reads.foldl (fun d p => touchAll p 8 0 vf d) d
      { d with wcache := d.wcache.set tower ((found ++ cache.filter fun e => !found.contains e).take 1024) })

/-- The entry of a TLB for an address. -/
def tlbFind (l : List Handle) (asid va : Nat) : Option Handle :=
  l.find? fun h => decide (h.asid = asid) && decide (va / pageBytes h.psz * pageBytes h.psz = h.va)

/-- A TLB with an entry put first, the oldest falling out (R328). -/
def tlbPut (size : Nat) (h : Handle) (l : List Handle) : List Handle := (h :: l.filter (· ≠ h)).take size

/-- The bank of the third-level TLB of core `c`'s tower for an address (R328). -/
def tlbBank (c va : Nat) : Nat := 16 * coreTower c + bits va 19 16

/-- The second-level TLB of core `c`'s cluster, and the third-level bank for an address (R328). -/
def State.tlb2 (s : State) (c : Nat) : List Handle := s.dev.tlb2.get (coreCL c) []
def State.tlb3 (s : State) (c va : Nat) : List Handle := s.dev.tlb3.get (tlbBank c va) []

/-- The entry found for `va` filled into the TLBs of a core, its cluster and its tower. -/
def tlbFill (c va : Nat) (h : Handle) (s : State) : State :=
  (s.modCoreAt c fun k => { k with tlb := tlbPut 128 h k.tlb }).modDev fun d => { d with
    tlb2 := d.tlb2.set (coreCL c) (tlbPut 4096 h (s.tlb2 c))
    tlb3 := d.tlb3.set (tlbBank c va) (tlbPut 4096 h (s.tlb3 c va)) }

/-- The entry for an address in the TLBs that serve core `c`, the first level first (R328). -/
def tlbHit (c asid va : Nat) (s : State) : Option Handle :=
  ((tlbFind (s.coreAt c).tlb asid va).or (tlbFind (s.tlb2 c) asid va)).or (tlbFind (s.tlb3 c va) asid va)

/-- A translation through the TLBs and, on a miss, a walk (R328). -/
def translate (c asid va : Nat) (s : State) : Option Handle × State :=
  let (hit, s) := match tlbHit c asid va s with
    | some h => (some h, s)
    | none => walkDo (coreTower c) asid va s
  match hit with
  | none => (none, s)
  | some h => (some h, tlbFill c va h s)

/-- The miss of a user for an address, if it is among those of the device (R328). -/
def walkFor (user : Nat × Nat) (asid va : Nat) (s : State) : Option Walk :=
  s.dev.walks.find? fun w => decide (w.user = user) && decide (w.asid = asid) && decide (w.va = va)

/-- Whether a user's address misses the TLB of its core, and its miss has not ended. -/
def missWaits (user : Nat × Nat) (c asid va : Nat) (s : State) : Bool :=
  decide (va < 2 ^ 52) && (tlbFind (s.coreAt c).tlb asid va).isNone
    && !(match walkFor user asid va s with | some w => w.done | none => false)

/-- A user's miss joins those of the device, unless it is among them. -/
def missBegins (user : Nat × Nat) (c vf asid va : Nat) (s : State) : State :=
  if (walkFor user asid va s).isSome then s
  else
    let (id, s) := s.newId
    s.modDev fun d => { d with walks := d.walks ++
      [{ id := id, core := c, vf := vf, asid := asid, va := va, since := (s.coreAt c).clk, user := user }] }

/-- What a user's address translates to once nothing keeps it waiting: a miss that has ended in a fault is not walked again. -/
def translateFor (user : Nat × Nat) (c asid va : Nat) (s : State) : Option Handle × State :=
  match walkFor user asid va s with
  | some w => if w.done && w.bad && (tlbHit c asid va s).isNone then (none, s) else translate c asid va s
  | none => translate c asid va s

/-- The misses of a user leave. -/
def missesLeave (user : Nat × Nat) (s : State) : State :=
  s.modDev fun d => { d with walks := d.walks.filter fun w => w.user ≠ user }

/-- The physical address of a virtual address in its page. -/
def Handle.phys (h : Handle) (va : Nat) : Nat := h.pa + va % pageBytes h.psz

/-! ### Bank status words (R375) -/

/-- The kinds of bank: 0 scratchpad/L1, 1 register, 2 L2, in the order of R375's table (DESIGN CHOICE, log 20). -/
def bankKind (slice : Bool) (p : Nat) : Nat := if slice then 2 else if p < 64 then 0 else 1

/-- The status word of a bank after reset (R375, log 20). -/
def bankReset (kind p : Nat) : Word :=
  let first := if kind = 1 then 64 else 0
  let n := match kind with | 0 => 32 | 1 => 24 | _ => 16
  BitVec.ofNat 64 (if p < first + n then 2 ^ 16 + (p - first) * 2 ^ 8 else 0xFF00)

/-- The physical banks of a kind. -/
def banksOf (kind : Nat) : List Nat :=
  match kind with | 0 => List.range 34 | 1 => (List.range 26).map (64 + ·) | _ => List.range 17

/-- The status words of a core or slice, and its bank's word. -/
def bankWord (m : Map Word) (kind p : Nat) : Word := m.get p (bankReset kind p)

/-- STATE and LOGICAL of a bank. -/
def bankState (w : Word) : Nat := bits w.toNat 17 16
def bankLogical (w : Word) : Nat := bits w.toNat 15 8

/-- A status word with STATE and LOGICAL. -/
def setBank (w : Word) (st l : Nat) : Word := BitVec.ofNat 64 (w.toNat / 2 ^ 18 * 2 ^ 18 + st * 2 ^ 16 + l * 2 ^ 8)

/-- The table with a bank's STATE and LOGICAL. -/
def putBank (kind p st l : Nat) (m : Map Word) : Map Word := m.set p (setBank (bankWord m kind p) st l)

/-- The table of bank status words of the core in focus, or of slice `i`. -/
def bankTable (slice : Bool) (i : Nat) (s : State) : Map Word :=
  if slice then (s.dev.l2Banks.filter fun e => e.1 / 32 = i).map fun e => (e.1 % 32, e.2) else (s.coreAt i).banks

/-- One entry of that table. -/
def setBankTable (slice : Bool) (i p : Nat) (w : Word) (s : State) : State :=
  if slice then s.modDev fun d => { d with l2Banks := d.l2Banks.set (32 * i + p) w }
  else s.modCoreAt i fun k => { k with banks := k.banks.set p w }

/-- The physical bank in service for a logical bank. -/
def servedBy (m : Map Word) (kind l : Nat) : Option Nat :=
  (banksOf kind).find? fun p => decide (bankState (bankWord m kind p) = 1) && decide (bankLogical (bankWord m kind p) = l)

/-- The SRAM address of line `j` of logical scratchpad bank `b` (R86, R88). -/
def bankLine (b j : Nat) : Nat := b / 4 * 524288 + b % 4 * 128 + 512 * j

/-- The line of a core's SRAM that is in motion (R376). -/
def Core.lockedLine (k : Core) : Option Nat :=
  k.retire.bind fun r =>
    if r.locked && decide (r.kind = 0) then some (bankLine (bankLogical (bankWord k.banks 0 r.src)) r.moved) else none

/-- The logical register bank of the context in focus that holds a register, if one does (R375, R377). -/
def registerBank (ctx : Nat) (r : RegId) : Option Nat :=
  match r.cls with
  | .v => some (6 * ctx + r.n / 16 % 4)
  | .m => some (6 * ctx + (if r.n < 32 then 4 + r.n / 16 else (r.n - 32) / 16 % 4))
  | _ => none

/-- Whether a register of context `ctx` of a core lies in the line that is in motion (R376): a register bank has sixteen registers of four
lines each. -/
def lockedReg (k : Core) (ctx : Nat) (r : RegId) : Bool :=
  match k.retire with
  | some x =>
    x.locked && decide (x.kind = 1) && decide (registerBank ctx r = some (bankLogical (bankWord k.banks 1 x.src)))
      && decide (r.n % 16 = x.moved / 4)
  | none => false

/-! ### Instruction bytes (R45) -/

/-- `n` bytes at a virtual address of an address space, as a launch of version `ver` reads them; none where one is in no
page with RD. -/
def vaRead (s : State) (ver : Option Nat) (asid va n : Nat) : Option Nat :=
  (cuts 128 va n).foldl (fun acc (a, len, o) =>
    match acc, walkPage s.dev asid a with
    | some x, some h =>
      if h.rd then
        some (x + 2 ^ (8 * o) * match versionOf s ver (h.phys a) with
          | some m => bytesOf (m.under s.dev h.key) (h.phys a) len
          | none => homePeek s.dev h.key (h.phys a) len)
      else none
    | _, _ => none) (some 0)

/-- Bytes read through an address space pass the L2 and the Mere, page by page, under its function's tag (R102, R332). -/
def vaTouch (asid va n vf : Nat) (s : State) : State :=
  (cuts 128 va n).foldl (fun s (a, len, _) =>
    match walkPage s.dev asid a with
    | some h => if h.rd then s.modDev (touchAll (h.phys a) len h.key vf) else s
    | none => s) s

/-- `n` bytes of code at a virtual address: none when one lies outside the code extent or in no page with RD. -/
def codeBytes (s : State) (l : Launch) (va n : Nat) : Option Nat :=
  if va < l.rc.code || decide (l.rc.code + 4096 * l.rc.clen < va + n) then none else vaRead s none l.asid va n

/-- The first byte of [va, va + n) that cannot be fetched. -/
def codeFault (s : State) (l : Launch) (va : Nat) : Nat → Nat
  | 0 => va
  | n + 1 => if (codeBytes s l va 1).isNone then va else codeFault s l (va + 1) n

/-- The header of the bundle at a virtual address. -/
def headerAt (s : State) (l : Launch) (va : Nat) : Option Header :=
  (codeBytes s l va 4).map fun x => Header.unpack (BitVec.ofNat 32 x)

end Sys2Proof.Machine
end

