-- ==== Sys2Proof/Machine/Gate.lean ====
section
/-! DEFINITION. What stands between an operation and its effect: the checks of its issue (R63, R344), blocks and holds,
segments with their journal and held buffer (R362 to R367), consumed errors and rewinds (R368, R369). -/

namespace Sys2Proof.Machine

/-- What the checks before an operation's effect decide; `deny` is a trap 0x0A with the record of R64 (R346), `ask` the hold of a held
service (R303). -/
inductive Verdict where
  | go
  | trap (cause : Nat) (info : Word)
  | deny (info : Word)
  | block (w : WaitOn)
  | hold (kind : Nat)
  | ask (i : Instr)
  | rewind
  deriving DecidableEq, Repr

/-- The first verdict that is not go. -/
def Verdict.orElse (a b : Verdict) : Verdict := match a with | .go => b | v => v

/-- TRAPINFO of R64 for an operation in focus. -/
def opInfo (i : Instr) (cls reg fld : Nat) (s : State) : Word :=
  info64 (slotCode i) i.opcode.toNat s.foc.idx cls reg fld

/-- Check 5 of R63, with the lend hazard (R213). -/
def verdict5 (i : Instr) (s : State) : Verdict :=
  match operandCheck i s.foc.k s with
  | some x => .trap x.cause (opInfo i x.cls x.reg 0 s)
  | none =>
    match lendHazard i s with
    | some x => .trap x.cause (opInfo i x.cls x.reg 0 s)
    | none => .go

/-- Check 6 of R63. -/
def verdict6 (i : Instr) (s : State) : Verdict :=
  if s.ctx.a.check then
    match scoreCheck i s.foc.k s with
    | some (c, r) => .trap 4 (opInfo i c r 0 s)
    | none => .go
  else .go

/-! ### Segments (R362 to R367) -/

/-- The closing operations (R363). -/
def closing : Instr → Bool
  | .amoadd _ | .amomin _ | .amomax _ | .amominn _ | .amomaxn _ | .amoand _ | .amoor _ | .amoxor _ | .amoswp _ | .amocas _
  | .amoincw _ | .amobfa _ | .amofadd _ | .ldf _ | .ste _ | .barv _ | .bwait _ | .flwait _ | .pacq _ | .drn _ | .fknot _
  | .fmxc _ | .fclrBuffer _ | .fclrCounters _ | .fclrGrid _ | .fclrGrad _ | .endInst _ | .trap _ | .trapSys _ | .mts _
  | .waitany _ | .waitall _ | .ffrdy _ | .pput _ | .pget _ | .grpbar _ | .evwait _ | .lwait _ | .defer _ | .defrun _ =>
    true
  | .setf f | .sete f | .tstf f => decide (f.h ≠ 0)
  | .foog f => f.aux.getLsbD 0
  | _ => false

/-- Whether a job has not ended. -/
def Job.live (j : Job) : Bool := decide (j.st ≠ .done) && decide (j.st ≠ .faulted)

/-- The jobs without the ended ones of a job's tag, which a new one makes past (R266). -/
def forgetEnded (j : Job) (l : List Job) : List Job :=
  l.filter fun x => x.live || decide (x.inst ≠ j.inst) || decide (x.tag ≠ j.tag)

/-- An action enters its path now (R144, R138, R257, R311). -/
def enterPath (a : Action) (s : State) : State :=
  match a with
  | .access x => s.modCore fun k => { k with acc := k.acc ++ [x] }
  | .copy c => s.modCore fun k => { k with copyq := k.copyq ++ [{ c with since := s.dev.base }] }
  | .flush c => s.modCore fun k => { k with flushq := k.flushq ++ [c] }
  | .job j =>
    let s := s.modDev fun d => { d with jobs := forgetEnded j d.jobs }
    if j.isXdt then s.modDev fun d => { d with jobs := d.jobs ++ [j] }
    else s.modCore fun k => { k with jobq := k.jobq ++ [j] }
  | .launch r => (s.modCore fun k => { k with acc := k.acc ++ [r.read] }).modDev fun d => { d with lreqs := d.lreqs ++ [r] }
  | .accesses l => s.modCore fun k => { k with acc := k.acc ++ l }

/-- A held operation's action: into the held buffer of an open segment (R363), else into its path. -/
def submit (a : Action) (s : State) : State :=
  match s.ctx.seg with
  | some g => s.modCtx fun c => { c with seg := some { g with held := g.held ++ [a] } }
  | none => enterPath a s

/-- TRAPINFO of 0x13 (R367). -/
def info13 (i : Instr) (used sub : Nat) (s : State) : Word :=
  BitVec.ofNat 64 (used * 2 ^ 32 + s.foc.idx * 2 ^ 23 + slotCode i * 2 ^ 16 + i.opcode.toNat * 256 + sub)

/-- The lines of 128 bytes that [a, a + n) touches, and are not in the journal yet. -/
def newLines (g : Segment) (spill : Bool) (l : List Nat) : List Nat :=
  (l.eraseDups).filter fun x => !(g.journal.any fun e => e.spill = spill && e.line = x)

/-- Whether the journal has no room for some lines (R365): the entries in use. -/
def journalFull (spill : Bool) (l : List Nat) (s : State) : Option Nat :=
  s.ctx.seg.bind fun g => if g.journal.length + (newLines g spill l).length > 256 then some g.journal.length else none

/-- The full/empty bits of a line's 32 words. -/
def fullBits (k : Core) (line : Nat) : Nat :=
  packElems 1 ((List.range 32).map fun i => b2n (k.full (line + 4 * i)))

/-- The old contents of the lines go to the journal (R365). -/
def journal (spill : Bool) (l : List Nat) (s : State) : State :=
  match s.ctx.seg with
  | none => s
  | some g =>
    let es := (newLines g spill l).map fun x =>
      ({ spill := spill, line := x, data := (if spill then s.ctx.a.spill else s.core.sp).read x 128
         full := if spill then 0 else fullBits s.core x } : JEntry)
    s.modCtx fun c => { c with seg := some { g with journal := es.reverse ++ g.journal } }

/-- Whether the held buffer has no room (R366). -/
def heldFull (s : State) : Bool := match s.ctx.seg with | some g => decide (g.held.length ≥ 64) | none => false

/-- Opening a segment at the issue of cycle o (R362, R364). -/
def openSegment (o : Nat) (s : State) : State :=
  s.modCtx fun c =>
    let c := c.commit
    { c with seg := some { o := o, ck := { c.a with idx := 0 }, flight := c.flight, starts := c.starts, ordo := 8 * c.seq } }

/-- The DONE tags with a bit in `x` made IDLE; one that completes in this same schedule cycle stays DONE (R84, R133). -/
def clearTags (x : Word) (s : State) : State :=
  s.modCtx fun c => { c with a := { c.a with tagDone := c.a.tagDone &&& ~~~(x &&& ~~~c.tagNew) } }

/-! ### Consumed errors (R368, R369) -/

/-- Entries of the load-data queue that an operation pops in its start cycle or issue (R71, R195, R216). -/
def popCount (i : Instr) (s : State) : Nat :=
  match i with
  | .popq _ => 1
  | .fsel f => if f.q = 1#1 then 1 else 0
  | .fmx f | .fmxd f | .fmxc f => if f.q = 1#1 then (mStep i s.core.arr).1 else 0
  | i => match vSlot? i with | some f => if f.qa = 1#1 then 1 else 0 | none => 0

/-- The corrupt value an operation would consume: source code and line (R368, R369). -/
def corruptOf (i : Instr) (s : State) : Option (Nat × Nat) :=
  let (off, n) := spillRead i
  if (readsOf i s.foc.k s).any fun r => s.ctx.a.bad.contains r then some (1, 0)
  else if s.ctx.a.badSpill.any fun x => decide (off ≤ x) && decide (x < off + n) then some (6, 0)
  else ((s.ctx.a.queue.take (popCount i s)).filterMap (·.poisoned)).head?

/-- Whether a consumed error rewinds (R369). -/
def canRewind (s : State) : Bool :=
  match s.ctx.seg with | some g => decide (g.rewinds < s.limit s.vfid 2) | none => false

/-- TRAPINFO of 0x14 (R369). -/
def info14 (pa slot opc src : Nat) (s : State) : Word :=
  let rw := match s.ctx.seg with | some g => g.rewinds | none => 0
  let lim := s.ctx.seg.isSome && !canRewind s
  BitVec.ofNat 64 (pa / 128 % 2 ^ 39 * 2 ^ 25 + rw % 16 * 2 ^ 21 + b2n lim * 2 ^ 20 + slot * 2 ^ 16
    + opc * 256 + src)

/-- A line's bytes and full/empty bits written back (R369, R370). -/
def restoreLine (e : JEntry) (s : State) : State :=
  if e.spill then s.modArch fun a => { a with spill := a.spill.write e.line 128 e.data }
  else
    (List.range 32).foldl (fun s i => spSetFull s.foc.core (e.line + 4 * i) (bit e.full i) s)
      (spWrite s.foc.core e.line 128 e.data s)

/-- Whether an access is a store that the segment in focus has journaled and that has not performed: a rewind discards it with the
operations not started (R369, R370). -/
def journaledStore (ordo : Nat) (a : Access) (s : State) : Bool :=
  decide (a.ctx = s.foc.ctx) && decide (a.h = 0) && decide (a.kind = .store) && decide (ordo ≤ a.ord)

/-- The cycles more that a rewind holds for the restoration of a line in motion, which waits for its lock (R376, R378): at most 63. -/
def lockWait (g : Segment) (s : State) : Nat × State :=
  if g.journal.any fun e => !e.spill && decide (s.core.lockedLine = some e.line) then
    let (n, s) := s.fresh
    (Config.choice n % 64, s)
  else (0, s)

/-- The context in focus rewinds in cycle f (R369): the opening bundle issues again in f + 1, and what cycle f would still write of
spill memory is discarded with the rest. An error in the journal or the checkpoint is SRC 7, which firmware takes up. -/
def rewind (s : State) : State :=
  match s.ctx.seg with
  | none => s
  | some g =>
   if g.bad then
    (takeTrap { cause := 0x14, info := info14 0 7 0 7 s, fslot := 7 } s).modCore fun k =>
      { k with todo := k.todo.filter fun x => x.1 ≠ s.foc.ctx }
   else
    let f := s.cyc
    let d := f + 1 - g.o
    let (wait, s) := lockWait g s
    let s := g.journal.foldl (fun s e => restoreLine e s) s
    let fl := g.flight.map fun l => { l with due := l.due + d }
    let st := g.starts.map fun e => { e with due := e.due + d }
    let s := s.modCtx fun c => { c with
      a := { g.ck with spill := c.a.spill, slotTag := c.a.slotTag, badSpill := c.a.badSpill }
      flight := fl
      starts := st
      faults := []
      lfault := none
      seg := some { g with journal := [], held := [], rewinds := g.rewinds + 1, o := f + 1, flight := fl, starts := st,
                           again := true }
      rewPend := true
      frm := f + 1
      noStall := true
      next := .seq
      spillW := []
      ending := false
      trapEnd := none
      chkNext := none }
    s.modCore fun k => { k with rewHold := k.rewHold + g.journal.length + 16 + wait
                                acc := k.acc.filter fun a => !journaledStore g.ordo a s
                                todo := k.todo.filter fun x => x.1 ≠ s.foc.ctx }

/-- The at-issue checks beside R63 of a C- or X-slot operation: a consumed error (R368), then its own. -/
def otherVerdict (i : Instr) (own : Verdict) (s : State) : Verdict :=
  match (if i.slot? = some .c ∨ i.slot? = some .x then corruptOf i s else none) with
  | none => own
  | some (src, pa) =>
    if canRewind s then .rewind else .trap 0x14 (info14 pa (slotCode i) i.opcode.toNat src s)

/-- A verdict other than go, carried out: the issue executes nothing. -/
def Verdict.act (v : Verdict) (slot : Nat) (s : State) : State :=
  match v with
  | .go => s
  | .trap cause info => takeTrap { cause := cause, info := info, fslot := slot } s
  | .deny info => takeTrap { cause := 0x0A, info := info, fslot := slot, r64 := true } s
  | .block w => blockOn w s
  | .hold kind => s.modCore fun k => { k with hold := some kind, holdIss := true }
  | .ask i => (s.modCore fun k => { k with hold := some 11, holdIss := true }).modCtx fun c => { c with asked := some i }
  | .rewind => Sys2Proof.Machine.rewind s

/-! ### The gate -/

/-- The start of an A, V, M or T operation, or the act of a C or X operation: a pop of an empty queue and a consumed
error are start faults (R216, R368), and else the operation has its effect. -/
def perform (i : Instr) (eff : State → State) (s : State) : State :=
  if i.slot? = some .c ∨ i.slot? = some .x then eff s
  else if s.ctx.a.queue.length < popCount i s then startFault i 6 (opInfo i 0 0 0 s) s
  else
    match corruptOf i s with
    | none => eff s
    | some (src, pa) =>
      if canRewind s then rewind s
      else startFault i 0x14 (info14 pa (slotCode i) i.opcode.toNat src s) s

/-- The checks of one operation alone, in the order of R63 and R344. -/
def verdictOf (i : Instr) (own : Verdict) (s : State) : Verdict :=
  ((verdict5 i s).orElse (verdict6 i s)).orElse (otherVerdict i own s)

/-- A slot operation: a closing operation closes the segment first (R362); where the bundle's issue has made the checks
of every slot (`foc.pre`) the operation acts, and otherwise its own checks come first. -/
def gated (i : Instr) (own : Verdict) (eff : State → State) (s : State) : Host.Outcome State Fault Refusal :=
  let s := if closing i then s.modCtx Ctx.commit else s
  if s.foc.pre then .next (perform i eff s)
  else
    match verdictOf i own s with
    | .go => .next (perform i eff s)
    | v => .next (v.act (slotCode i) s)

end Sys2Proof.Machine
end

