-- ==== Sys2Proof/Machine/Path.lean ====
section
/-! DEFINITION. Accesses on their paths: the checks of R110, where and when an access performs (R143 to R150), what it
does then, narrow releases and the promotion log (R153 to R159). -/

namespace Sys2Proof.Machine

/-! ### Handles and checks (R110, R122, R125) -/

/-- Handle n of the context in focus; h0 to h2 are always VALID and allow everything (R122, R125). -/
def handleOf (s : State) (n : Nat) : Handle :=
  if n < 3 then { st := .valid, psz := 3, rd := true, wr := true, amo := true } else rdH s n

/-- What an access needs of its handle (R125). -/
inductive Need where
  | rd | wr | amo
  deriving DecidableEq, Repr

/-- Whether a handle allows an access. -/
def Handle.allows (h : Handle) : Need → Bool
  | .rd => h.rd
  | .wr => h.wr
  | .amo => h.amo

/-- An element to check: offset, bytes, alignment. -/
structure AEl where
  off   : Nat
  size  : Nat
  align : Nat
  deriving DecidableEq, Repr

/-- Where an element through handle n lies; none when a byte is outside the extent (R94). -/
def placeEl (s : State) (n : Nat) (h : Handle) (off size : Nat) : Option Loc :=
  if n < 3 then (spPlace s s.foc.core s.lid n off size).map fun x => .sp x.1 x.2
  else if off + size ≤ pageBytes h.psz then some (.gm (h.pa + off)) else none

/-- The first check of R110 that fails: its cause and TRAPINFO (R346). `base` is the effective offset. -/
def accessCheck (s : State) (n : Nat) (need : Need) (base : Nat) (els : List AEl) : Option (Nat × Word) :=
  let h := handleOf s n
  if h.st ≠ .valid then some (0x09, BitVec.ofNat 64 n)
  else if !h.allows need then some (0x0A, BitVec.ofNat 64 base)
  else
    match els.find? fun e => decide (e.off % e.align ≠ 0) with
    | some e => some (0x0C, BitVec.ofNat 64 e.off)
    | none =>
      match els.find? fun e => (placeEl s n h e.off e.size).isNone with
      | some e => some (0x08, BitVec.ofNat 64 e.off)
      | none => none

/-- An element placed; the checks have found its place. -/
def locOf (s : State) (n off size : Nat) : Loc := (placeEl s n (handleOf s n) off size).getD (.gm 0)

/-- The path of an A access through handle n (R24, R93). -/
def aPath (n : Nat) : Path := if n = 2 then .vert else .ctxls

/-- Load latency into the queue through h0, h1 and h2 (R93); none through a translated handle. -/
def handleLat (n : Nat) : Option Nat := match n with | 0 => some 6 | 1 => some 20 | 2 => some 14 | _ => none

/-! ### Shadow versions at a store (R371) -/

/-- The version that accesses of the context in focus see. -/
def verOf (s : State) : Option Nat :=
  match s.launch? with | some l => if l.rc.shadow then some s.lid else none | none => none

/-- The virtual address of the first element whose write finds the pool of versions empty. -/
def shadowFault (s : State) (n : Nat) (els : List AEl) : Option Word :=
  let h := handleOf s n
  if n < 3 then none
  else (els.find? fun e => poolEmpty s (verOf s) (h.pa + e.off)).map fun e =>
    BitVec.ofNat 64 (h.va + e.off) ||| BitVec.ofNat 64 (2 ^ 63)

/-- The versions that a store writes are made at its start. -/
def makeVersions (n : Nat) (els : List AEl) (s : State) : State :=
  let h := handleOf s n
  if n < 3 then s
  else els.foldl (fun s e => (pieces (h.pa + e.off) e.size).foldl (fun s (a, _, _) =>
    match verOf s with
    | some _ => if inHBM a then lowWrite (verOf s) a 0 0 h.key s.vfid s else s
    | none => s) s) s

/-! ### When an access may perform -/

/-- Whether two elements share a 32-bit word (R142). -/
def Elem.meets (a b : Elem) : Bool :=
  match a.loc, b.loc with
  | .sp c x, .sp d y => decide (c = d) && decide (x / 4 * 4 < y + b.size) && decide (y / 4 * 4 < x + a.size)
  | .gm x, .gm y => decide (x / 4 * 4 < y + b.size) && decide (y / 4 * 4 < x + a.size)
  | _, _ => false

/-- Whether `a` comes before `x` in the program order of one context: its start is earlier (R163). The accesses of one
operation have no order among them (R298). -/
def Access.before (a x : Access) : Bool :=
  decide (a.ctx = x.ctx) && decide (a.id < x.id) && decide (a.ord ≠ x.ord)

/-- Whether an access is a release of scope COLUMN or wider (R149). -/
def Access.wide (a : Access) : Bool := match a.rel with | some r => decide (2 ≤ r) | none => false

/-- The accesses an action makes. -/
def Action.accs : Action → List Access
  | .access a => [a]
  | .accesses l => l
  | .launch r => [r.read]
  | _ => []

/-- The accesses that an open segment holds back (R363). -/
def Ctx.heldAccs (c : Ctx) : List Access := match c.seg with | some g => g.held.flatMap Action.accs | none => []

/-- The accesses of a core that have not performed: on their paths, and committed but still to enter them (R366). -/
def Core.waiting (k : Core) : List Access := k.acc ++ k.ctxs.flatMap fun e => e.2.entering.flatMap Action.accs

/-- Whether an access touches global memory. -/
def Access.toGlobal (a : Access) : Bool := a.els.any fun e => match e.loc with | .gm _ => true | .sp _ _ => false

/-- Whether an access may take the L1 with it when it performs: one to global memory, or a release (R149, R155). -/
def Access.onL1 (a : Access) : Bool := a.toGlobal || a.wide || a.narrow

/-- Whether what an access writes stays in the L1 of its core (R89, R144). -/
def Access.inL1 (a : Access) (k : Core) : Bool := a.ca && k.hasL1 && a.els.all fun e => match e.loc with | .gm _ => true | .sp _ _ => false

/-- Whether every dirty line leaves the L1 before an access performs: before a wide release (R149), and before a narrow one whose
store does not stay in the L1, since no such store leaves the core before the lines dirtied before it (R155, R161; DEDUCED,
log 88). -/
def Access.flushes (a : Access) (k : Core) : Bool := a.wide || (a.narrow && !a.inL1 k)

/-- Whether the oldest log entries up to generation `g` may be promoted now (R155): no access that the core issued before
the release is still to perform. Those on the L1 performed before the release took its entry (`eligible`; log 25). -/
def promotable (k : Core) (g : BitVec 16) : Bool :=
  (k.plog.filter fun e => genLe e.gen g).all fun e => k.waiting.all fun a => a.onL1 || decide (e.ord ≤ a.id)

/-- Whether every entry of the log may be promoted now. -/
def promotableAll (k : Core) : Bool := promotable k k.gen

/-- Whether a line may be written back now (R155). -/
def mayLeave (k : Core) (y : L1Line) : Bool := decide (y.dirty = 0) || promotable k y.gen

/-- The write-back set (R158): whether a dirty line belongs to the cut of a PACQ request not yet answered. -/
def inWriteBackSet (k : Core) (l : Nat) : Bool :=
  k.l1.any fun x => decide (x.pa = l) && decide (x.dirty ≠ 0)
    && k.pacq.any fun r => !r.done && (match r.cut with
      | some c => k.plog.any fun e => decide ((c - e.num).toNat < 2 ^ 31) && genLe x.gen e.gen
      | none => false)

/-- The lines of global memory an access touches. -/
def Access.lines (x : Access) : List Nat :=
  x.els.flatMap fun e => match e.loc with | .gm pa => linesOf pa e.size | .sp _ _ => []

/-- The version of pages that an access sees (R168). -/
def Access.ver (x : Access) : Option Nat := if x.shadow then some x.launch else none

/-- The L1 lines that leave the core before an access performs: those of an atomic's address (R100), and those that the
access does not find through the L1, by its page's attributes (R143), its key (R339) or its version (R168). -/
def Access.leaves (x : Access) (k : Core) : List L1Line :=
  let direct := !(x.ca && k.hasL1) || match x.kind with | .amo _ _ _ => true | _ => false
  k.l1.filter fun y => x.lines.contains y.pa && (direct || decide (y.key ≠ x.key) || decide (y.ver ≠ x.ver))

/-- The lines of a store whose bytes are in the L1 under an older generation, which a narrow release writes back first
(R155). -/
def Access.older (x : Access) (k : Core) : List L1Line :=
  if x.narrow then k.l1.filter fun y => decide (y.dirty ≠ 0) && decide (y.gen ≠ k.gen) && x.lines.contains y.pa else []

/-- Whether two accesses of one path share a location (R143). -/
def Access.meets (a x : Access) : Bool := decide (a.path = x.path) && a.els.any fun e => x.els.any fun e' => e.meets e'

/-- Whether an access reads what an earlier store of its context that a segment holds back would have written: it then takes the
store's bytes (R143, R370; DEDUCED, log 89). -/
def Access.takesFrom (x a : Access) : Bool := decide (x.kind = .load) && decide (a.key = x.key)

/-- Whether the accesses of its context before `x` let it perform (R143, R146, R149, R150, R163): a release waits for all of them,
and an acquire for the releases; a narrow release also for those that any context of the core has started on the L1
(DEDUCED, log 25). What an open segment holds back keeps its place (R370), but for the order of h0 (R366). -/
def afterEarlier (k : Core) (x : Access) : Bool :=
  let earlier := k.waiting.filter fun a => a.before x
  let held := (k.ctxAt x.ctx).heldAccs.filter fun a => a.before x
  !(earlier.any fun a => a.acq.isSome)
    && (x.acq.isNone || !((earlier ++ held).any fun a => a.rel.isSome))
    && (x.rel.isNone || earlier.isEmpty)
    && !(earlier.any fun a => a.meets x)
    && !(held.any fun a => a.meets x && !x.takesFrom a)
    && !(decide (x.h = 0) && decide (x.path = .ctxls) && earlier.any fun a => decide (a.h = 0) && decide (a.path = .ctxls))
    && (!x.narrow || !(k.waiting.any fun a => a.onL1 && decide (a.id < x.id)))

/-- Whether an access finds its lines through the L1 of its core (R89, R100). -/
def Access.byL1 (x : Access) (k : Core) : Bool :=
  x.ca && k.hasL1 && match x.kind with | .amo _ _ _ => false | _ => true

/-- The lines of the L1 that an access keeps, and how many it brings in. -/
def Access.keeps (x : Access) (k : Core) : List L1Line := k.l1.filter fun y => !(x.leaves k).contains y
def Access.brings (x : Access) (k : Core) : Nat :=
  if x.byL1 k then (x.lines.eraseDups.filter fun l => !((x.keeps k).any fun y => y.pa = l)).length else 0

/-- The lines that must leave the L1 for those that an access brings in, whose room is what the regions leave (R18, R20, R86, R89), and
the lines of which they may be; of an access larger than that room the last lines stay too (DESIGN CHOICE, log 10). -/
def Access.overflow (x : Access) (k : Core) : Nat :=
  if x.byL1 k && x.toGlobal then (x.keeps k).length + x.brings k - k.l1Lines else 0
def Access.others (x : Access) (k : Core) : List L1Line := (x.keeps k).filter fun y => !x.lines.contains y.pa

/-- Whether the lines that leave the L1 before `x` performs may leave now (R155). -/
def mayFlush (k : Core) (x : Access) : Bool :=
  (!x.flushes k || promotableAll k) && (x.leaves k ++ x.older k).all (mayLeave k)
    && decide (min (x.overflow k) (x.others k).length ≤ ((x.others k).filter (mayLeave k)).length)

/-- Whether the order of accesses lets `x` perform. -/
def inOrder (k : Core) (x : Access) : Bool := afterEarlier k x && mayFlush k x

/-- The entries of the load-address queue in use (R113). -/
def Core.loadQueue (k : Core) : Nat := (k.acc.filter fun a => decide (a.h ≠ 0) && decide (a.kind ≠ .record)).length

/-- Whether a store meets the write-back set (R158). -/
def victim (k : Core) (x : Access) : Bool := decide (x.kind = .store) && x.lines.any fun l => inWriteBackSet k l

/-- Whether a narrow release finds the log full (R159). -/
def logFull (k : Core) (x : Access) : Bool := x.narrow && decide (32 ≤ k.plog.length)

/-- Whether an access of a core may perform now. -/
def eligible (k : Core) (x : Access) : Bool := inOrder k x && !victim k x && !logFull k x

/-! ### Banks (R90) -/

/-- The lines of the bytes [a, a + n) of a core's SRAM, for their banks. -/
def spBanks (c a n : Nat) : List (Nat × Nat) := (linesOf a n).map fun l => (c, l)

/-- The lines whose banks an access needs: core and line. -/
def Access.banks (x : Access) : List (Nat × Nat) :=
  (x.els.flatMap fun e => match e.loc with
    | .sp c a => spBanks c a e.size
    | .gm _ => []).eraseDups

/-- Whether the bank of a line of a core is free for an access, and the line not in motion (R376). Rows 1 and 2 of R90 share the bank
cycle that ends with the core's turn, so that what arrives through a window before the turn is served before the core's own, and
before the array's reads at the end of the turn (row 4); an atomic, a copy and a lane (`low`: rows 3, 5 and 6) take what those left
of the cycle before, while nothing has come since. -/
def bankFree (low : Bool) (b : Nat × Nat) (s : State) : Bool :=
  !(s.coreAt b.1).claims.contains (bankOf b.2) && !(low && (s.coreAt b.1).served.contains (bankOf b.2))
    && decide ((s.coreAt b.1).lockedLine ≠ some b.2)

/-- The bank of a line taken for its cycle. -/
def takeBank (low : Bool) (b : Nat × Nat) (s : State) : State :=
  s.modCoreAt b.1 fun k =>
    if low then { k with served := bankOf b.2 :: k.served } else { k with claims := bankOf b.2 :: k.claims }

/-- Whether the bank of every one of some lines is free. -/
def allFree (low : Bool) (l : List (Nat × Nat)) (s : State) : Bool := l.all fun b => bankFree low b s

/-- The banks of some lines taken for their cycle. -/
def takeBanks (low : Bool) (l : List (Nat × Nat)) (s : State) : State := l.foldl (fun s b => takeBank low b s) s

/-- Whether an access is on the HOST path (R101, R382). -/
def Access.toHost (x : Access) : Bool := x.lines.any inHost

/-- Whether the CXL port carries accesses: one that requires IDE and is not keyed stays untrained (R382). -/
def State.hostUp (s : State) : Bool := !s.dev.cxl.ideReq || s.dev.cxl.ideKey

/-- Whether the completion timeout of a function has run out for a HOST-path access that began in base-die cycle `since` (R383). -/
def State.hostLate (s : State) (vf since : Nat) : Bool := decide (since + 1600000 * s.limit vf 6 ≤ s.dev.base)

/-- Whether the HOST path lets an access of a function that began in `since` perform. -/
def State.hostOpen (s : State) (vf since : Nat) : Bool := s.hostUp && !s.hostLate vf since

/-- Whether nothing but the order of accesses keeps an access: every bank that it needs is free, as it is served whole (DESIGN CHOICE,
log 11), and the CXL port carries it (R382, R383). -/
def banksFree (x : Access) (s : State) : Bool :=
  allFree (decide (x.path = .atom)) x.banks s && (!x.toHost || s.hostOpen x.vf x.since)

/-! ### What an access does when it performs -/

/-- Whether an array operation of issue `i` of a context has scratchpad words still to read on the core in focus (R145). -/
def arrayReads (ctx i : Nat) (s : State) : Bool :=
  decide (ctx < 4) && ((s.core.arr.pushes.any fun p => decide (p.ctx = ctx) && decide (p.ord / 8 = i))
    || (s.core.arr.loads.any fun p => decide (p.ctx = ctx) && decide (p.ord / 8 = i))
    || (s.core.ctxAt ctx).starts.any fun e => decide (e.ord / 8 = i) && decide (e.op.slot? = some .m))

/-- A write of operation `ord` of a context performs: the array operations of its own issue go on to read the SRAM as it stands before
the first of them, in whole words (R142, R145). -/
def keepOld (ctx ord : Nat) (s : State) : State :=
  if arrayReads ctx (ord / 8) s && !((s.core.ctxAt ctx).olds.any fun e => e.1 = ord / 8) then
    let sp := s.core.sp
    let live := (s.core.ctxAt ctx).olds.filter fun e => arrayReads ctx e.1 s
    s.modCtxAt s.foc.core ctx fun k => { k with olds := live ++ [(ord / 8, sp)] }
  else s

/-- The same for a write of a command, which may outlive the instance that issued it. -/
def keepOldFor (inst : InstId) (ctx ord : Nat) (s : State) : State :=
  if (s.core.ctxAt ctx).inst = some inst then keepOld ctx ord s else s

/-- Bytes of a launch's pond space at the top of each of its regions (R282). -/
def pondBytes (rc : LaunchRec) : Nat := (rc.ponds.map fun p => 4 * (p.2.2.1 + 1) + 64).sum

/-- The launch whose pond space on core `c` the bytes touch. -/
def pondSpace (s : State) (c addr n : Nat) : Option Nat :=
  ((s.coreAt c).regions.find? fun r => match s.launchAt r.launch with
    | some l => decide (r.base + r.size - pondBytes l.rc < addr + n) && decide (addr < r.base + r.size)
    | none => false).map (·.launch)

/-- A byte of the core's SRAM as an array operation of issue `i` of a context reads it (R145); one of pond storage is unpredictable
(R282). -/
def mxrByte (s : State) (ctx i addr : Nat) : Nat :=
  match pondSpace s s.foc.core addr 1 with
  | none => (((((s.core.ctxAt ctx).olds.find? fun e => e.1 = i).map Prod.snd).getD s.core.sp).byte addr).toNat
  | some _ => (Config.freeWord (2 * s.nfree + 1 + 2 ^ 40 * (addr + 1))).toNat % 256

/-- Bytes of SRAM as an array operation reads them. -/
def mxrRead (s : State) (ctx i addr : Nat) : Nat → Nat
  | 0 => 0
  | n + 1 => mxrByte s ctx i addr + 256 * mxrRead s ctx i (addr + 1) n

/-- An access to pond storage other than by PPUT and PGET leaves the ponds' contents unpredictable (R282). -/
def spoilPonds (c addr n : Nat) (s : State) : State :=
  match pondSpace s c addr n with
  | none => s
  | some l =>
    let (key, s) := s.fresh
    s.modLaunch l fun x => { x with ponds := x.ponds.map fun e => (e.1, if e.2.home = some c then
      { e.2 with words := e.2.words.zipIdx.map fun (_, j) => (Config.freeWord (key + 2 ^ 32 * (e.1 * 65536 + j))).truncate 32 }
      else e.2) }

/-- `n` bytes of a core's SRAM read; what pond storage reads as is unpredictable, and it is spoilt (R282). -/
def spTake (c a n : Nat) (s : State) : Nat × State :=
  match pondSpace s c a n with
  | none => (spRead s c a n, s)
  | some _ =>
    let (key, s) := s.fresh
    ((Config.freeVec key).toNat % 2 ^ (8 * n), spoilPonds c a n s)

/-- The ponds whose space some bytes of core `c` touch that an array operation reads are spoilt (R282). -/
def spoilRead (c : Nat) (l : List Nat) (s : State) : State :=
  match l.find? fun a => (pondSpace s c a 1).isSome with
  | some a => spoilPonds c a 1 s
  | none => s

/-- One element read. -/
def elemRead (x : Access) (ver : Option Nat) (vf : Nat) (e : Elem) (s : State) : Nat × State :=
  match e.loc with
  | .sp c a => spTake c a e.size s
  | .gm pa => globalRead s.foc.core x.ca ver pa e.size x.key vf s

/-- The words of [addr, addr + n) of a core with unpredictable states (R3). -/
def freeFull (c addr n : Nat) (s : State) : State :=
  (List.range ((addr + n + 3) / 4 - addr / 4)).foldl (fun s i =>
    let (key, s) := s.fresh
    spSetFull c (addr / 4 * 4 + 4 * i) (Config.freeBit key) s) s

/-- `n` unpredictable bytes, from freely chosen vectors of 512. -/
def freeBytes (g n : Nat) : Nat := packElems 4096 ((List.range ((n + 511) / 512)).map fun i => (Config.freeVec (g + 2 ^ 48 * i)).toNat)

/-- `n` bytes of a core's SRAM with unpredictable values and states (R3, R58). -/
def spoilBytes (c addr n : Nat) (s : State) : State :=
  let (key, s) := s.fresh
  freeFull c addr n (spWrite c addr n (freeBytes key n) s)

/-- One element written. -/
def elemWrite (x : Access) (ver : Option Nat) (vf : Nat) (e : Elem) (v : Nat) (s : State) : State :=
  match e.loc with
  | .sp c a =>
    let s := spoilPonds c a e.size s
    if x.bad then spoilBytes c a e.size s else spWrite c a e.size v s
  | .gm pa => globalWrite s.foc.core x.ca ver pa e.size v x.key vf s

/-- The corrupt line an access reads (R368). -/
def Access.poison (x : Access) (s : State) : Option (Nat × Nat) :=
  (x.els.filterMap fun e => match e.loc with
    | .sp c a => if badSp s c a e.size then some (2, lineOf a) else none
    | .gm pa => if badGlobal s pa e.size then some (3, lineOf pa) else none).head?

/-- The new value of an atomic at width w (R128, R129), its flag, and whether it writes. -/
def amoNew (op : BitVec 8) (w old a b : Nat) : Nat × Bool × Bool :=
  let m := 2 ^ w
  match op with
  | 0x30#8 => ((old + a) % m, false, true)
  | 0x31#8 => (if sintOf w old ≤ sintOf w a then old else a, false, true)
  | 0x32#8 => (if sintOf w old ≤ sintOf w a then a else old, false, true)
  | 0x33#8 => (Nat.min old a, false, true)
  | 0x34#8 => (Nat.max old a, false, true)
  | 0x35#8 => (old &&& a, false, true)
  | 0x36#8 => (old ||| a, false, true)
  | 0x37#8 => (old ^^^ a, false, true)
  | 0x38#8 => (a, false, true)
  | 0x39#8 => if old = a then (b, true, true) else (old, false, false)
  | 0x3A#8 => (if a ≤ old then 0 else old + 1, false, true)
  | 0x3B#8 => if old + a ≤ b then (old + a, true, true) else (old, false, false)
  | _ => (roundFmt (fadd 0 (decodeF 0 old) (decodeF 0 a)) 0 0 false, false, true)

/-- A queue entry of context `ctx` filled; what a colliding operation brings is unpredictable (R58). -/
def fillEntry (ctx : Nat) (entry : Option Nat) (data : Nat) (poison : Option (Nat × Nat)) (s : State) : State :=
  match entry with
  | none => s
  | some id =>
    let (key, s) := if s.foc.bad then s.fresh else (0, s)
    let x := if s.foc.bad then Config.freeVec key else BitVec.ofNat 4096 data
    s.modCtxAt s.foc.core ctx fun c => c.fill id x poison

/-- The dirty lines of the core in focus written back. -/
def writeBackAll (s : State) : State :=
  (s.core.l1.filter fun y => y.dirty ≠ 0).foldl (fun s y => l1WriteBack s.foc.core y s) s

/-- `n` freely chosen lines leave the L1 of the core in focus for those that an access brings in (R86, R89; DESIGN CHOICE, log 10). -/
def l1Evict (x : Access) : Nat → State → State
  | 0, s => s
  | n + 1, s =>
    let l := (x.others s.core).filter (mayLeave s.core)
    match l[Config.choice (2 * s.dev.evicts + 1) % l.length]? with
    | none => s
    | some y =>
      l1Evict x n ((l1Drop s.foc.core y (l1WriteBack s.foc.core y s)).modDev fun d => { d with evicts := d.evicts + 1 })

/-- What leaves the L1 before an access performs (R86, R100, R149, R155). -/
def beforePerform (x : Access) (s : State) : State :=
  let c := s.foc.core
  let s := if x.flushes s.core then writeBackAll s else s
  let s := (x.leaves s.core).foldl (fun s y => l1Drop c y (l1WriteBack c y s)) s
  let s := l1Evict x (x.overflow s.core) s
  (x.older s.core).foldl (fun s y => l1WriteBack c y s) s

/-- The log entry of a narrow release (R153). -/
def logNarrow (x : Access) (s : State) : State :=
  if x.narrow then
    s.modCore fun k => { k with
      plnum := k.plnum + 1
      plog := k.plog ++ [{ num := k.plnum + 1, gen := k.gen, core := decide (x.rel = some 1), ctx := x.ctx, ord := x.id }]
      gen := k.gen + 1 }
  else s

/-- `v`, the `m` bytes at address `b`, with those of the `n` bytes `d` at address `a` put over them. -/
def overlay (a n d b m v : Nat) : Nat :=
  (List.range n).foldl (fun v j => if b ≤ a + j ∧ a + j < b + m then putByte v (a + j - b) (d / 256 ^ j) else v) v

/-- What an element reads, with the bytes of an element still to be stored put over it. -/
def Elem.covered (e w : Elem) (v : Nat) : Nat :=
  match e.loc, w.loc with
  | .sp c b, .sp d a => if c = d then overlay a w.size w.data b e.size v else v
  | .gm b, .gm a => overlay a w.size w.data b e.size v
  | _, _ => v

/-- What an element of a load reads, with the bytes that its context's open segment holds back for it (R143, R370; DEDUCED,
log 89). -/
def withHeld (x : Access) (e : Elem) (v : Nat) (s : State) : Nat :=
  (((s.core.ctxAt x.ctx).heldAccs.filter fun a => a.before x && decide (a.path = x.path) && decide (a.kind = .store)).flatMap
    (·.els)).foldl (fun v w => e.covered w v) v

/-- An access of the core in focus performs (R144): an FLADD or FLSET is discarded where the core holds no region of the
launch (R296), an EVSIG where the instance does not exist or has ended (R308); reads fix their values and fill the entry, writes enter coherence
order, a wide release leaves no dirty line, its own included (R144, R149), an acquire of scope COLUMN or wider invalidates the L1
(R150). -/
def performAccess (x : Access) (s : State) : State :=
  let ver := x.ver
  let vf := x.vf
  let s := beforePerform x { s with foc := { s.foc with bad := x.bad } }
  let bad := x.poison s
  let s := match x.kind with | .load | .record => s | _ => keepOld x.ctx x.ord s
  let s := match x.kind with
    | .load =>
      let (data, s) := x.els.foldl (fun (acc, s) e =>
        let (v, s) := elemRead x ver vf e s
        (acc + withHeld x e v s * 2 ^ (8 * e.pos), s)) (0, s)
      fillEntry x.ctx x.entry data bad s
    | .store =>
      let s := x.els.foldl (fun s e => elemWrite x ver vf e e.data s) s
      if x.wide then writeBackAll s else s
    | .amo op a b =>
      match x.els with
      | [] => s
      | e :: _ =>
        let x' := { x with ca := false }
        let (old, s) := elemRead x' ver vf e s
        let (new, flag, wrote) := amoNew op (8 * e.size) old a b
        let s := if wrote then elemWrite x' ver vf e new s else s
        fillEntry x.ctx x.entry (old + b2n (x.status && flag) * 2 ^ 64) bad s
    | .flag target f add val =>
      match (s.coreAt target).region? x.launch with
      | none => s
      | some r =>
        let old := r.flags.get f 0
        let new := if add then old + val else val
        wake (fun w => w = .flag target x.launch f) (s.modCoreAt target fun k => { k with
          regions := k.regions.map fun q =>
            if q.launch = x.launch then { q with flags := q.flags.set f new } else q })
    | .event stage num mask =>
      wake (fun w => w = .event) (s.modLaunch x.launch fun r => { r with insts := r.insts.map fun n =>
        if n.stage = stage ∧ n.num = num ∧ n.st ≠ .ended then { n with events := n.events ||| mask } else n })
    | .record =>
      let (data, s) := x.els.foldl (fun (acc, s) e =>
        let (v, s) := elemRead x ver vf e s
        (acc + v * 2 ^ (8 * e.pos), s)) (0, s)
      s.modDev fun d => { d with lreqs := d.lreqs.map fun r => if r.id = x.id then { r with got := some (data, bad) } else r }
  let s := match x.acq with
    | some r => if 2 ≤ r then l1Invalidate s.foc.core s else s
    | none => s
  logNarrow x s

/-- An access leaves the waiting accesses, and what its context has waiting behind it may go on. -/
def dropAccess (x : Access) (s : State) : State :=
  wake (fun w => w = .earlier s.foc.core x.ctx) (s.modCore fun k => { k with acc := k.acc.filter fun a => a.id ≠ x.id })

/-- The access leaves the waiting accesses, takes its banks and performs; one of a shadowed launch that is gone has no effect
any more (R168). -/
def performNow (x : Access) (s : State) : State :=
  let s := dropAccess x s
  if x.shadow ∧ (s.launchAt x.launch).isNone = true then s
  else performAccess x (takeBanks (decide (x.path = .atom)) x.banks s)

/-! ### Starting an access -/

/-- An access starts: through h0 on CTXLS it performs at its bank in its start cycle unless the order of earlier
accesses or a taken bank makes it wait (R90, R146, R149, R150), and elsewhere it waits to perform (R147). -/
def begin (x : Access) (s : State) : State :=
  if x.h = 0 ∧ x.path = .ctxls ∧ eligible s.core x = true ∧ banksFree x s = true then performNow x s
  else enterPath (.access x) s

/-- Whether an access of a core through h0, h1 or h2 waits for its bank only (R90). -/
def waitsBank (c : Nat) (a : Access) (s : State) : Bool :=
  decide (a.h < 3) && (decide (a.path = .ctxls) || decide (a.path = .vert)) && eligible (s.coreAt c) a && !banksFree a s

/-- The kind of the hold by which an access that waits to perform holds its core (R356): for a bank (R90), a line of the write-back
set (R158), or the promotion log (R159). -/
def Access.holds (c : Nat) (s : State) (a : Access) : Option Nat :=
  let k := s.coreAt c
  if a.loose then none
  else if waitsBank c a s then some 2
  else if afterEarlier k a && victim k a then some 6
  else if afterEarlier k a && logFull k a then some 10
  else none

/-- Unpredictable operands in place of an access's own: what a colliding operation writes is unpredictable (R58); an atomic
writes the word of AMOSWP. -/
def AccKind.free (g : Nat) : AccKind → AccKind
  | .amo _ _ b => .amo 0x38#8 (Config.freeWord g).toNat b
  | .flag t f add _ => .flag t f add ((Config.freeWord g).truncate 32)
  | k => k

/-- The fields of an access that its operation and context give; its function and address space are those of its launch (R332). -/
def newAccess (n : Nat) (path : Path) (kind : AccKind) (els : List Elem) (s : State) : Access × State :=
  let (id, s) := s.newId
  let h := handleOf s n
  let (g, s) := if s.foc.bad then s.fresh else (0, s)
  ({ id := id, ctx := s.foc.ctx, ord := s.foc.ord, h := n, path := path
     kind := if s.foc.bad then kind.free g else kind
     els := if s.foc.bad then els.zipIdx.map fun (e, i) => { e with data := freeBytes (g + 2 ^ 32 * (i + 1)) e.size } else els
     ca := h.ca, key := h.key, launch := s.lid, bad := s.foc.bad, shadow := (verOf s).isSome
     vf := s.vfid, asid := s.asid, since := s.dev.base }, s)

/-- A load of elements into a new queue entry, after the checks of R110 and R111. -/
def loadOp (i : Instr) (n base : Nat) (check : List AEl) (els : List (Nat × Nat × Nat)) (acq : Option Nat) (s : State) :
    State :=
  match accessCheck s n .rd base check with
  | some (c, info) => startFault i c info s
  | none =>
    if s.ctx.a.queue.length ≥ 16 then startFault i 6 (opInfo i 0 0 0 s) s
    else
      let due := (handleLat n).map (s.cyc + ·)
      let (entry, s) := allocEntry due s
      let (x, s) := newAccess n (aPath n) .load (els.map fun (o, z, p) => { loc := locOf s n o z, size := z, pos := p }) s
      begin { x with acq := acq, entry := some entry, due := due } s

/-- The vertical-bus slots of a store's elements (R96): four for a vector's, one for each element of a scatter or a shape record, one
for each 128 bytes of a tile. -/
def storeSlots (i : Instr) (els : List (Nat × Nat × Nat)) : Nat :=
  match i with
  | .stv _ | .stvp _ => 4
  | .stg _ | .tst _ => els.length
  | .hst _ => ((els.map fun e => e.2.1).sum + 127) / 128
  | _ => 1

/-- The SRAM lines that elements touch. -/
def spLines (els : List Elem) : List Nat :=
  els.flatMap fun e => match e.loc with | .sp _ a => linesOf a e.size | .gm _ => []

/-- A store of elements (offset, bytes, value), after the checks of R110. In an open segment a store through h0 is
journaled and any other is held (R363). -/
def storeOp (i : Instr) (n base : Nat) (check : List AEl) (els : List (Nat × Nat × Nat)) (s : State) : State :=
  match accessCheck s n .wr base check with
  | some (c, info) => startFault i c info s
  | none =>
    let written : List AEl := els.map fun (o, z, _) => { off := o, size := z, align := 1 }
    match shadowFault s n written with
    | some info => startFault i 0x0B info s
    | none =>
      let s := makeVersions n written s
      let (x, s) := newAccess n (aPath n) .store
        (els.map fun (o, z, v) => { loc := locOf s n o z, size := z, data := v }) s
      if n = 0 then
        match journalFull false (spLines x.els) s with
        | some used => startFault i 0x13 (info13 i used 1 s) s
        | none => begin x (journal false (spLines x.els) s)
      else if heldFull s then startFault i 0x13 (info13 i 64 2 s) s
      else submit (.access { x with slots := storeSlots i els }) s

end Sys2Proof.Machine
end

