-- ==== Sys2Proof/Machine/Access.lean ====
section
/-! DEFINITION. The A slot's loads and stores (R114 to R116), full/empty operations (R117, R118), shape-record accesses
(R119 to R121), handles (R122 to R126), atomics (R127 to R129) and ordering operations (R130 to R132). -/

namespace Sys2Proof.Machine

/-- The effective offset of an A access, stepped in units of `size` (R54, R94). -/
def offA (f : ASlot) (size : Nat) (s : State) : Word :=
  rdS s f.xs.toNat + sext f.off + BitVec.ofInt 64 (s.foc.k * f.step.toInt * size)

/-- Access size in bytes from W. -/
def sizeW (f : ASlot) : Nat := widthBits f.w / 8

/-- ANOP: nothing. -/
def execAnop (f : ASlot) (s : State) : Host.Outcome State Fault Refusal := gated (.anop f) .go (fun s => s) s

/-! ### Loads and stores -/

/-- One element at the effective offset. -/
def oneEl (off : Word) (size align : Nat) : List AEl := [{ off := off.toNat, size := size, align := align }]

/-- Elements of equal size at 128 offsets (R115). -/
def manyEl (size : Nat) (e : Nat → Word) : List AEl :=
  (List.range 128).map fun i => { off := (e i).toNat, size := size, align := size }

/-- Offsets, sizes and positions of the lanes of an element entry. -/
def laneEls (size : Nat) (e : Nat → Word) : List (Nat × Nat × Nat) :=
  (List.range 128).map fun i => ((e i).toNat, size, 4 * i)

/-- Offset of lane i of a gather or scatter through a vector register. -/
def gatherOff (base : Word) (v : Vec) (i : Nat) : Word := base + (lane v i).signExtend 64

/-- LDQ (R114). -/
def execLdq (f : ASlot) (s : State) : Host.Outcome State Fault Refusal :=
  gated (.ldq f) .go (fun s =>
    let off := offA f (sizeW f) s
    loadOp (.ldq f) f.h.toNat off.toNat (oneEl off (sizeW f) (sizeW f)) [(off.toNat, sizeW f, 0)] none s) s

/-- LDQV (R114). -/
def execLdqv (f : ASlot) (s : State) : Host.Outcome State Fault Refusal :=
  gated (.ldqv f) .go (fun s =>
    let off := offA f 512 s
    loadOp (.ldqv f) f.h.toNat off.toNat (oneEl off 512 16) [(off.toNat, 512, 0)] none s) s

/-- LDQG (R115). -/
def execLdqg (f : ASlot) (s : State) : Host.Outcome State Fault Refusal :=
  gated (.ldqg f) .go (fun s =>
    let off := offA f (sizeW f) s
    let v := (rdV s f.dr.toNat).bits
    loadOp (.ldqg f) f.h.toNat off.toNat (manyEl (sizeW f) (gatherOff off v)) (laneEls (sizeW f) (gatherOff off v)) none s) s

/-- LDQS (R115). -/
def execLdqs (f : ASlot) (s : State) : Host.Outcome State Fault Refusal :=
  gated (.ldqs f) .go (fun s =>
    let off := offA f (sizeW f) s
    let st := rdS s f.dr.toNat
    let e (i : Nat) : Word := off + BitVec.ofNat 64 i * st
    loadOp (.ldqs f) f.h.toNat off.toNat (manyEl (sizeW f) e) (laneEls (sizeW f) e) none s) s

/-- STS (R114). -/
def execSts (f : ASlot) (s : State) : Host.Outcome State Fault Refusal :=
  gated (.sts f) .go (fun s =>
    let off := offA f (sizeW f) s
    storeOp (.sts f) f.h.toNat off.toNat (oneEl off (sizeW f) (sizeW f))
      [(off.toNat, sizeW f, (rdS s f.dr.toNat).toNat % 2 ^ widthBits f.w)] s) s

/-- STV (R114). -/
def execStv (f : ASlot) (s : State) : Host.Outcome State Fault Refusal :=
  gated (.stv f) .go (fun s =>
    let off := offA f 512 s
    storeOp (.stv f) f.h.toNat off.toNat (oneEl off 512 16) [(off.toNat, 512, (rdV s f.dr.toNat).bits.toNat)] s) s

/-- STVP (R114, R115): checked as a whole-vector access (DEDUCED, log 26); XS names the predicate. One that collides leaves the whole
vector unpredictable (R3, R58). -/
def execStvp (f : ASlot) (s : State) : Host.Outcome State Fault Refusal :=
  gated (.stvp f) .go (fun s =>
    let off : Word := sext f.off + BitVec.ofInt 64 (s.foc.k * f.step.toInt * 512)
    let v := (rdV s f.dr.toNat).bits
    let p := if s.foc.bad then BitVec.allOnes 128 else rdP s (f.xs.toNat % 8)
    storeOp (.stvp f) f.h.toNat off.toNat (oneEl off 512 16)
      ((List.range 128).filterMap fun i =>
        if p.getLsbD i then some (off.toNat + 4 * i, 4, (lane v i).toNat) else none) s) s

/-- STG (R115): of equal addresses the highest lane stays. -/
def execStg (f : ASlot) (s : State) : Host.Outcome State Fault Refusal :=
  gated (.stg f) .go (fun s =>
    let off := offA f (sizeW f) s
    let v := (rdV s f.dr.toNat).bits
    let o := (rdV s (f.dr.toNat + 1)).bits
    storeOp (.stg f) f.h.toNat off.toNat (manyEl (sizeW f) (gatherOff off o))
      ((List.range 128).map fun i =>
        ((gatherOff off o i).toNat, sizeW f, (lane v i).toNat % 2 ^ widthBits f.w)) s) s

/-! ### Full/empty operations -/

/-- The word of a full/empty operation: the core and the SRAM address; none when the checks of R110 fail. -/
def feWord (f : ASlot) (s : State) : Option (Nat × Nat) :=
  let off := offA f 4 s
  if off.toNat % 4 ≠ 0 then none else spPlace s s.foc.core s.lid f.h.toNat off.toNat 4

/-- Whether earlier accesses of the context still order a full/empty operation (R148 to R150, R163): those to scratchpads, and
acquires. -/
def feWaits (s : State) : Bool :=
  s.core.waiting.any fun a => decide (a.ctx = s.foc.ctx)
    && (a.acq.isSome || a.els.any fun e => match e.loc with | .sp _ _ => true | .gm _ => false)

/-! ### The vertical bus (R96, R97) -/

/-- The bus cycle of the n-th slot that a layer owns under a plan, from bus cycle t on; the fuel bounds the search. -/
def nthSlot (own : Nat → Bool) : Nat → Nat → Nat → Nat
  | 0, t, _ => t
  | f + 1, t, n => if own (t % 8) then (if n ≤ 1 then t else nthSlot own f (t + 1) (n - 1)) else nthSlot own f (t + 1) n

/-- The bus cycle of the last of the n slots that an h2 access of the core in focus is granted which starts in bus cycle
t (R97): the earliest of its layer that no earlier access was granted. -/
def lastSlot (n t : Nat) (s : State) : Nat :=
  let own (i : Nat) : Bool := match s.launch? with
    | none => true
    | some l => bits l.rc.slots (2 * i + 1) (2 * i) == coreLayer s.foc.core
  nthSlot own (8 * n) (max t s.core.busTo) n

/-- Whether the service of a full/empty or barrier operation at a place holds its issue (R117, R301, R302): accesses before it,
a taken bank (R90), a wait for a slot of the vertical bus (R97), or what its way through a window takes (log 11). -/
def feHeld (f : ASlot) (at' : Nat × Nat) (s : State) : Bool :=
  feWaits s || !bankFree false (at'.1, lineOf at'.2) s || (decide (f.h ≠ 0) && Config.windowHeld s.nfree)
    || (decide (f.h = 2#4) && decide (s.core.clk + 7 < lastSlot 1 s.core.clk s))

/-- The state of a word as its bank tests it; that of a word of pond storage is unpredictable (R282). -/
def fullAtBank (c a : Nat) (s : State) : Bool :=
  match pondSpace s c a 4 with | none => (s.coreAt c).full a | some _ => Config.freeBit (2 * s.nfree + 1)

/-- What a full/empty operation decides in its issue (R117, R118): a hold until the bank may serve it, a block when the
word is not in the state it needs. `full` is that state, if it needs one. A word that is not in it blocks also when the
load-data queue has no room (DESIGN CHOICE, log 17). -/
def ownFE (f : ASlot) (full : Option Bool) (s : State) : Verdict :=
  match feWord f s with
  | none => .go
  | some (c, a) =>
    if feHeld f (c, a) s then .hold 2
    else
      match full with
      | none => .go
      | some b => if fullAtBank c a s = b then .go else .block (.word c a)

/-- The effect of a full/empty operation after the checks of R110. -/
def feOp (i : Instr) (f : ASlot) (need : Need) (g : Nat → Nat → State → State) (s : State) : State :=
  let off := offA f 4 s
  match accessCheck s f.h.toNat need off.toNat (oneEl off 4 4) with
  | some (c, info) => startFault i c info s
  | none =>
    match feWord f s with
    | none => s
    | some (c, a) => g c a (spoilPonds c a 4 (takeBank false (c, lineOf a) s))

/-- A word delivered to a new entry, at the latency of R93 (R118). -/
def feFill (i : Instr) (f : ASlot) (c a data : Nat) (s : State) : State :=
  if s.ctx.a.queue.length ≥ 16 then startFault i 6 (opInfo i 0 0 0 s) s
  else
    let (id, s) := allocEntry ((handleLat f.h.toNat).map (s.cyc + ·)) s
    fillEntry s.foc.ctx (some id) data (if badSp s c a 4 then some (2, lineOf a) else none) s

/-- The state of a word set by a full/empty operation; one that collides leaves the word unpredictable (R58). -/
def setWord (c a : Nat) (full : Bool) (s : State) : State :=
  if s.foc.bad then spoilBytes c a 4 s else spSetFull c a full s

/-- LDF (R118). -/
def execLdf (f : ASlot) (s : State) : Host.Outcome State Fault Refusal :=
  gated (.ldf f) (ownFE f (some true) s)
    (feOp (.ldf f) f .rd fun c a s =>
      let (x, s) := spTake c a 4 s
      if s.ctx.a.queue.length ≥ 16 then startFault (.ldf f) 6 (opInfo (.ldf f) 0 0 0 s) s
      else
        let s := feFill (.ldf f) f c a x s
        if f.dr.getLsbD 0 then setWord c a false s else s) s

/-- STE (R118). -/
def execSte (f : ASlot) (s : State) : Host.Outcome State Fault Refusal :=
  gated (.ste f) (ownFE f (some false) s)
    (feOp (.ste f) f .wr fun c a s =>
      setWord c a true (spWrite c a 4 ((rdS s f.dr.toNat).toNat % 2 ^ 32) (keepOld s.foc.ctx s.foc.ord s))) s

/-- SETF and SETE: through h0 in an open segment the line is journaled (R363). -/
def setState (i : Instr) (f : ASlot) (full : Bool) (s : State) : State :=
  feOp i f .wr (fun c a s =>
    if f.h = 0 then
      match journalFull false [lineOf a] s with
      | some used => startFault i 0x13 (info13 i used 1 s) s
      | none => setWord c a full (journal false [lineOf a] s)
    else setWord c a full s) s

/-- SETF (R118). -/
def execSetf (f : ASlot) (s : State) : Host.Outcome State Fault Refusal :=
  gated (.setf f) (ownFE f none s) (setState (.setf f) f true) s

/-- SETE (R118). -/
def execSete (f : ASlot) (s : State) : Host.Outcome State Fault Refusal :=
  gated (.sete f) (ownFE f none s) (setState (.sete f) f false) s

/-- TSTF (R118): a status entry. -/
def execTstf (f : ASlot) (s : State) : Host.Outcome State Fault Refusal :=
  gated (.tstf f) (ownFE f none s)
    (feOp (.tstf f) f .rd fun c a s =>
      let full := fullAtBank c a s
      let (x, s) := spTake c a 4 s
      feFill (.tstf f) f c a (x + b2n full * 2 ^ 64) s) s

/-! ### Shape records (R119 to R121) -/

/-- Fields of a shape record. -/
def shBase (r : Nat) : Nat := bits r 31 0
def shFmt (r : Nat) : Nat := bits r 34 32
def shRank (r : Nat) : Nat := bits r 37 35
def shPerm (r : Nat) : Nat := bits r 39 38
def shExt (r j : Nat) : Nat := bits r (75 + 12 * j) (64 + 12 * j)
def shStr (r j : Nat) : Nat := bits r (147 + 18 * j) (130 + 18 * j)

/-- permute (R121). -/
def permute (a : Word) (c1 : Int) (p : Nat) : Word :=
  let b := (((bits a.toNat 8 7 : Nat) : Int) + p * c1) % 4
  BitVec.ofNat 64 (a.toNat - bits a.toNat 8 7 * 128 + b.toNat * 128)

/-- The elements of TLD and TST that are in bounds: lane and offset (R120). -/
def tensorEls (f : ASlot) (s : State) : List (Nat × Word) :=
  let r := (rdSh s (f.off.toNat / 2 ^ 23 % 8)).toNat
  let rank := shRank r
  let c (j : Nat) : Int :=
    (if f.xs = 0 then 0 else (rdS s (f.xs.toNat + j)).toInt) + (if j = 0 then s.foc.k * f.step.toInt else 0)
  let es := fmtSize (shFmt r)
  let dims := (List.range rank).filter (1 ≤ ·)
  let outer := dims.all fun j => decide (0 ≤ c j) && decide (c j ≤ shExt r j)
  let sum := (dims.map fun j => c j * shStr r j).sum
  let c1 := if rank = 1 then 0 else c 1
  (List.range 128).filterMap fun (i : Nat) =>
    if outer && decide (0 ≤ c 0 + i) && decide (c 0 + i ≤ shExt r 0) then
      some (i, permute (BitVec.ofInt 64 (shBase r + sintOf 23 f.off.toNat + es * (c 0 + i + sum))) c1 (shPerm r))
    else none

/-- Whether TLD and TST refuse their record (R120): RANK 0, too many coordinates, PERM through a translated handle. -/
def tensorBad (f : ASlot) (s : State) : Bool :=
  let r := (rdSh s (f.off.toNat / 2 ^ 23 % 8)).toNat
  decide (shRank r = 0) || (decide (f.xs ≠ 0) && decide (f.xs.toNat + shRank r - 1 > 31))
    || (decide (shPerm r ≠ 0) && decide (f.h.toNat ≥ 3))

/-- The offset that a permission fault of TLD or TST reports: its first in-bound element (R346). -/
def tensorBase (l : List (Nat × Word)) : Nat := match l with | (_, o) :: _ => o.toNat | [] => 0

/-- Bytes of an element of the record a TLD or TST names. -/
def tensorSize (f : ASlot) (s : State) : Nat := fmtSize (shFmt (rdSh s (f.off.toNat / 2 ^ 23 % 8)).toNat)

/-- The elements to check. -/
def tensorCheck (f : ASlot) (s : State) : List AEl :=
  (tensorEls f s).map fun x => { off := x.2.toNat, size := tensorSize f s, align := tensorSize f s }

/-- TLD (R120). -/
def execTld (f : ASlot) (s : State) : Host.Outcome State Fault Refusal :=
  gated (.tld f) .go (fun s =>
    if tensorBad f s then startFault (.tld f) 6 (opInfo (.tld f) 5 (f.off.toNat / 2 ^ 23 % 8) 0 s) s
    else
      loadOp (.tld f) f.h.toNat (tensorBase (tensorEls f s)) (tensorCheck f s)
        ((tensorEls f s).map fun x => (x.2.toNat, tensorSize f s, 4 * x.1)) none s) s

/-- TST (R120): clipped elements are dropped. -/
def execTst (f : ASlot) (s : State) : Host.Outcome State Fault Refusal :=
  gated (.tst f) .go (fun s =>
    if tensorBad f s then startFault (.tst f) 6 (opInfo (.tst f) 5 (f.off.toNat / 2 ^ 23 % 8) 0 s) s
    else
      let v := (rdV s f.dr.toNat).bits
      storeOp (.tst f) f.h.toNat (tensorBase (tensorEls f s)) (tensorCheck f s)
        ((tensorEls f s).map fun x =>
          (x.2.toNat, tensorSize f s, (lane v x.1).toNat % 2 ^ (8 * tensorSize f s))) s) s

/-! ### Handles -/

/-- Whose a miss of the XLT in focus is. -/
def xltUser (s : State) : Nat × Nat := (4 * s.foc.core + s.foc.ctx + 1, s.foc.ord)

/-- XLT (R123): the translation through the TLBs and, on a miss, a walk; a page fault is a start fault. -/
def execXlt (f : ASlot) (s : State) : Host.Outcome State Fault Refusal :=
  gated (.xlt f) .go (fun s =>
    let va := rdS s f.xs.toNat + sext f.off
    if va.toNat ≥ 2 ^ 52 then startFault (.xlt f) 0x0B va s
    else
      let (h, s) := translateFor (xltUser s) s.foc.core s.asid va.toNat s
      let s := missesLeave (xltUser s) s
      match h with
      | none => startFault (.xlt f) 0x0B va s
      | some h =>
        postS (f.dr.toNat % 32) 8 (BitVec.ofNat 64 (va.toNat % pageBytes h.psz))
          (post ⟨.h, f.h.toNat⟩ 8 (.handle h) s)) s

/-- HDROP (R124). -/
def execHdrop (f : ASlot) (s : State) : Host.Outcome State Fault Refusal :=
  gated (.hdrop f) .go (fun s =>
    let (key, s) := if s.foc.bad then s.fresh else (0, s)
    let h : Handle := if s.foc.bad then s.ctx.freeHandle key else {}
    s.modArch fun a => { a with h := a.h.set f.h.toNat h }) s

/-- The word of HINFO (R125). -/
def handleWord (h : Handle) : Word :=
  BitVec.ofNat 64 ((match h.st with | .empty => 0 | .valid => 1 | .revoked => 2) * 2 ^ 62 + h.psz % 4 * 2 ^ 60
    + b2n h.rd * 2 ^ 59 + b2n h.wr * 2 ^ 58 + b2n h.amo * 2 ^ 57 + b2n h.ca * 2 ^ 56 + h.lay % 4 * 2 ^ 54
    + h.key % 1024 * 2 ^ 44)

/-- HINFO (R125). -/
def execHinfo (f : ASlot) (s : State) : Host.Outcome State Fault Refusal :=
  gated (.hinfo f) .go (fun s => postS (f.dr.toNat % 32) 2 (handleWord (handleOf s f.h.toNat)) s) s

/-! ### Atomics -/

/-- An atomic starts (R127): an acquire and release at SC from CORE on (R148). -/
def amoOp (i : Instr) (f : ASlot) (status : Bool) (s : State) : State :=
  let n := f.h.toNat
  let off := offA f 0 s
  let w := sizeW f
  match accessCheck s n .amo off.toNat (oneEl off w w) with
  | some (c, info) => startFault i c info s
  | none =>
    match shadowFault s n (oneEl off w w) with
    | some info => startFault i 0x0B info s
    | none =>
      if s.ctx.a.queue.length ≥ 16 then startFault i 6 (opInfo i 0 0 0 s) s
      else
        let a := (rdS s f.dr.toNat).toNat % 2 ^ widthBits f.w
        let b := (rdS s (f.dr.toNat + 1)).toNat % 2 ^ widthBits f.w
        let s := makeVersions n (oneEl off w w) s
        let due := (handleLat n).map (s.cyc + 2 + ·)
        let (entry, s) := allocEntry due s
        let (x, s) := newAccess n .atom (.amo i.opcode a (if status then b else 0))
          [{ loc := locOf s n off.toNat w, size := w }] s
        let sc := if f.sc = 0 then none else some f.sc.toNat
        enterPath (.access { x with acq := sc, rel := sc, entry := some entry, status := status, due := due }) s

/-- AMOADD (R128). -/
def execAmoadd (f : ASlot) (s : State) : Host.Outcome State Fault Refusal :=
  gated (.amoadd f) .go (amoOp (.amoadd f) f false) s

/-- AMOMIN (R128). -/
def execAmomin (f : ASlot) (s : State) : Host.Outcome State Fault Refusal :=
  gated (.amomin f) .go (amoOp (.amomin f) f false) s

/-- AMOMAX (R128). -/
def execAmomax (f : ASlot) (s : State) : Host.Outcome State Fault Refusal :=
  gated (.amomax f) .go (amoOp (.amomax f) f false) s

/-- AMOMINN (R128). -/
def execAmominn (f : ASlot) (s : State) : Host.Outcome State Fault Refusal :=
  gated (.amominn f) .go (amoOp (.amominn f) f false) s

/-- AMOMAXN (R128). -/
def execAmomaxn (f : ASlot) (s : State) : Host.Outcome State Fault Refusal :=
  gated (.amomaxn f) .go (amoOp (.amomaxn f) f false) s

/-- AMOAND (R128). -/
def execAmoand (f : ASlot) (s : State) : Host.Outcome State Fault Refusal :=
  gated (.amoand f) .go (amoOp (.amoand f) f false) s

/-- AMOOR (R128). -/
def execAmoor (f : ASlot) (s : State) : Host.Outcome State Fault Refusal :=
  gated (.amoor f) .go (amoOp (.amoor f) f false) s

/-- AMOXOR (R128). -/
def execAmoxor (f : ASlot) (s : State) : Host.Outcome State Fault Refusal :=
  gated (.amoxor f) .go (amoOp (.amoxor f) f false) s

/-- AMOSWP (R128). -/
def execAmoswp (f : ASlot) (s : State) : Host.Outcome State Fault Refusal :=
  gated (.amoswp f) .go (amoOp (.amoswp f) f false) s

/-- AMOCAS (R128). -/
def execAmocas (f : ASlot) (s : State) : Host.Outcome State Fault Refusal :=
  gated (.amocas f) .go (amoOp (.amocas f) f true) s

/-- AMOINCW (R129). -/
def execAmoincw (f : ASlot) (s : State) : Host.Outcome State Fault Refusal :=
  gated (.amoincw f) .go (amoOp (.amoincw f) f false) s

/-- AMOBFA (R129). -/
def execAmobfa (f : ASlot) (s : State) : Host.Outcome State Fault Refusal :=
  gated (.amobfa f) .go (amoOp (.amobfa f) f true) s

/-- AMOFADD (R128). -/
def execAmofadd (f : ASlot) (s : State) : Host.Outcome State Fault Refusal :=
  gated (.amofadd f) .go (amoOp (.amofadd f) f false) s

/-! ### Ordering operations -/

/-- LDACQ (R130, R150). -/
def execLdacq (f : ASlot) (s : State) : Host.Outcome State Fault Refusal :=
  gated (.ldacq f) .go (fun s =>
    let off := offA f (sizeW f) s
    loadOp (.ldacq f) f.h.toNat off.toNat (oneEl off (sizeW f) (sizeW f)) [(off.toNat, sizeW f, 0)] (some f.sc.toNat) s) s

/-- STREL (R130, R149): narrow at CTX and CORE (R148); held in an open segment (R363). -/
def execStrel (f : ASlot) (s : State) : Host.Outcome State Fault Refusal :=
  gated (.strel f) .go (fun s =>
    let n := f.h.toNat
    let w := sizeW f
    let off := offA f w s
    match accessCheck s n .wr off.toNat (oneEl off w w) with
    | some (c, info) => startFault (.strel f) c info s
    | none =>
      match shadowFault s n (oneEl off w w) with
      | some info => startFault (.strel f) 0x0B info s
      | none =>
        if heldFull s then startFault (.strel f) 0x13 (info13 (.strel f) 64 2 s) s
        else
          let (x, s) := newAccess n (aPath n) .store
            [{ loc := locOf s n off.toNat w, size := w, data := (rdS s f.dr.toNat).toNat % 2 ^ widthBits f.w }]
            (makeVersions n (oneEl off w w) s)
          let x := { x with rel := some f.sc.toNat, narrow := decide (f.sc.toNat ≤ 1) }
          if s.ctx.seg.isSome then submit (.access x) s else begin x s) s

/-- The cores on which a member of group g of the launch in focus is bound (R156); none without such an entry. -/
def groupCores (g : Nat) (s : State) : Option (List Nat) :=
  s.launch?.bind fun l => (l.rc.groups.find? fun e => e.1 = g).map fun e =>
    (l.insts.filterMap fun n => match n.st with
      | .bound c _ => if e.2.any fun r => r.1 = n.stage && r.2.1 ≤ n.num && n.num ≤ r.2.2 then some c else none
      | _ => none).eraseDups

/-- The target cores of a PACQ (R156); none when its scalar is refused (R131). -/
def pacqTargets (f : ASlot) (s : State) : Option (List Nat) :=
  let x := (rdS s (f.dr.toNat % 32)).toNat
  if x ≥ 256 then none else if f.dr.getLsbD 5 then groupCores x s else some [x]

/-- PACQ sends its requests (R156). -/
def pacqBegin (f : ASlot) (s : State) : State :=
  let s := s.modCtx fun c => { c with begun := true }
  ((pacqTargets f s).getD []).foldl (fun s t =>
    let (id, s) := s.newId
    s.modCoreAt t fun k => { k with pacq := k.pacq ++ [{ id := id, core := s.foc.core, target := t, vf := s.vfid }] }) s

/-- Whether some target has not answered the requests of the core in focus. -/
def pacqOpen (s : State) : Bool := s.cores.any fun e => e.2.pacq.any fun r => decide (r.core = s.foc.core) && !r.done

/-- The answered requests of the core in focus are withdrawn. -/
def pacqClear (s : State) : State :=
  { s with cores := s.cores.map fun e => (e.1, { e.2 with pacq := e.2.pacq.filter fun r => r.core ≠ s.foc.core || !r.done }) }

/-- PACQ (R131, R156): after the hold of its promotions (kind 5), the flag is read as an acquire. -/
def execPacq (f : ASlot) (s : State) : Host.Outcome State Fault Refusal :=
  gated (.pacq f) .go (fun s =>
    let off := offA f (sizeW f) s
    let s := s.modCtx fun c => { c with begun := false }
    match pacqTargets f s with
    | none => startFault (.pacq f) 6 (opInfo (.pacq f) 0 (f.dr.toNat % 32) 0 s) s
    | some _ =>
      loadOp (.pacq f) f.h.toNat off.toNat (oneEl off (sizeW f) (sizeW f)) [(off.toNat, sizeW f, 0)] (some f.sc.toNat)
        (pacqClear s)) s

/-- The copies and jobs of the context in focus that have been committed and still enter their paths (R366). -/
def enteringCopies (s : State) : Bool := s.ctx.entering.any fun a => match a with | .copy _ => true | _ => false
def enteringJobs (s : State) : Bool := s.ctx.entering.any fun a => match a with | .job _ => true | _ => false

/-- Elements of a command. -/
def CopyCmd.count (c : CopyCmd) : Nat := c.rows * c.cols

/-- Source offset of element i. -/
def CopyCmd.srcOff (c : CopyCmd) (i : Nat) : Word :=
  c.so + BitVec.ofInt 64 (((i / c.cols : Nat) : Int) * c.spitch + (i % c.cols * fmtSize c.fs : Nat))

/-- Destination offset of element i; COPYT exchanges rows and columns. -/
def CopyCmd.dstOff (c : CopyCmd) (i : Nat) : Word :=
  if c.op = 3 then c.dofs + BitVec.ofInt 64 (((i % c.cols : Nat) : Int) * c.dpitch + (i / c.cols * fmtSize c.fd : Nat))
  else c.dofs + BitVec.ofInt 64 (((i / c.cols : Nat) : Int) * c.dpitch + (i % c.cols * fmtSize c.fd : Nat))

/-- Whether a copy command writes to the host window: its handle's page, or one that its destination runs on into (R135). -/
def CopyCmd.host (s : State) (c : CopyCmd) : Bool :=
  decide (3 ≤ c.dstH) && (inHost c.dst.pa || (List.range (c.count - c.done)).any fun i =>
    let va := (BitVec.ofNat 64 c.dst.va + c.dstOff (c.done + i)).toNat
    match walkPage s.dev c.dst.asid va with | some h => inHost h.pa | none => false)

/-- The conditions of DRN for its earlier mask, at scope `sc` (R152), over what started or issued before this cycle (R163);
commands of the instance may run on a core that it has left (R289). No packet of the tarn link is sent on behalf of a
context by an instruction, so the path LINK has nothing to wait for, and of the host-bound messages only writes are a
context's (DEDUCED, log 18). -/
def drained (mask sc : Nat) (s : State) : Bool :=
  let k := s.core
  let old (id : Nat) : Bool := decide (id < k.mark)
  let acc := k.waiting.filter fun a => decide (a.ctx = s.foc.ctx) && old a.id
  let mine (c id : Nat) : Bool := decide (c = s.foc.ctx) && old id
  let own (i : InstId) (id : Nat) : Bool := decide (s.ctx.inst = some i) && old id
  let copies := s.cores.flatMap fun e => e.2.copyq.filter fun c => own c.inst c.id
  (!bit mask 0 || (!(acc.any fun a => decide (a.path = .ctxls)) && (decide (sc < 2) || (k.l1.all fun x => decide (x.dirty = 0)))))
    && (!bit mask 1 || (copies.isEmpty && !enteringCopies s))
    && (!bit mask 2 || !(k.arr.pushes.any fun p => mine p.ctx p.id && p.sp
      && decide (p.k < p.n)) && !(k.arr.loads.any fun l => mine l.ctx l.id))
    && (!bit mask 3 || (!((s.cores.flatMap (·.2.jobq) ++ s.dev.jobs).any fun j => j.live && own j.inst j.id)
      && !enteringJobs s))
    && (!bit mask 4 || !(acc.any fun a => decide (a.path = .atom)))
    && (!bit mask 5 || !(acc.any fun a => decide (a.path = .vert)))
    && (!bit mask 7 || (!(acc.any Access.toHost) && (k.l1.all fun x => decide (x.dirty = 0) || !inHost x.pa)
      && !(copies.any (CopyCmd.host s)) && !enteringCopies s))

/-- What a DRN does to the paths of its later mask (R152): the L1 loses its clean bytes at COLUMN and wider. -/
def drnAct (f : ASlot) (s : State) : State :=
  let l := bits f.off.toNat 15 8
  if 2 ≤ f.sc.toNat ∧ (bit l 0 || bit l 4 || bit l 5) = true then l1Invalidate s.foc.core s else s

/-- DRN (R132, R152): after its hold (kind 5), the L1 is invalidated for the later A paths at COLUMN and wider. -/
def execDrn (f : ASlot) (s : State) : Host.Outcome State Fault Refusal :=
  gated (.drn f) .go (drnAct f) s

end Sys2Proof.Machine
end

