-- ==== Sys2Proof/Machine/Sync.lean ====
section
/-! DEFINITION. Synchronisation and work creation: tags (R133, R139 to R141), flags (R296 to R299), barrier objects (R300
to R302), held services (R303 to R307), events (R308 to R310), LAUNCH and LWAIT (R311 to R314), deferral (R315 to R318),
MFLUSH and CNTRD (R103, R104). -/

namespace Sys2Proof.Machine

/-! ### Tags (R133) -/

/-- A word with one bit. -/
def oneBit (t : Nat) : Word := BitVec.ofNat 64 (2 ^ t)

/-- Whether a tag is PENDING. -/
def Arch.pending (a : Arch) (t : Nat) : Bool := bit a.tagPend.toNat t

/-- A tag made PENDING. -/
def Arch.tagOpen (a : Arch) (t : Nat) : Arch :=
  { a with tagPend := a.tagPend ||| oneBit t, tagDone := a.tagDone &&& ~~~oneBit t }

/-- A PENDING tag made DONE, or IDLE after a fault. -/
def Arch.tagClose (a : Arch) (t : Nat) (done : Bool) : Arch :=
  { a with tagPend := a.tagPend &&& ~~~oneBit t
           tagDone := if done then a.tagDone ||| oneBit t else a.tagDone &&& ~~~oneBit t }

/-- The context in focus takes a tag. -/
def tagStart (t : Nat) (s : State) : State := s.modArch fun a => a.tagOpen t

/-- The context that runs an instance is changed by `g`, or by `h` its record when the instance is saved. -/
def forInst (i : InstId) (g : Ctx → Ctx) (h : InstRec → InstRec) (s : State) : State :=
  (s.mapCtxs fun c => if c.inst = some i then g c else c).modLaunch i.launch fun l =>
    if i.batch.isSome then l
    else { l with insts := l.insts.map fun r =>
      if r.stage = i.stage ∧ r.num = i.num ∧ r.st = .saved then h r else r }

/-- The saved part of a context and of its checkpoint changed alike. -/
def Ctx.both (c : Ctx) (g : Arch → Arch) : Ctx :=
  { c with a := g c.a, seg := c.seg.map fun x => { x with ck := g x.ck } }

/-- A context that waits on its tags is woken (R286). -/
def Ctx.wakeTags (c : Ctx) : Ctx :=
  if c.st = .blocked ∧ c.wait = some .tags then { c with woken := true } else c

/-- The clean bytes of every core's L1 dropped. -/
def dropClean (s : State) : State := s.cores.foldl (fun s e => l1Invalidate e.1 s) s

/-- A watch has fired: its word is set FULL (R140); pond storage is spoilt (R282). An LDF that observes this FULL counts as a DRN
between the copies and its later reads at the watch's scope (R165): at COLUMN and wider no L1 keeps what it read before. -/
def Watch.fire (w : Watch) (s : State) : State :=
  spSetFull w.core w.addr true (spoilPonds w.core w.addr 4 (if 2 ≤ w.sc then dropClean s else s))

/-- Whether every tag of a watch is DONE. -/
def Watch.ready (w : Watch) (done : Word) : Bool := decide (w.mask &&& ~~~done = 0)

/-- The watches of an instance that are ready now, in use and saved. -/
def readyWatches (i : InstId) (s : State) : List Watch :=
  (s.cores.flatMap fun k => k.2.ctxs.flatMap fun c =>
      if c.2.inst = some i then c.2.watches.filter fun w => w.ready c.2.a.tagDone else [])
    ++ (match s.launchAt i.launch with
        | none => []
        | some l =>
          (l.orphans.filter fun o => decide (o.1 = i) && decide (o.2.mask = 0)).map Prod.snd
            ++ if i.batch.isSome then []
               else l.insts.flatMap fun r =>
                 if r.stage = i.stage ∧ r.num = i.num ∧ r.st = .saved then
                   match r.saved with | some a => r.watches.filter fun w => w.ready a.tagDone | none => []
                 else [])

/-- The ready watches of an instance fire and are gone (R140). -/
def fireWatches (i : InstId) (s : State) : State :=
  let l := readyWatches i s
  let s := forInst i (fun c => { c with watches := c.watches.filter fun w => !w.ready c.a.tagDone })
    (fun r => match r.saved with
      | some a => { r with watches := r.watches.filter fun w => !w.ready a.tagDone }
      | none => r) s
  let s := s.modLaunch i.launch fun x => { x with orphans := x.orphans.filter fun o => o.1 ≠ i || decide (o.2.mask ≠ 0) }
  l.foldl (fun s w => w.fire s) s

/-- A command of an instance has completed: its tag is DONE (R138). -/
def tagComplete (i : InstId) (t : Nat) (s : State) : State :=
  let s := forInst i (fun c => { (c.both fun a => a.tagClose t true).wakeTags with tagNew := c.tagNew ||| oneBit t })
    (fun r => { r with saved := r.saved.map fun a => a.tagClose t true }) s
  let s := s.modLaunch i.launch fun l => { l with orphans := l.orphans.map fun o =>
    if o.1 = i then (o.1, { o.2 with mask := o.2.mask &&& ~~~oneBit t }) else o }
  fireWatches i s

/-- A trap record of an asynchronous trap. -/
def asyncTrap (cause : Nat) (info : Word) : TrapReq := { cause := cause, info := info }

/-- A command of an instance has faulted (R137, R312): its tag is IDLE, watches on the tag are cancelled (R140), the trap
is raised before the context's next issue. -/
def tagFault (i : InstId) (t cause : Nat) (info : Word) (s : State) : State :=
  let keep (w : Watch) : Bool := !bit w.mask.toNat t
  let s := forInst i
    (fun c => ({ c.both fun a => a.tagClose t false with watches := c.watches.filter keep }).pendTrap (asyncTrap cause info))
    (fun r => { r with saved := r.saved.map fun a => a.tagClose t false
                       watches := r.watches.filter keep
                       pend := r.pend ++ [asyncTrap cause info] }) s
  s.modLaunch i.launch fun l => { l with orphans := l.orphans.filter fun o => o.1 ≠ i || keep o.2 }

/-- The instance of the context in focus; a context that runs nothing has launch 0. -/
def State.instHere (s : State) : InstId := s.ctx.inst.getD { launch := 0, stage := 0, num := 0 }

/-- Trap 0x06 of an operation without a register to name, of a scalar register, and of a handle (R64; log 54). -/
def trap6 (i : Instr) (s : State) : Verdict := .trap 6 (opInfo i 0 0 0 s)
def trap6S (i : Instr) (n : Nat) (s : State) : Verdict := .trap 6 (opInfo i 0 n 0 s)
def trap6H (i : Instr) (n : Nat) (s : State) : Verdict := .trap 6 (opInfo i 4 n 0 s)

/-- The tag check (R133). -/
def tagCheck (i : Instr) (t : Nat) (s : State) : Verdict := if s.ctx.a.pending t then trap6 i s else .go

/-- The held buffer's check (R366). -/
def heldCheck (i : Instr) (s : State) : Verdict := if heldFull s then .trap 0x13 (info13 i 64 2 s) else .go

/-- The checks of R110 as an issue's own. -/
def accessVerdict (s : State) (n : Nat) (need : Need) (base : Nat) (els : List AEl) : Verdict :=
  match accessCheck s n need base els with
  | some (c, info) => .trap c info
  | none => .go

/-- XNOP: nothing. -/
def execXnop (f : XSlot) (s : State) : Host.Outcome State Fault Refusal := gated (.xnop f) .go (fun s => s) s

/-- WAITANY (R139). -/
def ownWaitany (f : XSlot) (s : State) : Verdict :=
  let m := rdS s f.sa.toNat
  let a := s.ctx.a
  if m &&& (a.tagDone ||| a.tagPend) = 0 then trap6S (.waitany f) f.sa.toNat s
  else if m &&& a.tagDone = 0 then .block .tags else .go

/-- WAITANY writes the tags that are DONE (R139). -/
def execWaitany (f : XSlot) (s : State) : Host.Outcome State Fault Refusal :=
  gated (.waitany f) (ownWaitany f s)
    (fun s => postS f.sb.toNat 1 (s.ctx.a.tagDone &&& rdS s f.sa.toNat) s) s

/-- WAITALL (R139). -/
def ownWaitall (f : XSlot) (s : State) : Verdict :=
  let m := rdS s f.sa.toNat
  let a := s.ctx.a
  if m &&& ~~~(a.tagDone ||| a.tagPend) ≠ 0 then trap6S (.waitall f) f.sa.toNat s
  else if m &&& ~~~a.tagDone ≠ 0 then .block .tags else .go

/-- WAITALL (R139): nothing else. -/
def execWaitall (f : XSlot) (s : State) : Host.Outcome State Fault Refusal :=
  gated (.waitall f) (ownWaitall f s) (fun s => s) s

/-- FFRDY's checks (R140). -/
def ownFfrdy (f : XSlot) (s : State) : Verdict :=
  let m := rdS s f.sa.toNat
  let off := rdS s f.sb.toNat
  (accessVerdict s f.h.toNat .wr off.toNat (oneEl off 4 4)).orElse
    (if m &&& ~~~(s.ctx.a.tagDone ||| s.ctx.a.tagPend) ≠ 0 then trap6S (.ffrdy f) f.sa.toNat s
     else if s.ctx.watches.length ≥ 8 then trap6 (.ffrdy f) s else .go)

/-- FFRDY (R140). -/
def execFfrdy (f : XSlot) (s : State) : Host.Outcome State Fault Refusal :=
  gated (.ffrdy f) (ownFfrdy f s) (fun s =>
    match spPlace s s.foc.core s.lid f.h.toNat (rdS s f.sb.toNat).toNat 4 with
    | none => s
    | some (c, a) =>
      fireWatches s.instHere (s.modCtx fun x => { x with
        watches := x.watches ++ [{ mask := rdS s f.sa.toNat, core := c, addr := a, sc := f.sc.toNat }] })) s

/-- TAGCLR (R141). -/
def execTagclr (f : XSlot) (s : State) : Host.Outcome State Fault Refusal :=
  gated (.tagclr f) .go (fun s => clearTags (rdS s f.sa.toNat) s) s

/-! ### Flags -/

/-- Flag f of the issuing context's launch on its core. -/
def flagOf (f : Nat) (s : State) : BitVec 32 :=
  match s.core.region? s.lid with | some r => r.flags.get f 0 | none => 0

/-- The access of a flag operation to one core (R296, R304). -/
def flagAccess (sc target f : Nat) (add : Bool) (val : BitVec 32) (s : State) : Access × State :=
  let (x, s) := newAccess 0 .atom (.flag target f add val) [] s
  ({ x with rel := some sc }, s)

/-- FLADD (R297). -/
def execFladd (f : ASlot) (s : State) : Host.Outcome State Fault Refusal :=
  gated (.fladd f) .go (fun s =>
    let t := (rdS s f.xs.toNat).toNat
    let v := (rdS s f.dr.toNat).toNat
    if t ≥ 256 then startFault (.fladd f) 6 (opInfo (.fladd f) 0 f.xs.toNat 0 s) s
    else if v ≥ 2 ^ 32 then startFault (.fladd f) 6 (opInfo (.fladd f) 0 f.dr.toNat 0 s) s
    else if heldFull s then startFault (.fladd f) 0x13 (info13 (.fladd f) 64 2 s) s
    else
      let target := if f.xs = 0 then s.foc.core else t
      let (x, s) := flagAccess f.sc.toNat target (f.off.toNat % 64) true (BitVec.ofNat 32 v) s
      submit (.access x) s) s

/-- The target cores of an FLSET (R298); none for a group index without an entry. -/
def flsetTargets (f : ASlot) (s : State) : Option (List Nat) :=
  let x := (rdS s f.xs.toNat).toNat
  if f.off.getLsbD 6 then if x ≥ 256 then none else groupCores x s
  else some (((List.range 64).filter fun i => bit x i).map fun i => 64 * bits f.off.toNat 8 7 + i)

/-- FLSET (R298). -/
def execFlset (f : ASlot) (s : State) : Host.Outcome State Fault Refusal :=
  gated (.flset f) .go (fun s =>
    let v := (rdS s f.dr.toNat).toNat
    if v ≥ 2 ^ 32 then startFault (.flset f) 6 (opInfo (.flset f) 0 f.dr.toNat 0 s) s
    else
      match flsetTargets f s with
      | none => startFault (.flset f) 6 (opInfo (.flset f) 0 f.xs.toNat 0 s) s
      | some ts =>
        if heldFull s then startFault (.flset f) 0x13 (info13 (.flset f) 64 2 s) s
        else
          let (l, s) := ts.foldl (fun (acc, s) t =>
            let (x, s) := flagAccess f.sc.toNat t (f.off.toNat % 64) false (BitVec.ofNat 32 v) s
            (acc ++ [x], s)) (([] : List Access), s)
          submit (.accesses l) s) s

/-- FLWAIT's condition (R299). -/
def flagMeets (cond : Nat) (v c : BitVec 32) : Bool :=
  match cond with | 0 => decide (c.toNat ≤ v.toNat) | 1 => decide (v = c) | _ => decide (v ≠ c)

/-- Whether an acquire decided at its own core comes after an acquire or a release of its context that has not performed (R143, R150,
R163, R304). FLWAIT and EVWAIT hold for no cycles (R303): they then block until an access of the context performs (DEDUCED,
log 19). -/
def actsAfter (s : State) : Bool :=
  s.core.waiting.any fun a => decide (a.ctx = s.foc.ctx) && (a.acq.isSome || a.rel.isSome)

/-- The block of an operation that acts after earlier accesses of its context. -/
def blockEarlier (s : State) : Verdict := .block (.earlier s.foc.core s.foc.ctx)

/-- FLWAIT blocks while its condition does not hold (R299). -/
def ownFlwait (f : ASlot) (s : State) : Verdict :=
  let x := (rdS s f.dr.toNat).toNat
  let n := f.off.toNat % 64
  if x ≥ 2 ^ 32 then .go
  else if actsAfter s then blockEarlier s
  else if flagMeets (bits f.off.toNat 7 6) (flagOf n s) (BitVec.ofNat 32 x) then .go
  else .block (.flag s.foc.core s.lid n)

/-- An acquire at scope `sc` (R150). -/
def acquire (sc : Nat) (s : State) : State := if 2 ≤ sc then l1Invalidate s.foc.core s else s

/-- FLWAIT (R299): the entry fills at start + 6. -/
def execFlwait (f : ASlot) (s : State) : Host.Outcome State Fault Refusal :=
  gated (.flwait f) (ownFlwait f s) (fun s =>
    let x := (rdS s f.dr.toNat).toNat
    let n := f.off.toNat % 64
    if x ≥ 2 ^ 32 then startFault (.flwait f) 6 (opInfo (.flwait f) 0 f.dr.toNat 0 s) s
    else if s.ctx.a.queue.length ≥ 16 then startFault (.flwait f) 6 (opInfo (.flwait f) 0 0 0 s) s
    else
      let v := flagOf n s
      let rest := if s.foc.bad then (Config.freeWord (2 * s.nfree + 1)).truncate 32 else v - BitVec.ofNat 32 x
      let s := if f.off.getLsbD 8 then
          wake (fun w => w = .flag s.foc.core s.lid n) (s.modCore fun k => { k with
            regions := k.regions.map fun r =>
              if r.launch = s.lid then { r with flags := r.flags.set n rest } else r })
        else s
      let (id, s) := allocEntry (some (s.cyc + 6)) s
      acquire f.sc.toNat (fillEntry s.foc.ctx (some id) v.toNat none s)) s

/-! ### The order of a synchronising operation (R304) -/

/-- The access that stands for an operation of chapter R296 to R318 in the order of its context's accesses. -/
def syncAccess (i : Instr) (loc : Option Loc) (size : Nat) (acq rel : Option Nat) (s : State) : Access :=
  { id := s.uid, ctx := s.foc.ctx, ord := 8 * (s.foc.ord / 8) + slotCode i, path := .atom, kind := .load
    els := match loc with | some l => [{ loc := l, size := size }] | none => []
    acq := acq, rel := rel, launch := s.lid }

/-- An AMO's scope as acquire and release: from CORE on (R148). -/
def amoScope (sc : BitVec 3) : Option Nat := if sc = 0 then none else some sc.toNat

/-! ### Barrier objects -/

/-- The object of BARV and BWAIT: core and SRAM address; none when the checks of R110 fail. -/
def barObj (f : ASlot) (s : State) : Option (Nat × Nat) :=
  let off := offA f 0 s
  if off.toNat % 16 ≠ 0 then none else spPlace s s.foc.core s.lid f.h.toNat off.toNat 16

/-- Fields of a barrier object (R300). -/
def barExpect (o : Nat) : Nat := bits o 15 0
def barCount (o : Nat) : Nat := bits o 31 16
def barPhase (o : Nat) : Nat := bits o 35 32

/-- Whether an object is malformed (R300). -/
def barMalformed (o : Nat) : Bool :=
  decide (barExpect o = 0) || decide (barCount o ≥ barExpect o) || decide (bits o 47 37 ≠ 0) || decide (bits o 127 106 ≠ 0)

/-- An object after k arrivals by device context `issuer`, and whether a phase closed (R301). -/
def barArrive (o k issuer : Nat) : Nat × Bool :=
  if barMalformed o then (o, false)
  else
    let c := barCount o + k
    let e := barExpect o
    if c < e then (o - barCount o * 2 ^ 16 + c * 2 ^ 16, false)
    else
      let more := decide (c > e)
      let ovr := if more then 1 else bits o 36 36
      let ovrn := if more then min 0xFFFF (bits o 63 48 + c - e) else bits o 63 48
      (e + (barPhase o + 1) % 16 * 2 ^ 32 + ovr * 2 ^ 36 + ovrn * 2 ^ 48 + (bits o 95 64 + 1) % 2 ^ 32 * 2 ^ 64
        + issuer % 1024 * 2 ^ 96, true)

/-- BARV holds until its bank may serve it (R301). -/
def ownBarv (f : ASlot) (s : State) : Verdict :=
  match barObj f s with
  | none => .go
  | some (c, a) =>
    let x := syncAccess (.barv f) (some (.sp c a)) 16 (amoScope f.sc) (amoScope f.sc) s
    if eligible s.core x && !feHeld f (c, a) s then .go else .hold 2

/-- BARV and BWAIT after the check of their scalar and of R110. -/
def barOp (i : Instr) (f : ASlot) (need : Need) (limit : Nat) (g : Nat → Nat → State → State) (s : State) : State :=
  let off := offA f 0 s
  if (rdS s f.dr.toNat).toNat ≥ limit then startFault i 6 (opInfo i 0 f.dr.toNat 0 s) s
  else
    match accessCheck s f.h.toNat need off.toNat (oneEl off 16 16) with
    | some (c, info) => startFault i c info s
    | none =>
      match barObj f s with
      | none => s
      | some (c, a) =>
        if s.ctx.a.queue.length ≥ 16 then startFault i 6 (opInfo i 0 0 0 s) s
        else g c a (takeBank false (c, lineOf a) s)

/-- A status entry of a barrier object (R301, R302), filled as an atomic's (R112, R320). -/
def barEntry (f : ASlot) (c a o : Nat) (flag : Bool) (s : State) : State :=
  let (id, s) := allocEntry ((handleLat f.h.toNat).map (s.cyc + 2 + ·)) s
  fillEntry s.foc.ctx (some id) (o % 2 ^ 64 + b2n flag * 2 ^ 64) (if badSp s c a 16 then some (2, lineOf a) else none) s

/-- BARV (R301). -/
def execBarv (f : ASlot) (s : State) : Host.Outcome State Fault Refusal :=
  gated (.barv f) (ownBarv f s)
    (barOp (.barv f) f .amo (2 ^ 16) fun c a s =>
      let x := syncAccess (.barv f) (some (.sp c a)) 16 (amoScope f.sc) (amoScope f.sc) s
      let (o, s) := spTake c a 16 (beforePerform x s)
      let (o', closed) := barArrive o (rdS s f.dr.toNat).toNat (4 * s.foc.core + s.foc.ctx)
      let s := keepOld s.foc.ctx s.foc.ord s
      let s := if s.foc.bad then spoilBytes c a 16 s else spWrite c a 16 o' s
      acquire f.sc.toNat (barEntry f c a o closed s)) s

/-- BWAIT's distance of phases (R302). -/
def barDelta (o p : Nat) : Nat := (barPhase o + 16 - p) % 16

/-- An object as its bank tests it; one in pond storage is unpredictable (R282). -/
def objAtBank (c a : Nat) (s : State) : Nat :=
  match pondSpace s c a 16 with
  | none => spRead s c a 16
  | some _ => (Config.freeVec (2 * s.nfree + 1)).toNat % 2 ^ 128

/-- BWAIT holds for its bank and blocks while the object is in the phase (R302). -/
def ownBwait (f : ASlot) (s : State) : Verdict :=
  match barObj f s with
  | none => .go
  | some (c, a) =>
    let p := (rdS s f.dr.toNat).toNat
    let x := syncAccess (.bwait f) (some (.sp c a)) 16 (some f.sc.toNat) none s
    if p ≥ 16 then .go
    else if !eligible s.core x || feHeld f (c, a) s then .hold 2
    else
      let o := objAtBank c a s
      if !barMalformed o && decide (barDelta o p = 0) then .block (.word c a) else .go

/-- BWAIT (R302). -/
def execBwait (f : ASlot) (s : State) : Host.Outcome State Fault Refusal :=
  gated (.bwait f) (ownBwait f s)
    (barOp (.bwait f) f .rd 16 fun c a s =>
      let (o, s) := spTake c a 16 s
      let flag := !barMalformed o && decide (barDelta o (rdS s f.dr.toNat).toNat ≤ 7)
      acquire f.sc.toNat (barEntry f c a o flag s)) s

/-! ### Held services (R303) -/

/-- What LWAIT waits for: its word (R314). -/
def lwaitWord (f : XSlot) (s : State) : WaitOn :=
  match placeEl s f.h.toNat (handleOf s f.h.toNat) (rdS s f.sa.toNat).toNat 4 with
  | some (.sp c a) => .word c a
  | some (.gm pa) => .gword pa
  | none => .gword 0

/-- What a held service waits for when it is not answered yet (R303). -/
def serviceWait (i : Instr) (s : State) : WaitOn :=
  match i with
  | .pput f | .pget f => .pond s.lid (f.imm.toNat % 32)
  | .grpbar f => .group s.lid (rdS s f.sa.toNat).toNat
  | .lwait f => lwaitWord f s
  | _ => .service

/-- The verdict of a held service: ask, then complete or block as the answer says; answer 2 is corrupt data (R368), 3 a pool of
shadow versions that is empty (R371). -/
def served (i : Instr) (s : State) : Verdict :=
  match s.ctx.answer with
  | none => .ask i
  | some (1, _) => .go
  | some (2, x) => .trap 0x14 (info14 (x / 16) 5 i.opcode.toNat (x % 16) s)
  | some (3, x) => .trap 0x0B (BitVec.ofNat 64 x)
  | some _ => .block (serviceWait i s)

/-- The value an answer brings. -/
def answerOf (s : State) : Nat := match s.ctx.answer with | some (_, x) => x | none => 0

/-- The answer is used. -/
def takeAnswer (s : State) : State := s.modCtx fun c => { c with answer := none, asked := none }

/-- Pond q's descriptor: FROM, TO, DEPTH, HIWAT as fields (R279). -/
def pondDesc (q : Nat) (s : State) : Option (Nat × Nat × Nat × Nat) := s.launch?.bind fun l => l.rc.ponds[q]?

/-- Pond misuse (R305). -/
def pondMisuse (q : Nat) (two put : Bool) (s : State) : Bool :=
  match pondDesc q s with
  | none => true
  | some d => decide ((if put then d.1 else d.2.1) ≠ s.instHere.stage) || (two && decide (d.2.2.1 = 0))

/-- PPUT and PGET at issue. -/
def ownPond (i : Instr) (f : XSlot) (put : Bool) (s : State) : Verdict :=
  let q := f.imm.toNat % 32
  if pondMisuse q (f.imm.getLsbD 5) put s then .trap 0x16 (opInfo i 0 q 0 s) else served i s

/-- PPUT (R305): the words entered the pond with the answer. -/
def execPput (f : XSlot) (s : State) : Host.Outcome State Fault Refusal :=
  gated (.pput f) (ownPond (.pput f) f true s) takeAnswer s

/-- PGET (R305): the words taken with the answer. -/
def execPget (f : XSlot) (s : State) : Host.Outcome State Fault Refusal :=
  gated (.pget f) (ownPond (.pget f) f false s)
    (fun s => takeAnswer (postS f.sb.toNat 1 (BitVec.ofNat 64 (answerOf s)) s)) s

/-- Whether an instance belongs to a group (R279). -/
def groupHas (ranges : List (Nat × Nat × Nat)) (stage num : Nat) : Bool :=
  ranges.any fun r => r.1 = stage && r.2.1 ≤ num && num ≤ r.2.2

/-- The ranges of group g of the launch in focus. -/
def groupRanges (g : Nat) (s : State) : Option (List (Nat × Nat × Nat)) :=
  s.launch?.bind fun l => (l.rc.groups.find? fun e => e.1 = g).map Prod.snd

/-- GRPBAR at issue (R307). -/
def ownGrpbar (f : XSlot) (s : State) : Verdict :=
  let g := (rdS s f.sa.toNat).toNat
  let i := s.instHere
  match (if g ≥ 256 then none else groupRanges g s) with
  | none => .trap 6 (opInfo (.grpbar f) 0 f.sa.toNat 0 s)
  | some r =>
    if !groupHas r i.stage i.num || i.batch.isSome then .trap 6 (opInfo (.grpbar f) 0 f.sa.toNat 0 s)
    else served (.grpbar f) s

/-- GRPBAR (R307): complete, and the record is cleared. -/
def execGrpbar (f : XSlot) (s : State) : Host.Outcome State Fault Refusal :=
  gated (.grpbar f) (ownGrpbar f s) (fun s => takeAnswer (s.modArch fun a => { a with grp := none })) s

/-- LWAIT at issue (R314). -/
def ownLwait (f : XSlot) (s : State) : Verdict :=
  let off := rdS s f.sa.toNat
  let n := f.h.toNat
  let take := f.imm.getLsbD 0
  ((accessVerdict s n .rd off.toNat (oneEl off 4 4)).orElse
      (if take then accessVerdict s n .wr off.toNat (oneEl off 4 4) else .go)).orElse
    (served (.lwait f) s)

/-- LWAIT (R314). -/
def execLwait (f : XSlot) (s : State) : Host.Outcome State Fault Refusal :=
  gated (.lwait f) (ownLwait f s)
    (fun s => takeAnswer (postS f.sb.toNat 1 (BitVec.ofNat 64 (answerOf s)) s)) s

/-! ### What the serving point decides (R303) -/

/-- The context in focus gets its answer. -/
def giveAnswer (ok : Bool) (x : Nat) (s : State) : State := s.modCtx fun c => { c with answer := some (b2n ok, x) }

/-- The context in focus gets an answer that traps: corrupt data of a source and line, or an empty pool at an address. -/
def giveCorrupt (src line : Nat) (s : State) : State := s.modCtx fun c => { c with answer := some (2, line * 16 + src) }
def givePoolEmpty (x : Word) (s : State) : State := s.modCtx fun c => { c with answer := some (3, x.toNat) }

/-- The corrupt line of a core's SRAM among those that hold a launch's ponds (R282), if there is one. -/
def badPond (home : Option Nat) (s : State) : Option Nat :=
  home.bind fun c => (s.dev.badLines.filterMap fun l => match l with
    | .sp d a => if d = c ∧ pondSpace s c a 128 = some s.lid then some a else none
    | .gm _ => none).head?

/-- A pond changed. -/
def setPond (q : Nat) (g : Pond → Pond) (s : State) : State :=
  s.modLaunch s.lid fun l => { l with ponds := l.ponds.set q (g (l.ponds.get q {})) }

/-- A pond after a change of its words: when it is full, and when it was in the last 4,096 cycles (R291), on the home
core's clock. -/
def Pond.noteFull (p : Pond) (depth : Nat) (s : State) : Pond :=
  let now := (s.coreAt (p.home.getD s.foc.core)).clk
  if depth < p.words.length then { p with fullFrom := some (p.fullFrom.getD now) }
  else
    match p.fullFrom with
    | none => p
    | some t => { p with fullFrom := none, fulls := (t, now) :: p.fulls.filter fun f => decide (now < f.2 + 4096) }

/-- PPUT at the home (R305). -/
def servePut (f : XSlot) (s : State) : State :=
  let q := f.imm.toNat % 32
  let n := if f.imm.getLsbD 5 then 2 else 1
  match pondDesc q s, s.launch? with
  | some d, some l =>
    let p := l.ponds.get q {}
    if p.words.length + n ≤ d.2.2.1 + 1 then
      let v := rdS s f.sa.toNat
      let new : List (BitVec 32) := if n = 2 then [v.truncate 32, (v >>> 32).truncate 32] else [v.truncate 32]
      giveAnswer true 0 (wake (fun w => w = .pond s.lid q)
        (setPond q (fun p => ({ p with words := p.words ++ new }).noteFull d.2.2.1 s) s))
    else giveAnswer false 0 s
  | _, _ => giveAnswer false 0 s

/-- PGET at the home (R305). Where its words lie in the pond's storage is not given: with a corrupt line there it is freely chosen
whether they are corrupt (R368; DESIGN CHOICE, log 92). -/
def serveGet (f : XSlot) (s : State) : State :=
  let q := f.imm.toNat % 32
  let n := if f.imm.getLsbD 5 then 2 else 1
  match pondDesc q s, s.launch? with
  | some d, some l =>
    let p := l.ponds.get q {}
    let bad := if Config.freeBit (2 * s.nfree + 1) then badPond p.home s else none
    if n ≤ p.words.length ∧ bad.isSome = true then giveCorrupt 2 (bad.getD 0) s
    else if n ≤ p.words.length then
      let x := packElems 32 ((p.words.take n).map BitVec.toNat)
      acquire f.sc.toNat (giveAnswer true x (wake (fun w => w = .pond s.lid q)
        (setPond q (fun p => ({ p with words := p.words.drop n }).noteFull d.2.2.1 s) s)))
    else giveAnswer false 0 s
  | _, _ => giveAnswer false 0 s

/-- The members of a group that count in its present generation: those that exist since it began and have not ended
(R307). -/
def liveMembers (l : Launch) (g began : Nat) : List (Nat × Nat) :=
  match l.rc.groups.find? fun e => e.1 = g with
  | none => []
  | some e => ((l.insts.take began).filter fun r => groupHas e.2 r.stage r.num && decide (r.st ≠ .ended)).map fun r =>
      (r.stage, r.num)

/-- The generation of group g; the first began with the launch's initial instances. -/
def genOf (l : Launch) (g : Nat) : GroupGen :=
  l.gens.get g { began := (l.rc.stages.map Prod.fst).sum }

/-- A generation closes when every live member that existed when it began has arrived (R307). -/
def closeGroup (launch g : Nat) (s : State) : State :=
  match s.launchAt launch with
  | none => s
  | some l =>
    let r := genOf l g
    if r.arrived ≠ [] ∧ (liveMembers l g r.began).all (fun m => r.arrived.contains m) then
      wake (fun w => w = .group launch g) (s.modLaunch launch fun l => { l with
        gens := l.gens.set g { gen := r.gen + 1, began := l.insts.length, arrived := [] } })
    else s

/-- GRPBAR at the scheduler (R307). -/
def serveGroup (f : XSlot) (s : State) : State :=
  let g := (rdS s f.sa.toNat).toNat
  let i := s.instHere
  match s.launch? with
  | none => giveAnswer false 0 s
  | some l =>
    let s :=
      if (s.ctx.a.grp.map Prod.fst) = some g then s
      else
        let r := genOf l g
        let s := s.modArch fun a => { a with grp := some (g, r.gen) }
        let r' := { r with arrived := (i.stage, i.num) :: r.arrived }
        closeGroup s.lid g (s.modLaunch s.lid fun l => { l with gens := l.gens.set g r' })
    let now := match s.launch? with | some l => (genOf l g).gen | none => 0
    let ok := match s.ctx.a.grp with | some (_, r) => decide (now > r) | none => false
    if ok then acquire f.sc.toNat (giveAnswer true 0 s) else giveAnswer false 0 s

/-- LWAIT at the word's serialisation point (R314). -/
def serveWord (f : XSlot) (s : State) : State :=
  let n := f.h.toNat
  let take := f.imm.getLsbD 0
  match placeEl s n (handleOf s n) (rdS s f.sa.toNat).toNat 4 with
  | some (.sp c a) =>
    if fullAtBank c a s && badSp s c a 4 then giveCorrupt 2 (lineOf a) s
    else if fullAtBank c a s then
      let (x, s) := spTake c a 4 s
      acquire f.sc.toNat (giveAnswer true x (if take then spSetFull c a false s else s))
    else giveAnswer false 0 s
  | some (.gm pa) =>
    let key := (handleOf s n).key
    let el : List AEl := [{ off := (rdS s f.sa.toNat).toNat, size := 4, align := 4 }]
    let (x, s) := lowRead (verOf s) pa 4 key s.vfid s
    if badGlobal s pa 4 then giveCorrupt 3 (lineOf pa) s
    else if x = 0 then giveAnswer false 0 s
    else if take ∧ (shadowFault s n el).isSome = true then givePoolEmpty ((shadowFault s n el).getD 0) s
    else acquire f.sc.toNat (giveAnswer true x (if take then lowWrite (verOf s) pa 4 0 key s.vfid s else s))
  | none => giveAnswer false 0 s

/-- The order of a held service among its context's accesses (R304). -/
def serviceAccess (i : Instr) (s : State) : Access :=
  match i with
  | .pput f => syncAccess i none 0 none (some f.sc.toNat) s
  | .pget f => syncAccess i none 0 (some f.sc.toNat) none s
  | .grpbar f => syncAccess i none 0 (amoScope f.sc) (amoScope f.sc) s
  | .lwait f => syncAccess i (placeEl s f.h.toNat (handleOf s f.h.toNat) (rdS s f.sa.toNat).toNat 4) 4 (some f.sc.toNat) none s
  | _ => syncAccess i none 0 none none s

/-- The service of the operation that the context in focus has asked for. -/
def serve (i : Instr) (s : State) : State :=
  match i with
  | .pput f => servePut f s
  | .pget f => serveGet f s
  | .grpbar f => serveGroup f s
  | .lwait f => serveWord f s
  | _ => s

/-- An answer to block makes the context a waiter at once (R303). -/
def becomeWaiter (i : Instr) (s : State) : State :=
  match s.ctx.answer with
  | some (0, _) => s.modCtx fun c => { c with wait := some (serviceWait i s), woken := false }
  | _ => s

/-- HELD_SERVICE_ANSWER (R303) for the context in focus: once the accesses that R304 orders before it have performed, the
serving point acts and answers. -/
def execHeldServiceAnswer (s : State) : Host.Outcome State Fault Refusal :=
  match s.ctx.asked, s.ctx.answer with
  | some i, none =>
    let s' := { s with foc := { s.foc with ord := 8 * s.ctx.seq + 5 } }
    let x := serviceAccess i s'
    if eligible s.core x then .next (becomeWaiter i (serve i (beforePerform x s'))) else .next s
  | _, _ => .next s

/-! ### Events -/

/-- The event set of the instance in focus. -/
def eventsHere (s : State) : BitVec 32 :=
  match s.launch? with
  | none => 0
  | some l =>
    match l.insts.find? fun r => r.stage = s.instHere.stage && r.num = s.instHere.num with
    | some r => r.events
    | none => 0

/-- EVSIG's operands (R309). -/
def ownEvsig (f : XSlot) (s : State) : Verdict :=
  let t := (rdS s f.sa.toNat).toNat
  let n := match s.launch? with | some l => l.rc.nstg | none => 0
  if bits t 15 10 ≠ 0 ∨ bits t 63 20 ≠ 0 ∨ bits t 19 16 ≥ n then .trap 6 (opInfo (.evsig f) 0 f.sa.toNat 0 s)
  else if (rdS s f.sb.toNat).toNat ≥ 2 ^ 32 then .trap 6 (opInfo (.evsig f) 0 f.sb.toNat 0 s)
  else heldCheck (.evsig f) s

/-- EVSIG (R309). -/
def execEvsig (f : XSlot) (s : State) : Host.Outcome State Fault Refusal :=
  gated (.evsig f) (ownEvsig f s) (fun s =>
    let t := (rdS s f.sa.toNat).toNat
    let (x, s) := newAccess 0 .atom (.event (bits t 19 16) (bits t 9 0) ((rdS s f.sb.toNat).truncate 32)) [] s
    submit (.access { x with rel := some f.sc.toNat }) s) s

/-- EVWAIT (R310). -/
def ownEvwait (f : XSlot) (s : State) : Verdict :=
  let m := (rdS s f.sa.toNat).toNat
  if m ≥ 2 ^ 32 ∨ m = 0 then .trap 6 (opInfo (.evwait f) 0 f.sa.toNat 0 s)
  else if actsAfter s then blockEarlier s
  else if eventsHere s &&& BitVec.ofNat 32 m = 0 then .block .event else .go

/-- EVWAIT (R310). -/
def execEvwait (f : XSlot) (s : State) : Host.Outcome State Fault Refusal :=
  gated (.evwait f) (ownEvwait f s) (fun s =>
    let i := s.instHere
    let hit := eventsHere s &&& (rdS s f.sa.toNat).truncate 32
    let s := s.modLaunch s.lid fun l => { l with insts := l.insts.map fun r =>
      if r.stage = i.stage ∧ r.num = i.num then { r with events := r.events &&& ~~~hit } else r }
    acquire f.sc.toNat (postS f.sb.toNat 1 (hit.zeroExtend 64) s)) s

/-! ### LAUNCH -/

/-- LAUNCH at issue (R311): the tag check, then the checks of R110 on 128 bytes. -/
def ownLaunch (f : XSlot) (s : State) : Verdict :=
  let off := rdS s f.sa.toNat
  ((tagCheck (.launch f) f.tag.toNat s).orElse
    (accessVerdict s f.h.toNat .rd off.toNat (oneEl off 128 128))).orElse (heldCheck (.launch f) s)

/-- LAUNCH (R311): the record is read on the path CTXLS and checked after the issue, by LAUNCH_ENQUEUE. -/
def execLaunch (f : XSlot) (s : State) : Host.Outcome State Fault Refusal :=
  gated (.launch f) (ownLaunch f s) (fun s =>
    let (x, s) := newAccess f.h.toNat .ctxls .record
      [{ loc := locOf s f.h.toNat (rdS s f.sa.toNat).toNat 128, size := 128 }] (tagStart f.tag.toNat s)
    submit (.launch { id := x.id, core := s.foc.core, ctx := s.foc.ctx, inst := s.instHere, ord := s.foc.ord
                      tag := f.tag.toNat, loc := handleOf s f.h.toNat, hn := f.h.toNat, read := x }) s) s

/-! ### Deferral -/

/-- DEFER at issue (R315). -/
def ownDefer (f : XSlot) (s : State) : Verdict :=
  let p := rdP s (bits f.imm.toNat 10 8)
  if s.instHere.batch.isSome then trap6 (.defer f) s
  else if 512 - s.core.defq.length < ((List.range 128).filter fun i => p.getLsbD i).length then
    .block (.deferQueue s.foc.core)
  else .go

/-- DEFER (R315). -/
def execDefer (f : XSlot) (s : State) : Host.Outcome State Fault Refusal :=
  gated (.defer f) (ownDefer f s) (fun s =>
    let vs := f.imm.toNat % 64
    let nv := bits f.imm.toNat 7 6 + 1
    let p := rdP s (bits f.imm.toNat 10 8)
    let base := (rdS s f.sa.toNat).toNat
    let regs := (List.range nv).map fun j => (rdV s (vs + j)).bits
    let new : List DefEntry := ((List.range 128).filter fun i => p.getLsbD i).map fun i =>
      { inst := s.instHere, path := bits f.imm.toNat 17 11, lane := BitVec.ofNat 32 (base + i),
        vals := regs.map fun v => lane v i }
    s.modCore fun k => { k with defq := k.defq ++ new }) s

/-- Word P of the path table (R316). -/
def pathWord (a : Arch) (p : Nat) : Nat := a.spill.read (0x1800 + 4 * p) 4

/-- Whether a batch of an instance is formed or runs (R317). -/
def batchLive (i : InstId) (s : State) : Bool :=
  s.cores.any fun e => (e.2.batches.any fun b => b.inst = i)
    || e.2.ctxs.any fun c => match c.2.inst with | some x => x.batch.isSome && decide ({ x with batch := none } = i) | none => false

/-- DEFRUN at issue (R317). -/
def ownDefrun (f : XSlot) (s : State) : Verdict :=
  let w := pathWord s.ctx.a (f.imm.toNat % 128)
  if !bit w 31 || decide (bits w 30 22 ≠ 0) || s.instHere.batch.isSome then trap6 (.defrun f) s
  else if batchLive s.instHere s then .block (.batch s.foc.core s.foc.ctx)
  else .go

/-- The entries of an instance and path in a deferral queue, oldest first. -/
def defEntries (k : Core) (i : InstId) (path : Nat) : List DefEntry := k.defq.filter fun e => e.inst = i && e.path = path

/-- The queue without the first `n` entries of an instance and path. -/
def dropEntries (i : InstId) (path : Nat) : Nat → List DefEntry → List DefEntry
  | _, [] => []
  | 0, l => l
  | n + 1, e :: r => if e.inst = i && e.path = path then dropEntries i path n r else e :: dropEntries i path (n + 1) r

/-- A deferral queue has room: those that wait for it look again (R286). -/
def wakeDefer (core : Nat) (s : State) : State := wake (fun w => w = .deferQueue core) s

/-- A batch of the oldest `n` entries of an instance is formed on a core, whose context `ctx` issued (R317). -/
def formBatch (core ctx : Nat) (i : InstId) (path entry n : Nat) (s : State) : State :=
  if n = 0 then s
  else
    wakeDefer core (s.modCoreAt core fun k => { k with
      batches := k.batches ++ [{ ctx := ctx, inst := i, mark := k.mark, path := path, entry := entry
                                 ents := (defEntries k i path).take n }]
      defq := dropEntries i path n k.defq })

/-- DEFRUN (R317). -/
def execDefrun (f : XSlot) (s : State) : Host.Outcome State Fault Refusal :=
  gated (.defrun f) (ownDefrun f s) (fun s =>
    let path := f.imm.toNat % 128
    let e := (defEntries s.core s.instHere path).length
    let n := if e ≥ 128 ∨ f.imm.getLsbD 7 = true then min e 128 else 0
    postS f.sb.toNat 1 (BitVec.ofNat 64 n) (formBatch s.foc.core s.foc.ctx s.instHere path
      (pathWord s.ctx.a path % 2 ^ 22) n s)) s

/-! ### MFLUSH and CNTRD -/

/-- MFLUSH at issue (R103), in the order of its pseudocode. -/
def ownMflush (f : XSlot) (s : State) : Verdict :=
  let h := handleOf s f.h.toNat
  let off := (rdS s f.sa.toNat).toNat
  let len := (rdS s f.sb.toNat).toNat
  if !s.ctx.hmode || decide (s.vfid ≠ 0) then .deny (opInfo (.mflush f) 0 0 0 s)
  else if f.h.toNat < 3 then trap6H (.mflush f) f.h.toNat s
  else if h.st ≠ .valid then .trap 9 (BitVec.ofNat 64 f.h.toNat)
  else if off % 128 ≠ 0 then trap6S (.mflush f) f.sa.toNat s
  else if len % 128 ≠ 0 ∨ len = 0 then trap6S (.mflush f) f.sb.toNat s
  else if off + len > pageBytes h.psz then .trap 8 (BitVec.ofNat 64 off)
  else (tagCheck (.mflush f) f.tag.toNat s).orElse (heldCheck (.mflush f) s)

/-- MFLUSH (R103): the lines are treated after the issue, by MFLUSH_COMPLETE. -/
def execMflush (f : XSlot) (s : State) : Host.Outcome State Fault Refusal :=
  gated (.mflush f) (ownMflush f s) (fun s =>
    let h := handleOf s f.h.toNat
    let (id, s) := (tagStart f.tag.toNat s).newId
    submit (.flush { id := id, hn := f.h.toNat, tag := f.tag.toNat, inst := some s.instHere, vf := s.vfid
                     pa := h.pa + (rdS s f.sa.toNat).toNat, len := (rdS s f.sb.toNat).toNat, key := h.key
                     op := f.imm.toNat % 4 }) s) s

/-- CNTRD at issue (R104). -/
def ownCntrd (f : XSlot) (s : State) : Verdict :=
  if f.imm.getLsbD 6 && decide (s.vfid ≠ 0) then .deny (opInfo (.cntrd f) 0 0 0 s)
  else .go

/-- A Mere counter of a tower and function, or of all functions (R104). -/
def counterOf (tower i : Nat) (vf : Option Nat) (d : Dev) : Word :=
  match vf with
  | some v => d.mereCnt.get ((tower * 32 + v) * 8 + i) 0
  | none => (List.range 32).foldl (fun x v => x + d.mereCnt.get ((tower * 32 + v) * 8 + i) 0) 0

/-- A scalar that a unit away from the core replies with: it lands 24 cycles after the issue, and a late reply holds the core
(R104, R266). -/
def postReply (n : Nat) (x : Word) (s : State) : State :=
  postS n 24 x (s.modCore fun k => { k with replies := (s.cyc + 24) :: k.replies })

/-- CNTRD (R104). -/
def execCntrd (f : XSlot) (s : State) : Host.Outcome State Fault Refusal :=
  gated (.cntrd f) (ownCntrd f s) (fun s =>
    postReply f.sa.toNat (counterOf (b2n (f.imm.getLsbD 5)) (f.imm.toNat % 32)
      (if f.imm.getLsbD 6 then none else some s.vfid) s.dev) s) s

end Sys2Proof.Machine
end

