-- ==== Sys2Proof/Machine/Special.lean ====
section
/-! DEFINITION. Spill memory (R81, R82) and the system registers (R83, R84). -/

namespace Sys2Proof.Machine

/-- The lines of 128 bytes of [off, off + n). -/
def spillLines (off n : Nat) : List Nat := linesOf off n

/-- A spill write, which takes effect at the end of the cycle (R82); the segment's journal takes the old line (R365). -/
def spillWrite (off n v : Nat) (s : State) : State :=
  let (key, s) := if s.foc.bad then s.fresh else (0, s)
  let v := if s.foc.bad then (Config.freeVec key).toNat else v
  (journal true (spillLines off n) s).modCtx fun c => { c with spillW := c.spillW ++ [(off, n, v)] }

/-- SPL's trap 0x13 when the journal is full (R365). -/
def ownSpl (f : CSlot) (s : State) : Verdict :=
  match journalFull true (spillLines f.imm.toNat (widthBits f.w / 8)) s with
  | some used => .trap 0x13 (info13 (.spl f) used 1 s)
  | none => .go

/-- SPL (R81). -/
def execSpl (f : CSlot) (s : State) : Host.Outcome State Fault Refusal :=
  gated (.spl f) (ownSpl f s) (fun s =>
    let w := widthBits f.w
    spillWrite f.imm.toNat (w / 8) ((rdS s f.sa.toNat).toNat % 2 ^ w) s) s

/-- FIL (R81). -/
def execFil (f : CSlot) (s : State) : Host.Outcome State Fault Refusal :=
  gated (.fil f) .go (fun s =>
    let w := widthBits f.w
    postS f.sd.toNat 1 (sx (s.ctx.a.spill.read f.imm.toNat (w / 8)) w) s) s

/-- CAPSP (R105). -/
def capSP (k : Core) : Nat := k.spSpare * 2 ^ 32 + k.spLog * 128 * 256 + k.spLog

/-- CAPVB and CAPMB (R106), `d` banks where none has been lost. -/
def capBanks (spare : Nat) (m : Map Nat) (d : Nat) : Nat :=
  spare * 2 ^ 32 + packElems 4 ((List.range 4).map fun i => m.get i d)

/-- CAPL2 (R107). -/
def capL2 (d : Dev) : Nat := d.l2Spare * 2 ^ 40 + d.l2Log * 128 * 2 ^ 16 + d.l2Log

/-- OOGCNT (R206). -/
def oogCnt (a : ArrayState) : Nat :=
  let full (m : Map (BitVec 16)) : Bool := (List.range 128).any fun r => m.get r 0 = 0xFFFF#16
  let used (m : Map (BitVec 16)) : Nat := ((List.range 128).filter fun r => m.get r 0 ≠ 0).length
  b2n (full a.below || full a.above) * 2 ^ 16 + used a.above * 256 + used a.below

/-- PLOGNUM (R154). -/
def plogNum (k : Core) : Nat := k.plog.length * 2 ^ 32 + k.plnum.toNat

/-- The value of a system register (R84). -/
def sysRead (n : Nat) (s : State) : Word :=
  let c := s.ctx
  let core := s.foc.core
  match n with
  | 0x00 => c.a.tagDone
  | 0x01 => BitVec.ofNat 64 (b2n c.a.check)
  | 0x08 => BitVec.ofNat 64 s.foc.ctx
  | 0x09 => BitVec.ofNat 64 core
  | 0x0A => BitVec.ofNat 64 (coreCL core)
  | 0x0B => BitVec.ofNat 64 (coreCOL core)
  | 0x0C => BitVec.ofNat 64 (coreTower core)
  | 0x0D => BitVec.ofNat 64 s.vfid
  | 0x10 => BitVec.ofNat 64 (capSP s.core)
  | 0x11 => BitVec.ofNat 64 (capBanks s.core.rgSpare s.core.nvb 4)
  | 0x12 => BitVec.ofNat 64 (capBanks s.core.rgSpare s.core.nmb 2)
  | 0x13 => BitVec.ofNat 64 (capL2 s.dev)
  | 0x18 => c.cause
  | 0x19 => c.tpc
  | 0x1A => c.tinfo
  | 0x20 => BitVec.ofNat 64 (oogCnt s.core.arr)
  | 0x21 => s.core.holdcnt
  | 0x22 => BitVec.ofNat 64 (plogNum s.core)
  | _ => 0

/-- The fields of TRAPCAUSE that a handler may change: RESREP, OWED and REPLAY (R345). -/
def causeMask : Word := BitVec.ofNat 64 (31 * 2 ^ 27 + 63 * 2 ^ 21 + 2 ^ 17)

/-- The fields of TRAPINFO that a cause's record has (R64, R137, R233, R267, R312, R346, R356, R361, R367, R369, R377), each by its
highest and lowest bit; `slot` tells the two records of 0x0D apart, `r64` those of 0x0A. -/
def infoFields (cause slot : Nat) (r64 : Bool) : List (Nat × Nat) :=
  match cause with
  | 0x0A => if r64 then [(39, 8), (2, 0)] else [(63, 0)]
  | 0x01 | 0x02 | 0x03 | 0x04 | 0x05 | 0x06 | 0x07 | 0x16 => [(39, 8), (2, 0)]
  | 0x09 => [(3, 0)]
  | 0x0D => if slot = 2 then [(39, 32), (28, 23), (15, 8), (2, 0)] else [(41, 32), (28, 23), (15, 8), (2, 0)]
  | 0x0F => [(39, 0)]
  | 0x11 => [(63, 32), (21, 0)]
  | 0x12 => [(23, 0)]
  | 0x13 => [(40, 32), (28, 23), (18, 0)]
  | 0x14 => [(63, 20), (18, 0)]
  | 0x17 => [(21, 0)]
  | _ => [(63, 0)]

/-- The bits of TRAPINFO that are not reserved under a cause; reserved ones ignore a write and read 0 (R8). -/
def infoMask (cause slot : Nat) (r64 : Bool) : Word :=
  BitVec.ofNat 64 (((infoFields cause slot r64).map fun f => 2 ^ (f.1 + 1) - 2 ^ f.2).sum)

/-- The write of a system register (R84): read-only registers and, outside handler mode, the trap record keep their
values. A handler writes every field of TRAPINFO that its cause's record has, though R64 and the other field maps mark each RO:
R84's H is taken for the register (DESIGN CHOICE, log 42). -/
def sysWrite (n : Nat) (x : Word) (s : State) : State :=
  match n with
  | 0x00 => clearTags x s
  | 0x01 => s.modCtx fun c => { c with chkNext := some (x.getLsbD 0) }
  | 0x18 => if s.ctx.hmode then s.modCtx fun c => { c with cause := (c.cause &&& ~~~causeMask) ||| (x &&& causeMask) } else s
  | 0x19 => if s.ctx.hmode then s.modCtx fun c => { c with tpc := x } else s
  | 0x1A => if s.ctx.hmode then s.modCtx fun c =>
      { c with tinfo := x &&& infoMask (bits c.cause.toNat 7 0) (bits c.tinfo.toNat 2 0) c.tr64 } else s
  | 0x21 => s.modCore fun k => { k with holdcnt := x }
  | _ => s

/-- MFS (R83). -/
def execMfs (f : CSlot) (s : State) : Host.Outcome State Fault Refusal :=
  gated (.mfs f) .go (fun s => postS f.sd.toNat 1 (sysRead (f.imm.toNat % 65536) s) s) s

/-- MTS (R83). -/
def execMts (f : CSlot) (s : State) : Host.Outcome State Fault Refusal :=
  gated (.mts f) .go (fun s => sysWrite (f.imm.toNat % 65536) (rdS s f.sa.toNat) s) s

end Sys2Proof.Machine
end

