-- ==== Sys2Proof/Machine/Vector.lean ====
section
/-! DEFINITION. The vector engine (R214 to R233) and the Haar operations of the V slot (R236, R248 to R252). -/

namespace Sys2Proof.Machine

/-! ### Sources, predication and tags -/

/-- Source A: a popped entry counts as PLAIN in format FA (R218). -/
def srcA (f : VSlot) (s : State) : VReg :=
  if f.qa = 1#1 then
    { bits := match s.ctx.a.queue with | e :: _ => e.data | [] => 0, tag := plainTag f.fa.toNat }
  else rdV s (vField f f.va s.foc.k)

/-- Sources B and C. -/
def srcB (f : VSlot) (s : State) : VReg := rdV s (vField f f.vb s.foc.k)
def srcC (f : VSlot) (s : State) : VReg := rdV s (vField f f.vc s.foc.k)

/-- A source with the register it names (R218). -/
def tagA (f : VSlot) (s : State) : Src := (if f.qa = 1#1 then none else some (vField f f.va s.foc.k), (srcA f s).tag)
def tagB (f : VSlot) (s : State) : Src := (some (vField f f.vb s.foc.k), (srcB f s).tag)
def tagC (f : VSlot) (s : State) : Src := (some (vField f f.vc s.foc.k), (srcC f s).tag)

/-- The queue popped when QA = 1 (R216). -/
def popIf (f : VSlot) (s : State) : State := if f.qa = 1#1 then (popEntry s).2 else s

/-- Lanes written under P and Z (R215). -/
def writeLanes (f : VSlot) (lat : Nat) (tag : Option (BitVec 32)) (g : Nat → BitVec 32) (s : State) : State :=
  let p := rdP s f.p.toNat
  post ⟨.v, vField f f.vd s.foc.k⟩ lat
    (.vec (if f.z = 1#1 then BitVec.allOnes 4096 else laneMask fun i => p.getLsbD i)
      (mkVec fun i => if p.getLsbD i then g i else 0) tag) s

/-- Bits of a predicate written under P and Z (R215). -/
def writePred (f : VSlot) (lat : Nat) (g : Nat → Bool) (s : State) : State :=
  let p := rdP s f.p.toNat
  post ⟨.p, f.vd.toNat % 8⟩ lat
    (.pred (if f.z = 1#1 then BitVec.allOnes 128 else p) (mkPred fun i => p.getLsbD i && g i)) s

/-- The domain fault of R218: nothing is written or popped. -/
def domainFault (i : Instr) (x : Src) (s : State) : State := startFault i 7 (opInfo i 1 (x.1.getD 0) 0 s) s

/-- An operation on lanes after the tag check of its class: linear (HAAR sources allowed) or non-linear (R218). -/
def vOp (i : Instr) (f : VSlot) (lat : Nat) (linear : Bool) (srcs : List Src) (fd : Nat) (g : Nat → BitVec 32)
    (s : State) : State :=
  match (if linear then treeClash none srcs else firstHaar srcs) with
  | some x => domainFault i x s
  | none => writeLanes f lat (some (if linear then linearTag srcs fd else plainTag fd)) g (popIf f s)

/-! ### Floating point (R219 to R223) -/

/-- SAT of the operations that round (R217). -/
def vSat (f : VSlot) : Bool := f.aux.getLsbD 11

/-- A lane's value in FA. -/
def VReg.val (r : VReg) (fmt i : Nat) : FVal := decodeF fmt (lane r.bits i).toNat

/-- A value rounded into FD (R219). -/
def vRnd (f : VSlot) (x : FVal) : BitVec 32 := laneOf f.fd.toNat false (roundFmt x f.fd.toNat f.rm.toNat (vSat f))

/-- A floating-point operation of one source. -/
def vf1 (i : Instr) (f : VSlot) (linear : Bool) (g : FVal → FVal) (s : State) : State :=
  let a := srcA f s
  vOp i f (vLatency i) linear [tagA f s] f.fd.toNat (fun n => vRnd f (g (a.val f.fa.toNat n))) s

/-- A floating-point operation of two sources. -/
def vf2 (i : Instr) (f : VSlot) (linear : Bool) (g : FVal → FVal → FVal) (s : State) : State :=
  let a := srcA f s
  let b := srcB f s
  vOp i f 4 linear [tagA f s, tagB f s] f.fd.toNat (fun n => vRnd f (g (a.val f.fa.toNat n) (b.val f.fa.toNat n))) s

/-- Whether both factors of a product are HAAR (R218). -/
def bothHaar (f : VSlot) (s : State) : Bool := tagHaar (tagA f s).2 && tagHaar (tagB f s).2

/-- A fused operation of three sources: linear with at most one HAAR factor. -/
def vf3 (i : Instr) (f : VSlot) (g : FVal → FVal → FVal → FVal) (s : State) : State :=
  let a := srcA f s
  let b := srcB f s
  let c := srcC f s
  vOp i f 4 (!bothHaar f s) [tagA f s, tagB f s, tagC f s] f.fd.toNat
    (fun n => vRnd f (g (a.val f.fa.toNat n) (b.val f.fa.toNat n) (c.val f.fa.toNat n))) s

/-- VNOP: nothing. -/
def execVnop (f : VSlot) (s : State) : Host.Outcome State Fault Refusal := gated (.vnop f) .go (fun s => s) s

/-- VFADD (R219). -/
def execVfadd (f : VSlot) (s : State) : Host.Outcome State Fault Refusal :=
  gated (.vfadd f) .go (vf2 (.vfadd f) f true (fadd f.rm.toNat)) s

/-- VFSUB (R219). -/
def execVfsub (f : VSlot) (s : State) : Host.Outcome State Fault Refusal :=
  gated (.vfsub f) .go (vf2 (.vfsub f) f true fun a b => fadd f.rm.toNat a b.neg) s

/-- VFMUL (R219). -/
def execVfmul (f : VSlot) (s : State) : Host.Outcome State Fault Refusal :=
  gated (.vfmul f) .go (fun s => vf2 (.vfmul f) f (!bothHaar f s) fmul s) s

/-- VFMA (R219). -/
def execVfma (f : VSlot) (s : State) : Host.Outcome State Fault Refusal :=
  gated (.vfma f) .go (vf3 (.vfma f) f (ffma f.rm.toNat)) s

/-- VFMS (R219). -/
def execVfms (f : VSlot) (s : State) : Host.Outcome State Fault Refusal :=
  gated (.vfms f) .go (vf3 (.vfms f) f fun a b c => ffma f.rm.toNat a b c.neg) s

/-- VFNMA (R219). -/
def execVfnma (f : VSlot) (s : State) : Host.Outcome State Fault Refusal :=
  gated (.vfnma f) .go (vf3 (.vfnma f) f fun a b c => fadd f.rm.toNat (fmul a b).neg c) s

/-- VFMIN (R220). -/
def execVfmin (f : VSlot) (s : State) : Host.Outcome State Fault Refusal :=
  gated (.vfmin f) .go (vf2 (.vfmin f) f false fminV) s

/-- VFMAX (R220). -/
def execVfmax (f : VSlot) (s : State) : Host.Outcome State Fault Refusal :=
  gated (.vfmax f) .go (vf2 (.vfmax f) f false fmaxV) s

/-- VFABS (R219). -/
def execVfabs (f : VSlot) (s : State) : Host.Outcome State Fault Refusal :=
  gated (.vfabs f) .go (vf1 (.vfabs f) f false FVal.abs) s

/-- VFNEG (R219). -/
def execVfneg (f : VSlot) (s : State) : Host.Outcome State Fault Refusal :=
  gated (.vfneg f) .go (vf1 (.vfneg f) f true FVal.neg) s

/-- A floating comparison under COND (R221). -/
def fCond (cond : Nat) (a b : FVal) : Bool :=
  match fcmp a b with
  | none => cond = 1 || cond = 6
  | some o =>
    match cond with
    | 0 => o = .eq
    | 1 => o ≠ .eq
    | 2 => o = .lt
    | 3 => o ≠ .gt
    | 4 => o = .gt
    | 5 => o ≠ .lt
    | _ => false

/-- An integer comparison under COND (R221). -/
def iCond (cond : Nat) (a b : Int) : Bool :=
  match cond with
  | 0 => a = b
  | 1 => a ≠ b
  | 2 => a < b
  | 3 => a ≤ b
  | 4 => a > b
  | _ => a ≥ b

/-- A comparison into a predicate after its tag check (R218, R221). -/
def vCompare (i : Instr) (f : VSlot) (g : Nat → Bool) (s : State) : State :=
  match firstHaar [tagA f s, tagB f s] with
  | some x => domainFault i x s
  | none => writePred f 4 g (popIf f s)

/-- VFCMP (R221). -/
def execVfcmp (f : VSlot) (s : State) : Host.Outcome State Fault Refusal :=
  gated (.vfcmp f) .go (fun s =>
    let a := srcA f s
    let b := srcB f s
    vCompare (.vfcmp f) f (fun n => fCond (bits f.aux.toNat 2 0) (a.val f.fa.toNat n) (b.val f.fa.toNat n)) s) s

/-- VFSPEC (R222). -/
def execVfspec (f : VSlot) (s : State) : Host.Outcome State Fault Refusal :=
  gated (.vfspec f) .go (vf1 (.vfspec f) f false (specV (bits f.aux.toNat 2 0))) s

/-- The class mask of an encoding (R223). -/
def fClass (fmt x : Nat) : Nat :=
  match decodeF fmt x with
  | .nan => 256
  | .inf neg => if neg then 1 else 128
  | .num neg m _ _ =>
    if m = 0 then if neg then 8 else 16
    else if m < 2 ^ fmtM fmt then if neg then 4 else 32
    else if neg then 2 else 64

/-- VFCLASS (R223). -/
def execVfclass (f : VSlot) (s : State) : Host.Outcome State Fault Refusal :=
  gated (.vfclass f) .go (fun s =>
    let a := srcA f s
    vOp (.vfclass f) f 4 false [tagA f s] 5
      (fun n => BitVec.ofNat 32 (fClass f.fa.toNat (lane a.bits n).toNat)) s) s

/-! ### Integers (R224) -/

/-- U of the integer operations. -/
def vUns (f : VSlot) : Bool := f.aux.getLsbD 10

/-- A lane read at the width of FA, signed or unsigned. -/
def laneInt (fmt : Nat) (u : Bool) (v : Vec) (i : Nat) : Int :=
  let w := fmtBits fmt
  let x := (lane v i).toNat % 2 ^ w
  if u then x else sintOf w x

/-- A result wrapped at width w, or clamped with SAT (R224), widened into the lane (R214). -/
def laneRes (fmt : Nat) (u sat : Bool) (x : Int) : BitVec 32 :=
  let w := fmtBits fmt
  laneOf fmt u (if sat then if u then (clampInt 0 ((2 ^ w : Nat) - 1) x).toNat else clampS w x else wrapInt w x)

/-- An integer operation of two sources. -/
def vi2 (i : Instr) (f : VSlot) (u sat : Bool) (g : Nat → Int → Int → Int) (s : State) : State :=
  let a := srcA f s
  let b := srcB f s
  let fa := f.fa.toNat
  vOp i f 4 false [tagA f s, tagB f s] f.fd.toNat
    (fun n => laneRes fa u sat (g (fmtBits fa) (laneInt fa u a.bits n) (laneInt fa u b.bits n))) s

/-- A bitwise operation or shift: the low w bits of both lanes as natural numbers. -/
def viBits (i : Instr) (f : VSlot) (u : Bool) (g : Nat → Nat → Nat → Nat) (s : State) : State :=
  let a := srcA f s
  let b := srcB f s
  let w := fmtBits f.fa.toNat
  vOp i f 4 false [tagA f s, tagB f s] f.fd.toNat
    (fun n => laneOf f.fa.toNat u (g w ((lane a.bits n).toNat % 2 ^ w) ((lane b.bits n).toNat % 2 ^ w))) s

/-- VIADD (R224). -/
def execViadd (f : VSlot) (s : State) : Host.Outcome State Fault Refusal :=
  gated (.viadd f) .go (vi2 (.viadd f) f (vUns f) (vSat f) fun _ a b => a + b) s

/-- VISUB (R224). -/
def execVisub (f : VSlot) (s : State) : Host.Outcome State Fault Refusal :=
  gated (.visub f) .go (vi2 (.visub f) f (vUns f) (vSat f) fun _ a b => a - b) s

/-- VIMUL (R224). -/
def execVimul (f : VSlot) (s : State) : Host.Outcome State Fault Refusal :=
  gated (.vimul f) .go (vi2 (.vimul f) f (vUns f) (vSat f) fun _ a b => a * b) s

/-- VIMAD (R224). -/
def execVimad (f : VSlot) (s : State) : Host.Outcome State Fault Refusal :=
  gated (.vimad f) .go (fun s =>
    let a := srcA f s
    let b := srcB f s
    let c := srcC f s
    let fa := f.fa.toNat
    vOp (.vimad f) f 4 false [tagA f s, tagB f s, tagC f s] f.fd.toNat
      (fun n => laneRes fa (vUns f) (vSat f)
        (laneInt fa (vUns f) a.bits n * laneInt fa (vUns f) b.bits n + laneInt fa (vUns f) c.bits n)) s) s

/-- VIAND (R224). -/
def execViand (f : VSlot) (s : State) : Host.Outcome State Fault Refusal :=
  gated (.viand f) .go (viBits (.viand f) f false fun _ a b => a &&& b) s

/-- VIOR (R224). -/
def execVior (f : VSlot) (s : State) : Host.Outcome State Fault Refusal :=
  gated (.vior f) .go (viBits (.vior f) f false fun _ a b => a ||| b) s

/-- VIXOR (R224). -/
def execVixor (f : VSlot) (s : State) : Host.Outcome State Fault Refusal :=
  gated (.vixor f) .go (viBits (.vixor f) f false fun _ a b => a ^^^ b) s

/-- VISHL (R224). -/
def execVishl (f : VSlot) (s : State) : Host.Outcome State Fault Refusal :=
  gated (.vishl f) .go (viBits (.vishl f) f false fun w a b => a * 2 ^ (b % w)) s

/-- VISHR (R224). -/
def execVishr (f : VSlot) (s : State) : Host.Outcome State Fault Refusal :=
  gated (.vishr f) .go (viBits (.vishr f) f (vUns f) fun w a b => a / 2 ^ (b % w)) s

/-- VISAR (R224). -/
def execVisar (f : VSlot) (s : State) : Host.Outcome State Fault Refusal :=
  gated (.visar f) .go (viBits (.visar f) f false fun w a b => wrapInt w (sintOf w a / (2 ^ (b % w) : Nat))) s

/-- VIMIN (R224). -/
def execVimin (f : VSlot) (s : State) : Host.Outcome State Fault Refusal :=
  gated (.vimin f) .go (vi2 (.vimin f) f (vUns f) false fun _ a b => if a ≤ b then a else b) s

/-- VIMAX (R224). -/
def execVimax (f : VSlot) (s : State) : Host.Outcome State Fault Refusal :=
  gated (.vimax f) .go (vi2 (.vimax f) f (vUns f) false fun _ a b => if a ≤ b then b else a) s

/-- VICMP (R221). -/
def execVicmp (f : VSlot) (s : State) : Host.Outcome State Fault Refusal :=
  gated (.vicmp f) .go (fun s =>
    let a := srcA f s
    let b := srcB f s
    let fa := f.fa.toNat
    vCompare (.vicmp f) f
      (fun n => iCond (bits f.aux.toNat 2 0) (laneInt fa (vUns f) a.bits n) (laneInt fa (vUns f) b.bits n)) s) s

/-! ### Conversions and scales (R225 to R227) -/

/-- Whether a conversion is linear (R218): both float, or no conversion. -/
def linearCvt (f : VSlot) : Bool := (isFloat f.fa.toNat && isFloat f.fd.toNat) || decide (f.fa = f.fd)

/-- An element converted from FA to FD (R225). -/
def vCvt (f : VSlot) (x : Nat) : Nat := convertF f.fa.toNat f.fd.toNat f.rm.toNat (vSat f) x

/-- VCVT (R225). -/
def execVcvt (f : VSlot) (s : State) : Host.Outcome State Fault Refusal :=
  gated (.vcvt f) .go (fun s =>
    let a := srcA f s
    vOp (.vcvt f) f 4 (linearCvt f) [tagA f s] f.fd.toNat
      (fun n => laneOf f.fd.toNat false (vCvt f (lane a.bits n).toNat)) s) s

/-- VPACK (R226): the bytes outside the part keep their values. -/
def execVpack (f : VSlot) (s : State) : Host.Outcome State Fault Refusal :=
  gated (.vpack f) .go (fun s =>
    let a := srcA f s
    let srcs := [tagA f s]
    match (if linearCvt f then treeClash none srcs else firstHaar srcs) with
    | some x => domainFault (.vpack f) x s
    | none =>
      let w := fmtBits f.fd.toNat
      let p := rdP s f.p.toNat
      let base := 128 * w * bits f.aux.toNat 1 0
      let data := packElems w ((List.range 128).map fun n =>
        if p.getLsbD n then vCvt f (lane a.bits n).toNat else 0)
      let mask := packElems w ((List.range 128).map fun n =>
        if p.getLsbD n ∨ f.z = 1#1 then 2 ^ w - 1 else 0)
      post ⟨.v, vField f f.vd s.foc.k⟩ 4
        (.vec (BitVec.ofNat 4096 (mask * 2 ^ base)) (BitVec.ofNat 4096 (data * 2 ^ base))
          (some (if linearCvt f then linearTag srcs f.fd.toNat else plainTag f.fd.toNat))) (popIf f s)) s

/-- VUNPK (R226). -/
def execVunpk (f : VSlot) (s : State) : Host.Outcome State Fault Refusal :=
  gated (.vunpk f) .go (fun s =>
    let a := srcA f s
    vOp (.vunpk f) f 4 (linearCvt f) [tagA f s] f.fd.toNat
      (fun n => laneOf f.fd.toNat false
        (vCvt f (elemOf a.bits.toNat (128 * bits f.aux.toNat 1 0 + n) (fmtBits f.fa.toNat)))) s) s

/-- The block scale of VSCAL and VSCACC (R227). -/
def blockScale (f : VSlot) (b : VReg) : FVal :=
  let x := (lane b.bits (bits f.aux.toNat 6 0)).toNat
  if f.aux.getLsbD 7 then
    let e := x % 256
    if e = 255 then .nan else .num false 1 ((e : Int) - 127) false
  else decodeF 0 x

/-- VSCACC (R227): a in FA, c in FD, one rounding. -/
def execVscacc (f : VSlot) (s : State) : Host.Outcome State Fault Refusal :=
  gated (.vscacc f) .go (fun s =>
    let a := srcA f s
    let b := srcB f s
    let c := srcC f s
    vOp (.vscacc f) f 4 true [tagA f s, tagB f s, tagC f s] f.fd.toNat
      (fun n => vRnd f (ffma f.rm.toNat (a.val f.fa.toNat n) (blockScale f b) (c.val f.fd.toNat n))) s) s

/-- VSCAL (R227). -/
def execVscal (f : VSlot) (s : State) : Host.Outcome State Fault Refusal :=
  gated (.vscal f) .go (fun s =>
    let a := srcA f s
    let b := srcB f s
    vOp (.vscal f) f 4 true [tagA f s, tagB f s] f.fd.toNat
      (fun n => vRnd f (fmul (a.val f.fa.toNat n) (blockScale f b))) s) s

/-! ### Moves (R228, R229) -/

/-- A move of lanes of source A; the result takes the format of source A (R218). -/
def vMove (i : Instr) (f : VSlot) (srcs : List Src) (g : Vec → Nat → BitVec 32) (s : State) : State :=
  let a := srcA f s
  vOp i f 4 true srcs (tagFmt a.tag) (g a.bits) s

/-- VMOV (R228). -/
def execVmov (f : VSlot) (s : State) : Host.Outcome State Fault Refusal :=
  gated (.vmov f) .go (fun s => vMove (.vmov f) f [tagA f s] (fun a n => lane a n) s) s

/-- VSEL (R228). -/
def execVsel (f : VSlot) (s : State) : Host.Outcome State Fault Refusal :=
  gated (.vsel f) .go (fun s =>
    let b := srcB f s
    let pc := rdP s (f.vc.toNat % 8)
    vMove (.vsel f) f [tagA f s, tagB f s] (fun a n => if pc.getLsbD n then lane a n else lane b.bits n) s) s

/-- VBCAST (R228), from a lane or from a scalar. -/
def execVbcast (f : VSlot) (s : State) : Host.Outcome State Fault Refusal :=
  gated (.vbcast f) .go (fun s =>
    if f.aux.getLsbD 7 then
      let x := rdS s (f.va.toNat % 32)
      writeLanes f 4 (some (plainTag f.fd.toNat)) (fun _ => x.truncate 32) s
    else vMove (.vbcast f) f [tagA f s] (fun a _ => lane a (bits f.aux.toNat 6 0)) s) s

/-- VINS (R228): one lane; VD keeps its tag. -/
def execVins (f : VSlot) (s : State) : Host.Outcome State Fault Refusal :=
  gated (.vins f) .go (fun s =>
    let x := rdS s (f.va.toNat % 32)
    let k := bits f.aux.toNat 6 0
    let on := (rdP s f.p.toNat).getLsbD k
    post ⟨.v, vField f f.vd s.foc.k⟩ 4
      (.vec (laneMask fun i => decide (i = k) && (on || decide (f.z = 1#1)))
        (mkVec fun i => if i = k ∧ on = true then x.truncate 32 else 0) none) s) s

/-- VEXT (R229). -/
def execVext (f : VSlot) (s : State) : Host.Outcome State Fault Refusal :=
  gated (.vext f) .go (fun s =>
    let a := (srcA f s).bits
    let k := bits f.aux.toNat 6 0
    let s := popIf f s
    match bits f.aux.toNat 11 10 with
    | 0 => postS (f.vd.toNat % 32) 4 ((lane a k).signExtend 64) s
    | 1 => post ⟨.sh, f.vd.toNat % 8⟩ 4 (.shape (BitVec.ofNat 256 (a.toNat / 2 ^ (256 * k)))) s
    | _ => post ⟨.th, f.vd.toNat % 8⟩ 4 (.thr (BitVec.ofNat 128 (a.toNat / 2 ^ (128 * k)))) s) s

/-- VPERM (R228). -/
def execVperm (f : VSlot) (s : State) : Host.Outcome State Fault Refusal :=
  gated (.vperm f) .go (fun s =>
    let b := srcB f s
    vMove (.vperm f) f [tagA f s] (fun a n => lane a ((lane b.bits n).toNat % 128)) s) s

/-- VROT (R228). -/
def execVrot (f : VSlot) (s : State) : Host.Outcome State Fault Refusal :=
  gated (.vrot f) .go (fun s => vMove (.vrot f) f [tagA f s] (fun a n => lane a ((n + bits f.aux.toNat 6 0) % 128)) s) s

/-- VIOTA (R228). -/
def execViota (f : VSlot) (s : State) : Host.Outcome State Fault Refusal :=
  gated (.viota f) .go (writeLanes f 4 (some (plainTag 5)) fun n => BitVec.ofNat 32 (f.aux.toNat + n)) s

/-- VLI (R228). -/
def execVli (f : VSlot) (s : State) : Host.Outcome State Fault Refusal :=
  gated (.vli f) .go (writeLanes f 4 (some (plainTag f.fd.toNat)) fun _ =>
    let fd := f.fd.toNat
    if isFloat fd then laneOf fd false (roundFmt (ofInt f.aux.toInt) fd 0 false)
    else laneOf fd false (wrapInt (fmtBits fd) f.aux.toInt)) s

/-! ### Reductions (R230) -/

/-- One level of the tree of R230. -/
def pairUp {α : Type} (comb : α → α → α) : List (Option α) → List (Option α)
  | some a :: some b :: r => some (comb a b) :: pairUp comb r
  | none :: b :: r => b :: pairUp comb r
  | a :: none :: r => a :: pairUp comb r
  | l => l

/-- The root of the tree over 128 lanes. -/
def treeFold {α : Type} (comb : α → α → α) (l : List (Option α)) : Option α :=
  ((List.range 7).foldl (fun l _ => pairUp comb l) l).head?.join

/-- A floating reduction in FP32 by `comb`, `empty` when no lane contributes. -/
def reduceF (f : VSlot) (comb : FVal → FVal → FVal) (empty : FVal) (s : State) : BitVec 32 :=
  let a := srcA f s
  let p := rdP s f.p.toNat
  let leaf (n : Nat) : Option Nat := if p.getLsbD n then some (roundFmt (a.val f.fa.toNat n) 0 0 false) else none
  let r := treeFold (fun x y => roundFmt (comb (decodeF 0 x) (decodeF 0 y)) 0 0 false) ((List.range 128).map leaf)
  vRnd f (match r with | some x => decodeF 0 x | none => empty)

/-- An integer reduction at 32 bits, signed or with U. -/
def reduceI (f : VSlot) (comb : Int → Int → Int) (empty : Int) (s : State) : BitVec 32 :=
  let a := srcA f s
  let p := rdP s f.p.toNat
  let leaf (n : Nat) : Option Int := if p.getLsbD n then some (laneInt f.fa.toNat (vUns f) a.bits n) else none
  BitVec.ofInt 32 ((treeFold comb ((List.range 128).map leaf)).getD empty)

/-- A reduction: the value in every lane of VD, whatever P. -/
def vReduce (i : Instr) (f : VSlot) (linear : Bool) (x : BitVec 32) (s : State) : State :=
  let srcs := [tagA f s]
  match (if linear then treeClash none srcs else firstHaar srcs) with
  | some y => domainFault i y s
  | none =>
    postV (vField f f.vd s.foc.k) 8 (mkVec fun _ => x)
      (if linear then linearTag srcs f.fd.toNat else plainTag f.fd.toNat) (popIf f s)

/-- INT of the reductions. -/
def vInt (f : VSlot) : Bool := f.aux.getLsbD 8

/-- VRSUM (R230). -/
def execVrsum (f : VSlot) (s : State) : Host.Outcome State Fault Refusal :=
  gated (.vrsum f) .go (fun s =>
    if (vInt f) then vReduce (.vrsum f) f false (reduceI f (fun a b => (a + b) % 4294967296) 0 s) s
    else vReduce (.vrsum f) f true (reduceF f (fadd 0) (.num false 0 0 false) s) s) s

/-- VRMAX (R230). -/
def execVrmax (f : VSlot) (s : State) : Host.Outcome State Fault Refusal :=
  gated (.vrmax f) .go (fun s =>
    vReduce (.vrmax f) f false (if (vInt f) then reduceI f (fun a b => if a ≤ b then b else a)
        (if (vUns f) then 0 else -2147483648) s
      else reduceF f fmaxV .nan s) s) s

/-- VRMIN (R230). -/
def execVrmin (f : VSlot) (s : State) : Host.Outcome State Fault Refusal :=
  gated (.vrmin f) .go (fun s =>
    vReduce (.vrmin f) f false (if (vInt f) then reduceI f (fun a b => if a ≤ b then a else b)
        (if (vUns f) then 4294967295 else 2147483647) s
      else reduceF f fminV .nan s) s) s

/-! ### Predicates (R231) -/

/-- PSET (R231). -/
def execPset (f : VSlot) (s : State) : Host.Outcome State Fault Refusal :=
  gated (.pset f) .go (fun s =>
    let n := if f.aux.getLsbD 8 then min (rdS s (f.va.toNat % 32)).toNat 128 else bits f.aux.toNat 7 0
    writePred f 1 (fun i => decide (i < n)) s) s

/-- PAND (R231). -/
def execPand (f : VSlot) (s : State) : Host.Outcome State Fault Refusal :=
  gated (.pand f) .go (fun s =>
    let a := rdP s (f.va.toNat % 8)
    let b := rdP s (f.vb.toNat % 8)
    writePred f 1 (fun i => a.getLsbD i && b.getLsbD i) s) s

/-- POR (R231). -/
def execPor (f : VSlot) (s : State) : Host.Outcome State Fault Refusal :=
  gated (.por f) .go (fun s =>
    let a := rdP s (f.va.toNat % 8)
    let b := rdP s (f.vb.toNat % 8)
    writePred f 1 (fun i => a.getLsbD i || b.getLsbD i) s) s

/-- PXOR (R231). -/
def execPxor (f : VSlot) (s : State) : Host.Outcome State Fault Refusal :=
  gated (.pxor f) .go (fun s =>
    let a := rdP s (f.va.toNat % 8)
    let b := rdP s (f.vb.toNat % 8)
    writePred f 1 (fun i => a.getLsbD i ^^ b.getLsbD i) s) s

/-- PNOT (R231). -/
def execPnot (f : VSlot) (s : State) : Host.Outcome State Fault Refusal :=
  gated (.pnot f) .go (fun s =>
    let a := rdP s (f.va.toNat % 8)
    writePred f 1 (fun i => !a.getLsbD i) s) s

/-- PCNT (R231). -/
def execPcnt (f : VSlot) (s : State) : Host.Outcome State Fault Refusal :=
  gated (.pcnt f) .go (fun s =>
    let x := rdP s (f.va.toNat % 8) &&& rdP s f.p.toNat
    postS (f.vd.toNat % 32) 4 (BitVec.ofNat 64 (((List.range 128).filter fun i => x.getLsbD i).length)) s) s

/-- PFIRST (R231). -/
def execPfirst (f : VSlot) (s : State) : Host.Outcome State Fault Refusal :=
  gated (.pfirst f) .go (fun s =>
    let x := rdP s (f.va.toNat % 8)
    postS (f.vd.toNat % 32) 4 (BitVec.ofNat 64 (((List.range 128).find? fun i => x.getLsbD i).getD 128)) s) s

/-! ### Haar operations (R236, R240, R241, R248 to R252) -/

/-- Half of a value, exact (R236). -/
def FVal.half : FVal → FVal
  | .num s m e more => .num s m (e - 1) more
  | x => x

/-- Bits [31:0] of PART of a threshold register's checks (R240): a reserved bit, L of 0 or 7, or an integer FMT. -/
def thBad (t : BitVec 128) : Bool :=
  decide (bits t.toNat 127 103 ≠ 0) || decide (thL t = 0) || decide (thL t = 7) || decide (bits t.toNat 102 100 ≥ 5)

/-- Hard thresholding of an element of `fmt` by a BF16 threshold (R241): the element and whether a nonzero one went. -/
def hthrElem (fmt th x : Nat) : Nat × Bool :=
  let d := decodeF fmt x
  match fcmp d.abs (decodeF 1 th) with
  | some .lt => (0, match d with | .num _ m _ _ => decide (m ≠ 0) | _ => true)
  | _ => (x, false)

/-- TL, TLAY and SEL of HFWD and HINV (R248). -/
def vTl (f : VSlot) : Nat := bits f.aux.toNat 3 1
def vTlay (f : VSlot) : Nat := bits f.aux.toNat 4 4
def vSelBit (f : VSlot) : Bool := f.aux.getLsbD 0

/-- The first source of HFWD that is neither PLAIN nor HAAR with L = TL and LAY = TLAY (R249). -/
def hfwdClash (f : VSlot) (l : List Src) : Option Src :=
  l.find? fun x => tagHaar x.2 && !(decide (tagL x.2 = (vTl f)) && decide (tagLay x.2 = (vTlay f)))

/-- HFWD (R249). -/
def execHfwd (f : VSlot) (s : State) : Host.Outcome State Fault Refusal :=
  gated (.hfwd f) .go (fun s =>
    let a := srcA f s
    let b := srcB f s
    let srcs := [tagA f s, tagB f s]
    if (vTl f) = 0 ∨ (vTl f) = 7 then startFault (.hfwd f) 6 (opInfo (.hfwd f) 0 0 0 s) s
    else
      match hfwdClash f srcs with
      | some x => domainFault (.hfwd f) x s
      | none =>
        writeLanes f 4 (some (mkTag true (vTl f) (vTlay f) f.fd.toNat (tagExact a.tag && tagExact b.tag)))
          (fun n =>
            let y := b.val f.fa.toNat n
            vRnd f (fadd f.rm.toNat (a.val f.fa.toNat n) (if (vSelBit f) then y.neg else y)).half) (popIf f s)) s

/-- HINV (R249). -/
def execHinv (f : VSlot) (s : State) : Host.Outcome State Fault Refusal :=
  gated (.hinv f) .go (fun s =>
    let a := srcA f s
    let b := srcB f s
    let srcs := [tagA f s, tagB f s]
    if (vTl f) = 7 then startFault (.hinv f) 6 (opInfo (.hinv f) 0 0 0 s) s
    else
      match treeClash none srcs with
      | some x => domainFault (.hinv f) x s
      | none =>
        writeLanes f 4
          (some (mkTag (decide ((vTl f) ≠ 0)) (vTl f) (if (vTl f) = 0 then 0 else (vTlay f)) f.fd.toNat
            (tagExact a.tag && tagExact b.tag)))
          (fun n =>
            let y := b.val f.fa.toNat n
            vRnd f (fadd f.rm.toNat (a.val f.fa.toNat n) (if (vSelBit f) then y.neg else y))) (popIf f s)) s

/-- HTHR (R250). -/
def execHthr (f : VSlot) (s : State) : Host.Outcome State Fault Refusal :=
  gated (.hthr f) .go (fun s =>
    let a := srcA f s
    let k := f.vb.toNat % 8
    let t := rdTh s k
    let fa := f.fa.toNat
    let l := bits f.aux.toNat 2 0
    let th := elemOf t.toNat (l - 1) 16
    let p := rdP s f.p.toNat
    if thBad t then startFault (.hthr f) 6 (opInfo (.hthr f) 6 k 0 s) s
    else
      let lost := (List.range 128).any fun n => p.getLsbD n && (hthrElem fa th (lane a.bits n).toNat).2
      writeLanes f 4 (some (clearExact a.tag lost))
        (fun n =>
          let x := (lane a.bits n).toNat % 2 ^ fmtBits fa
          BitVec.ofNat 32 (if decodeF fa x = .nan then canonNaN fa else (hthrElem fa th x).1)) (popIf f s)) s

/-- HTAG with RD = 0 (R251): the tag alone is written. -/
def execHtagSet (f : VSlot) (s : State) : Host.Outcome State Fault Refusal :=
  gated (.htagSet f) .go (fun s =>
    post ⟨.v, vField f f.vd s.foc.k⟩ 1 (.vec 0 0 (some (f.aux.zeroExtend 32 &&& 0x1FF#32))) s) s

/-- HTAG with RD = 1 (R251). -/
def execHtagRead (f : VSlot) (s : State) : Host.Outcome State Fault Refusal :=
  gated (.htagRead f) .go (fun s =>
    postS (f.vd.toNat % 32) 1 ((rdV s (vField f f.va s.foc.k)).tag.zeroExtend 64) s) s

/-- HCMP (R252). -/
def execHcmp (f : VSlot) (s : State) : Host.Outcome State Fault Refusal :=
  gated (.hcmp f) .go (fun s =>
    let a := srcA f s
    let p := rdP s f.p.toNat
    let fa := f.fa.toNat
    let nz (x : Nat) : Bool :=
      if isFloat fa then match decodeF fa x with | .num _ m _ _ => decide (m ≠ 0) | _ => true
      else decide (x % 2 ^ fmtBits fa ≠ 0)
    let hit := (List.range 128).any fun n => p.getLsbD n && nz (lane a.bits n).toNat
    postS (f.vd.toNat % 32) 4 (if hit then BitVec.ofNat 64 (2 ^ bits f.aux.toNat 5 0) else 0) (popIf f s)) s

/-! ### Spilling and checking (R232, R233) -/

/-- SPLV (R232); a full journal is a start fault (R365). -/
def execSplv (f : VSlot) (s : State) : Host.Outcome State Fault Refusal :=
  gated (.splv f) .go (fun s =>
    let (off, n) := spillPlace f
    match journalFull true (spillLines off n) s with
    | some used => startFault (.splv f) 0x13 (info13 (.splv f) used 1 s) s
    | none =>
      match spillClass f with
      | .v =>
        let r := rdV s (vField f f.va s.foc.k)
        let tag := if s.foc.bad then toTag (Config.freeTag (2 * s.nfree + 1)) else r.tag
        (spillWrite off n r.bits.toNat s).modArch fun a => { a with slotTag := a.slotTag.set (off / 512) tag }
      | .sh => spillWrite off n (rdSh s (f.va.toNat % 8)).toNat s
      | .th => spillWrite off n (rdTh s (f.va.toNat % 8)).toNat s
      | _ => spillWrite off n (rdP s (f.va.toNat % 8)).toNat s) s

/-- FILV (R232). -/
def execFilv (f : VSlot) (s : State) : Host.Outcome State Fault Refusal :=
  gated (.filv f) .go (fun s =>
    let (off, n) := spillPlace f
    let x := s.ctx.a.spill.read off n
    match spillClass f with
    | .v => postV (vField f f.vd s.foc.k) 1 (BitVec.ofNat 4096 x) (s.ctx.a.slotTag.get (off / 512) 0x100#32) s
    | .sh => post ⟨.sh, f.vd.toNat % 8⟩ 1 (.shape (BitVec.ofNat 256 x)) s
    | .th => post ⟨.th, f.vd.toNat % 8⟩ 1 (.thr (BitVec.ofNat 128 x)) s
    | _ => post ⟨.p, f.vd.toNat % 8⟩ 1 (.pred (BitVec.allOnes 128) (BitVec.ofNat 128 x)) s) s

/-- VCHK (R233). -/
def execVchk (f : VSlot) (s : State) : Host.Outcome State Fault Refusal :=
  gated (.vchk f) .go (fun s =>
    let a := srcA f s
    let b := srcB f s
    let tagd := decide (a.tag ≠ b.tag)
    let l := (List.range 128).find? fun n => lane a.bits n ≠ lane b.bits n
    if tagd ∨ l.isSome then
      startFault (.vchk f) 0x0D (BitVec.ofNat 64 (b2n tagd * 2 ^ 39 + l.getD 0 * 2 ^ 32 + s.foc.idx % 64 * 2 ^ 23
        + 0x5C * 2 ^ 8 + 2)) s
    else s) s

end Sys2Proof.Machine
end

