-- ==== Sys2Proof/Machine/Tile.lean ====
section
/-! DEFINITION. Compressed tiles: the Haar transform and its layouts (R236, R239), HST (R243, R244) and HLD (R246,
R247). -/

namespace Sys2Proof.Machine

/-- A row of 128 elements, as encodings of the tile's format. -/
abbrev Row := List Nat

/-- havg and hdif of two elements under RNE (R236). -/
def havg (fmt x y : Nat) : Nat := roundFmt (fadd 0 (decodeF fmt x) (decodeF fmt y)).half fmt 0 false
def hdif (fmt x y : Nat) : Nat := roundFmt (fadd 0 (decodeF fmt x) (decodeF fmt y).neg).half fmt 0 false

/-- One level of a forward transform: averages and details. -/
def haarLevel (fmt : Nat) : List Row → List Row × List Row
  | x :: y :: r =>
    let (a, d) := haarLevel fmt r
    (List.zipWith (havg fmt) x y :: a, List.zipWith (hdif fmt) x y :: d)
  | _ => ([], [])

/-- The forward transform: the average row and the detail rows of levels l, l + 1, … (R236). -/
def haarForward (fmt : Nat) : Nat → List Row → Row × List (List Row)
  | 0, rows => (rows.headD [], [])
  | n + 1, rows =>
    let (a, d) := haarLevel fmt rows
    let (top, ds) := haarForward fmt n a
    (top, d :: ds)

/-- The position of d_l[m] in TREE, j = L − l (R239). -/
def treePos (L : Nat) : Nat → Nat → Nat
  | 0, _ => 1
  | j + 1, m => treePos L j (m / 2) + 1 + (if m % 2 = 0 then 0 else 2 ^ (L - (j + 1)) - 1)

/-- The position of d_l[m] (R239). -/
def detailPos (lay L l m : Nat) : Nat := if lay = 0 then 2 ^ L / 2 ^ l + m else treePos L (L - l) m

/-- The level and index of the detail row at each position from 1 on, as (position, level, index). -/
def positions (lay L : Nat) : List (Nat × Nat × Nat) :=
  (List.range L).flatMap fun i => (List.range (2 ^ L / 2 ^ (i + 1))).map fun m => (detailPos lay L (i + 1) m, i + 1, m)

/-- lev(p) (R239). -/
def levelOf (lay L p : Nat) : Nat := (((positions lay L).find? fun x => x.1 = p).map fun x => x.2.1).getD 0

/-- The coefficient rows of a transform by position. -/
def toDense (lay L : Nat) (top : Row) (ds : List (List Row)) : List Row :=
  (List.range (2 ^ L)).map fun p =>
    match (positions lay L).find? fun x => x.1 = p with
    | none => top
    | some (_, l, m) => (ds.getD (l - 1) []).getD m []

/-- One level of the inverse (R236). -/
def inverseLevel (fmt : Nat) (a d : List Row) : List Row :=
  (List.zip a d).flatMap fun (x, y) =>
    [List.zipWith (fun u v => roundFmt (fadd 0 (decodeF fmt u) (decodeF fmt v)) fmt 0 false) x y,
     List.zipWith (fun u v => roundFmt (fadd 0 (decodeF fmt u) (decodeF fmt v).neg) fmt 0 false) x y]

/-- The inverse from dense rows: levels `l` down to 1 (R236). -/
def haarInverse (fmt lay L : Nat) (c : List Row) : Nat → List Row → List Row
  | 0, a => a
  | l + 1, a =>
    haarInverse fmt lay L c l
      (inverseLevel fmt a ((List.range (2 ^ L / 2 ^ (l + 1))).map fun m => c.getD (detailPos lay L (l + 1) m) []))

/-- Fields of a threshold register (R240). -/
def thLay (t : Nat) : Nat := bits t 99 99
def thFmt (t : Nat) : Nat := bits t 102 100

/-- Whether a threshold register and a domain tag agree in L, LAY and FMT (R246). -/
def thMatches (t : BitVec 128) (tag : BitVec 32) : Bool :=
  decide (tagL tag = thL t) && decide (tagLay tag = thLay t.toNat) && decide (tagFmt tag = thFmt t.toNat)

/-- Bytes of a row (R242). -/
def rowBytes (fmt : Nat) : Nat := 128 * fmtSize fmt

/-- A tile header's fields (R242). -/
def tileTag (x : Nat) : BitVec 32 := BitVec.ofNat 32 x
def tilePres (x : Nat) : Nat := bits x 95 32
def tileRows (x : Nat) : Nat := bits x 102 96

/-- The positions of a presence bitmap's ones. -/
def presList (pres : Nat) : List Nat := (List.range 64).filter fun i => pres.testBit i

/-- A well-formed tile (R242). -/
def tileOk (x : Nat) : Bool :=
  let t := tileTag x
  !tagMalformed t && tagHaar t && decide (tilePres x < 2 ^ 2 ^ tagL t)
    && decide ((presList (tilePres x)).length = tileRows x) && decide (bits x 127 103 = 0)

/-- Maximum extent of a tile (R242). -/
def tileMax (t : BitVec 128) : Nat := 16 + 2 ^ thL t * rowBytes (thFmt t.toNat)

/-- The effective offset of HST and HLD: OFF[20:0], stepped by the maximum extent (R243). -/
def tileOff (f : ASlot) (t : BitVec 128) (s : State) : Word :=
  rdS s f.xs.toNat + BitVec.ofInt 64 (sintOf 21 f.off.toNat + s.foc.k * f.step.toInt * tileMax t)

/-- Number of the threshold register that OFF[25:23] names. -/
def thNum (f : ASlot) : Nat := f.off.toNat / 2 ^ 23 % 8

/-- Checks 1 and 2 of HST, 2 and 3 of HLD (R243, R246): the threshold register, the registers. -/
def tileRegs (f : ASlot) (s : State) : Option Ill :=
  let t := rdTh s (thNum f)
  if thBad t then some { cls := 6, reg := thNum f }
  else if f.dr.toNat + 2 ^ thL t > 64 then some { cls := 1, reg := f.dr.toNat }
  else illLent s.ctx.a ((List.range (2 ^ thL t)).map (f.dr.toNat + ·))

/-- The first source of HST that breaks check 3 (R243). -/
def hstClash (t : BitVec 128) (srcs : List (Nat × BitVec 32)) : Option Nat :=
  match srcs with
  | [] => none
  | (_, g) :: _ =>
    (srcs.find? fun x =>
      if tagHaar g then
        !(tagHaar x.2 && decide (tagL x.2 = thL t) && decide (tagLay x.2 = thLay t.toNat))
      else tagHaar x.2).map (·.1)

/-- The access port is taken for S cycles (R245). -/
def takePort (n : Nat) (s : State) : State := s.modCore fun k => { k with portTo := k.clk + n }

/-- The tile that HST writes: its bytes' number and value (R244). -/
def buildTile (t : BitVec 128) (srcs : List VReg) : Nat × Nat :=
  let fmt := thFmt t.toNat
  let lay := thLay t.toNat
  let L := thL t
  let rows : List Row := srcs.map fun r => (List.range 128).map fun i => (lane r.bits i).toNat % 2 ^ fmtBits fmt
  let plain := match srcs with | r :: _ => !tagHaar r.tag | [] => true
  let dense := if plain then
      let (top, ds) := haarForward fmt L rows
      toDense lay L top ds
    else rows
  let cut := dense.zipIdx.map fun (row, p) =>
    if p = 0 then row.map fun x => (x, false)
    else row.map fun x => hthrElem fmt (elemOf t.toNat (levelOf lay L p - 1) 16) x
  let lost := cut.any fun r => r.any fun x => x.2
  let kept : List Row := cut.map fun r => r.map (·.1)
  let nonzero (r : Row) : Bool := r.any fun x => decide (x % signBit fmt ≠ 0)
  let pres := packElems 1 (kept.map fun r => b2n (nonzero r))
  let stored := kept.filter nonzero
  let tag := mkTag true L lay fmt ((srcs.all fun r => tagExact r.tag) && !lost)
  let data := packElems (8 * rowBytes fmt) (stored.map fun r => packElems (fmtBits fmt) r)
  (16 + stored.length * rowBytes fmt,
   tag.toNat + 2 ^ 32 * (pres % 2 ^ 64) + 2 ^ 96 * stored.length + 2 ^ 128 * data)

/-- HST (R243, R244). -/
def execHst (f : ASlot) (s : State) : Host.Outcome State Fault Refusal :=
  gated (.hst f) .go (fun s =>
    let i : Instr := .hst f
    let t := rdTh s (thNum f)
    match tileRegs f s with
    | some x => startFault i 6 (opInfo i x.cls x.reg 0 s) s
    | none =>
      let n := 2 ^ thL t
      let srcs := (List.range n).map fun j => rdV s (f.dr.toNat + j)
      match hstClash t (srcs.zipIdx.map fun (r, j) => (f.dr.toNat + j, r.tag)) with
      | some r => startFault i 7 (opInfo i 1 r 0 s) s
      | none =>
        let off := (tileOff f t s).toNat
        let (len, v) := buildTile t srcs
        let s' := storeOp i f.h.toNat off [{ off := off, size := tileMax t, align := 16 }] [(off, len, v)] s
        if s'.ctx.faults.length = s.ctx.faults.length then takePort n s' else s') s

/-- The registers HLD writes (R247): data and tag of each. -/
def readTile (e : Nat) (hdr : Nat) (rows : List Row) : List (Row × BitVec 32) :=
  let t := tileTag hdr
  let L := tagL t
  let n := 2 ^ L
  let zero : Row := List.replicate 128 0
  let pos := presList (tilePres hdr)
  let dense : List Row := (List.range n).map fun p =>
    match pos.idxOf? p with | some k => rows.getD k zero | none => zero
  match e with
  | 0 => (List.range n).map fun j => (rows.getD j zero, t)
  | 1 => dense.map fun r => (r, t)
  | _ =>
    (haarInverse (tagFmt t) (tagLay t) L dense L [dense.getD 0 zero]).map fun r =>
      (r, mkTag false 0 0 (tagFmt t) (tagExact t))

/-- HLD (R246, R247). -/
def execHld (f : ASlot) (s : State) : Host.Outcome State Fault Refusal :=
  gated (.hld f) .go (fun s =>
    let i : Instr := .hld f
    let t := rdTh s (thNum f)
    match (if f.h ≠ 0 ∨ f.off.toNat / 2 ^ 21 % 4 = 3 then some {} else tileRegs f s) with
    | some x => startFault i 6 (opInfo i x.cls x.reg 0 s) s
    | none =>
      let off := (tileOff f t s).toNat
      match accessCheck s 0 .rd off [{ off := off, size := 16, align := 16 }] with
      | some (c, info) => startFault i c info s
      | none =>
        let base := match locOf s 0 off 16 with | .sp _ a => a | .gm _ => 0
        let hdr := spRead s s.foc.core base 16
        if !tileOk hdr || !thMatches t (tileTag hdr) then startFault i 6 (opInfo i 0 0 0 s) s
        else
          let rb := rowBytes (thFmt t.toNat)
          let len := 16 + tileRows hdr * rb
          match accessCheck s 0 .rd off [{ off := off, size := len, align := 16 }] with
          | some (c, info) => startFault i c info s
          | none =>
            if badSp s s.foc.core base len then
              if canRewind s then rewind s
              else startFault i 0x14 (info14 (lineOf base) 1 i.opcode.toNat 2 s) s
            else
              let rows : List Row := (List.range (tileRows hdr)).map fun k =>
                let x := spRead s s.foc.core (base + 16 + k * rb) rb
                (List.range 128).map fun j => elemOf x j (fmtBits (thFmt t.toNat))
              let out := readTile (f.off.toNat / 2 ^ 21 % 4) hdr rows
              takePort (2 ^ thL t) (out.zipIdx.foldl (fun s ((r, g), j) =>
                postV (f.dr.toNat + j) (8 + j) (BitVec.ofNat 4096 (packElems 32 r)) g s) s)) s

end Sys2Proof.Machine
end

