-- ==== Sys2Proof/Machine/Hold.lean ====
section
/-! DEFINITION. What keeps a starting A operation from starting: the load-address queue (R113), bank cycles (R116), the vertical
bus (R96, R97), the victim stall (R158), the promotion log (R159), walks (R123), PACQ and DRN (R131, R132). -/

namespace Sys2Proof.Machine

/-- Whether a narrow release starts. -/
def narrowRelease : Instr → Bool
  | .strel f => decide (f.sc.toNat ≤ 1)
  | _ => false

/-- The handle of an A operation that reaches memory by the load-address queue (R113). -/
def queueHandle : Instr → Option (BitVec 4)
  | .ldf f | .ste f | .setf f | .sete f | .tstf f | .barv f | .bwait f | .hld f | .ldq f | .ldqv f | .ldqg f | .ldqs f
  | .sts f | .stv f | .stvp f | .stg f | .tld f | .tst f | .hst f | .ldacq f | .strel f | .pacq f | .amoadd f | .amomin f
  | .amomax f | .amominn f | .amomaxn f | .amoand f | .amoor f | .amoxor f
  | .amoswp f | .amocas f | .amoincw f | .amobfa f | .amofadd f => some f.h
  | _ => none

/-- The bytes that an HST stores (R244). -/
def hstBytes (f : ASlot) (s : State) : Nat :=
  let t := rdTh s (thNum f)
  if (tileRegs f s).isSome then 0 else (buildTile t ((List.range (2 ^ thL t)).map fun j => rdV s (f.dr.toNat + j))).1

/-- The bytes of the tile that an HLD reads (R246). -/
def hldBytes (f : ASlot) (s : State) : Nat :=
  let t := rdTh s (thNum f)
  match spPlace s s.foc.core s.lid 0 (tileOff f t s).toNat 16 with
  | some (c, a) => 16 + tileRows (spRead s c a 16) * rowBytes (thFmt t.toNat)
  | none => 16

/-- The physical lines that a store through a translated handle would touch, for the victim stall (R158). -/
def storeLines (i : Instr) (s : State) : List Nat :=
  let at1 (f : ASlot) (size : Nat) (off : Word) : List Nat :=
    let h := handleOf s f.h.toNat
    if f.h.toNat ≥ 3 then linesOf (h.pa + off.toNat) size else []
  match i with
  | .sts f | .strel f => at1 f (sizeW f) (offA f (sizeW f) s)
  | .stv f => at1 f 512 (offA f 512 s)
  | .stvp f => at1 f 512 (sext f.off + BitVec.ofInt 64 (s.foc.k * f.step.toInt * 512))
  | .stg f =>
    let o := (rdV s (f.dr.toNat + 1)).bits
    (List.range 128).flatMap fun n => at1 f (sizeW f) (gatherOff (offA f (sizeW f) s) o n)
  | .tst f => (tensorEls f s).flatMap fun x => at1 f (tensorSize f s) x.2
  | .hst f => at1 f (hstBytes f s) (tileOff f (rdTh s (thNum f)) s)
  | _ => []

/-- Whether an XLT misses the core's TLB and its miss has not ended (R123, R328). -/
def xltWaits (f : ASlot) (s : State) : Bool :=
  missWaits (xltUser s) s.foc.core s.asid (rdS s f.xs.toNat + sext f.off).toNat s

/-- The elements (offset, bytes) that a load or store touches (R114, R115, R120). -/
def touched (i : Instr) (s : State) : List (Nat × Nat) :=
  match i with
  | .ldqv f | .stv f => [((offA f 512 s).toNat, 512)]
  | .stvp f =>
    let off : Word := sext f.off + BitVec.ofInt 64 (s.foc.k * f.step.toInt * 512)
    (List.range 128).filterMap fun n => if (rdP s (f.xs.toNat % 8)).getLsbD n then some (off.toNat + 4 * n, 4) else none
  | .ldqg f =>
    let v := (rdV s f.dr.toNat).bits
    (List.range 128).map fun n => ((gatherOff (offA f (sizeW f) s) v n).toNat, sizeW f)
  | .ldqs f =>
    (List.range 128).map fun n => ((offA f (sizeW f) s + BitVec.ofNat 64 n * rdS s f.dr.toNat).toNat, sizeW f)
  | .stg f =>
    let o := (rdV s (f.dr.toNat + 1)).bits
    (List.range 128).map fun n => ((gatherOff (offA f (sizeW f) s) o n).toNat, sizeW f)
  | .tld f | .tst f => (tensorEls f s).map fun x => (x.2.toNat, tensorSize f s)
  | _ => []

/-- The SRAM lines of some elements through handle n: core and line. -/
def touchedLines (n : Nat) (els : List (Nat × Nat)) (s : State) : List (Nat × Nat) :=
  (els.flatMap fun e => match placeEl s n (handleOf s n) e.1 e.2 with
    | some (.sp c a) => (linesOf a e.2).map fun l => (c, l)
    | _ => []).eraseDups

/-- The rows of a tile of `len` bytes at an offset, each stored and read as one access (R116, R242). -/
def tileRowEls (off : Word) (len rb : Nat) : List (List (Nat × Nat)) :=
  (List.range ((len - 16) / rb)).map fun k => [(off.toNat + 16 + k * rb, rb)]

/-- The accesses that a load or store makes one after another, each with its elements: the rows of a tile, or the one access of
any other operation. -/
def touchedRows (i : Instr) (s : State) : List (List (Nat × Nat)) :=
  let tile (f : ASlot) (len : Nat) := let t := rdTh s (thNum f); tileRowEls (tileOff f t s) len (rowBytes (thFmt t.toNat))
  match i with
  | .hst f => tile f (hstBytes f s)
  | .hld f => tile f (hldBytes f s)
  | i => [touched i s]

/-- The cycles beyond the first that the busiest bank of some lines needs. -/
def busiest (l : List (Nat × Nat)) : Nat :=
  (l.map fun x => (l.filter fun y => decide (y.1 = x.1) && decide (bankOf y.2 = bankOf x.2)).length - 1).foldl max 0

/-- The cycles beyond the first of each access that the busiest bank of a load or store through h0, h1 or h2 needs (R116). -/
def bankCycles (i : Instr) (s : State) : Nat :=
  match queueHandle i with
  | none => 0
  | some h => if 3 ≤ h.toNat then 0 else ((touchedRows i s).map fun r => busiest (touchedLines h.toNat r s)).sum

/-- The vertical-bus slots that an access through h2 needs (R96): one for each element of a gather, a scatter or a shape
record. -/
def busSlots (i : Instr) (s : State) : Nat :=
  if queueHandle i ≠ some 2#4 then 0
  else
    match i with
    | .ldqv _ | .stv _ | .stvp _ => 4
    | .ldqg _ | .ldqs _ | .stg _ | .tld _ | .tst _ => (touched i s).length
    | .hst f => (hstBytes f s + 127) / 128
    | _ => 1

/-- The cycles that the vertical bus holds the core for a starting access (R97); the hold stands before the start, whose
bus cycle is the first cycle of the hold (DEDUCED, log 11). -/
def busWait (i : Instr) (s : State) : Nat :=
  let t := s.core.clk - s.core.bankHeld
  let n := busSlots i s
  if n = 0 then 0 else lastSlot n t s - t - 7

/-- What an A operation needs of its handle, its effective offset and its elements, for the checks of R110 that come before any
of its effects. -/
def accessNeeds (i : Instr) (s : State) : Option (Nat × Need × Nat × List AEl) :=
  let at1 (f : ASlot) (need : Need) (off : Word) (size align : Nat) : Option (Nat × Need × Nat × List AEl) :=
    some (f.h.toNat, need, off.toNat, oneEl off size align)
  let many (f : ASlot) (need : Need) (e : Nat → Word) : Option (Nat × Need × Nat × List AEl) :=
    some (f.h.toNat, need, (offA f (sizeW f) s).toNat, manyEl (sizeW f) e)
  let off1 (f : ASlot) : Word := offA f (sizeW f) s
  match i with
  | .ldq f | .ldacq f | .pacq f => at1 f .rd (off1 f) (sizeW f) (sizeW f)
  | .sts f | .strel f => at1 f .wr (off1 f) (sizeW f) (sizeW f)
  | .ldqv f => at1 f .rd (offA f 512 s) 512 16
  | .stv f => at1 f .wr (offA f 512 s) 512 16
  | .stvp f => at1 f .wr (sext f.off + BitVec.ofInt 64 (s.foc.k * f.step.toInt * 512)) 512 16
  | .ldqg f => many f .rd (gatherOff (off1 f) (rdV s f.dr.toNat).bits)
  | .ldqs f => many f .rd fun n => off1 f + BitVec.ofNat 64 n * rdS s f.dr.toNat
  | .stg f => many f .wr (gatherOff (off1 f) (rdV s (f.dr.toNat + 1)).bits)
  | .ldf f | .tstf f => at1 f .rd (offA f 4 s) 4 4
  | .ste f | .setf f | .sete f => at1 f .wr (offA f 4 s) 4 4
  | .tld f => some (f.h.toNat, .rd, tensorBase (tensorEls f s), tensorCheck f s)
  | .tst f => some (f.h.toNat, .wr, tensorBase (tensorEls f s), tensorCheck f s)
  | .barv f => at1 f .amo (offA f 0 s) 16 16
  | .bwait f => at1 f .rd (offA f 0 s) 16 16
  | .hst f => at1 f .wr (tileOff f (rdTh s (thNum f)) s) (tileMax (rdTh s (thNum f))) 16
  | .hld f => at1 f .rd (tileOff f (rdTh s (thNum f)) s) 16 16
  | .amoadd f | .amomin f | .amomax f | .amominn f | .amomaxn f | .amoand f | .amoor f | .amoxor f | .amoswp f | .amocas f
  | .amoincw f | .amobfa f | .amofadd f => at1 f .amo (offA f 0 s) (sizeW f) (sizeW f)
  | _ => none

/-- Whether an A operation fails a check of R110: it then changes nothing, so that nothing holds it and it is granted no slot. -/
def failsR110 (i : Instr) (s : State) : Bool :=
  match accessNeeds i s with
  | some (n, need, base, els) => (accessCheck s n need base els).isSome
  | none => false

/-- Whether a starting A operation goes to the held buffer of an open segment: its path's queue, slots and log meet it when it is
committed (R363, R366). -/
def goesHeld (i : Instr) (s : State) : Bool :=
  s.ctx.seg.isSome && match i with
    | .sts f | .stv f | .stvp f | .stg f | .tst f | .hst f => decide (f.h ≠ 0)
    | .strel _ => true
    | _ => false

/-- The slots of a starting access are granted (R97). -/
def grantBus (i : Instr) (s : State) : State :=
  let n := busSlots i s
  if n = 0 || failsR110 i s || goesHeld i s then s
  else
    let u := lastSlot n (s.core.clk - s.core.bankHeld) s
    s.modCore fun k => { k with busTo := u + 1 }

/-- The kind of the hold that keeps an A operation from starting now (R356); `begun` says that it has begun. A PACQ makes the check of
R111 for a free queue entry only after its promotions (DESIGN CHOICE, log 90). An access through h2 holds for the longer of its
bank cycles (R116) and its wait for slots (R97), which run side by side (DEDUCED, log 91). -/
def holdA (i : Instr) (begun : Bool) (s : State) : Option Nat :=
  if s.core.clk < s.core.portTo ∧ !isNop i = true then some 8
  else if failsR110 i s || goesHeld i s then none
  else if (queueHandle i).any (fun h => h ≠ 0#4) ∧ s.core.loadQueue ≥ 32 then some 3
  else if narrowRelease i ∧ s.core.plog.length ≥ 32 then some 10
  else if (storeLines i s).any (fun l => inWriteBackSet s.core l) then some 6
  else if s.core.bankHeld < max (bankCycles i s) (busWait i s) then some 2
  else
    match i with
    | .xlt f => if xltWaits f s then some 4 else none
    | .pacq f =>
      if (pacqTargets f s).isNone then none else if !begun || pacqOpen s then some 5 else none
    | .hld _ =>
      if s.core.waiting.any fun a => decide (a.ctx = s.foc.ctx)
          && (a.acq.isSome || (decide (a.h = 0) && decide (a.path = .ctxls))) then some 2 else none
    | .drn f => if drained (bits f.off.toNat 7 0) f.sc.toNat s then none else some 5
    | _ => none

/-- What a hold begins (R356): PACQ's requests, XLT's walk. -/
def holdBegins (i : Instr) (s : State) : State :=
  match i with
  | .pacq f => if s.ctx.begun then s else pacqBegin f s
  | .xlt f => missBegins (xltUser s) s.foc.core s.vfid s.asid (rdS s f.xs.toNat + sext f.off).toNat s
  | _ => s

end Sys2Proof.Machine
end

