-- ==== Sys2Proof/Machine/Digest.lean ====
section
/-! DEFINITION. The checks of a firmware image (R389): SHA-384 and the verification of an ECDSA signature over P-384. The rule names
them by their standard names; the algorithms, the curve and the byte order, most significant first, are those of their standards
(PRESUMED, log 34). -/

namespace Sys2Proof.Machine

/-! ### SHA-384 -/

/-- The round constants, four in a row, the first lowest. -/
def shaRows : List Nat :=
  [0xe9b5dba58189dbbcb5c0fbcfec4d3b2f7137449123ef65cd428a2f98d728ae22,
   0xab1c5ed5da6d8118923f82a4af194f9b59f111f1b605d0193956c25bf348b538,
   0x550c7dc3d5ffb4e2243185be4ee4b28c12835b0145706fbed807aa98a3030242,
   0xc19bf174cf6926949bdc06a725c7123580deb1fe3b1696b172be5d74f27b896f,
   0x240ca1cc77ac9c650fc19dc68b8cd5b5efbe4786384f25e3e49b69c19ef14ad2,
   0x76f988da831153b55cb0a9dcbd41fbd44a7484aa6ea6e4832de92c6f592b0275,
   0xbf597fc7beef0ee4b00327c898fb213fa831c66d2db43210983e5152ee66dfab,
   0x142929670a0e6e7006ca6351e003826fd5a79147930aa725c6e00bf33da88fc2,
   0x53380d139d95b3df4d2c6dfc5ac42aed2e1b21385c26c92627b70a8546d22ffc,
   0x92722c851482353b81c2c92e47edaee6766a0abb3c77b2a8650a73548baf63de,
   0xc76c51a30654be30c24b8b70d0f89791a81a664bbc423001a2bfe8a14cf10364,
   0x106aa07032bbd1b8f40e35855771202ad69906245565a910d192e819d6ef5218,
   0x34b0bcb5e19b48a82748774cdf8eeb991e376c085141ab5319a4c116b8d2d0c8,
   0x682e6ff3d6b2b8a35b9cca4f7763e3734ed8aa4ae3418acb391c0cb3c5c95a63,
   0x8cc702081a6439ec84c87814a1f0ab7278a5636f43172f60748f82ee5defb2fc,
   0xc67178f2e372532bbef9a3f7b2c67915a4506cebde82bde990befffa23631e28,
   0xf57d4f7fee6ed178eada7dd6cde0eb1ed186b8c721c0c207ca273eceea26619c,
   0x1b710b35131c471b113f9804bef90dae0a637dc5a2c898a606f067aa72176fba,
   0x431d67c49c100d4c3c9ebe0a15c9bebc32caab7b40c7249328db77f523047d84,
   0x6c44198c4a4758175fcb6fab3ad6faec597f299cfc657e2a4cc5d4becb3e42b6]

/-- The initial hash value in the same form. -/
def shaInitRows : List Nat :=
  [0x152fecd8f70e59399159015a3070dd17629a292a367cd507cbbb9d5dc1059ed8,
   0x47b5481dbefa4fa4db0c2e0d64f98fa78eb44a876858151167332667ffc00b31]

/-- Rotation to the right, and the modulus, of a 64-bit word. -/
def rotr64 (x n : Nat) : Nat := x / 2 ^ n ^^^ x * 2 ^ (64 - n) % 2 ^ 64

/-- The small sigma functions. -/
def shaSmall0 (x : Nat) : Nat := rotr64 x 1 ^^^ rotr64 x 8 ^^^ x / 2 ^ 7
def shaSmall1 (x : Nat) : Nat := rotr64 x 19 ^^^ rotr64 x 61 ^^^ x / 2 ^ 6

/-- The message schedule with one more word. -/
def shaNext (w : List Nat) : List Nat :=
  let t := w.length
  let g (i : Nat) : Nat := w.getD (t - i) 0
  w ++ [(shaSmall1 (g 2) + g 7 + shaSmall0 (g 15) + g 16) % 2 ^ 64]

/-- One round: `k` the constant, `w` the word. -/
def shaRound (v : List Nat) (k w : Nat) : List Nat :=
  let g (i : Nat) : Nat := v.getD i 0
  let s1 := rotr64 (g 4) 14 ^^^ rotr64 (g 4) 18 ^^^ rotr64 (g 4) 41
  let ch := (g 4 &&& g 5) ^^^ ((2 ^ 64 - 1 - g 4) &&& g 6)
  let t1 := g 7 + s1 + ch + k + w
  let s0 := rotr64 (g 0) 28 ^^^ rotr64 (g 0) 34 ^^^ rotr64 (g 0) 39
  let maj := (g 0 &&& g 1) ^^^ (g 0 &&& g 2) ^^^ (g 1 &&& g 2)
  [(t1 + s0 + maj) % 2 ^ 64, g 0, g 1, g 2, (g 3 + t1) % 2 ^ 64, g 4, g 5, g 6]

/-- A number from bytes, the most significant first. -/
def bigEndian (l : List Nat) : Nat := l.foldl (fun x b => 256 * x + b % 256) 0

/-- The hash value after a block of 128 bytes. -/
def shaBlock (h block : List Nat) : List Nat :=
  let w := (List.range 64).foldl (fun w _ => shaNext w) ((List.range 16).map fun i => bigEndian ((block.drop (8 * i)).take 8))
  let v := w.zipIdx.foldl (fun v e => shaRound v (elemOf (shaRows.getD (e.2 / 4) 0) (e.2 % 4) 64) e.1) h
  List.zipWith (fun a b => (a + b) % 2 ^ 64) h v

/-- The bytes of a message with its padding and length. -/
def shaPadded (l : List Nat) : List Nat :=
  let n := l.length
  l ++ 128 :: List.replicate ((239 - n % 128) % 128) 0 ++ (List.range 16).map fun i => 8 * n / 256 ^ (15 - i) % 256

/-- SHA-384 of bytes, as a number. -/
def sha384 (l : List Nat) : Nat :=
  let b := shaPadded l
  let h0 := (List.range 8).map fun i => elemOf (shaInitRows.getD (i / 4) 0) (i % 4) 64
  let h := (List.range (b.length / 128)).foldl (fun h i => shaBlock h ((b.drop (128 * i)).take 128)) h0
  (h.take 6).foldl (fun x w => 2 ^ 64 * x + w) 0

/-! ### P-384 -/

/-- The prime of the field, the order of the base point, the constant of the curve, the base point. -/
def p384 : Nat := 2 ^ 384 - 2 ^ 128 - 2 ^ 96 + 2 ^ 32 - 1
def n384 : Nat := 0xffffffffffffffffffffffffffffffffffffffffffffffffc7634d81f4372ddf581a0db248b0a77aecec196accc52973
def b384 : Nat := 0xb3312fa7e23ee7e4988e056be3f82d19181d9c6efe8141120314088f5013875ac656398d8a2ed19d2a85c8edd3ec2aef
def g384 : Nat × Nat :=
  (0xaa87ca22be8b05378eb1c71ef320ad746e1d3b628ba79b9859f741e082542a385502f25dbf55296c3a545e3872760ab7,
   0x3617de4a96262c6f5d9e98bf9292dc29f8f41dbd289a147ce9da3113b5f0b8c00a60b1ce1d7e819d7a431d7c90ea0e5f)

/-- x to the power of e modulo m, by the low `n` bits of e. -/
def powMod (m : Nat) : Nat → Nat → Nat → Nat
  | 0, _, _ => 1
  | n + 1, x, e => (if e % 2 = 1 then x else 1) * powMod m n (x * x % m) (e / 2) % m

/-- The inverse modulo a prime of 384 bits. -/
def invMod (m x : Nat) : Nat := powMod m 384 (x % m) (m - 2)

/-- The sum of two points of the curve; none is the point at infinity. -/
def addPoint (a b : Option (Nat × Nat)) : Option (Nat × Nat) :=
  match a, b with
  | none, q => q
  | p, none => p
  | some (x1, y1), some (x2, y2) =>
    if x1 = x2 ∧ (y1 + y2) % p384 = 0 then none
    else
      let l := if x1 = x2 then (3 * x1 * x1 + p384 - 3) * invMod p384 (2 * y1) % p384
        else (y2 + p384 - y1) * invMod p384 (x2 + p384 - x1) % p384
      let x3 := (l * l + 2 * p384 - x1 - x2) % p384
      some (x3, (l * (x1 + p384 - x3) + p384 - y1) % p384)

/-- The low `n` bits of `k` times a point. -/
def mulPoint : Nat → Nat → Option (Nat × Nat) → Option (Nat × Nat)
  | 0, _, _ => none
  | n + 1, k, p => addPoint (if k % 2 = 1 then p else none) (mulPoint n (k / 2) (addPoint p p))

/-- Whether a point of the field's plane is on the curve. -/
def onCurve (q : Nat × Nat) : Bool :=
  decide (q.1 < p384) && decide (q.2 < p384) && decide (q.2 * q.2 % p384 = (q.1 * q.1 * q.1 + (p384 - 3) * q.1 + b384) % p384)

/-- Whether (r, s) is a signature under the public key `q` of a message with digest `e`. -/
def ecdsaOk (q : Nat × Nat) (e r s : Nat) : Bool :=
  onCurve q && decide (0 < r) && decide (r < n384) && decide (0 < s) && decide (s < n384)
    && (let w := invMod n384 s
        match addPoint (mulPoint 384 (e * w % n384) (some g384)) (mulPoint 384 (r * w % n384) (some q)) with
        | some (x, _) => decide (x % n384 = r)
        | none => false)

end Sys2Proof.Machine
end

