-- ==== Sys2Proof/Machine/Array.lean ====
section
/-! DEFINITION. The arithmetic of the function array: cells and their coefficients (R188, R189), interval search (R192,
R193), terms and column sums (R178 to R181), gradients (R201, R202), codebooks (R173, R174), knot insertion (R204). -/

namespace Sys2Proof.Machine

/-! ### Values -/

/-- An operand of the array: BF16 subnormals are flushed (R178). -/
def aVal (fmt x : Nat) : FVal :=
  if fmt = 1 ∧ x / 128 % 256 = 0 then decodeF 1 (x / 32768 % 2 * 32768) else decodeF fmt x

/-- Rounding to FP32, and to an accumulation format (R179). -/
def r32 (x : FVal) : FVal := decodeF 0 (roundFmt x 0 0 false)
def rAcc (af : Nat) (x : FVal) : FVal := decodeF af (roundFmt x af 0 false)

/-- +0 and the canonical NaN. -/
def fZero : FVal := .num false 0 0 false
def fNaN : FVal := .nan

/-- A sum in order with one rounding for each addition; no term gives +0 (R180). -/
def sumUp (af : Nat) : List FVal → FVal
  | [] => fZero
  | t :: r => r.foldl (fun a x => rAcc af (fadd 0 a x)) t

/-! ### Cells (R188) -/

/-- Coefficient format, mode and sparsity of a descriptor; an EMPTY or GRAD buffer is refused before. -/
def BufDesc.mode : BufDesc → Nat | .coef m _ _ => m | _ => 0
def BufDesc.cf : BufDesc → Nat | .coef _ c _ => c | _ => 1
def BufDesc.spn : BufDesc → Nat | .coef _ _ s => s | _ => 0

/-- The bits of row i. -/
def Buffer.row (b : Buffer) (i : Nat) : Nat := (b.rows.get i 0).toNat

/-- Coefficients a cell's store holds (R188). -/
def capacity (cf : Nat) : Nat := if isFP8 cf then 64 else 32

/-- Coefficient q of cell j of a row, as stored; +0 beyond the store. -/
def cellBits (cf row j q : Nat) : Nat :=
  if q ≥ capacity cf then 0 else elemOf row (capacity cf * j + q) (if isFP8 cf then 8 else 16)

/-- Its value as the array uses it. -/
def cellVal (cf row j q : Nat) : FVal := aVal cf (cellBits cf row j q)

/-- A row's bits from its coefficients: `g j q` for cell j. -/
def rowOf (cf : Nat) (g : Nat → Nat → Nat) : BitVec 65536 :=
  let n := capacity cf
  BitVec.ofNat 65536 (packElems (if isFP8 cf then 8 else 16) ((List.range (128 * n)).map fun z => g (z / n) (z % n)))

/-- Physical rows of a sparse group (R189). -/
def groupRows (spn : Nat) : Nat := match spn with | 1 => 3 | 2 => 4 | 3 => 6 | _ => 8

/-- Rows in use: those of whole groups (R189). -/
def usedRows (spn : Nat) : Nat := if spn = 0 then 128 else 128 / groupRows spn * groupRows spn

/-- The input element a sparse cell multiplies: 12⌊i/N⌋ + p (R189). -/
def sparsePos (row j : Nat) : Nat := cellBits 1 row j 1 % 16

/-! ### Interval search (R192, R193) -/

/-- Knot and width i of a grid slot. -/
def Grid.knot (g : Grid) (i : Nat) : FVal := decodeF 0 (g.knots.getD i 0).toNat
def Grid.width (g : Grid) (i : Nat) : FVal := decodeF 0 (g.widths.getD i 0).toNat

/-- Intervals of a slot. -/
def Grid.count (g : Grid) : Nat := g.knots.length - 1

/-- x < y and x ≥ y as FP32 comparisons. -/
def fLt (x y : FVal) : Bool := decide (fcmp x y = some .lt)
def fGe (x y : FVal) : Bool := decide (fcmp x y = some .gt) || decide (fcmp x y = some .eq)

/-- The bisection of R192; five halvings search 16 intervals. -/
def bisect (g : Grid) (x : FVal) : Nat → Nat → Nat → Nat
  | 0, lo, _ => lo
  | fuel + 1, lo, hi =>
    if hi - lo ≤ 1 then lo
    else
      let mid := (lo + hi) / 2
      if fGe x (g.knot mid) then bisect g x fuel mid hi else bisect g x fuel lo mid

/-- loc(x, i) of R192. -/
def Grid.loc (g : Grid) (x : FVal) (i : Nat) : FVal := r32 (fmul (r32 (fadd 0 x (g.knot i).neg)) (g.width i))

/-- What a search gives a row's cells (R193): NaN terms, zero terms, or an interval, a coordinate and whether x lay outside
the grid. -/
inductive Found where
  | nan
  | zero
  | at (i : Nat) (t : FVal) (outside : Bool)

/-- Whether x lies below or above the grid (R192). -/
def Grid.below (g : Grid) (x : FVal) : Bool := fLt x (g.knot 0)
def Grid.above (g : Grid) (x : FVal) : Bool := fLt (g.knot g.count) x

/-- The search and the rule of the slot (R193). -/
def Grid.find (g : Grid) (x : FVal) : Found :=
  let n := g.count
  match x with
  | .nan => .nan
  | x =>
    if g.below x then if g.rule = 2 then .zero else .at 0 (if g.rule = 0 then fZero else g.loc x 0) true
    else if g.above x then
      if g.rule = 2 then .zero else .at (n - 1) (g.loc (if g.rule = 0 then g.knot n else x) (n - 1)) true
    else
      let i := bisect g x 5 0 n
      .at i (g.loc x i) false

/-- The slot row i of a buffer maps to, when VALID. -/
def ArrayState.slotOf (a : ArrayState) (b : BitVec 1) (i : Nat) : Option Grid :=
  a.grid.find? ((a.buf b).rowMap.get i 0)

/-- Whether some row of a buffer maps to a slot that is not VALID (R193). -/
def ArrayState.unmapped (a : ArrayState) (b : BitVec 1) : Bool := (List.range 128).any fun i => (a.slotOf b i).isNone

/-- What the search of value x on row i of a buffer finds. -/
def ArrayState.search (a : ArrayState) (b : BitVec 1) (i : Nat) (x : FVal) : Option Found :=
  (a.slotOf b i).map fun g => g.find x

/-! ### Terms and column sums (R179, R180) -/

/-- Horner's rule over coefficients c_d down to c_0, each step rounded (R179). -/
def horner (t : FVal) : List FVal → FVal
  | [] => fZero
  | c :: r => r.foldl (fun a c => r32 (ffma 0 a t c)) c

/-- The coefficients of interval i of a cell, highest power first. -/
def intervalCoefs (cf d row j i : Nat) : List FVal :=
  (List.range (d + 1)).reverse.map fun p => cellVal cf row j ((d + 1) * i + p)

/-- A LIN product: rounded to FP32 when the input is FP32 (R196). -/
def linProd (iff : Nat) (w x : FVal) : FVal := if iff = 0 then r32 (fmul w x) else fmul w x

/-- The terms of column j of a push row `x` (R179, R180, R189). -/
def columnTerms (a : ArrayState) (b : BitVec 1) (iff af : Nat) (x : List Nat) (j : Nat) : List FVal :=
  let buf := a.buf b
  let d := buf.desc
  let inp (i : Nat) : FVal := aVal iff (x.getD i 0)
  match d.mode with
  | 0 =>
    if d.spn ≠ 0 then
      (List.range (usedRows d.spn)).map fun i =>
        let row := buf.row i
        rAcc af (linProd iff (cellVal d.cf row j 0) (inp (12 * (i / groupRows d.spn) + sparsePos row j)))
    else if isFP8 d.cf then
      (List.range 256).map fun v => rAcc af (linProd iff (cellVal d.cf (buf.row (v / 2)) j (v % 2)) (inp v))
    else (List.range 128).map fun i => rAcc af (linProd iff (cellVal d.cf (buf.row i) j 0) (inp i))
  | m =>
    (List.range 128).map fun i =>
      match a.search b i (inp i) with
      | none => fZero
      | some .nan => rAcc af fNaN
      | some .zero => fZero
      | some (.at k t _) => rAcc af (horner t (intervalCoefs d.cf m (buf.row i) j k))

/-- A result row of FMX: the column sums in format AF (R180). -/
def columnSums (a : ArrayState) (b : BitVec 1) (iff af : Nat) (x : List Nat) : List Nat :=
  (List.range 128).map fun j => roundFmt (sumUp af (columnTerms a b iff af x j)) af 0 false

/-- A counter counted up, saturating (R194). -/
def satUp (x : BitVec 16) : BitVec 16 := if x = 0xFFFF#16 then x else x + 1

/-- The out-of-grid counters after the searches of one push row (R194). -/
def countSearch (b : BitVec 1) (fmt : Nat) (x : List Nat) (a : ArrayState) : ArrayState :=
  (List.range 128).foldl (fun r i =>
    match a.slotOf b i with
    | none => r
    | some g =>
      let v := aVal fmt (x.getD i 0)
      if g.below v then { r with below := r.below.set i (satUp (r.below.get i 0)) }
      else if g.above v then { r with above := r.above.set i (satUp (r.above.get i 0)) } else r) a

/-! ### FMXD (R201) -/

/-- The derivative p′ of interval coefficients c_d … c_0. -/
def deriv (t : FVal) (d : Nat) (c : Nat → FVal) : FVal :=
  let two : FVal := ofInt 2
  let three : FVal := ofInt 3
  match d with
  | 1 => c 1
  | 2 => r32 (ffma 0 (fmul two (c 2)) t (c 1))
  | _ => r32 (ffma 0 (r32 (ffma 0 (fmul three (c 3)) t (fmul two (c 2)))) t (c 1))

/-- τ of virtual row v and column j (R201). -/
def gradTau (a : ArrayState) (b : BitVec 1) (xf : Nat) (x : List Nat) (v j : Nat) : FVal :=
  let buf := a.buf b
  let d := buf.desc
  match d.mode with
  | 0 => if isFP8 d.cf then cellVal d.cf (buf.row (v / 2)) j (v % 2) else cellVal d.cf (buf.row v) j 0
  | m =>
    match a.slotOf b v with
    | none => fZero
    | some g =>
      match g.find (aVal xf (x.getD v 0)) with
      | .nan => fNaN
      | .zero => fZero
      | .at i t out =>
        if out && decide (g.rule = 0) then fZero
        else r32 (fmul (deriv t m fun p => cellVal d.cf (buf.row v) j ((m + 1) * i + p)) (g.width i))

/-- A result row of FMXD in format AF. -/
def gradRow (a : ArrayState) (b : BitVec 1) (gf af xf : Nat) (g x : List Nat) : List Nat :=
  (List.range (backLen (a.buf b).desc)).map fun v =>
    roundFmt (sumUp af ((List.range 128).map fun j =>
      rAcc af (fmul (gradTau a b xf x v j) (aVal gf (g.getD j 0))))) af 0 false

/-! ### FMXC (R202) -/

/-- τ of coefficient q of cell (i, j), where the row contributes to it. -/
def coefTau (a : ArrayState) (b : BitVec 1) (iff : Nat) (x : List Nat) (i j q : Nat) : Option FVal :=
  let buf := a.buf b
  let d := buf.desc
  let inp (k : Nat) : FVal := aVal iff (x.getD k 0)
  match d.mode with
  | 0 =>
    if d.spn ≠ 0 then
      if q = 0 ∧ i < usedRows d.spn then some (inp (12 * (i / groupRows d.spn) + sparsePos (buf.row i) j)) else none
    else if isFP8 d.cf then if q < 2 then some (inp (2 * i + q)) else none
    else if q = 0 then some (inp i) else none
  | m =>
    match a.search b i (inp i) with
    | some (.at k t _) =>
      if (m + 1) * k ≤ q ∧ q ≤ (m + 1) * k + m then
        some (match q - (m + 1) * k with
          | 0 => ofInt 1 | 1 => t | 2 => r32 (fmul t t) | _ => r32 (fmul (r32 (fmul t t)) t))
      else none
    | _ => none

/-- Whether x is NaN on row i (R202); a sparse row has no element of its own. -/
def rowNaN (d : BufDesc) (iff : Nat) (x : List Nat) (i : Nat) : Bool :=
  let nan (k : Nat) : Bool := match aVal iff (x.getD k 0) with | .nan => true | _ => false
  if d.mode = 0 ∧ d.spn ≠ 0 then false
  else if d.mode = 0 ∧ isFP8 d.cf = true then nan (2 * i) || nan (2 * i + 1)
  else nan i

/-- The GRAD buffer after one push row (R202): G(i, j, m) in entries 2m and 2m + 1. -/
def gradAccumulate (a : ArrayState) (b : BitVec 1) (iff gf : Nat) (x g : List Nat) : Buffer :=
  let dst := a.buf (~~~b)
  let q0 := match dst.desc with | .grad qs => 16 * qs | _ => 0
  let d := (a.buf b).desc
  { dst with rows := (List.range 128).foldl (fun rows i =>
      let old := dst.row i
      let nan := rowNaN d iff x i
      let new := (List.range 2048).map fun z =>
        let j := z / 16
        let was := elemOf old z 32
        if nan then canonNaN 0
        else
          match coefTau a b iff x i j (q0 + z % 16) with
          | none => was
          | some t => roundFmt (ffma 0 t (aVal gf (g.getD j 0)) (decodeF 0 was)) 0 0 false
      if packElems 32 new = old then rows else rows.set i (BitVec.ofNat 65536 (packElems 32 new))) dst.rows }

/-! ### Codebooks (R173, R174) -/

/-- The value of element k of an index stream with b bits for each index and its block's table. -/
def cbValue (stream table k b : Nat) : Nat := elemOf table (stream / 2 ^ (b * k) % 2 ^ b) 16

/-! ### FKNOT (R204) -/

/-- A value divided by a positive finite one, exact but for a sticky remainder. -/
def divPos : FVal → FVal → FVal
  | .num neg m e _, .num _ m' e' _ =>
    if m = 0 ∨ m' = 0 then .num neg 0 0 false
    else .num neg (m * 2 ^ 400 / m') (e - e' - 400) (decide (m * 2 ^ 400 % m' ≠ 0))
  | x, _ => x

/-- x to the power n, exact. -/
def fPow (x : FVal) : Nat → FVal
  | 0 => ofInt 1
  | n + 1 => fmul x (fPow x n)

/-- Binomial coefficients. -/
def choose : Nat → Nat → Nat
  | _, 0 => 1
  | 0, _ + 1 => 0
  | n + 1, k + 1 => choose n k + choose n (k + 1)

/-- The left piece's coefficient m: c_m × α^m, rounded to CF. -/
def leftCoef (cf : Nat) (c : Nat → FVal) (alpha : FVal) (m : Nat) : Nat := roundFmt (fmul (c m) (fPow alpha m)) cf 0 false

/-- The right piece's coefficient m: Σ c_e C(e, m) α^(e−m) β^m with β = w / wR, rounded to CF. -/
def rightCoef (cf d : Nat) (c : Nat → FVal) (alpha w wr : FVal) (m : Nat) : Nat :=
  let terms := ((List.range (d + 1)).filter (m ≤ ·)).map fun e =>
    fmul (fmul (c e) (ofInt (choose e m))) (fPow alpha (e - m))
  let sum := match terms with | [] => fZero | t :: r => r.foldl (fadd 0) t
  roundFmt (divPos (fmul sum (fPow w m)) (fPow wr m)) cf 0 false

/-- A slot with knot κ inserted after interval i. -/
def Grid.insert (g : Grid) (i : Nat) (k wl wr : BitVec 32) : Grid :=
  { g with knots := g.knots.take (i + 1) ++ [k] ++ g.knots.drop (i + 1)
           widths := g.widths.take i ++ [wl, wr] ++ g.widths.drop (i + 1) }

/-- A row of cells after interval i has been split (R204). -/
def splitRow (cf d : Nat) (g : Grid) (i : Nat) (kappa wr : FVal) (row : Nat) : BitVec 65536 :=
  let alpha := fmul (fadd 0 kappa (g.knot i).neg) (g.width i)
  rowOf cf fun j q =>
    let iv := q / (d + 1)
    let p := q % (d + 1)
    let c (m : Nat) : FVal := cellVal cf row j ((d + 1) * i + m)
    if iv < i then cellBits cf row j q
    else if iv = i then leftCoef cf c alpha p
    else if iv = i + 1 then rightCoef cf d c alpha (g.width i) wr p
    else if iv ≤ g.count then cellBits cf row j (q - (d + 1))
    else cellBits cf row j q

end Sys2Proof.Machine
end

