-- ==== Sys2Proof/Machine/Matrix.lean ====
section
/-! DEFINITION. The M slot: interlocks (R198, R209), pushes (R195 to R202), FGRID, FLOAD, FSEL, FGOUT, FKNOT, FOOG, FCLR and
FRDC (R187 to R191, R203 to R208, R269), and what the array does cycle by cycle. -/

namespace Sys2Proof.Machine

/-- MNOP: nothing. -/
def execMnop (f : MSlot) (s : State) : Host.Outcome State Fault Refusal := gated (.mnop f) .go (fun s => s) s

/-- The core in focus with its array changed. -/
def State.modArr (s : State) (g : ArrayState → ArrayState) : State := s.modCore fun k => { k with arr := g k.arr }

/-- A stationary buffer changed. -/
def ArrayState.setBuf (a : ArrayState) (b : BitVec 1) (x : Buffer) : ArrayState :=
  if b = 0#1 then { a with b0 := x } else { a with b1 := x }

/-! ### Interlocks (R209) -/

/-- Numbers of the parts of the array state: a buffer, its row map, the counters, a grid slot. -/
def bufRes (b : BitVec 1) : Nat := b.toNat
def mapRes (b : BitVec 1) : Nat := 2 + b.toNat
def cntRes : Nat := 4
def gridRes (slot : Nat) : Nat := 8 + slot

/-- The grid slots that some rows of a buffer map to. -/
def ArrayState.mapped (a : ArrayState) (b : BitVec 1) (rows : List Nat) : List Nat :=
  (rows.map fun i => (a.buf b).rowMap.get i 0).eraseDups

/-- The grid record that s[SA] addresses, when it lies in the region. -/
def gridRecord (f : MSlot) (s : State) : Option Nat :=
  (spPlace s s.foc.core s.lid 0 ((rdS s f.sa.toNat).toNat % 2 ^ 32) 136).map fun p =>
    mxrRead s s.foc.ctx (s.foc.ord / 8) p.2 136

/-- First row of an FLOAD (R190). -/
def floadFirst (f : MSlot) : Nat := 64 * bits f.aux.toNat 0 0 + f.vs.toNat

/-- What an M operation reads and writes of the array state. -/
def mNeeds (i : Instr) (s : State) : List (Nat × Bool) :=
  let a := s.core.arr
  let pw (f : MSlot) : List (Nat × Bool) :=
    if (a.buf f.b).desc.mode = 0 then []
    else [(mapRes f.b, false), (cntRes, true)] ++ (a.mapped f.b (List.range 128)).map fun n => (gridRes n, false)
  match i with
  | .fgrid f => match gridRecord f s with | some x => [(gridRes (x % 16), true)] | none => []
  | .fload f =>
    (bufRes f.b, true) :: (if f.mode = 0 then []
      else (mapRes f.b, false) :: (a.mapped f.b ((List.range (mCount f)).map (floadFirst f + ·))).map fun n => (gridRes n, false))
  | .fsel f => [(mapRes f.b, true)]
  | .fmx f | .fmxHaar f | .fmxd f => (bufRes f.b, false) :: pw f
  | .fmxc f => (bufRes f.b, false) :: (bufRes (~~~f.b), true) :: pw f
  | .fgout f | .frdc f => [(bufRes f.b, false)]
  | .fknot f =>
    [(bufRes f.b, true), (bufRes (~~~f.b), false), (mapRes f.b, false), (mapRes (~~~f.b), false),
      (gridRes (bits (rdS s f.sa.toNat).toNat 35 32), true)]
  | .foog f => [(cntRes, f.aux.getLsbD 0)]
  | .fclrBuffer f => [(bufRes f.b, true), (mapRes f.b, true)]
  | .fclrCounters _ => [(cntRes, true)]
  | .fclrGrid _ => (List.range 16).map fun n => (gridRes n, true)
  | .fclrGrad f => [(bufRes f.b, true)]
  | _ => []

/-- Whether an earlier operation still writes what would be read, or reads or writes what would be written. -/
def ArrayState.conflict (a : ArrayState) (now : Nat) (needs : List (Nat × Bool)) : Bool :=
  needs.any fun n => a.uses.any fun u => decide (u.1 = n.1) && (n.2 || u.2.1) && decide (now ≤ u.2.2)

/-- The banks of what an M operation reads of the scratchpad in its start cycle itself: FGRID's record, the header of FMX's tile. -/
def startBanks (i : Instr) (s : State) : List (Nat × Nat) :=
  let at1 (f : MSlot) (step n : Nat) : List (Nat × Nat) :=
    match spPlace s s.foc.core s.lid 0 (BitVec.ofInt 64 (((rdS s f.sa.toNat).toNat % 2 ^ 32 : Nat)
        + step * sintOf 32 ((rdS s f.sb.toNat).toNat % 2 ^ 32))).toNat n with
    | some (c, a) => spBanks c a n
    | none => []
  match i with
  | .fgrid f => at1 f 0 136
  | .fmxHaar f => at1 f s.foc.k 16
  | _ => []

/-- The buffer an FLOAD writes. -/
def FLoad.buf (l : FLoad) : BitVec 1 := match l.op with | .fload f => f.b | _ => 0

/-- The kind of the hold that keeps an M operation from starting (R90, R190, R198, R209). -/
def holdM (i : Instr) (s : State) : Option Nat :=
  let a := s.core.arr
  let needs := mNeeds i s
  let isLoad := match i with | .fload _ => true | _ => false
  if streaming i && decide (s.cyc < a.portTo) && decide ((a.port.map (·.ctx)) ≠ some s.foc.ctx) then some 7
  else if a.conflict s.cyc needs then some 7
  else if !isLoad && a.loads.any fun l => needs.any fun n => n.1 = bufRes l.buf then some 7
  else if isLoad && decide ((a.loads.filter fun l => l.g.isNone).length ≥ 4) then some 3
  else if !allFree false (startBanks i s) s then some 2
  else none

/-- The parts of the array state an operation keeps until a cycle. -/
def keepUses (l : List (Nat × Bool)) (last : Nat) (a : ArrayState) : ArrayState :=
  { a with uses := a.uses ++ l.map fun x => (x.1, x.2, last) }

/-- Rows of a buffer with unpredictable contents. -/
def freeRows (key : Nat) : Map (BitVec 65536) :=
  (List.range 128).map fun i => (i, BitVec.ofNat 65536 (packElems 4096 ((List.range 16).map fun j =>
    (Config.freeVec (key + 2 ^ 32 * (16 * i + j))).toNat)))

/-- `n` unpredictable words. -/
def freeWords (key n : Nat) : List (BitVec 32) := (List.range n).map fun i => (Config.freeWord (key + 2 ^ 32 * i)).truncate 32

/-- A part of the array state, numbered as in `uses`, with unpredictable contents (R58); a grid slot stays VALID or not. -/
def ArrayState.spoil (r key : Nat) (a : ArrayState) : ArrayState :=
  let b := BitVec.ofNat 1 r
  if r < 2 then a.setBuf b { a.buf b with rows := freeRows key }
  else if r < 4 then a.setBuf b { a.buf b with rowMap := ((freeWords key 128).zipIdx.map fun (x, i) => (i, x.toNat % 16)) }
  else if r = 4 then
    { a with below := ((freeWords key 128).zipIdx.map fun (x, i) => (i, x.truncate 16))
             above := ((freeWords (key + 2 ^ 39) 128).zipIdx.map fun (x, i) => (i, x.truncate 16)) }
  else { a with grid := a.grid.map fun e =>
    if e.1 + 8 = r then (e.1, { e.2 with knots := freeWords key e.2.knots.length, widths := freeWords (key + 2 ^ 39) e.2.widths.length })
    else e }

/-- The parts of the array state that the colliding operation in focus has changed are unpredictable. -/
def spoilUses (l : List (Nat × Bool)) (s : State) : State :=
  if s.foc.bad then
    let (key, s) := s.fresh
    s.modArr fun a => (l.filter (·.2)).foldl (fun a x => a.spoil x.1 (key + 2 ^ 40 * x.1)) a
  else s

/-- A change of the array state in `n` cycles, which others wait for (R209); a colliding operation leaves what it changes
unpredictable (R58). -/
def changeIn (n : Nat) (uses : List Nat) (c : ArrChange) (s : State) : State :=
  let (key, s) := if s.foc.bad then s.fresh else (0, s)
  let spoilt := if s.foc.bad then uses.map fun r => (s.cyc + n, ArrChange.spoil r (key + 2 ^ 40 * r)) else []
  s.modArr fun a => { keepUses (uses.map fun r => (r, true)) (s.cyc + n - 1) a with
    changes := a.changes ++ [(s.cyc + n, c)] ++ spoilt }

/-! ### Bank rotation (R195) -/

/-- A byte's address under the bank-rotation code: bits [8:7] turned by `r`. -/
def rotate (a r : Nat) : Nat := a - bits a 8 7 * 128 + (bits a 8 7 + r) % 4 * 128

/-- `n` bytes of a push row from SRAM address `a`, each at its rotated address, as the array sees them (R145, R195). -/
def rotRead (s : State) (ctx issue r a : Nat) : Nat → Nat
  | 0 => 0
  | n + 1 => mxrByte s ctx issue (rotate a r) + 256 * rotRead s ctx issue r (a + 1) n

/-- The addresses of those bytes, and the lines that hold them. -/
def rotBytes (r a n : Nat) : List Nat := (List.range n).map fun j => rotate (a + j) r
def rotLines (r a n : Nat) : List Nat := (linesOf a n).map fun l => rotate l r

/-! ### FGRID and FSEL -/

/-- Words of a grid record. -/
def recWord (x i : Nat) : BitVec 32 := BitVec.ofNat 32 (elemOf x i 32)

/-- Whether each knot is below the next. -/
def rising : List FVal → Bool
  | x :: y :: r => fLt x y && rising (y :: r)
  | _ => true

/-- The grid of a record, unless it is rejected (R187). -/
def parseGrid (x : Nat) : Option Grid :=
  let w := elemOf x 0 32
  let nk := bits w 10 6
  let knots := (List.range nk).map fun i => recWord x (1 + i)
  let widths := (List.range (nk - 1)).map fun i => recWord x (18 + i)
  let finite (v : BitVec 32) : Bool := match decodeF 0 v.toNat with | .num _ _ _ _ => true | _ => false
  let positive (v : BitVec 32) : Bool := match decodeF 0 v.toNat with | .num neg m _ _ => !neg && decide (m ≠ 0) | _ => false
  if bits w 31 11 ≠ 0 ∨ bits w 5 4 = 3 ∨ nk < 2 ∨ 17 < nk then none
  else if ((List.range (17 - nk)).any fun i => decide (recWord x (1 + nk + i) ≠ 0))
      || ((List.range (17 - nk)).any fun i => decide (recWord x (17 + nk + i) ≠ 0)) then none
  else if !(knots.all finite) || !(rising (knots.map fun k => decodeF 0 k.toNat)) || !(widths.all positive) then none
  else some { rule := bits w 5 4, knots := knots, widths := widths }

/-- A start fault of a scratchpad operand that holds uncorrectable data (R368). -/
def corruptStart (i : Instr) (addr : Nat) (s : State) : State :=
  if canRewind s then rewind s else startFault i 0x14 (info14 (lineOf addr) 3 i.opcode.toNat 2 s) s

/-- FGRID (R187). -/
def execFgrid (f : MSlot) (s : State) : Host.Outcome State Fault Refusal :=
  gated (.fgrid f) .go (fun s =>
    let i : Instr := .fgrid f
    let base := (rdS s f.sa.toNat).toNat % 2 ^ 32
    if (rdS s f.sb.toNat).toNat ≥ 2 ^ 34 then startFault i 6 (opInfo i 0 f.sb.toNat 0 s) s
    else if base % 4 ≠ 0 then startFault i 0x0C (BitVec.ofNat 64 base) s
    else
      match spPlace s s.foc.core s.lid 0 base 136, gridRecord f s with
      | some (c, a), some x =>
        let s := spoilRead c (rotBytes 0 a 136) s
        if badSp s c a 136 then corruptStart i a s
        else
          match parseGrid x with
          | none => startFault i 6 (opInfo i 0 0 0 s) s
          | some g => changeIn 20 [gridRes (x % 16)] (.grid (x % 16) g) s
      | _, _ => startFault i 8 (BitVec.ofNat 64 base) s) s

/-- FSEL (R191). -/
def execFsel (f : MSlot) (s : State) : Host.Outcome State Fault Refusal :=
  gated (.fsel f) .go (fun s =>
    let i : Instr := .fsel f
    let v := if f.q = 1#1 then (popEntry s).1.data else (rdV s f.vs.toNat).bits
    if (List.range 128).any fun n => decide ((lane v n).toNat > 15) then startFault i 6 (opInfo i 0 0 0 s) s
    else
      let s := if f.q = 1#1 then (popEntry s).2 else s
      changeIn 2 [mapRes f.b] (.rowMap f.b ((List.range 128).map fun n => (n, (lane v n).toNat))) s) s

/-! ### Scratchpad operands (R195) -/

/-- A scratchpad operand: SRAM address of row 0, pitch, rotation. -/
structure SpTile where
  base  : Nat
  pitch : Nat
  rot   : Nat
  deriving DecidableEq, Repr

/-- The scratchpad operand sp(SA, SB) of `n` rows at `skip` from the base, row k of `len k` bytes, elements of `align` bytes,
or the fault its checks raise (R195). -/
def spTile (i : Instr) (f : MSlot) (align pitchAlign skip n : Nat) (len : Nat → Nat) (s : State) :
    Except (Nat × Word) SpTile :=
  let a := (rdS s f.sa.toNat).toNat
  let b := (rdS s f.sb.toNat).toNat
  let step : Int := sintOf 32 (b % 2 ^ 32)
  let base : Word := BitVec.ofInt 64 ((a % 2 ^ 32 : Nat) + s.foc.k * step)
  let pitch := a / 2 ^ 32
  let row (k : Nat) : Word := base + BitVec.ofNat 64 (skip + k * pitch)
  if b ≥ 2 ^ 34 then .error (6, opInfo i 0 f.sb.toNat 0 s)
  else if step % pitchAlign ≠ 0 ∨ base.toNat % align ≠ 0 ∨ pitch % align ≠ 0 then .error (0x0C, base)
  else
    match (List.range n).find? fun k => (spPlace s s.foc.core s.lid 0 (row k).toNat (len k)).isNone with
    | some k => .error (8, row k)
    | none =>
      match spPlace s s.foc.core s.lid 0 (row 0).toNat (len 0) with
      | some (_, x) => .ok { base := x, pitch := pitch, rot := bits b 33 32 }
      | none => .error (8, row 0)

/-! ### Pushes (R195 to R202) -/

/-- Rows of `brow` bytes from the registers that hold them (R195). -/
def rowsFrom (regs : List Nat) (brow n : Nat) : List Nat :=
  (List.range n).map fun k =>
    let (r, o) := rowPlace brow k
    packElems 4096 ((regs.drop r).take ((brow + 511) / 512)) / 2 ^ (8 * o) % 2 ^ (8 * brow)

/-- Elements of a row. -/
def rowElems (fmt n row : Nat) : List Nat := (List.range n).map fun j => elemOf row j (fmtBits fmt)

/-- The `r` source registers of an M operation: number and contents; queue entries have no number and count as PLAIN. -/
def mSources (f : MSlot) (r : Nat) (s : State) : List (Option Nat × VReg) :=
  if f.q = 1#1 then (s.ctx.a.queue.take r).map fun e => (none, { bits := e.data, tag := plainTag f.inf.toNat })
  else (List.range r).map fun j => (some (f.vs.toNat + s.foc.k * r + j), rdV s (f.vs.toNat + s.foc.k * r + j))

/-- The state after the sources have been taken: queue entries are popped. -/
def takeSources (f : MSlot) (r : Nat) (s : State) : State :=
  if f.q = 1#1 then s.modArch fun a => { a with queue := a.queue.drop r } else s

/-- The first HAAR register among some sources. -/
def haarSource (l : List (Option Nat × VReg)) : Option Nat :=
  (l.find? fun x => tagHaar x.2.tag).map fun x => x.1.getD 0

/-- Whether sources carry different tags (R199). -/
def tagsDiffer (l : List (Option Nat × VReg)) : Bool :=
  match l with | [] => false | x :: r => r.any fun y => decide (y.2.tag ≠ x.2.tag)

/-- The result tag of a LIN FMXD: that of g, unchanged; PLAIN of format AF where g comes from no register (R201, R255; DEDUCED, log 96).
Which one registers with different tags give is not stated, and free. -/
def gradTag (f : MSlot) (l : List (Option Nat × VReg)) (s : State) : BitVec 32 × State :=
  match l with
  | x :: _ =>
    if f.q = 1#1 then (plainTag f.af.toNat, s)
    else if tagsDiffer l then (let (n, s) := s.fresh; (toTag (Config.freeTag n), s))
    else (x.2.tag, s)
  | [] => (plainTag f.af.toNat, s)

/-- The result tag of a LIN push: the sources' one tag with the format AF (R199). -/
def pushTag (mode af : Nat) (l : List (Option Nat × VReg)) : BitVec 32 :=
  match mode, l with | 0, x :: _ => setFmt x.2.tag af | _, _ => plainTag af

/-- The pieces of result row k: register, byte, elements, first element (R195). -/
def rowPieces (af len k : Nat) : List (Nat × Nat × Nat × Nat) :=
  let brow := len * fmtSize af
  let per := 512 / fmtSize af
  let (r, o) := rowPlace brow k
  if brow > 512 then (List.range ((brow + 511) / 512)).map fun p => (r + p, 0, min per (len - p * per), p * per)
  else [(r, o, len, 0)]

/-- The results of a push put in flight, each to be computed when its row is pushed. -/
def postRows (i : Instr) (f : MSlot) (id n c af len : Nat) (acc : Bool) (tag : BitVec 32) (s : State) : State :=
  let d := rowRegs (len * fmtSize af) n
  let md := mDest i f s.foc.k d
  let cls : RegClass := if mToV i then .v else .m
  (List.range n).foldl (fun s k =>
    (rowPieces af len k).foldl (fun s (r, o, len, first) =>
      post ⟨cls, md + r⟩ (pushLatency c + k * c) (.row id k acc af o len first tag) s) s) s

/-- Results of an operation that met another of its context on the port: unpredictable (R198). -/
def spoilRows (c : Ctx) (ord key : Nat) (l : List Landing) : List Landing :=
  l.zipIdx.map fun (x, j) => if x.ord = ord then { x with val := x.val.free c (key + 2 ^ 40 * j) } else x

/-- The destination buffer of FMXC, unpredictable; another push writes registers only. -/
def spoilGrads (op : Instr) (s : State) : State :=
  match op with
  | .fmxc f =>
    let (key, s) := s.fresh
    s.modArr fun a => a.setBuf (~~~f.b) { a.buf (~~~f.b) with rows := freeRows key }
  | _ => s

/-- The results of a streaming operation of the context in focus become unpredictable: those in flight, and the registers and
the buffer that it has written (R198). -/
def spoilPush (p : Push) (s : State) : State :=
  let (key, s) := s.fresh
  let s := s.modCtx fun c => { c with
    a := p.dst.foldl (fun a r => a.write r ((Payload.vec 0 0 none).free c (key + 2 ^ 50 * (r.n + 1)))) c.a
    flight := spoilRows c p.ord key c.flight }
  spoilGrads p.op s

/-- A push of the context in focus that runs into another of its own on the port: both results are unpredictable (R198,
CHECK = 0). -/
def meetPort (s : State) : State :=
  match s.core.arr.port with
  | some p =>
    if s.cyc < s.core.arr.portTo ∧ p.ctx = s.foc.ctx then
      let s := spoilPush p s
      { s with foc := { s.foc with bad := true } }
    else s
  | none => s

/-- The destination registers of a push. -/
def pushDests (i : Instr) (k : Nat) (a : ArrayState) : List RegId :=
  match i with | .fmx f | .fmxHaar f | .fmxd f => mDests i f k a | _ => []

/-- A push enters the array: the port is taken (R198), what it reads is kept (R209) until the cycle in which its last row is read;
FGOUT and FRDC keep their buffer until start + n - 1, and an FLOAD its row map and grid slots in its start alone (DESIGN CHOICE,
log 97). The counters are kept until the cycle before the last search, so that FCLR code 2 or FOOG may start in that search's own
cycle, after it (DESIGN CHOICE, log 97). -/
def enterPush (p : Push) (s : State) : State :=
  let needs := mNeeds p.op s
  let last := p.start + (p.n - 1) * p.c
  let p := { p with dst := pushDests p.op s.foc.k s.core.arr }
  s.modArr fun a =>
    let a := keepUses (needs.filter fun x => !x.2) last a
    let a := keepUses (needs.filter fun x => x.2 && decide (x.1 = cntRes)) (last - 1) a
    let a := keepUses (needs.filter fun x => x.2 && decide (x.1 ≠ cntRes)) (last + pushLatency p.c - 1) a
    { a with pushes := a.pushes ++ [p], portTo := p.start + p.n * p.c, port := some p }

/-- The state check of FMX and FMXD on buffer B (R193, R199). -/
def pushRefused (f : MSlot) (a : ArrayState) : Bool :=
  match (a.buf f.b).desc with
  | .coef m _ spn => decide (m ≠ f.mode.toNat) || decide (spn ≠ f.spn.toNat) || (decide (m ≠ 0) && a.unmapped f.b)
  | _ => true

/-- A push with its number, where the operation in focus starts it. -/
def newPush (i : Instr) (n c : Nat) (s : State) : Push × State :=
  let (id, s) := s.newId
  ({ id := id, op := i, ctx := s.foc.ctx, ord := s.foc.ord, start := s.cyc, n := n, c := c, bad := s.foc.bad }, s)

/-- FMX (R199). -/
def execFmx (f : MSlot) (s : State) : Host.Outcome State Fault Refusal :=
  gated (.fmx f) .go (fun s =>
    let i : Instr := .fmx f
    let a := s.core.arr
    let d := (a.buf f.b).desc
    let iff := f.inf.toNat
    let af := f.af.toNat
    let n := mCount f
    match inputLen d iff with
    | none => startFault i 6 (opInfo i 0 0 0 s) s
    | some len =>
      let c := rowCycles d iff af
      let brow := len * fmtSize iff
      if pushRefused f a then startFault i 6 (opInfo i 0 0 0 s) s
      else if f.src = 1#1 then
        match spTile i f (fmtSize iff) (fmtSize iff) 0 n (fun _ => brow) s with
        | .error e => startFault i e.1 e.2 s
        | .ok t =>
          let (p, s) := newPush i n c (meetPort s)
          postRows i f p.id n c af 128 (f.aux.getLsbD 0) (plainTag af)
            (enterPush { p with sp := true, base := t.base, pitch := t.pitch, rot := t.rot } s)
      else
        let r := rowRegs brow n
        let src := mSources f r s
        if f.mode ≠ 0 ∧ (haarSource src).isSome = true then
          startFault i 7 (opInfo i 1 ((haarSource src).getD 0) 0 s) s
        else if f.mode = 0 ∧ tagsDiffer src = true then startFault i 6 (opInfo i 0 0 0 s) s
        else
          let (p, s) := newPush i n c (meetPort (takeSources f r s))
          postRows i f p.id n c af 128 (f.aux.getLsbD 0) (pushTag f.mode.toNat af src)
            (enterPush { p with rows := rowsFrom (src.map fun x => x.2.bits.toNat) brow n } s)) s

/-- FMX with H = 1 (R200, R253): the tile's stored rows. A row of 128 elements must be a push row of R196. -/
def execFmxHaar (f : MSlot) (s : State) : Host.Outcome State Fault Refusal :=
  gated (.fmxHaar f) .go (fun s =>
    let i : Instr := .fmxHaar f
    let a := s.core.arr
    let d := (a.buf f.b).desc
    let iff := f.inf.toNat
    let af := f.af.toNat
    let n := mCount f
    let c := rowCycles d iff af
    let rb := rowBytes iff
    if pushRefused f a || decide (inputLen d iff ≠ some 128) then startFault i 6 (opInfo i 0 0 0 s) s
    else
      match spTile i f (fmtSize iff) (fmtSize iff) 0 1 (fun _ => 16) s with
      | .error e => startFault i e.1 e.2 s
      | .ok h =>
        let hdr := mxrRead s s.foc.ctx (s.foc.ord / 8) h.base 16
        let s := spoilRead s.foc.core (rotBytes 0 h.base 16) s
        if badSp s s.foc.core h.base 16 then corruptStart i h.base s
        else if !tileOk hdr || decide (tileRows hdr ≠ n) || decide (h.pitch ≠ rb) || decide (tagFmt (tileTag hdr) ≠ iff) then
          startFault i 6 (opInfo i 0 0 0 s) s
        else
          match spTile i f (fmtSize iff) (fmtSize iff) 16 n (fun _ => rb) s with
          | .error e => startFault i e.1 e.2 s
          | .ok t =>
            let (p, s) := newPush i n c (meetPort s)
            postRows i f p.id n c af 128 (f.aux.getLsbD 0) (setFmt (tileTag hdr) af)
              (enterPush { p with sp := true, base := t.base, pitch := t.pitch, rot := t.rot } s)) s

/-- FMXD (R201). -/
def execFmxd (f : MSlot) (s : State) : Host.Outcome State Fault Refusal :=
  gated (.fmxd f) .go (fun s =>
    let i : Instr := .fmxd f
    let a := s.core.arr
    let d := (a.buf f.b).desc
    let gf := f.inf.toNat
    let xf := bits f.aux.toNat 2 0
    let af := f.af.toNat
    let n := mCount f
    let c := rowCycles d gf af
    let brow := 128 * fmtSize gf
    let len := backLen d
    if pushRefused f a then startFault i 6 (opInfo i 0 0 0 s) s
    else if f.mode = 0 ∧ f.src = 1#1 then
      match spTile i f (fmtSize gf) (fmtSize gf) 0 n (fun _ => brow) s with
      | .error e => startFault i e.1 e.2 s
      | .ok t =>
        let (p, s) := newPush i n c (meetPort s)
        postRows i f p.id n c af len false (plainTag af)
          (enterPush { p with sp := true, base := t.base, pitch := t.pitch, rot := t.rot } s)
    else
      let r := rowRegs brow n
      let src := mSources f r s
      let rows := rowsFrom (src.map fun x => x.2.bits.toNat) brow n
      if f.mode = 0 then
        let (tag, s) := gradTag f src s
        let (p, s) := newPush i n c (meetPort (takeSources f r s))
        postRows i f p.id n c af len false tag (enterPush { p with rows := rows } s)
      else if (haarSource src).isSome then startFault i 7 (opInfo i 1 ((haarSource src).getD 0) 0 s) s
      else
        match spTile i f (fmtSize xf) (fmtSize xf) 0 n (fun _ => 128 * fmtSize xf) s with
        | .error e => startFault i e.1 e.2 s
        | .ok t =>
          let (p, s) := newPush i n c (meetPort (takeSources f r s))
          postRows i f p.id n c af len false (plainTag af)
            (enterPush { p with rows := rows, sp := true, base := t.base, pitch := t.pitch, rot := t.rot } s)) s

/-- FMXC's refusals by the array state (R202). -/
def fmxcRefused (f : MSlot) (a : ArrayState) : Bool :=
  match (a.buf f.b).desc, (a.buf (~~~f.b)).desc with
  | .coef m cf _, .grad qs => (decide (qs ≥ 2) && !isFP8 cf) || (decide (m ≠ 0) && a.unmapped f.b)
  | _, _ => true

/-- FMXC (R202). -/
def execFmxc (f : MSlot) (s : State) : Host.Outcome State Fault Refusal :=
  gated (.fmxc f) .go (fun s =>
    let i : Instr := .fmxc f
    let a := s.core.arr
    let d := (a.buf f.b).desc
    let iff := f.inf.toNat
    let gf := f.af.toNat
    let n := mCount f
    match inputLen d iff with
    | none => startFault i 6 (opInfo i 0 0 0 s) s
    | some len =>
      let c := rowCycles d iff gf
      let brow := len * fmtSize iff
      let gr := rowRegs (128 * fmtSize gf) n
      let gs := (List.range gr).map fun j => (f.md.toNat + s.foc.k * gr + j, rdM s (f.md.toNat + s.foc.k * gr + j))
      let grows := rowsFrom (gs.map fun x => x.2.bits.toNat) (128 * fmtSize gf) n
      if fmxcRefused f a then startFault i 6 (opInfo i 0 0 0 s) s
      else
        match gs.find? fun x => tagHaar x.2.tag with
        | some x => startFault i 7 (opInfo i 2 x.1 0 s) s
        | none =>
          if f.src = 1#1 then
            match spTile i f (fmtSize iff) (fmtSize iff) 0 n (fun _ => brow) s with
            | .error e => startFault i e.1 e.2 s
            | .ok t =>
              let (p, s) := newPush i n c (meetPort s)
              enterPush { p with gs := grows, sp := true, base := t.base, pitch := t.pitch, rot := t.rot } s
          else
            let r := rowRegs brow n
            let src := mSources f r s
            match haarSource src with
            | some x => startFault i 7 (opInfo i 1 x 0 s) s
            | none =>
              let (p, s) := newPush i n c (meetPort (takeSources f r s))
              enterPush { p with gs := grows, rows := rowsFrom (src.map fun x => x.2.bits.toNat) brow n } s) s

/-! ### A row in the array (R194, R199) -/

/-- What a placeholder of row k of a push becomes, given the row's elements. -/
def fillPayload (id k : Nat) (cols : List Nat) : Payload → Payload
  | .row p j acc af byte len first tag =>
    if p = id ∧ j = k then
      let data := packElems (fmtBits af) ((cols.drop first).take len)
      if acc then .acc af byte len data tag
      else .vec (byteMask byte (len * fmtSize af)) (BitVec.ofNat 4096 (data * 2 ^ (8 * byte))) (some tag)
    else .row p j acc af byte len first tag
  | x => x

/-- A context with its waiting rows changed, wherever their landings stand: in flight, in the snapshot buffer (R350), in
firmware's hold, in a checkpoint (R364). -/
def Ctx.mapRows (c : Ctx) (g : Payload → Payload) : Ctx :=
  let fl (l : List Landing) : List Landing := l.map fun x => { x with val := g x.val }
  let sn (l : List Snap) : List Snap := l.map fun
    | .result r ord reg val => .result r ord reg (g val)
    | x => x
  { c with flight := fl c.flight, snap := sn c.snap, fsnap := sn c.fsnap
           seg := c.seg.map fun x => { x with flight := fl x.flight } }

/-- The x format, elements and rows of a push. -/
def Push.xFmt (p : Push) : Nat :=
  match p.op with | .fmxd f => if f.mode = 0 then f.inf.toNat else bits f.aux.toNat 2 0 | .fmx f | .fmxHaar f | .fmxc f => f.inf.toNat | _ => 0

/-- The function of the core's launch a push belongs to: the row's elements of its scratchpad tile or of its captured rows. -/
def Push.spLen (p : Push) (a : ArrayState) : Nat :=
  match p.op with
  | .fmx f | .fmxc f => (inputLen (a.buf f.b).desc f.inf.toNat).getD 128
  | _ => 128

/-- Row k of a push: x and g as elements. -/
def Push.operands (p : Push) (s : State) : List Nat × List Nat :=
  let fmt := p.xFmt
  let len := p.spLen s.core.arr
  let sp := rowElems fmt len (rotRead s p.ctx (p.ord / 8) (p.rot * p.k) (p.base + p.k * p.pitch.toNat) (len * fmtSize fmt))
  let held := p.rows.getD p.k 0
  match p.op with
  | .fmxd f =>
    if f.mode = 0 then ([], if p.sp then sp else rowElems f.inf.toNat 128 held)
    else (sp, rowElems f.inf.toNat 128 held)
  | .fmxc f => (if p.sp then sp else rowElems fmt len held, rowElems f.af.toNat 128 (p.gs.getD p.k 0))
  | _ => (if p.sp then sp else rowElems fmt len held, [])

/-- SRAM address and bytes of the row of scratchpad data that a push reads next. -/
def Push.spRow (p : Push) (a : ArrayState) : Nat × Nat :=
  if p.sp then (p.base + p.k * p.pitch.toNat, p.spLen a * fmtSize p.xFmt) else (0, 0)

/-- Whether row k of a push reads uncorrectable data (R211): the line. -/
def Push.poison (p : Push) (s : State) : Option Nat :=
  let (a, n) := p.spRow s.core.arr
  (rotLines (p.rot * p.k) a n).find? fun x => badSp s s.foc.core x 1

/-- A push of the core in focus changed. -/
def setPush (id : Nat) (g : Push → Push) (s : State) : State :=
  s.modArr fun a => { a with pushes := (a.pushes.map fun p => if p.id = id then g p else p).filter fun p => p.k < p.n }

/-- The rows from the next one on of a push are lost, and a landing fault stands in the cycle in which the first of them would
land (R211); FMXC, whose rows go to a buffer, has one of its own, for no register. -/
def loseRows (p : Push) (info : Word) (s : State) : State :=
  setPush p.id (fun p => { p with k := p.n }) (s.modCtxAt s.foc.core p.ctx fun c =>
    match p.op with
    | .fmxc _ =>
      { c with flight := c.flight ++ [{ due := p.start + pushLatency p.c + p.k * p.c, ord := p.ord, reg := ⟨.lp, 2⟩
                                        val := .corrupt info }] }
    | _ => c.mapRows fun
      | .row id k acc af byte len first tag =>
        if id = p.id ∧ k = p.k then .corrupt info else .row id k acc af byte len first tag
      | x => x)

/-- Whether an M operation would read something of the array state that holds an uncorrectable error (R211): `rows` of
buffer B, of FMXC's other buffer, the grid slots that a PW push searches, FKNOT's slot. -/
def ArrayState.badFor (a : ArrayState) (op : Instr) (rows : List Nat) : Bool :=
  let hit (b : BitVec 1) (l : List Nat) : Bool := l.any fun i => (a.buf b).bad.contains i
  let slots (b : BitVec 1) (l : List Nat) : Bool := (a.mapped b l).any fun n => ((a.grid.find? n).map (·.bad)).getD false
  let all := List.range 128
  match op with
  | .fmx f | .fmxHaar f | .fmxd f => hit f.b all || (decide ((a.buf f.b).desc.mode ≠ 0) && slots f.b all)
  | .fmxc f =>
    hit f.b all || hit (~~~f.b) all || (decide ((a.buf f.b).desc.mode ≠ 0) && slots f.b all)
  | .fknot f => hit f.b rows || slots f.b rows
  | .fgout f | .frdc f => hit f.b rows
  | _ => false

/-- TRAPINFO of an uncorrectable array read (R211, R369). -/
def arrayInfo (op : Instr) (s : State) : Word := info14 0 3 op.opcode.toNat 5 s

/-- One row of a push (R194, R199, R201, R202): searches count, the columns' sums go to the row's landing. -/
def pushRow (p : Push) (s : State) : State :=
  match (if s.core.arr.badFor p.op [] then some (arrayInfo p.op s)
         else (p.poison s).map fun addr => info14 (lineOf addr) 3 p.op.opcode.toNat 2 s) with
  | some info => loseRows p info s
  | none =>
    let a := s.core.arr
    let (x, g) := p.operands s
    let s := spoilRead s.foc.core (rotBytes (p.rot * p.k) (p.spRow a).1 (p.spRow a).2) s
    let land (cols : List Nat) (s : State) : State :=
      s.modCtxAt s.foc.core p.ctx fun c => c.mapRows (fillPayload p.id p.k cols)
    let count (b : BitVec 1) (s : State) : State :=
      if (a.buf b).desc.mode = 0 then s else s.modArr (countSearch b p.xFmt x)
    let s := match p.op with
      | .fmx f | .fmxHaar f => count f.b (land (columnSums a f.b f.inf.toNat f.af.toNat x) s)
      | .fmxd f => count f.b (land (gradRow a f.b f.inf.toNat f.af.toNat (bits f.aux.toNat 2 0) g x) s)
      | .fmxc f =>
        let s := count f.b (s.modArr fun a => a.setBuf (~~~f.b) (gradAccumulate a f.b f.inf.toNat f.af.toNat x g))
        if p.bad then spoilGrads p.op s else s
      | _ => s
    setPush p.id (fun p => { p with k := p.k + 1 }) s

/-- Whether a push's next row is due: in cycle start + k × c, or earlier by the cycles the array has run ahead. -/
def Push.due (p : Push) (cyc : Nat) : Bool := decide (p.k < p.n) && decide (p.start + p.k * p.c ≤ cyc + p.adv)

/-- ARRAY_PUSH_ROW (R194): the push in focus takes its next row, when it is due. -/
def execArrayPushRow (s : State) : Host.Outcome State Fault Refusal :=
  match s.core.arr.pushes.find? fun p => p.id = s.foc.id with
  | some p => if p.due s.cyc then .next (pushRow p s) else .next s
  | none => .next s

/-! ### FLOAD (R190, R269) -/

/-- Coefficients of a cell of row i that an FLOAD's tile holds, K(i) (R190). -/
def floadK (f : MSlot) (a : ArrayState) (i : Nat) : Nat :=
  match f.mode.toNat with
  | 0 => if f.spn ≠ 0 ∨ isFP8 f.inf.toNat = true then 2 else 1
  | d => (d + 1) * ((a.slotOf f.b i).map Grid.count).getD 0

/-- Bits of a codebook index (R46). -/
def cbBits (f : MSlot) : Nat := f.cbf.toNat + 1

/-- Bytes of row r of an FLOAD's tile: its coefficients or its index stream. -/
def floadRowBytes (f : MSlot) (k : Nat) : Nat := if f.cbf = 0 then 128 * k * fmtSize f.inf.toNat else 16 * k * cbBits f

/-- Cycles an FLOAD takes from g on (R190): C counts every coefficient of its tile, those beyond a cell's store included
(DEDUCED, log 41). -/
def FLoad.length (l : FLoad) : Nat := 128 + 2 * (((l.ks.map fun k => 128 * k).sum + 127) / 128)

/-- SRAM address of row r of an FLOAD. -/
def FLoad.rowAddr (l : FLoad) (r : Nat) : Nat := l.base + r * l.pitch

/-- SRAM address of the table of block m (R190). -/
def FLoad.tabAddr (l : FLoad) (b m : Nat) : Nat := l.base + l.ks.length * l.pitch + 2 * 2 ^ b * m

/-- The first line with an uncorrectable error among those of `n` bytes from `a` on, each at its rotated address. -/
def badLine (s : State) (r a n : Nat) : Option Nat := (rotLines r a n).find? fun l => badSp s s.foc.core l 1

/-- Row r of an FLOAD as stored. -/
def FLoad.rowOf (l : FLoad) (f : MSlot) (r : Nat) : BitVec 65536 :=
  let k := l.ks.getD r 0
  let cf := f.inf.toNat
  Machine.rowOf cf fun j e =>
    if e ≥ k then 0
    else
      let q := j * k + e
      if f.cbf = 0 then elemOf (l.rows.getD r 0) q (fmtBits cf)
      else cbValue (l.idxs.getD (r * k + q / 128) 0) (l.tabs.getD (r * k + q / 128) 0) (q % 128) (cbBits f)

/-- Whether a sparse row may be stored (R190): position entries up to 11, and none twice in a column of its group, among the
rows that this FLOAD of rows fr to fr + n - 1 has written and those that stand loaded outside it (DEDUCED, log 40). -/
def sparseOk (spn fr n i : Nat) (row : Nat) (b : Buffer) : Bool :=
  let g := groupRows spn
  let there (x : Nat) : Bool := if fr ≤ x ∧ x < fr + n then decide (x < i) else b.loaded.contains x
  (List.range 128).all fun j =>
    decide (cellBits 1 row j 1 ≤ 11)
      && (decide (usedRows spn ≤ i) || ((List.range 128).filter fun x => there x && decide (x / g = i / g)).all fun x =>
        decide (sparsePos (b.row x) j ≠ sparsePos row j))

/-- The rows of an FLOAD written one by one, until a sparse row is refused: the buffer, and whether all were written. -/
def writeRows (l : FLoad) (f : MSlot) : List Nat → Buffer → Buffer × Bool
  | [], b => (b, true)
  | r :: rest, b =>
    let i := floadFirst f + r
    let row := l.rowOf f r
    if f.spn ≠ 0 ∧ sparseOk f.spn.toNat (floadFirst f) l.ks.length i row.toNat b = false then (b, false)
    else writeRows l f rest { b with rows := if row = 0 then Map.drop b.rows i else b.rows.set i row
                                     loaded := i :: b.loaded.filter (· ≠ i), bad := b.bad.filter (· ≠ i) }

/-- The running FLOAD has read uncorrectable data (R270): 0x14 in this cycle in the context that started it. Its first `n` rows
are written, the descriptor stays, and the weight path is free. -/
def failLoad (l : FLoad) (f : MSlot) (n addr : Nat) (s : State) : State :=
  let info := info14 (lineOf addr) 3 l.op.opcode.toNat 2 (s.focusOn s.foc.core l.ctx)
  (s.modArr fun a => { a.setBuf f.b (writeRows l f (List.range n) (a.buf f.b)).1 with
    loads := a.loads.tail, wpFree := s.cyc + 1 }).modCtxAt s.foc.core l.ctx fun c =>
    if c.inst = l.inst then { c with lfault := c.lfault.or (some info) } else c

/-- An FLOAD begins in the present cycle (R190): the descriptor takes its values, on a change the rows outside its own become
+0, and the rows without codebooks are read. -/
def beginLoad (l : FLoad) (s : State) : State :=
  match l.op with
  | .fload f =>
    let fr := floadFirst f
    let d : BufDesc := .coef f.mode.toNat f.inf.toNat f.spn.toNat
    let b := s.core.arr.buf f.b
    let own (i : Nat) : Bool := decide (fr ≤ i) && decide (i < fr + l.ks.length)
    let b' : Buffer := if b.desc = d then b else { b with
      desc := d, rows := b.rows.filter fun e => own e.1, loaded := [], bad := b.bad.filter own }
    let rows := if f.cbf ≠ 0 then [] else l.ks.zipIdx.map fun (k, r) =>
      rotRead s l.ctx (l.ord / 8) (l.rot * r) (l.rowAddr r) (floadRowBytes f k)
    let bad := if f.cbf ≠ 0 then none
      else (l.ks.zipIdx.filterMap fun (k, r) => badLine s (l.rot * r) (l.rowAddr r) (floadRowBytes f k)).head?
    let s := if f.cbf ≠ 0 then s
      else spoilRead s.foc.core (l.ks.zipIdx.flatMap fun (k, r) => rotBytes (l.rot * r) (l.rowAddr r) (floadRowBytes f k)) s
    let s := s.modArr fun a => { a.setBuf f.b b' with
      loads := a.loads.map fun x => if x.ctx = l.ctx ∧ x.ord = l.ord then { x with g := some (s.cyc : Int), rows := rows } else x }
    match bad with
    | some addr => failLoad l f 0 addr s
    | none => s
  | _ => s

/-- The checks of an FLOAD's tile beyond R195: equal K and the row pitch (R269). -/
def floadBooks (f : MSlot) (ks : List Nat) (pitch : Nat) : Bool :=
  match ks with
  | [] => true
  | k :: r => f.cbf = 0 || (r.all (fun x => x = k) && decide (16 * k * cbBits f ≤ pitch))

/-- FLOAD (R190). -/
def execFload (f : MSlot) (s : State) : Host.Outcome State Fault Refusal :=
  gated (.fload f) .go (fun s =>
    let i : Instr := .fload f
    let a := s.core.arr
    let n := mCount f
    let fr := floadFirst f
    let ks := (List.range n).map fun r => floadK f a (fr + r)
    let pitch := (rdS s f.sa.toNat).toNat / 2 ^ 32
    let es := fmtSize f.inf.toNat
    let invalid := decide (f.mode ≠ 0) && (List.range n).any fun r => (a.slotOf f.b (fr + r)).isNone
    let grad := match (a.buf f.b).desc with | .grad _ => true | _ => false
    if grad || invalid || !floadBooks f ks pitch then startFault i 6 (opInfo i 0 0 0 s) s
    else
      let align := if f.cbf = 0 then es else 4
      match spTile i f align es 0 n (fun r => floadRowBytes f (ks.getD r 0)) s with
      | .error e => startFault i e.1 e.2 s
      | .ok t =>
        let tabs := 2 * 2 ^ cbBits f * ks.sum
        let off : Word := BitVec.ofInt 64 (((rdS s f.sa.toNat).toNat % 2 ^ 32 : Nat)
          + s.foc.k * sintOf 32 ((rdS s f.sb.toNat).toNat % 2 ^ 32)) + BitVec.ofNat 64 (n * pitch)
        if f.cbf ≠ 0 ∧ (spPlace s s.foc.core s.lid 0 off.toNat tabs).isNone = true then startFault i 8 off s
        else
          let (id, s) := s.newId
          let l : FLoad := { id := id, bad := s.foc.bad, inst := s.ctx.inst, op := i, ctx := s.foc.ctx, ord := s.foc.ord, idx := s.foc.idx, base := t.base, pitch := t.pitch,
                             rot := t.rot, ks := ks }
          let idle := a.loads.isEmpty && decide (a.wpFree ≤ s.cyc)
          let s := s.modArr fun a => { a with loads := a.loads ++ [l] }
          if idle then beginLoad l s else s) s

/-- FLOAD_BEGIN (R190): the first waiting FLOAD begins when the weight path is free. -/
def execFloadBegin (s : State) : Host.Outcome State Fault Refusal :=
  match s.core.arr.loads with
  | l :: _ => if l.g.isNone && decide (s.core.arr.wpFree ≤ s.cyc) then .next (beginLoad l s) else .next s
  | [] => .next s

/-- Whether the running FLOAD's next codebook read is due: table m in cycle g + 2m, indices in g + 2m + 1 (R269). -/
def FLoad.readDue (l : FLoad) (cyc : Nat) : Bool :=
  match l.op, l.g with
  | .fload f, some g => f.cbf ≠ 0 && decide (l.reads < 2 * l.ks.sum) && decide (g + l.reads ≤ cyc)
  | _, _ => false

/-- The next table or index block that an FLOAD reads: SRAM address, bytes, rotation (R190, R269). -/
def FLoad.nextRead (l : FLoad) (f : MSlot) : Nat × Nat × Nat :=
  let b := cbBits f
  let m := l.reads / 2
  let k := l.ks.headD 1
  if l.reads % 2 = 0 then (l.tabAddr b m, 2 * 2 ^ b, 0) else (l.rowAddr (m / k) + 16 * b * (m % k), 16 * b, l.rot * (m / k))

/-- The SRAM lines that the array reads in schedule cycle `cyc`: the rows of pushes and the codebook read that are due (R195, R269). -/
def ArrayState.readsNow (a : ArrayState) (cyc : Nat) : List Nat :=
  ((a.pushes.filter fun p => p.due cyc).flatMap fun p => rotLines (p.rot * p.k) (p.spRow a).1 (p.spRow a).2)
    ++ match a.loads with
      | l :: _ =>
        (match l.op with
        | .fload f => if l.readDue cyc then (let (x, n, r) := l.nextRead f; rotLines r x n) else []
        | _ => [])
      | [] => []

/-- The banks of the reads that the array of the core in focus makes in its cycle, by their order after the accesses of rows 1 to 3
(R90). -/
def arrayBanks (s : State) : List (Nat × Nat) := ((s.core.arr.readsNow s.cyc).map fun l => (s.foc.core, l)).eraseDups

/-- CODEBOOK_TABLE_READ (R269): the next table or index block is read. Of the rows whose blocks are there, any number may have
been written when a read fails (R270; log 41). -/
def execCodebookTableRead (s : State) : Host.Outcome State Fault Refusal :=
  match s.core.arr.loads with
  | l :: rest =>
    match l.op with
    | .fload f =>
      if l.readDue s.cyc then
        let m := l.reads / 2
        let k := l.ks.headD 1
        let (addr, len, r) := l.nextRead f
        let x := rotRead s l.ctx (l.ord / 8) r addr len
        let l' := if l.reads % 2 = 0 then { l with tabs := l.tabs ++ [x] } else { l with idxs := l.idxs ++ [x] }
        let bad := badLine s r addr len
        let s := spoilRead s.foc.core (rotBytes r addr len) s
        match bad with
        | some line =>
          let (key, s) := s.fresh
          .next (failLoad l f ((Config.freeWord key).toNat % (m / k + 1)) line s)
        | none => .next (s.modArr fun a => { a with loads := { l' with reads := l.reads + 1 } :: rest })
      else .next s
    | _ => .next s
  | [] => .next s

/-- Whether the running FLOAD completes now (R190). -/
def FLoad.complete (l : FLoad) (cyc : Nat) : Bool := match l.g with | some g => decide (g + l.length ≤ cyc) | none => false

/-- FLOAD_COMPLETE (R190): the rows stand in the buffer; a sparse position traps 0x06 in the context that started it, at the completion
and as an asynchronous trap, for R190 gives no cycle (DESIGN CHOICE, log 98). -/
def execFloadComplete (s : State) : Host.Outcome State Fault Refusal :=
  match s.core.arr.loads with
  | l :: rest =>
    match l.op with
    | .fload f =>
      if l.complete s.cyc then
        let s := s.modArr fun a => { a with loads := rest, wpFree := s.cyc + 1 }
        let (b, ok) := writeRows l f (List.range l.ks.length) (s.core.arr.buf f.b)
        let s := s.modArr fun a => a.setBuf f.b b
        let (key, s) := if l.bad then s.fresh else (0, s)
        let s := if l.bad then s.modArr fun a => a.spoil (bufRes f.b) key else s
        .next (if ok then s
          else s.modCtxAt s.foc.core l.ctx fun c => if c.inst ≠ l.inst then c else
            c.pendTrap { cause := 6, info := info64 3 l.op.opcode.toNat l.idx 0 0 0, fslot := 3 })
      else .next s
    | _ => .next s
  | [] => .next s

/-! ### Reading out -/

/-- A result row read from array row `row`; an uncorrectable one is a landing fault in its place (R211). -/
def postRead (i : Instr) (row : Nat) (r : RegId) (lat : Nat) (v : Payload) (s : State) : State :=
  post r lat (if s.core.arr.badFor i [row] then .corrupt (arrayInfo i s) else v) s

/-- FGOUT (R203). -/
def execFgout (f : MSlot) (s : State) : Host.Outcome State Fault Refusal :=
  gated (.fgout f) .go (fun s =>
    let i : Instr := .fgout f
    let x := (rdS s f.sa.toNat).toNat
    let b := s.core.arr.buf f.b
    let n := mCount f
    let grad := match b.desc with | .grad _ => true | _ => false
    if !grad || decide (x ≥ 128) || decide (x + n > 128) then startFault i 6 (opInfo i 0 0 0 s) s
    else
      let md := mDest i f s.foc.k n
      let s := s.modArr (keepUses [(bufRes f.b, false)] (s.cyc + n - 1))
      (List.range n).foldl (fun s r =>
        let row := b.row (x + r)
        postRead i (x + r) ⟨.m, md + r⟩ (8 + r) (.vec (BitVec.allOnes 4096)
          (mkVec fun j => BitVec.ofNat 32 (elemOf row (16 * j + f.aux.toNat) 32)) (some (plainTag 0))) s) s) s

/-- FRDC (R208). -/
def execFrdc (f : MSlot) (s : State) : Host.Outcome State Fault Refusal :=
  gated (.frdc f) .go (fun s =>
    let i : Instr := .frdc f
    let x := (rdS s f.sa.toNat).toNat
    let b := s.core.arr.buf f.b
    let n := mCount f
    let first := x % 128
    let e := bits x 12 8
    let grad := match b.desc with | .grad _ => true | _ => false
    if grad || decide (bits x 7 7 ≠ 0) || decide (bits x 63 13 ≠ 0) || decide (first + n > 128) then
      startFault i 6 (opInfo i 0 0 0 s) s
    else
      let fmt := match b.desc with | .coef _ cf _ => cf | _ => 7
      let s := s.modArr (keepUses [(bufRes f.b, false)] (s.cyc + n - 1))
      (List.range n).foldl (fun s r =>
        let row := b.row (first + r)
        let (reg, o) := rowPlace 256 r
        let data := packElems 16 ((List.range 128).map fun j => elemOf row (32 * j + e) 16)
        postRead i (first + r) ⟨.m, mDest i f s.foc.k (rowRegs 256 n) + reg⟩ (8 + r)
          (.vec (byteMask o 256) (BitVec.ofNat 4096 (data * 2 ^ (8 * o))) (some (plainTag fmt))) s) s) s

/-- FOOG (R205). -/
def execFoog (f : MSlot) (s : State) : Host.Outcome State Fault Refusal :=
  gated (.foog f) .go (fun s =>
    let i : Instr := .foog f
    let a := s.core.arr
    let cls : RegClass := if mToV i then .v else .m
    let s := post ⟨cls, mDest i f 0 1⟩ 4 (.vec (BitVec.allOnes 4096)
      (mkVec fun j => BitVec.ofNat 32 ((a.above.get j 0).toNat * 65536 + (a.below.get j 0).toNat)) (some (plainTag 5))) s
    if f.aux.getLsbD 0 then spoilUses (mNeeds i s) (s.modArr fun a => { a with below := [], above := [] }) else s) s

/-- FCLR, code 0 (R207); the reserved codes trap 0x06. -/
def execFclrBuffer (f : MSlot) (s : State) : Host.Outcome State Fault Refusal :=
  gated (.fclrBuffer f) .go (changeIn 8 [bufRes f.b, mapRes f.b] (.buffer f.b .empty false)) s

/-- FCLR, code 2 (R207). -/
def execFclrCounters (f : MSlot) (s : State) : Host.Outcome State Fault Refusal :=
  gated (.fclrCounters f) .go (changeIn 8 [cntRes] .counters) s

/-- FCLR, code 3 (R207). -/
def execFclrGrid (f : MSlot) (s : State) : Host.Outcome State Fault Refusal :=
  gated (.fclrGrid f) .go (changeIn 8 ((List.range 16).map gridRes) .grids) s

/-- FCLR, codes 4 to 7 (R207). -/
def execFclrGrad (f : MSlot) (s : State) : Host.Outcome State Fault Refusal :=
  gated (.fclrGrad f) .go (changeIn 8 [bufRes f.b] (.buffer f.b (.grad (f.aux.toNat - 4)) true)) s

/-! ### FKNOT (R204) -/

/-- What FKNOT's checks find: a refusal code, or the interval and the two new widths. -/
def knotCheck (f : MSlot) (slot : Nat) (kb : BitVec 32) (a : ArrayState) : Except Nat (Grid × Nat × BitVec 32 × BitVec 32) :=
  let b := a.buf f.b
  let o := a.buf (~~~f.b)
  let k := decodeF 0 kb.toNat
  match a.grid.find? slot with
  | none => .error 1
  | some g =>
    match b.desc with
    | .coef (d + 1) cf _ =>
      let n := g.count
      let inside := fLt (g.knot 0) k && fLt k (g.knot n)
      let i := bisect g k 5 0 n
      let inv (x : FVal) : Nat := roundFmt (divPos (ofInt 1) x) 0 0 false
      let wl := inv (fadd 0 k (g.knot i).neg)
      let wr := inv (fadd 0 (g.knot (i + 1)) k.neg)
      let huge (w : Nat) : Bool := decide (w % 2 ^ 31 ≥ 0x7F800000)
      if !inside || decide (fcmp k (g.knot i) = some .eq) || huge wl || huge wr then .error 3
      else if g.knots.length ≥ 17 then .error 4
      else if (d + 2) * (n + 1) > capacity cf then .error 5
      else if o.desc ≠ .empty ∧ (List.range 128).any (fun r => o.rowMap.get r 0 = slot) = true then .error 6
      else .ok (g, i, BitVec.ofNat 32 wl, BitVec.ofNat 32 wr)
    | _ => .error 2

/-- FKNOT (R204): a status entry, and the knot inserted when nothing refuses it; an uncorrectable read is a fault in the
cycle of the status, which is then unpredictable (R211, log 41). -/
def execFknot (f : MSlot) (s : State) : Host.Outcome State Fault Refusal :=
  gated (.fknot f) .go (fun s =>
    let i : Instr := .fknot f
    let x := (rdS s f.sa.toNat).toNat
    let slot := bits x 35 32
    let kb := BitVec.ofNat 32 x
    if x ≥ 2 ^ 36 then startFault i 6 (opInfo i 0 f.sa.toNat 0 s) s
    else if s.ctx.a.queue.length ≥ 16 then startFault i 6 (opInfo i 0 0 0 s) s
    else
      let needs := mNeeds i s
      match knotCheck f slot kb s.core.arr with
      | .error e =>
        let (id, s) := allocEntry (some (s.cyc + 32)) s
        fillEntry s.foc.ctx (some id) e none (s.modArr (keepUses needs (s.cyc + 31)))
      | .ok (g, iv, wl, wr) =>
        let b := s.core.arr.buf f.b
        let rows := (List.range 128).filter fun r => b.rowMap.get r 0 = slot
        let d := b.desc.mode
        if s.core.arr.badFor i rows then
          let (id, s) := allocEntry (some (s.cyc + 32 + 4 * rows.length)) s
          let (key, s) := s.fresh
          post ⟨.lp, 2⟩ (32 + 4 * rows.length) (.corrupt (arrayInfo i s))
            (fillEntry s.foc.ctx (some id) (Config.freeWord key).toNat none s)
        else
        let b' : Buffer := { b with rows := rows.foldl (fun m r =>
          let new := splitRow b.desc.cf d g iv (decodeF 0 kb.toNat) (decodeF 0 wr.toNat) (b.row r)
          if new = 0 then Map.drop m r else m.set r new) b.rows }
        let (id, s) := allocEntry (some (s.cyc + 32 + 4 * rows.length)) s
        fillEntry s.foc.ctx (some id) (2 ^ 64) none (spoilUses needs (s.modArr fun a =>
          keepUses needs (s.cyc + 31 + 4 * rows.length)
            { a.setBuf f.b b' with grid := a.grid.set slot (g.insert iv kb wl wr) }))) s

/-! ### What the array does in a cycle -/

/-- A change of the array state takes effect. -/
def ArrChange.apply (c : ArrChange) (a : ArrayState) : ArrayState :=
  match c with
  | .grid slot g => { a with grid := a.grid.set slot g }
  | .rowMap b m => a.setBuf b { a.buf b with rowMap := m.filter fun e => e.2 ≠ 0 }
  | .counters => { a with below := [], above := [] }
  | .grids => { a with grid := [] }
  | .spoil r key => a.spoil r key
  | .buffer b d keep => a.setBuf b { desc := d, rowMap := if keep then (a.buf b).rowMap else [] }

/-- Whether a change is FGRID's slot write. -/
def ArrChange.isGrid : ArrChange → Bool
  | .grid _ _ => true
  | _ => false

/-- The changes due by now of one kind take effect. -/
def applyChanges (grid : Bool) (s : State) : State :=
  let now (e : Nat × ArrChange) : Bool := decide (e.1 ≤ s.cyc) && (e.2.isGrid == grid)
  s.modArr fun a =>
    { (a.changes.filter now).foldl (fun a e => e.2.apply a) a with changes := a.changes.filter fun e => !now e }

/-- FGRID_SLOT_WRITE (R187): the slots due now become VALID. -/
def execFgridSlotWrite (s : State) : Host.Outcome State Fault Refusal := .next (applyChanges true s)

/-- The array runs one cycle ahead of the schedule while it holds the core (R209): what it has in hand comes nearer, and
only the landings of its results keep their schedule cycles. -/
def ArrayState.runAhead (a : ArrayState) : ArrayState :=
  { a with pushes := a.pushes.map fun p => { p with adv := p.adv + 1 }
           loads := a.loads.map fun l => { l with g := l.g.map (· - 1) }
           changes := a.changes.map fun e => (e.1 - 1, e.2)
           uses := (a.uses.filter fun u => u.2.2 ≠ 0).map fun u => (u.1, u.2.1, u.2.2 - 1)
           portTo := a.portTo - 1
           wpFree := a.wpFree - 1 }

/-- What is no longer in use is forgotten. -/
def ArrayState.tidy (a : ArrayState) (cyc : Nat) : ArrayState :=
  { a with uses := a.uses.filter fun u => cyc ≤ u.2.2 }

end Sys2Proof.Machine
end

