-- ==== Sys2Proof/Machine/Control.lean ====
section
/-! DEFINITION. The rest of the C slot: branches and calls (R72 to R74), hardware loops (R75 to R79), END (R85), TRAP and
ERET (R352, R353), CHK (R361), BLEND and BRET (R212), and where the next issue is (R49, R77, R78). -/

namespace Sys2Proof.Machine

/-! ### The next issue -/

/-- The header address of a loop's last bundle (R75). -/
def LoopReg.endAt (l : LoopReg) : Nat := l.start.toNat + l.len.toNat

/-- Whether the loop-end test at address `pc` concerns a level (R77). -/
def LoopReg.endsAt (l : LoopReg) (pc : Nat) : Bool := l.act && decide (pc = l.endAt)

/-- A level after its loop-end test (R77). -/
def LoopReg.count1 (l : LoopReg) : LoopReg :=
  { l with count := l.count - 1, act := decide (l.count - 1 ≠ 0) }

/-- The loop-end test of one level: the level, and where it loops back to (R77). -/
def LoopReg.test (l : LoopReg) (pc : Nat) : LoopReg × Option Word :=
  if l.endsAt pc then (l.count1, if l.count1.act then some (l.start.zeroExtend 64) else none) else (l, none)

/-- The loop-end test of both levels after the last issue of the bundle at `pc`, `fall` following it (R77). -/
def Arch.loopEnd (a : Arch) (fall : Word) : Arch :=
  let (l1, t1) := a.lp1.test a.pc.toNat
  match t1 with
  | some t => { a with lp1 := l1, pc := t }
  | none =>
    let (l0, t0) := a.lp0.test a.pc.toNat
    { a with lp1 := l1, lp0 := l0, pc := t0.getD fall }

/-- A level after a taken branch to `t` (R78). -/
def LoopReg.branch (l : LoopReg) (t : Word) : LoopReg :=
  if l.act ∧ (t.toNat < l.start.toNat ∨ l.endAt < t.toNat) then { l with act := false } else l

/-- The context after an issue executed in cycle `t`: issue k + 1 of the bundle, or issue 0 of the bundle that follows,
whose STALL counts from t + 1 (R49, R77, R78); an MTS to SCBMODE takes effect then (R60). -/
def Ctx.advance (c : Ctx) (t : Nat) : Ctx :=
  match c.next with
  | .placed => { c with next := .seq }
  | n =>
    if c.a.idx < c.brep then { c with a := { c.a with idx := c.a.idx + 1 }, frm := t + 1, next := .seq }
    else
      let a := match n with
        | .branch x => { c.a with pc := x, lp1 := c.a.lp1.branch x, lp0 := c.a.lp0.branch x }
        | .own x => { c.a with pc := x }
        | _ => c.a.loopEnd (c.a.pc + BitVec.ofNat 64 c.blen)
      { c with a := { a with idx := 0, check := c.chkNext.getD a.check }
               frm := t + 1
               noStall := false
               next := .seq
               chkNext := none }

/-- STALL of the bundle the context in focus issues next; 0 where its header cannot be fetched. -/
def stallNext (s : State) : Nat :=
  if s.ctx.a.idx ≠ 0 ∨ s.ctx.noStall then 0
  else
    match s.launch?.bind fun l => headerAt s l s.ctx.a.pc.toNat with
    | some h => h.stall.toNat
    | none => 0

/-- OWED for a boundary after the present cycle (R345): the stall cycles before the next issue, counted from b. -/
def owedAfter (s : State) : Nat := min 31 (s.ctx.frm + stallNext s - (s.cyc + 1))

/-- The context in focus has issued and is advanced. -/
def advanceHere (s : State) : State := s.modCtx fun c => c.advance s.cyc

/-- A trap with the boundary after the present cycle, in a context that has been advanced (R343). -/
def trapAfter (q : TrapReq) (s : State) : State := takeTrap { q with before := false, owed := owedAfter s } s

/-- The context in focus waits, from the boundary after the issue, for firmware's answer to a service request (R352):
`fwHeld` keeps the stall owed. -/
def enterService (s : State) : State :=
  let owed := owedAfter s
  leaveIssue (s.modCtx fun c => { c with
    fsnap := c.snapshot (s.cyc + 1) []
    fwHeld := some { cause := 0x18, owed := owed }
    flight := []
    starts := []
    st := .blocked
    wait := some .service
    woken := false })

/-! ### Branches -/

/-- A taken branch (R72). -/
def branchTo (t : Word) (s : State) : State := s.modCtx fun c => { c with next := .branch t }

/-- The target PC + sext(IMM) (R72). -/
def relTarget (f : CSlot) (s : State) : Word := s.ctx.a.pc + sext f.imm

/-- A conditional branch whose comparison is at width W (R73). -/
def branchIf (f : CSlot) (cond : Nat → Nat → Nat → Bool) (s : State) : State :=
  let w := widthBits f.w
  if cond w ((rdS s f.sa.toNat).toNat % 2 ^ w) ((rdS s f.sb.toNat).toNat % 2 ^ w) then branchTo (relTarget f s) s else s

/-- CNOP: nothing. -/
def execCnop (f : CSlot) (s : State) : Host.Outcome State Fault Refusal := gated (.cnop f) .go (fun s => s) s

/-- BR (R73). -/
def execBr (f : CSlot) (s : State) : Host.Outcome State Fault Refusal :=
  gated (.br f) .go (fun s => branchTo (relTarget f s) s) s

/-- BEQ (R73). -/
def execBeq (f : CSlot) (s : State) : Host.Outcome State Fault Refusal :=
  gated (.beq f) .go (branchIf f fun _ a b => decide (a = b)) s

/-- BNE (R73). -/
def execBne (f : CSlot) (s : State) : Host.Outcome State Fault Refusal :=
  gated (.bne f) .go (branchIf f fun _ a b => decide (a ≠ b)) s

/-- BLT (R73). -/
def execBlt (f : CSlot) (s : State) : Host.Outcome State Fault Refusal :=
  gated (.blt f) .go (branchIf f fun w a b => decide (sintOf w a < sintOf w b)) s

/-- BGE (R73). -/
def execBge (f : CSlot) (s : State) : Host.Outcome State Fault Refusal :=
  gated (.bge f) .go (branchIf f fun w a b => decide (sintOf w b ≤ sintOf w a)) s

/-- BLTN (R73). -/
def execBltn (f : CSlot) (s : State) : Host.Outcome State Fault Refusal :=
  gated (.bltn f) .go (branchIf f fun _ a b => decide (a < b)) s

/-- BGEN (R73). -/
def execBgen (f : CSlot) (s : State) : Host.Outcome State Fault Refusal :=
  gated (.bgen f) .go (branchIf f fun _ a b => decide (b ≤ a)) s

/-- BPANY (R73). -/
def execBpany (f : CSlot) (s : State) : Host.Outcome State Fault Refusal :=
  gated (.bpany f) .go (fun s => if rdP s f.sa.toNat ≠ 0 then branchTo (relTarget f s) s else s) s

/-- BPALL (R73). -/
def execBpall (f : CSlot) (s : State) : Host.Outcome State Fault Refusal :=
  gated (.bpall f) .go
    (fun s => if rdP s f.sa.toNat = BitVec.allOnes 128 then branchTo (relTarget f s) s else s) s

/-- CALL (R74): the link is the address after the CALL bundle. -/
def execCall (f : CSlot) (s : State) : Host.Outcome State Fault Refusal :=
  gated (.call f) .go (fun s =>
    branchTo (relTarget f s) (postS f.sd.toNat 1 (s.ctx.a.pc + BitVec.ofNat 64 s.ctx.blen) s)) s

/-- RET (R74). -/
def execRet (f : CSlot) (s : State) : Host.Outcome State Fault Refusal :=
  gated (.ret f) .go (fun s => branchTo (rdS s f.sa.toNat) s) s

/-- JMPR (R74). -/
def execJmpr (f : CSlot) (s : State) : Host.Outcome State Fault Refusal :=
  gated (.jmpr f) .go (fun s => branchTo (rdS s f.sa.toNat + if f.i = 1#1 then sext f.imm else 0) s) s

/-! ### Loops -/

/-- The address after the bundle at `pc`; `pc` itself where its header cannot be fetched, so that the fetch fault is
that bundle's (R76, DEDUCED, log 24). -/
def afterBundle (pc : Word) (s : State) : Word :=
  match s.launch?.bind fun l => headerAt s l pc.toNat with
  | some h => pc + BitVec.ofNat 64 h.length
  | none => pc

/-- Loop register N changed. -/
def Arch.setLoop (a : Arch) (n : Bool) (l : LoopReg) : Arch := if n then { a with lp1 := l } else { a with lp0 := l }

/-- Loop register N. -/
def Arch.loopReg (a : Arch) (n : Bool) : LoopReg := if n then a.lp1 else a.lp0

/-- LOOP (R76). -/
def execLoop (f : CSlot) (s : State) : Host.Outcome State Fault Refusal :=
  gated (.loop f) .go (fun s =>
    let n := rdS s f.sa.toNat
    let start := s.ctx.a.pc + BitVec.ofNat 64 s.ctx.blen
    let endpc := s.ctx.a.pc + sext f.imm
    let lv := f.fn.getLsbD 0
    if n = 0 then
      let t := afterBundle endpc s
      s.modCtx fun c => { c with next := .own t, a := c.a.setLoop lv { c.a.loopReg lv with act := false } }
    else
      s.modCtx fun c => { c with
        next := .own start
        a := c.a.setLoop lv { start := start.truncate 52, len := (endpc - start).truncate 23, act := true
                              count := n.truncate 32 } }) s

/-- LEXIT (R79). -/
def execLexit (f : CSlot) (s : State) : Host.Outcome State Fault Refusal :=
  gated (.lexit f) .go (fun s =>
    let lv := f.fn.getLsbD 0
    let t := afterBundle (BitVec.ofNat 64 (s.ctx.a.loopReg lv).endAt) s
    s.modCtx fun c => { c with
      next := .own t
      a := if lv then { c.a with lp1 := { c.a.lp1 with act := false } }
           else { c.a with lp0 := { c.a.lp0 with act := false }, lp1 := { c.a.lp1 with act := false } } }) s

/-! ### END, traps, checks, lending -/

/-- END (R85): no further bundle issues; what follows is the end of the issue's cycle and STAGE_INSTANCE_END. -/
def execEndInst (f : CSlot) (s : State) : Host.Outcome State Fault Refusal :=
  gated (.endInst f) .go (fun s => s.modCtx fun c => { c with ending := true }) s

/-- TRAP with SYS = 0 (R352): trap 0x18 with the boundary after the issue; within a bundle's issue it is taken when the
issue is finished (R344). -/
def execTrap (f : CSlot) (s : State) : Host.Outcome State Fault Refusal :=
  gated (.trap f) .go (fun s =>
    let q : TrapReq := { cause := 0x18, info := (f.imm.truncate 16).zeroExtend 64, fslot := 0, before := false }
    if s.foc.pre then s.modCtx fun c => { c with trapEnd := some q } else trapAfter q (advanceHere s)) s

/-- TRAP with SYS = 1 (R352): a service request; `svc` keeps SD and the code. -/
def execTrapSys (f : CSlot) (s : State) : Host.Outcome State Fault Refusal :=
  gated (.trapSys f) .go (fun s =>
    let s := s.modCtx fun c => { c with svc := some (f.sd.toNat, f.imm.toNat % 65536) }
    if s.foc.pre then s else enterService (advanceHere s)) s

/-- ERET outside handler mode traps 0x0A (R353, R346). -/
def ownEret (f : CSlot) (s : State) : Verdict := if s.ctx.hmode then .go else .deny (opInfo (.eret f) 0 0 0 s)

/-- ERET (R353). -/
def execEret (f : CSlot) (s : State) : Host.Outcome State Fault Refusal :=
  gated (.eret f) (ownEret f s) (fun s => s.modCtx fun c => c.returnFrom s.cyc) s

/-- CHK's comparison (R361). -/
def ownChk (f : CSlot) (s : State) : Verdict :=
  let w := widthBits f.w
  if (rdS s f.sa.toNat).toNat % 2 ^ w = (operandB s f).toNat % 2 ^ w then .go
  else .trap 0x0D (BitVec.ofNat 64 ((if f.i = 1#1 then 0 else f.sb.toNat) * 2 ^ 37 + f.sa.toNat * 2 ^ 32
    + s.foc.idx % 64 * 2 ^ 23 + 0x64 * 2 ^ 8))

/-- CHK (R361): no effect when the operands agree. -/
def execChk (f : CSlot) (s : State) : Host.Outcome State Fault Refusal := gated (.chk f) (ownChk f s) (fun s => s) s

/-- BLEND (R212). -/
def execBlend (f : CSlot) (s : State) : Host.Outcome State Fault Refusal :=
  gated (.blend f) .go (fun s => s.modArch fun a => { a with lent := a.lent ||| (1#4 <<< (f.fn.toNat % 4)) }) s

/-- BRET (R212). -/
def execBret (f : CSlot) (s : State) : Host.Outcome State Fault Refusal :=
  gated (.bret f) .go (fun s => s.modArch fun a => { a with lent := a.lent &&& ~~~(1#4 <<< (f.fn.toNat % 4)) }) s

end Sys2Proof.Machine
end

