-- ==== Sys2Proof/Machine/Copy.lean ====
section
/-! DEFINITION. The copy engine: COPY, COPY2D and COPYT (R134 to R136), chunks (R137) and completion (R138); the lines of
MFLUSH (R103). -/

namespace Sys2Proof.Machine

/-! ### Geometry (R134) -/

/-- ROWS and COLS of a copy; a COPY is one row. -/
def copyShape (i : Instr) (f : XSlot) (s : State) : Nat × Nat :=
  let n := (rdS s f.scc.toNat).toNat
  match i with | .copy _ => (1, n) | _ => (n / 2 ^ 32, n % 2 ^ 32)

/-- Source and destination pitch. -/
def copyPitch (i : Instr) (f : XSlot) (s : State) : Int × Int :=
  let p := (rdS s (bits f.imm.toNat 7 3)).toNat
  match i with | .copy _ => (0, 0) | _ => (sintOf 32 (p % 2 ^ 32), sintOf 32 (p / 2 ^ 32))

/-- The command an issue makes; its number is given when it starts. -/
def copyCmd (i : Instr) (f : XSlot) (s : State) : CopyCmd :=
  { id := 0, ctx := s.foc.ctx, inst := s.instHere, ord := s.foc.ord, tag := f.tag.toNat, op := i.opcode.toNat
    mode := f.imm.toNat % 8, fs := f.fs.toNat, fd := f.fd2.toNat, sc := f.sc.toNat, srcH := f.h.toNat
    src := handleOf s f.h.toNat, dstH := f.h2.toNat, dst := handleOf s f.h2.toNat, so := rdS s f.sa.toNat, dofs := rdS s f.sb.toNat
    rows := (copyShape i f s).1, cols := (copyShape i f s).2, spitch := (copyPitch i f s).1, dpitch := (copyPitch i f s).2 }

/-! ### Checks at issue (R135) -/

/-- The first of `n` numbers from `i` on that meets `p`. -/
def firstFrom (p : Nat → Bool) : Nat → Nat → Option Nat
  | 0, _ => none
  | n + 1, i => if p i then some i else firstFrom p n (i + 1)

/-- The first offset that is misaligned, of `n` elements in rows of `cols`. Elements of a row, or of a column for COPYT, lie
an element size apart, so it is the first of all, which a command of no element has too, or the second row's, or the second
column's. -/
def copyMisaligned (n cols size : Nat) (off : Nat → Word) : Option Word :=
  ([0, 1, cols].find? fun i => (decide (i = 0) || decide (i < n)) && decide ((off i).toNat % size ≠ 0)).map off

/-- The first element's offset outside the extent of h0, h1 or h2. -/
def copyOutside (s : State) (h n size : Nat) (off : Nat → Word) : Option Word :=
  if h ≥ 3 then none
  else (firstFrom (fun i => (spPlace s s.foc.core s.lid h (off i).toNat size).isNone) n 0).map off

/-- The first of some findings, as a trap. -/
def trapOn (cause : Nat) : Option Word → Verdict
  | some x => .trap cause x
  | none => .go

/-- The checks of R135 in their order, then the held buffer's and the command queue's room (R138, R366). -/
def ownCopyOp (i : Instr) (f : XSlot) (s : State) : Verdict :=
  let c := copyCmd i f s
  let n := c.count
  let big := match i with
    | .copy _ => decide (c.cols ≥ 2 ^ 32)
    | _ => decide (c.rows ≠ 0) && decide (c.cols ≠ 0) && (decide (c.rows > 65536) || decide (c.cols > 65536))
  let valid (h : Handle) (k : Nat) : Verdict := if h.st ≠ .valid then .trap 9 (BitVec.ofNat 64 k) else .go
  (tagCheck i f.tag.toNat s).orElse <|
  (if big then trap6 i s else .go : Verdict).orElse <|
  (valid c.src f.h.toNat).orElse <|
  (valid c.dst f.h2.toNat).orElse <|
  (if !c.src.rd then .trap 0x0A c.so else .go : Verdict).orElse <|
  (if !c.dst.wr then .trap 0x0A c.dofs else .go : Verdict).orElse <|
  (trapOn 0x0C (copyMisaligned n c.cols (fmtSize c.fs) c.srcOff)).orElse <|
  (trapOn 0x0C (copyMisaligned n c.cols (fmtSize c.fd) c.dstOff)).orElse <|
  (trapOn 8 (copyOutside s f.h.toNat n (fmtSize c.fs) c.srcOff)).orElse <|
  (trapOn 8 (copyOutside s f.h2.toNat n (fmtSize c.fd) c.dstOff)).orElse <|
  (heldCheck i s).orElse <|
  (if s.ctx.seg.isNone && decide (s.core.copyq.length ≥ 32) && decide (n ≠ 0) then .hold 3 else .go)

/-- A copy command starts (R134, R138); one of no element is done in its issue cycle. -/
def copyStart (i : Instr) (f : XSlot) (s : State) : State :=
  let c := copyCmd i f s
  let s := tagStart f.tag.toNat s
  if c.count = 0 then tagComplete s.instHere f.tag.toNat s
  else
    let (id, s) := s.newId
    submit (.copy { c with id := id }) s

/-- COPY (R134). -/
def execCopy (f : XSlot) (s : State) : Host.Outcome State Fault Refusal :=
  gated (.copy f) (ownCopyOp (.copy f) f s) (copyStart (.copy f) f) s

/-- COPY2D (R134). -/
def execCopy2d (f : XSlot) (s : State) : Host.Outcome State Fault Refusal :=
  gated (.copy2d f) (ownCopyOp (.copy2d f) f s) (copyStart (.copy2d f) f) s

/-- COPYT (R134). -/
def execCopyt (f : XSlot) (s : State) : Host.Outcome State Fault Refusal :=
  gated (.copyt f) (ownCopyOp (.copyt f) f s) (copyStart (.copyt f) f) s

/-! ### Chunks (R137) -/

/-- The asynchronous trap a write to a shadowed page raises when the pool of versions is empty (R371): once, until it is
taken. -/
def raiseOnce (i : InstId) (q : TrapReq) (s : State) : State :=
  forInst i (fun c => if (c.pend.any fun p => p.cause = q.cause && p.info = q.info) || c.fwHeld.isSome then c else c.pendTrap q)
    (fun r => if r.pend.any fun p => p.cause = q.cause && p.info = q.info then r else { r with pend := r.pend ++ [q] }) s

/-- An element's place: a scratchpad location, or the page and virtual address; a subcode of R137 when there is none. -/
structure CopyPlace where
  loc  : Loc
  page : Option Handle := none
  va   : Nat := 0
  deriving DecidableEq, Repr

/-- Where an element lies for command `id`, or a lane's job, of the core in focus (R135, R137). -/
def copyPlace (id launch asid hn : Nat) (h : Handle) (write : Bool) (off : Word) (size : Nat) (s : State) :
    Except Nat CopyPlace × State :=
  let miss := if write then 2 else 1
  if hn < 3 then
    match spPlace s s.foc.core launch hn off.toNat size with
    | some (c, a) => (.ok { loc := .sp c a }, s)
    | none => (.error miss, s)
  else
    let va := (BitVec.ofNat 64 h.va + off).toNat
    if va ≥ 2 ^ 52 then (.error miss, s)
    else
      let (p, s) := translateFor (0, id) s.foc.core asid va s
      match p with
      | none => (.error miss, s)
      | some p =>
        if (if write then p.wr else p.rd) then (.ok { loc := .gm (p.phys va), page := some p, va := va }, s)
        else (.error 3, s)

/-- The addresses of command `id`, among those through handles of some offsets, whose translation it has still to wait for: its miss
goes through the hierarchy as an XLT's does, and freezes no core (R328, R329). -/
def placesWait (id asid : Nat) (l : List (Nat × Handle × Word)) (s : State) : List Nat :=
  l.filterMap fun (hn, h, off) =>
    let va := (BitVec.ofNat 64 h.va + off).toNat
    if 3 ≤ hn && missWaits (0, id) s.foc.core asid va s then some va else none

/-- Their misses join those of the device. -/
def placesMiss (id vf asid : Nat) (l : List Nat) (s : State) : State :=
  l.foldl (fun s va => missBegins (0, id) s.foc.core vf asid va s) s

/-- Whether two elements lie in one page; a scratchpad window counts as one (R137). -/
def CopyPlace.samePage (a b : CopyPlace) : Bool := decide (a.page = b.page)

/-- Whether a page overlaps a range of virtual addresses shot down (R330). -/
def pageCut (cut : List (Nat × Nat)) (p : Option Handle) : Bool :=
  match p with
  | none => false
  | some h => cut.any fun r => decide (r.1 < h.va + pageBytes h.psz) && decide (h.va < r.2)

/-- Whether `n` bytes of virtual addresses through a handle lie in a range shot down, whatever still maps them (R330). -/
def vaCut (cut : List (Nat × Nat)) (hn : Nat) (h : Handle) (off : Word) (n : Nat) : Bool :=
  let va := (BitVec.ofNat 64 h.va + off).toNat
  decide (3 ≤ hn) && cut.any fun r => decide (r.1 < va + n) && decide (va < r.2)

/-- The banks of some places of `n` bytes each (R90). -/
def placeBanks (ls : List Loc) (n : Nat) : List (Nat × Nat) :=
  (ls.flatMap fun l => match l with | .sp c a => spBanks c a n | .gm _ => []).eraseDups

/-- The handles and offsets of element `i`'s two ends. -/
def CopyCmd.ends (c : CopyCmd) (i : Nat) : List (Nat × Handle × Word) :=
  [(c.srcH, c.src, c.srcOff i), (c.dstH, c.dst, c.dstOff i)]

/-- The places of the elements from `i` on that form one chunk; `fuel` bounds their number. -/
def chunkPlaces (c : CopyCmd) (asid : Nat) (s0 d0 : CopyPlace) : Nat → Nat → State →
    List (Nat × CopyPlace × CopyPlace) × State
  | 0, _, s => ([], s)
  | fuel + 1, i, s =>
   if placesWait c.id asid (c.ends i) s ≠ [] then ([], s)
   else
    let (a, s) := copyPlace c.id c.inst.launch asid c.srcH c.src false (c.srcOff i) (fmtSize c.fs) s
    let (b, s) := copyPlace c.id c.inst.launch asid c.dstH c.dst true (c.dstOff i) (fmtSize c.fd) s
    match a, b with
    | .ok a, .ok b =>
      if a.samePage s0 && b.samePage d0 then
        let (r, s) := chunkPlaces c asid s0 d0 fuel (i + 1) s
        ((i, a, b) :: r, s)
      else ([], s)
    | _, _ => ([], s)

/-- Address and space of a place: whether byte `j` from `l` is a byte of the `n` from `m`. -/
def Loc.within (l : Loc) (j : Nat) (m : Loc) (n : Nat) : Bool :=
  match l, m with
  | .sp c a, .sp d b => decide (c = d) && decide (b ≤ a + j) && decide (a + j < b + n)
  | .gm a, .gm b => decide (b ≤ a + j) && decide (a + j < b + n)
  | _, _ => false

/-- The place `j` bytes on. -/
def Loc.plus (l : Loc) (j : Nat) : Loc := match l with | .sp c a => .sp c (a + j) | .gm a => .gm (a + j)

/-- Places of the source elements of a command. -/
def CopyCmd.sources (c : CopyCmd) (asid : Nat) (s : State) : List Loc :=
  (List.range c.count).filterMap fun i =>
    match (copyPlace c.id c.inst.launch asid c.srcH c.src false (c.srcOff i) (fmtSize c.fs) s).1 with
    | .ok p => some p.loc
    | .error _ => none

/-- What stands for a copy element when it is read or written. -/
def copyAccess (c : CopyCmd) (key : Nat) : Access :=
  { id := c.id, ctx := c.ctx, ord := c.ord, path := .copy, kind := .load, els := [], key := key, launch := c.inst.launch }

/-- The key of a place's page. -/
def CopyPlace.key (p : CopyPlace) : Nat := match p.page with | some h => h.key | none => 0

/-- A source element's bytes: those the command has overwritten as they stood before (R138). -/
def copyRead (c : CopyCmd) (ver : Option Nat) (vf : Nat) (p : CopyPlace) (s : State) : Nat × State :=
  let n := fmtSize c.fs
  let (x, s) := elemRead (copyAccess c p.key) ver vf { loc := p.loc, size := n } s
  (packElems 8 ((List.range n).map fun j =>
    match c.olds.find? fun o => o.1 = p.loc.plus j with
    | some o => o.2
    | none => elemOf x j 8), s)

/-- An element converted (R136); equal formats move bytes. -/
def CopyCmd.convert (c : CopyCmd) (x : Nat) : Nat :=
  if c.fs = c.fd then x else convertF c.fs c.fd (c.mode % 4) (bit c.mode 2) x

/-- A destination element written; bytes that are source bytes too become unpredictable (R138). -/
def copyWrite (c : CopyCmd) (srcs : List Loc) (ver : Option Nat) (vf key : Nat) (p : CopyPlace) (x : Nat)
    (acc : List (Loc × Nat) × State) : List (Loc × Nat) × State :=
  let (olds, s) := acc
  let n := fmtSize c.fd
  let clash (j : Nat) : Bool := srcs.any fun l => p.loc.within j l (fmtSize c.fs)
  let was (j : Nat) : Nat := match p.loc with
    | .sp d a => ((s.coreAt d).sp.byte (a + j)).toNat
    | .gm a => (lowRead ver (a + j) 1 p.key vf s).1
  let new := (List.range n).filterMap fun j =>
    if clash j && !(olds.any fun o => o.1 = p.loc.plus j) then some (p.loc.plus j, was j) else none
  let v := packElems 8 ((List.range n).map fun j =>
    if clash j then (Config.freeWord (key + 2 ^ 32 * j)).toNat % 256 else elemOf x j 8)
  (olds ++ new, elemWrite (copyAccess c p.key) ver vf { loc := p.loc, size := n } v s)

/-- A command of the core in focus changed. -/
def setCopy (id : Nat) (g : CopyCmd → CopyCmd) (s : State) : State :=
  s.modCore fun k => { k with copyq := k.copyq.map fun c => if c.id = id then g c else c }

/-- A command of the core in focus leaves the engine. -/
def dropCopy (id : Nat) (s : State) : State :=
  missesLeave (0, id) (s.modCore fun k => { k with copyq := k.copyq.filter fun c => c.id ≠ id })

/-- A copy fault (R137): trap 0x11. -/
def copyFault (c : CopyCmd) (sub : Nat) (s : State) : State :=
  tagFault c.inst c.tag 0x11 (BitVec.ofNat 64 (c.done * 2 ^ 32 + c.tag * 2 ^ 16 + c.op * 256 + sub)) (dropCopy c.id s)

/-- The version the accesses of a launch see. -/
def launchVer (s : State) (l : Nat) : Option Nat :=
  match s.launchAt l with | some x => if x.rc.shadow then some l else none | none => none

/-- Function and address space of a launch. -/
def launchVf (s : State) (l : Nat) : Nat := ((s.launchAt l).map (·.vf)).getD 0
def launchAs (s : State) (l : Nat) : Nat := ((s.launchAt l).map (·.asid)).getD 0

/-- Whether an A-slot read of an issue is still to perform: no write of that issue performs before it (R145). -/
def readsLeft (ctx : Nat) (inst : InstId) (ord : Nat) (s : State) : Bool :=
  let c := s.core.ctxAt ctx
  decide (c.inst = some inst)
    && ((s.core.waiting.any fun a => decide (a.ctx = ctx) && decide (a.ord / 8 = ord / 8)
          && match a.kind with | .load | .amo _ _ _ => true | _ => false)
      || c.starts.any fun e => decide (e.ord / 8 = ord / 8) && decide (e.op.slot? = some .a))

/-- The lines of the core's L1 among some places: a copy engine reads and writes behind the L1 of its own core, which is in its
scope CORE, so that those lines leave first (R144, R164, R165). -/
def linesHere (ls : List Loc) (n : Nat) (k : Core) : List L1Line :=
  k.l1.filter fun y => ls.any fun l => match l with | .gm a => (linesOf a n).contains y.pa | .sp _ _ => false

/-- Lines of the L1 of the core in focus written back and dropped. -/
def dropLines (l : List L1Line) (s : State) : State :=
  l.foldl (fun s y => l1Drop s.foc.core y (l1WriteBack s.foc.core y s)) s

/-- Whether some places are in the host window. -/
def hostPlaces (l : List Loc) : Bool := l.any fun x => match x with | .gm a => inHost a | .sp _ _ => false

/-- The elements of a chunk moved: its sources read and converted, its destinations written in element order, so that of two elements
that write one byte the later stays (DESIGN CHOICE, log 95). -/
def moveChunk (c : CopyCmd) (ver : Option Nat) (vf : Nat) (els : List (Nat × CopyPlace × CopyPlace)) (s : State) : State :=
  let srcs := c.sources (launchAs s c.inst.launch) s
  let (data, s) := els.foldl (fun (acc, s) e =>
    let (x, s) := copyRead c ver vf e.2.1 s
    (acc ++ [(e.2.2, c.convert x)], s)) (([] : List (CopyPlace × Nat)), s)
  let (key, s) := s.fresh
  let (olds, s) := data.zipIdx.foldl (fun acc e =>
    copyWrite c srcs ver vf (key + 2 ^ 40 * e.2) e.1.1 e.1.2 acc) (c.olds, s)
  missesLeave (0, c.id) (setCopy c.id (fun c => { c with done := c.done + els.length, olds := olds, since := s.dev.base }) s)

/-- A chunk whose pages have translated moves, unless it waits: for an A-slot read of its issue (R145), for L1 lines, for its banks
(R90), for the CXL port (R382). Of a HOST-path access whose timeout has run out a read brings poisoned data, which stops the command,
and a write is dropped and counted (R383). -/
def doChunk (c : CopyCmd) (els : List (Nat × CopyPlace × CopyPlace)) (s : State) : State :=
  let vf := launchVf s c.inst.launch
  let ver := launchVer s c.inst.launch
  let srcLocs := els.map fun e => e.2.1.loc
  let dstLocs := els.map fun e => e.2.2.loc
  let mine := linesHere srcLocs (fmtSize c.fs) s.core ++ linesHere dstLocs (fmtSize c.fd) s.core
  let banks := (placeBanks srcLocs (fmtSize c.fs) ++ placeBanks dstLocs (fmtSize c.fd)).eraseDups
  let late := s.hostLate vf c.since
  if (srcLocs.any fun l => match l with | .sp d x => badSp s d x (fmtSize c.fs) | .gm x => badGlobal s x (fmtSize c.fs))
      || (late && hostPlaces srcLocs) then copyFault c 5 s
  else if late && hostPlaces dstLocs then
    missesLeave (0, c.id) ((setCopy c.id (fun c => { c with done := c.done + els.length, since := s.dev.base }) s).modDev fun d =>
      { d with linkErr := d.linkErr + 1 })
  else
    match els.find? fun e => match e.2.2.loc with | .gm x => poolEmpty s ver x | .sp _ _ => false with
    | some e => raiseOnce c.inst (asyncTrap 0x0B (BitVec.ofNat 64 e.2.2.va ||| BitVec.ofNat 64 (2 ^ 63))) s
    | none =>
      if readsLeft c.ctx c.inst c.ord s || !mine.all (mayLeave s.core) || !allFree true banks s
          || (hostPlaces (srcLocs ++ dstLocs) && !s.hostUp) then s
      else moveChunk c ver vf els (takeBanks true banks (keepOldFor c.inst c.ctx c.ord (dropLines mine s)))

/-- The next chunk of a command (R137): its pages translate first, waiting inside the command for a miss (R328). -/
def runChunk (c : CopyCmd) (s : State) : State :=
  let l := c.inst.launch
  let asid := launchAs s l
  let wait := placesWait c.id asid (c.ends c.done) s
  if c.src.st = .revoked || vaCut c.cut c.srcH c.src (c.srcOff c.done) (fmtSize c.fs)
      || vaCut c.cut c.dstH c.dst (c.dstOff c.done) (fmtSize c.fd) then copyFault c 4 s
  else if wait ≠ [] then placesMiss c.id (launchVf s l) asid wait s
  else
    let (a, s) := copyPlace c.id l asid c.srcH c.src false (c.srcOff c.done) (fmtSize c.fs) s
    let (b, s) := copyPlace c.id l asid c.dstH c.dst true (c.dstOff c.done) (fmtSize c.fd) s
    match a, b with
    | .error e, _ => copyFault c e s
    | _, .error e => copyFault c e s
    | .ok a, .ok b =>
      if pageCut c.cut a.page || pageCut c.cut b.page then copyFault c 4 s
      else
        let (els, s) := chunkPlaces c asid a b (c.count - c.done) c.done s
        doChunk c els s

/-- COPY_CHUNK (R137): the command in focus moves one chunk, or stops with its copy fault. -/
def execCopyChunk (s : State) : Host.Outcome State Fault Refusal :=
  match s.core.copyq.find? fun c => c.id = s.foc.id with
  | some c => if c.done < c.count then .next (runChunk c s) else .next s
  | none => .next s

/-- COPY_COMPLETE (R138): a command whose writes have all performed makes its tag DONE. -/
def execCopyComplete (s : State) : Host.Outcome State Fault Refusal :=
  match s.core.copyq.find? fun c => c.id = s.foc.id with
  | some c => if c.done = c.count then .next (tagComplete c.inst c.tag (dropCopy c.id s)) else .next s
  | none => .next s

/-! ### MFLUSH and the flush command (R103, R388) -/

/-- One line treated under a key; a line held under another key is not its line. DESIGN CHOICE (log 49): the lines of
firmware's flush command count in counter 5 too, under function 0 (R104). -/
def flushLine (op key vf pa : Nat) (byKey : Bool) (d : Dev) : Dev :=
  let mineL2 := match findLine d.l2 pa with | some c => decide (c.key = key) || !byKey | none => false
  let d := if mineL2 && (op = 1 || op = 3) then l2Flush pa vf d else d
  let d := if mineL2 && (op = 2 || op = 3) then l2Drop pa d else d
  let mineMere := match findLine d.mere pa with | some c => decide (c.key = key) | none => false
  let d := if mineMere && (op = 1 || op = 3) then mereFlush pa vf d else d
  let d := if mineMere && (op = 2 || op = 3) then mereDrop pa d else d
  countMere pa vf 5 d

/-- The first line of a range treated. -/
def flushFirst (c : FlushCmd) (d : Dev) : Dev := if inHBM c.pa then flushLine c.op c.key c.vf c.pa c.inst.isNone d else d

/-- MFLUSH_COMPLETE (R103): the command in focus treats its next line whole; after the last one its tag is DONE. -/
def execMflushComplete (s : State) : Host.Outcome State Fault Refusal :=
  match s.core.flushq.find? fun c => c.id = s.foc.id with
  | none => .next s
  | some c =>
    let s := s.modDev (flushFirst c)
    if c.len > 128 then
      .next (s.modCore fun k => { k with flushq := k.flushq.map fun x =>
        if x.id = c.id then { x with pa := x.pa + 128, len := x.len - 128 } else x })
    else
      let s := s.modCore fun k => { k with flushq := k.flushq.filter fun x => x.id ≠ c.id }
      match c.inst with
      | some i => .next (tagComplete i c.tag s)
      | none => .next s

end Sys2Proof.Machine
end

