-- ==== Sys2Proof/Machine/Transducer.lean ====
section
/-! DEFINITION. Transducer lanes: decoding tables (R258, R259, R264), coded blocks (R260 to R262), chunks (R263), XDT, XDS
and XDQ (R264 to R266), faults (R267). -/

namespace Sys2Proof.Machine

/-! ### Reading the source (R264, R265) -/

/-- What stands for a word of a job when it is read or written. -/
def jobAccess (j : Job) (key : Nat) : Access :=
  { id := j.id, ctx := j.ctx, ord := j.ord, path := .xduce, kind := .load, els := [], key := key, launch := j.inst.launch }

/-- One word of a job's source, or the subcode of R267. -/
def jobWord (j : Job) (off : Nat) (s : State) : Except Nat Nat × State :=
  let l := j.inst.launch
  if j.src.st = .revoked || vaCut j.cut j.srcH j.src (j.so + BitVec.ofNat 64 off) 4 then (.error 6, s)
  else
    let (p, s) := copyPlace j.id l (launchAs s l) j.srcH j.src false (j.so + BitVec.ofNat 64 off) 4 s
    match p with
    | .error e => (.error (if e = 3 then 5 else 4), s)
    | .ok p =>
      let bad := match p.loc with | .sp c a => badSp s c a 4 | .gm a => badGlobal s a 4
      if pageCut j.cut p.page then (.error 6, s)
      else if bad then (.error 7, s)
      else
        let (x, s) := elemRead (jobAccess j p.key) (launchVer s l) (launchVf s l) { loc := p.loc, size := 4 } s
        (.ok x, s)

/-- The addresses of `n` words of a job's source from `off` on whose translations it has still to wait for (R328). -/
def jobMisses (j : Job) (off n : Nat) (s : State) : List Nat :=
  placesWait j.id (launchAs s j.inst.launch) ((List.range n).map fun i => (j.srcH, j.src, j.so + BitVec.ofNat 64 (off + 4 * i))) s

/-- The first of those words that is read over the HOST path (R101). -/
def jobHost (j : Job) (off n : Nat) (s : State) : Option Nat :=
  (List.range n).find? fun i =>
    let va := (BitVec.ofNat 64 j.src.va + (j.so + BitVec.ofNat 64 (off + 4 * i))).toNat
    decide (3 ≤ j.srcH) && match tlbHit s.foc.core (launchAs s j.inst.launch) va s with | some h => inHost h.pa | none => false

/-- A job goes on by `g` once nothing keeps it from reading `n` words of its source from `off` on: a miss that it waits for (R328), the
CXL port (R382). Where a HOST-path read has run out of its time, counted from when the lane had done what went before, `late` goes on
with the number of words before it: that read brings poisoned data (R383). -/
def readingJob (j : Job) (off n : Nat) (late : Nat → State → State) (g : State → State) (s : State) : State :=
  let vf := launchVf s j.inst.launch
  match jobMisses j off n s with
  | va :: _ => placesMiss j.id vf (launchAs s j.inst.launch) [va] s
  | [] =>
    match jobHost j off n s with
    | none => g s
    | some i => if s.hostLate vf (j.free / 8) then late i s else if s.hostUp then g s else s

/-- `n` words of a job's source from `off` on. -/
def jobWords (j : Job) (off : Nat) : Nat → State → Except Nat (List Nat) × State
  | 0, s => (.ok [], s)
  | n + 1, s =>
    match jobWord j off s with
    | (.error e, s) => (.error e, s)
    | (.ok x, s) =>
      match jobWords j (off + 4) n s with
      | (.error e, s) => (.error e, s)
      | (.ok r, s) => (.ok (x :: r), s)

/-- The words of a job's source from `off` on that can be read, at most `n` of them. -/
def firstWords (j : Job) (off : Nat) : Nat → State → List Nat
  | 0, _ => []
  | n + 1, s =>
    match jobWord j off s with
    | (.error _, _) => []
    | (.ok x, s) => x :: firstWords j (off + 4) n s

/-! ### Tables (R258, R259) -/

/-- Fields of a dispatch entry (R259). -/
def enNext (e : Nat) : Nat := bits e 31 22
def enUse (e : Nat) : Nat := bits e 21 19
def enNem (e : Nat) : Nat := bits e 18 17
def enBad (e : Nat) : Bool := bit e 16

/-- Whether XDT accepts an entry (R259). -/
def entryOk (sw nstate e : Nat) : Bool :=
  enBad e || (decide (enNext e < nstate) && decide (enUse e ≤ 4) && decide (enNem e ≠ 3)
    && !(decide (enUse e = 0) && decide (enNem e = 0)) && decide (bits e 15 12 = 0)
    && (decide (enNem e = 0) || decide (bits e 5 0 < 2 ^ sw)) && (decide (enNem e ≠ 2) || decide (bits e 11 6 < 2 ^ sw)))

/-- Whether a table image's first 16 bytes are good (R258). -/
def tableHeadOk (w : List Nat) : Bool :=
  let h := w.headD 0
  decide (bits h 31 14 = 0) && decide (1 ≤ bits h 13 11) && decide (bits h 13 11 ≤ 6) && decide (1 ≤ bits h 10 0)
    && decide (bits h 10 0 ≤ 1024) && (w.drop 1).all (· = 0)

/-! ### Blocks (R260 to R262) -/

/-- One bit of the CRC-32C register's shift (R262). -/
def crcBit (c : Nat) : Nat := if c % 2 = 1 then c / 2 ^^^ 0x82F63B78 else c / 2

/-- The CRC register after a byte. -/
def crcByte (c b : Nat) : Nat := (List.range 8).foldl (fun c _ => crcBit c) (c ^^^ b)

/-- CRC-32C of bytes (R262); R380 prints that of its blocks with the bytes in the other order (DEDUCED, log 107). -/
def crc32c (l : List Nat) : Nat := l.foldl crcByte 0xFFFFFFFF ^^^ 0xFFFFFFFF

/-- The bytes of 32-bit words. -/
def wordBytes (l : List Nat) : List Nat := l.flatMap fun w => (List.range 4).map fun i => elemOf w i 8

/-- Bits b of an index: SW of a block header. -/
def bhSW (h : List Nat) : Nat := bits (h.getD 3 0) 7 5

/-- The format test of a block's header (R260, R261). -/
def headOk (h : List Nat) : Bool :=
  let rlen := h.getD 2 0
  let w := h.getD 3 0
  decide (h.getD 0 0 = 0x4B445842) && decide (h.getD 1 0 ≤ 2 ^ 20) && decide (1 ≤ rlen) && decide (rlen ≤ 65536)
    && decide (bits w 31 16 = (rlen + 127) / 128) && decide (1 ≤ bhSW h) && decide (bhSW h ≤ 6)
    && (!bit w 4 || (decide (2 ≤ bhSW h) && decide (bhSW h ≤ 4))) && decide (bits w 15 8 = 0) && (h.drop 5).all (· = 0)

/-- How the decoding of a block ends: well, with a format fault, or at a word that cannot be read. -/
inductive BlockEnd where
  | well | format | unread
  deriving DecidableEq, Repr

/-- A block whose symbols have all been emitted ends well where its coded bits end. -/
def BlockEnd.at (pos clen : Nat) : BlockEnd := if pos = clen then .well else .format

/-- The state steps of R261: the symbols emitted, and how the block ends. `coded` is 0 from bit CLEN on; the bits from `avail` on
cannot be read (R265). -/
def decodeSteps (tab : DTable) (coded clen rlen avail : Nat) : (fuel state pos : Nat) → List Nat → List Nat × BlockEnd
  | 0, _, pos, out => (out, .at pos clen)
  | fuel + 1, state, pos, out =>
    if rlen ≤ out.length then (out, .at pos clen)
    else if avail < min clen (pos + 4) then (out, .unread)
    else
      let e := tab.entries.getD (16 * state + bits coded (pos + 3) pos) 0
      if enBad e || decide (clen < pos + enUse e) || decide (rlen < out.length + enNem e) then (out, .format)
      else decodeSteps tab coded clen rlen avail fuel (enNext e) (pos + enUse e)
        (out ++ [bits e 5 0, bits e 11 6].take (enNem e))

/-- A decoded block: its words by chunk, and the fault that follows them (R261 to R263); `lack` gives the fault of the first word
that cannot be read, and the words before it (R265). -/
def blockUpTo (lack : Option (Nat × Nat)) (j : Job) (h : List Nat) (tab : DTable) (coded : Nat) (tables : List Nat) :
    List (Nat × Nat × BitVec 32) × Nat × Nat × Nat :=
  let clen := h.getD 1 0
  let rlen := h.getD 2 0
  let sw := bhSW h
  let avail := match lack with | some (_, n) => min clen (32 * n) | none => clen
  let (syms, ending) := decodeSteps tab (coded % 2 ^ clen) clen rlen avail (clen + rlen + 1) 0 0 []
  let nw := (rlen * sw + 31) / 32
  let stream := packElems sw syms
  let words := (List.range nw).map fun i => elemOf stream i 32
  let good := decide (ending = .well) && lack.isNone && decide (crc32c (wordBytes (words ++ tables)) = h.getD 4 0)
  let nch := (nw + 127) / 128
  let whole := if good then nch else min (nch - 1) (syms.length * sw / 4096)
  let idx := (List.range (min nw (128 * whole))).map fun i =>
    (j.c0 + i / 128, j.io + j.iw + 4 * i, BitVec.ofNat 32 (words.getD i 0))
  let tb := if good then tables.zipIdx.map fun (w, i) => (j.c0 + nch - 1, j.tabo + j.tw + 4 * i, BitVec.ofNat 32 w) else []
  ((idx ++ tb).filter fun x => decide (j.chunk ≤ x.1), if good then 0 else if ending = .format then 3 else (lack.map Prod.fst).getD 1, nch, 4 * nw)

/-! ### Jobs -/

/-- A job on a lane changed. -/
def setJob (id : Nat) (g : Job → Job) (s : State) : State :=
  s.modDev fun d => { d with jobs := d.jobs.map fun j => if j.id = id then g j else j }

/-- A job has left its lane: the next one begins there no earlier (R256, R257). -/
def leaveLane (j : Job) (s : State) : State :=
  s.modDev fun d => { d with jobs := d.jobs.map fun x =>
    if !x.isXdt && x.lane = j.lane then { x with free := max x.free (8 * d.base) } else x }

/-- A job stops with the fault `sub` (R267). -/
def jobFault (j : Job) (sub : Nat) (s : State) : State :=
  leaveLane j <| tagFault j.inst j.tag 0x10 (BitVec.ofNat 64 (j.chunk % 2 ^ 32 * 2 ^ 32 + j.blk * 2 ^ 22 + j.tag * 2 ^ 16
      + (if j.isXdt then 0x10 else 0x11) * 256 + sub))
    (missesLeave (0, j.id) (setJob j.id (fun x => { x with st := .faulted, sub := sub, out := [], mid := false, tid := none }) s))

/-- A block's words have been written: its fault, or the next block. -/
def blockDone (id : Nat) (s : State) : State :=
  match s.dev.jobs.find? fun j => j.id = id with
  | none => s
  | some j =>
    if j.out ≠ [] then s
    else if j.sub ≠ 0 then jobFault j j.sub s
    else setJob id (fun j => { j with blk := j.blk + 1, free := max j.free (8 * s.dev.base), pos := j.next.1, c0 := j.next.2.1, iw := j.next.2.2.1
                                      tw := j.next.2.2.2, tid := none
                                      chunk := max j.chunk j.next.2.1 }) s

/-- The job that the focus names. -/
def State.job? (s : State) : Option Job := s.dev.jobs.find? fun j => j.id = s.foc.id

/-- The launch's XDT that waits to replace a slot (R264). -/
def slotWaits (l slot : Nat) (s : State) : Bool :=
  s.dev.jobs.any fun x => x.isXdt && decide (x.inst.launch = l) && decide (x.slot = slot) && decide (x.st = .waiting)

/-- JOB_DISPATCH (R257): the oldest job of the core in focus leaves its queue for a lane of the device's choice. -/
def execJobDispatch (s : State) : Host.Outcome State Fault Refusal :=
  match s.core.jobq with
  | [] => .next s
  | j :: r =>
    let (n, s) := s.fresh
    .next ((s.modCore fun k => { k with jobq := r }).modDev fun d =>
      { d with jobs := d.jobs ++ [{ j with lane := Config.choice n % 1024, st := .queued, free := 8 * d.base }] })

/-- Whether a job takes part on the lane of job `j`. -/
def Job.onLaneOf (x j : Job) : Bool :=
  decide (x.id ≠ j.id) && !x.isXdt && x.live && decide (x.st ≠ .suspended) && decide (x.lane = j.lane)

/-- Whether a job of the device waits on its lane (R256, R257): for one that runs there, and before it has begun for every job that
was dispatched there earlier. -/
def laneBusy (j : Job) (l : List Job) : Bool :=
  (l.any fun x => x.onLaneOf j && x.begun) || (!j.begun && (l.takeWhile fun x => x.id ≠ j.id).any fun x => x.onLaneOf j)

/-- Whether the scheduler has suspended a launch: some instance is saved and none is bound (R289). -/
def Launch.suspended (l : Launch) : Bool :=
  (l.insts.any fun r => r.st = .saved) && !(l.insts.any fun r => match r.st with | .bound _ _ => true | _ => false)

/-- Whether a job's launch is suspended. -/
def jobParked (j : Job) (s : State) : Bool := match s.launchAt j.inst.launch with | some l => l.suspended | none => false

/-- Whether a job may go on now: one of a suspended launch stops at its chunk boundary (R263). -/
def Job.mayGo (j : Job) (s : State) : Bool := j.mid || !jobParked j s

/-- The base-die cycles that a lane takes at the least for a job's next block (R256): 16 bytes of it are read in a cycle, and 32 state
steps made, each of which uses up to 4 bits and emits up to 2 symbols. -/
def blockCost (j : Job) (s : State) : Nat :=
  match (jobWords j j.pos 8 (s.focusOn j.core j.ctx)).1 with
  | .error _ => 0
  | .ok h =>
    if !headOk h then 2
    else
      let nt := if bit (h.getD 3 0) 4 then bits (h.getD 3 0) 31 16 * 2 ^ bhSW h / 2 else 0
      let bytes := 32 + 4 * ((h.getD 1 0 + 31) / 32 + nt)
      let steps := max ((h.getD 1 0 + 3) / 4) ((h.getD 2 0 + 1) / 2)
      max ((bytes + 15) / 16) ((steps + 31) / 32)

/-- Whether the lane has had the time to read and decode a job's next block, or to write its next word, 8 in a cycle (R256). -/
def mayDecode (j : Job) (s : State) : Bool := decide (j.free / 8 + blockCost j s ≤ s.dev.base)
def mayWrite (j : Job) (s : State) : Bool := decide (j.free / 8 ≤ s.dev.base)

/-- A job that runs on its lane. -/
def Job.run (j : Job) : Job := { j with st := .running, begun := true }

/-- A block's words to write, and where the next block lies. -/
def Job.take (tid last ob nt : Nat) (out : List (Nat × Nat × BitVec 32)) (sub nch : Nat) (j : Job) : Job :=
  { j with out := out, sub := sub, tid := some tid, next := ((last + 15) / 16 * 16, j.c0 + nch, j.iw + ob, j.tw + 4 * nt) }

/-- A block's words as far as they can be read, of which `lack` says the fault and the words before it. -/
def decodeUpTo (lack : Option (Nat × Nat)) (j : Job) (h : List Nat) (tab : DTable) (nc nt : Nat) (w : List Nat) (s : State) : State :=
  let (out, sub, nch, ob) := blockUpTo lack j h tab (packElems 32 (w.take nc)) (if lack.isSome then [] else w.drop nc)
  missesLeave (0, j.id) (blockDone j.id (setJob j.id (Job.take (bits (h.getD 3 0) 3 0) (j.pos + 32 + 4 * (nc + nt)) ob nt out sub nch) s))

/-- The rest of a block after its header is read and decoded. -/
def decodeRest (j : Job) (h : List Nat) (tab : DTable) (s : State) : State :=
  let nc := (h.getD 1 0 + 31) / 32
  let nt := if bit (h.getD 3 0) 4 then bits (h.getD 3 0) 31 16 * 2 ^ bhSW h / 2 else 0
  let upTo (e : Nat) (w : List Nat) : State → State := decodeUpTo (some (e, w.length)) j h tab nc nt w
  readingJob j (j.pos + 32) (nc + nt) (fun i s => upTo 7 ((firstWords j (j.pos + 32) (nc + nt) s).take i) s)
    (fun s => match jobWords j (j.pos + 32) (nc + nt) s with
      | (.error e, s') => upTo e (firstWords j (j.pos + 32) (nc + nt) s) s'
      | (.ok w, s) => decodeUpTo none j h tab nc nt w s) s

/-- A block's header has been read (R260). -/
def decodeHead (j : Job) (h : List Nat) (s : State) : State :=
  let tid := bits (h.getD 3 0) 3 0
  if !headOk h then jobFault j 3 s
  else if slotWaits j.inst.launch tid s then s
  else
    match (s.launchAt j.inst.launch).bind fun l => l.dtabs.find? tid with
    | none => jobFault j 2 s
    | some tab => if tab.sw ≠ bhSW h then jobFault j 2 s else decodeRest j h tab s

/-- BLOCK_DECODE (R261): the lane reads and decodes the job's next block. -/
def execBlockDecode (s : State) : Host.Outcome State Fault Refusal :=
  match s.job? with
  | none => .next s
  | some j =>
    if j.isXdt || !(decide (j.st = .queued) || decide (j.st = .running)) || decide (j.out ≠ []) || decide (j.nblk ≤ j.blk)
        || laneBusy j s.dev.jobs || !j.mayGo s || !mayDecode j s then .next s
    else
      let s := setJob j.id Job.run (s.focusOn j.core j.ctx)
      let j := j.run
      .next (readingJob j j.pos 8 (fun _ s => jobFault j 7 s)
        (fun s => match jobWords j j.pos 8 s with
          | (.error e, s) => jobFault j e s
          | (.ok h, s) => decodeHead j h s) s)

/-- CHUNK_WRITE (R263): the job's next word is written and set FULL, once its word is EMPTY; the bank tests and changes it when no
access of a higher row takes it (R90, R92). -/
def execChunkWrite (s : State) : Host.Outcome State Fault Refusal :=
  match s.job? with
  | none => .next s
  | some j =>
    if !(decide (j.st = .running) || decide (j.st = .waiting)) || !j.mayGo s
        || !mayWrite j s || readsLeft j.ctx j.inst j.ord (s.focusOn j.core j.ctx) then .next s
    else
      match j.out with
      | [] => .next s
      | (c, off, w) :: r =>
        match spPlace s j.core j.inst.launch j.dstH (BitVec.ofNat 64 off).toNat 4 with
        | none => .next (jobFault j 8 s)
        | some (d, a) =>
          let b := (d, lineOf a)
          if !bankFree true b s then .next s
          else if (s.coreAt d).full a then .next (setJob j.id (fun j => { j with st := .waiting }) (takeBank true b s))
          else
            let more := r.any fun x => x.1 = c
            let old := keepOldFor j.inst j.ctx j.ord (s.focusOn j.core j.ctx)
            let s := takeBank true b (spSetFull d a true (spoilPonds d a 4 (spWrite d a 4 w.toNat { old with foc := s.foc })))
            .next (blockDone j.id (setJob j.id (fun j => { j with
              st := .running, free := max j.free (8 * s.dev.base) + 1, out := r, mid := more, chunk := if more then j.chunk else c + 1 }) s))

/-- JOB_COMPLETE (R265). -/
def execJobComplete (s : State) : Host.Outcome State Fault Refusal :=
  match s.job? with
  | none => .next s
  | some j =>
    if j.isXdt || decide (j.st ≠ .running) || decide (j.out ≠ []) || decide (j.blk < j.nblk) then .next s
    else .next (leaveLane j (tagComplete j.inst j.tag (setJob j.id (fun j => { j with st := .done }) s)))

/-- JOB_SUSPEND (R263): at a chunk boundary, the job of a suspended launch stops; the block's words still to come are
decoded again later. -/
def execJobSuspend (s : State) : Host.Outcome State Fault Refusal :=
  match s.job? with
  | none => .next s
  | some j =>
    if !j.isXdt && jobParked j s && !j.mid && j.live && j.begun && decide (j.st ≠ .suspended) then
      .next (leaveLane j (setJob j.id (fun j => { j with st := .suspended, out := [], sub := 0, tid := none }) s))
    else .next s

/-- JOB_RESUMPTION (R263): the job decodes its current block again and writes nothing before the saved chunk. -/
def execJobResumption (s : State) : Host.Outcome State Fault Refusal :=
  match s.job? with
  | none => .next s
  | some j =>
    if decide (j.st = .suspended) && !jobParked j s && !laneBusy j s.dev.jobs then .next (setJob j.id (fun j => { j with st := .running }) s)
    else .next s

/-- A launch's table slot written, or left not VALID. -/
def setTable (l slot : Nat) (t : Option DTable) (s : State) : State :=
  s.modLaunch l fun x => { x with dtabs := match t with | some t => x.dtabs.set slot t | none => Map.drop x.dtabs slot }

/-- A rejected or unreadable image (R264). -/
def tableFault (j : Job) (sub : Nat) (s : State) : State := jobFault j sub (setTable j.inst.launch j.slot none s)

/-- A table image's entries have been read and are checked and placed (R264). -/
def tablePlace (j : Job) (sw n : Nat) (w : List Nat) (s : State) : State :=
  if w.all (entryOk sw n) then
    missesLeave (0, j.id) (tagComplete j.inst j.tag (setJob j.id (fun j => { j with st := .done })
      (setTable j.inst.launch j.slot (some { sw := sw, entries := w }) s)))
  else tableFault j 2 s

/-- A table image's first words have been read: its entries are read. -/
def tableRest (j : Job) (h : List Nat) (s : State) : State :=
  let n := bits (h.headD 0) 10 0
  if !tableHeadOk h then tableFault j 2 s
  else
    readingJob j 16 (16 * n) (fun _ s => tableFault j 7 s)
      (fun s => match jobWords j 16 (16 * n) s with
        | (.error e, s) => tableFault j e s
        | (.ok w, s) => tablePlace j (bits (h.headD 0) 13 11) n w s) s

/-- XDT_COMPLETE (R264): once no block of the launch is decoded with the slot, the table is read, checked and placed. -/
def execXdtComplete (s : State) : Host.Outcome State Fault Refusal :=
  match s.job? with
  | none => .next s
  | some j =>
    if !j.isXdt || !j.live then .next s
    else if s.dev.jobs.any fun x => decide (x.inst.launch = j.inst.launch) && decide (x.tid = some j.slot) then
      .next (setJob j.id (fun j => { j with st := .waiting }) s)
    else
      .next (readingJob j 0 4 (fun _ s => tableFault j 7 s)
        (fun s => match jobWords j 0 4 s with
          | (.error e, s) => tableFault j e s
          | (.ok h, s) => tableRest j h s) (s.focusOn j.core j.ctx))

/-! ### XDT, XDS, XDQ -/

/-- A new job of the context in focus. -/
def newJob (j : Job) (s : State) : State :=
  let s := tagStart j.tag s
  let (id, s) := s.newId
  submit (.job { j with id := id }) s

/-- The fields of a job that its issue gives. -/
def jobOf (f : XSlot) (s : State) : Job :=
  { id := 0, core := s.foc.core, ctx := s.foc.ctx, inst := s.instHere, ord := s.foc.ord, tag := f.tag.toNat, isXdt := false
    srcH := f.h.toNat, src := handleOf s f.h.toNat, so := rdS s f.sa.toNat }

/-- A handle is VALID and allows what is needed (R110 checks 1 and 2). -/
def handleVerdict (n : Nat) (need : Need) (off : Word) (s : State) : Verdict :=
  if (handleOf s n).st ≠ .valid then .trap 9 (BitVec.ofNat 64 n)
  else if !(handleOf s n).allows need then .trap 0x0A off
  else .go

/-- An offset is a multiple of `n`. -/
def alignVerdict (n : Nat) (off : Word) : Verdict := if off.toNat % n ≠ 0 then .trap 0x0C off else .go

/-- XDT at issue (R264). -/
def ownXdt (f : XSlot) (s : State) : Verdict :=
  let off := rdS s f.sa.toNat
  (((tagCheck (.xdt f) f.tag.toNat s).orElse (handleVerdict f.h.toNat .rd off s)).orElse (alignVerdict 16 off)).orElse
    (heldCheck (.xdt f) s)

/-- XDT (R264). -/
def execXdt (f : XSlot) (s : State) : Host.Outcome State Fault Refusal :=
  gated (.xdt f) (ownXdt f s)
    (fun s => newJob { jobOf f s with isXdt := true, slot := f.imm.toNat % 16, st := .running, free := 8 * s.dev.base } s) s

/-- XDS at issue, in the order of R265. -/
def ownXds (f : XSlot) (s : State) : Verdict :=
  let so := rdS s f.sa.toNat
  let io := rdS s f.sb.toNat
  let tabo := BitVec.ofNat 64 ((rdS s f.scc.toNat).toNat % 2 ^ 32)
  let inside (off : Word) : Verdict :=
    if (spPlace s s.foc.core s.lid f.h2.toNat off.toNat 4).isNone then .trap 8 off else .go
  let valid (n : Nat) : Verdict := if (handleOf s n).st ≠ .valid then .trap 9 (BitVec.ofNat 64 n) else .go
  (tagCheck (.xds f) f.tag.toNat s).orElse <|
  (if f.h2.toNat ≥ 3 then trap6 (.xds f) s else .go : Verdict).orElse <|
  (valid f.h.toNat).orElse <|
  (handleVerdict f.h.toNat .rd so s).orElse <|
  (alignVerdict 16 so).orElse <|
  (alignVerdict 4 io).orElse <|
  (alignVerdict 4 tabo).orElse <|
  (inside io).orElse <|
  (inside tabo).orElse <|
  (heldCheck (.xds f) s).orElse <|
  (if s.ctx.seg.isNone && decide (s.core.jobq.length ≥ 16) then .hold 3 else .go)

/-- XDS (R265). -/
def execXds (f : XSlot) (s : State) : Host.Outcome State Fault Refusal :=
  gated (.xds f) (ownXds f s) (fun s =>
    let x := (rdS s f.scc.toNat).toNat
    newJob { jobOf f s with dstH := f.h2.toNat, io := (rdS s f.sb.toNat).toNat, tabo := x % 2 ^ 32, chunk := x / 2 ^ 32
                            nblk := f.imm.toNat % 1024 + 1, sc := f.sc.toNat } s) s

/-- The code of a job's state (R266); an XDT that waits for its slot is running. -/
def Job.stCode (j : Job) : Nat :=
  match j.st with
  | .none => 0
  | .queued => 1
  | .running => 2
  | .waiting => if j.isXdt then 2 else 3
  | .done => 4
  | .faulted => 5
  | .suspended => 6

/-- The jobs of an action. -/
def Action.jobs : Action → List Job
  | .job j => [j]
  | _ => []

/-- The later of two jobs. -/
def laterJob (a : Option Job) (j : Job) : Option Job :=
  match a with | some x => if x.id < j.id then some j else a | none => some j

/-- The latest job of the context in focus on a tag, wherever it stands: on a lane, in the queue of a core that its instance has been
on, or in a held buffer (R266, R290). -/
def latestJob (tag : Nat) (s : State) : Option Job :=
  let held := s.ctx.entering ++ match s.ctx.seg with | some g => g.held | none => []
  let all := s.dev.jobs ++ (s.cores.flatMap fun e => e.2.jobq) ++ held.flatMap Action.jobs
  (all.filter fun j => decide (j.inst = s.instHere) && decide (j.tag = tag)).foldl laterJob none

/-- The word of XDQ (R266). -/
def jobWordOf (j : Option Job) : Word :=
  match j with
  | none => 0
  | some j => BitVec.ofNat 64 (j.chunk % 2 ^ 32 * 2 ^ 32 + min j.blk (j.nblk - 1) % 1024 * 2 ^ 22 + j.stCode * 2 ^ 16
      + if j.st = .faulted then j.sub else 0)

/-- XDQ (R266). -/
def execXdq (f : XSlot) (s : State) : Host.Outcome State Fault Refusal :=
  gated (.xdq f) .go (fun s => postReply f.sa.toNat (jobWordOf (latestJob f.tag.toNat s)) s) s

end Sys2Proof.Machine
end

