-- ==== Sys2Proof/Machine/Launch.lean ====
section
/-! DEFINITION. Launch records (R277 to R279), their checks (R278, R398), LAUNCH's enqueue (R311 to R313), spring queues
and selection (R280, R281). -/

namespace Sys2Proof.Machine

/-! ### Records -/

/-- Word i, and the 64-bit field at byte o, of a record. -/
def w32 (x i : Nat) : Nat := elemOf x i 32
def w64 (x o : Nat) : Nat := x / 2 ^ (8 * o) % 2 ^ 64

/-- The fields of a 128-byte record (R277), without its tables and its parameter block. -/
def recordFields (x : Nat) : LaunchRec :=
  let a := w32 x 0
  let c := w32 x 12
  let e := w32 x 15
  { tuse := bit a 23, muse := bit a 22, hnd := bit a 21, segprot := bit a 20, shadow := bit a 19, queue := bits a 18 13
    prio := bits a 12 10, nstg := bits a 3 0 + 1, splen := w32 x 1, code := w64 x 8, param := w64 x 16
    spimg := w64 x 24, compl := w64 x 32, rgn := bits c 22 19, rest := bits c 18 16, slots := bits c 15 0
    handler := w32 x 13, lwdog := w32 x 14, clen := bits e 31 22, plen := bits e 21 9
    stages := (List.range (bits a 3 0 + 1)).map fun k => (bits (w32 x (16 + k)) 31 22 + 1, bits (w32 x (16 + k)) 21 0) }

/-- NPOND, NGRP and TABLE of a record. -/
def recPonds (x : Nat) : Nat := bits (w32 x 0) 9 4
def recGroups (x : Nat) : Nat := bits (w32 x 15) 8 0
def recTable (x : Nat) : Nat := w64 x 40

/-- KIND of a completion word's name (R294). -/
def complKind (c : Nat) : Bool := bit c 63

/-- The record's own field rules (R278, subcode 1). -/
def fieldsOk (x : Nat) (host : Bool) : Bool :=
  let r := recordFields x
  decide (bits (w32 x 0) 31 24 = 0) && decide (recPonds x ≤ 32) && decide (bits (w32 x 12) 31 23 = 0)
    && decide (2 ≤ r.rgn) && decide (r.rgn ≤ 8) && decide (r.rest ≤ 4) && decide (1 ≤ r.clen) && decide (r.plen ≤ 4096)
    && decide (r.plen % 8 = 0) && decide (recGroups x ≤ 256)
    && ((List.range 16).all fun k => decide (k < r.nstg) || decide (w32 x (16 + k) = 0))
    && (r.stages.all fun s => decide (4 * s.2 < 4096 * r.clen)) && (!r.hnd || decide (r.handler < 4096 * r.clen))
    && (if complKind r.compl then !host && decide (bits r.compl 62 30 = 0) else decide (bits r.compl 62 52 = 0))

/-- The record's alignments (R277, subcode 2). -/
def alignedOk (x : Nat) : Bool :=
  let r := recordFields x
  decide (r.code % 4 = 0) && decide (r.param % 8 = 0) && decide (r.spimg % 16 = 0) && decide (recTable x % 16 = 0)
    && decide (r.compl % 4 = 0) && (!r.hnd || decide (r.handler % 4 = 0))

/-- Pond descriptor q of a table (R279), if it keeps its rules. -/
def pondOf (nstg t : Nat) (q : Nat) : Option (Nat × Nat × Nat × Nat) :=
  let a := w32 t (4 * q)
  let d := w32 t (4 * q + 1)
  let h := w32 t (4 * q + 2)
  if bits a 31 8 = 0 ∧ bits d 31 16 = 0 ∧ bits h 31 16 = 0 ∧ w32 t (4 * q + 3) = 0 ∧ bits a 3 0 < nstg ∧ bits a 7 4 < nstg
      ∧ h ≤ d then some (bits a 3 0, bits a 7 4, d, h)
  else none

/-- Range r of a group entry: none when malformed, else the range if it is in use. -/
def rangeOf (nstg w : Nat) : Option (Option (Nat × Nat × Nat)) :=
  if bits w 30 24 ≠ 0 then none
  else if !bit w 31 then some none
  else if bits w 3 0 < nstg ∧ bits w 13 4 ≤ bits w 23 14 then some (some (bits w 3 0, bits w 13 4, bits w 23 14))
  else none

/-- Group entry g of the group table (R279): the ranges of its members, each within the initial instances, a stage of
STGMASK being every instance number (R291). -/
def groupOf (stages : List (Nat × Nat)) (t g : Nat) : Option (List (Nat × Nat × Nat)) :=
  let m := w32 t (8 * g)
  let rs := (List.range 7).map fun r => rangeOf stages.length (w32 t (8 * g + 1 + r))
  if bits m 31 stages.length ≠ 0 ∨ rs.any Option.isNone = true then none
  else
    some (((List.range stages.length).filter fun k => bit m k).map (fun k => (k, 0, 1023))
      ++ (rs.filterMap Option.join).filterMap fun r =>
        let n := (stages.getD r.1 (1, 0)).1
        if r.2.1 < n then some (r.1, r.2.1, min r.2.2 (n - 1)) else none)

/-- Whether every instance is in at most four groups (R279). -/
def membershipOk (stages : List (Nat × Nat)) (groups : List (List (Nat × Nat × Nat))) : Bool :=
  stages.zipIdx.all fun (s, k) => (List.range s.1).all fun i =>
    decide ((groups.filter fun g => groupHas g k i).length ≤ 4)

/-- A list of options as an option of a list. -/
def allSome {α : Type} : List (Option α) → Option (List α)
  | [] => some []
  | none :: _ => none
  | some x :: r => (allSome r).map (x :: ·)

/-- Whether a spring queue is granted to a function (R388 word 5); a grant mask that firmware has not written grants every
queue to every function that exists (DESIGN CHOICE, log 27). -/
def queueGranted (s : State) (vf q : Nat) : Bool :=
  match s.dev.limits.find? (8 * vf + 5) with
  | some m => bit m.toNat q
  | none => true

/-- Whether a corrupt line lies in `n` bytes at a virtual address of an address space (R368). -/
def vaCorrupt (s : State) (asid va n : Nat) : Bool :=
  (cuts 128 va n).any fun (a, len, _) =>
    match walkPage s.dev asid a with | some h => badGlobal s (h.phys a) len | none => false

/-- The bytes of a record's tables (R279). -/
def tableLen (x : Nat) : Nat := if recGroups x = 0 then 16 * recPonds x else 0x200 + 32 * recGroups x

/-- Whether the tables and the parameter block of a record are read at all: the checks before that (R398). -/
def recordReads (s : State) (x vf : Nat) (host : Bool) : Bool :=
  fieldsOk x host && alignedOk x && queueGranted s vf (recordFields x).queue

/-- The reads of a record's tables and parameter block pass the L2 and the Mere (R102, R104). -/
def recordTouch (x vf asid : Nat) (host : Bool) (s : State) : State :=
  if recordReads s x vf host then
    vaTouch asid (recordFields x).param (recordFields x).plen vf (vaTouch asid (recTable x) (tableLen x) vf s)
  else s

/-- The checks of R278 in the order of R398: the record, or the subcode. -/
def checkRecord (s : State) (x vf asid : Nat) (ver : Option Nat) (host : Bool) : Except Nat LaunchRec :=
  let r := recordFields x
  if !fieldsOk x host then .error 1
  else if !alignedOk x then .error 2
  else if !queueGranted s vf r.queue then .error 6
  else
    let tlen := tableLen x
    if vaCorrupt s asid (recTable x) tlen || vaCorrupt s asid r.param r.plen then .error 5
    else
    match vaRead s ver asid (recTable x) tlen, vaRead s ver asid r.param r.plen with
    | some t, some p =>
      let ponds := allSome ((List.range (recPonds x)).map fun q => pondOf r.nstg t q)
      let groups := allSome ((List.range (recGroups x)).map fun g => groupOf r.stages (t / 2 ^ 4096) g)
      match ponds, groups with
      | some ps, some gs =>
        let r := { r with ponds := ps, groups := gs.zipIdx.map fun (g, i) => (i, g), pblock := p }
        if !membershipOk r.stages gs then .error 3
        else if r.splen + pondBytes r > 524288 * r.rgn then .error 4
        else .ok r
      | _, _ => .error 3
    | _, _ => .error 5

/-! ### Spring queues (R280) -/

/-- Spring queue q. -/
def springOf (s : State) (q : Nat) : List QRec := s.dev.springs.get q []

/-- A record enters its queue (R280); one that becomes the head counts W from now. -/
def enterSpring (r : QRec) (s : State) : State :=
  let l := springOf s r.rc.queue
  s.modDev fun d => { d with springs := d.springs.set r.rc.queue (l ++ [{ r with headAt := d.base }]) }

/-- A queue whose head counts W from now. -/
def newHead (now : Nat) : List QRec → List QRec
  | [] => []
  | h :: r => { h with headAt := now } :: r

/-- A queue without its head; the next head counts W from now. -/
def dropHead (q : Nat) (s : State) : State :=
  s.modDev fun d => { d with springs := d.springs.set q (newHead d.base ((d.springs.get q []).drop 1)) }

/-- Effective priority of a head (R280). -/
def effPrio (s : State) (r : QRec) : Nat := min 7 (r.rc.prio + (s.dev.base - r.headAt) / 65536)

/-- A function whose launches are not selected: it is being reset (R334). -/
def State.resetting (s : State) (vf : Nat) : Bool := s.dev.flr.any fun f => f.vf = vf

/-- The queue whose head is selected (R281): highest eff, then longest the head, then lowest number. -/
def bestQueue (s : State) : Option Nat :=
  (List.range 64).foldl (fun best q =>
    match springOf s q with
    | [] => best
    | h :: _ =>
      if s.resetting h.vf then best
      else
        match best.bind fun b => (springOf s b).head? with
        | none => some q
        | some o =>
          if effPrio s o < effPrio s h ∨ (effPrio s o = effPrio s h ∧ h.headAt < o.headAt) then some q else best) none

/-- Instances of a record before any starts. -/
def initialInsts (rc : LaunchRec) : List InstRec :=
  rc.stages.zipIdx.flatMap fun (s, k) => (List.range s.1).map fun i => { stage := k, num := i }

/-- The head of queue q is selected (R281). -/
def selectQueue (q : Nat) (s : State) : State :=
  match springOf s q with
  | [] => s
  | h :: _ =>
    let s := dropHead q s
    let (id, s) := s.newId
    let l : Launch := { rc := h.rc, vf := h.vf, asid := h.asid, parent := h.parent, insts := initialInsts h.rc
                        selAt := s.dev.base, selClk := (s.coreAt 0).clk, replays := h.replays }
    s.modDev fun d => { d with launches := d.launches.set id l }

/-- RECORD_PRIO_CHANGE (R281): a queued record, or the selected launch that the event's number names. -/
def execRecordPrioChange (queue pos prio : Nat) (s : State) : Host.Outcome State Fault Refusal :=
  if s.foc.id ≠ 0 then .next (s.modLaunch s.foc.id fun l => { l with rc := { l.rc with prio := prio % 8 } })
  else
    let l := (springOf s queue).zipIdx.map fun (r, i) => if i = pos then { r with rc := { r.rc with prio := prio % 8 } } else r
    .next (if l.isEmpty then s else s.modDev fun d => { d with springs := d.springs.set queue l })

/-! ### LAUNCH's enqueue (R311 to R313) -/

/-- The releases (R130, R296 to R298) and the atomics that release (R148). -/
def releases : Instr → Bool
  | .strel _ | .fladd _ | .flset _ => true
  | .amoadd f | .amomin f | .amomax f | .amominn f | .amomaxn f | .amoand f | .amoor f | .amoxor f | .amoswp f | .amocas f
  | .amoincw f | .amobfa f | .amofadd f | .barv f => decide (f.sc ≠ 0)
  | _ => false

/-- Whether the record may enter its queue now: every release that the parent context issued before the LAUNCH has performed, those
still to start included (R313). -/
def launchMay (r : LaunchReq) (s : State) : Bool :=
  let k := s.coreAt r.core
  let c := k.ctxAt r.ctx
  !(k.waiting.any fun a => decide (a.ctx = r.ctx) && decide (a.ord / 8 ≤ r.ord / 8) && decide (a.ord ≠ r.ord) && a.rel.isSome)
    && !(decide (c.inst = some r.inst) && c.starts.any fun e => decide (e.ord / 8 ≤ r.ord / 8) && releases e.op)

/-- The request leaves. -/
def dropLaunch (id : Nat) (s : State) : State := s.modDev fun d => { d with lreqs := d.lreqs.filter fun r => r.id ≠ id }

/-- A refused LAUNCH (R312). -/
def launchFault (r : LaunchReq) (sub : Nat) (s : State) : State :=
  tagFault r.inst r.tag 0x17 (BitVec.ofNat 64 (r.tag * 2 ^ 16 + 0x18 * 256 + sub)) (dropLaunch r.id s)

/-- The record that a LAUNCH has read is checked and entered; a shadowed parent's is kept to its commit (R371), and one whose
queue is full waits. -/
def enqueueRecord (r : LaunchReq) (v : Nat) (bad : Bool) (l : Launch) (s : State) : State :=
  if r.loc.st = .revoked ∨ bad = true then launchFault r 5 s
  else
    match (if s.resetting l.vf then .error 6 else checkRecord s v l.vf l.asid (launchVer s r.inst.launch) false :
        Except Nat LaunchRec) with
    | .error sub => launchFault r sub (if s.resetting l.vf then s else recordTouch v l.vf l.asid false s)
    | .ok rc =>
      let t := recordTouch v l.vf l.asid false s
      let rc := { rc with prio := min rc.prio l.rc.prio }
      if l.rc.shadow then
        tagComplete r.inst r.tag (dropLaunch r.id (t.modLaunch r.inst.launch fun y =>
          { y with later := y.later ++ [(rc, rc.queue)] }))
      else if (springOf s rc.queue).length ≥ 256 then s
      else
        tagComplete r.inst r.tag (dropLaunch r.id
          (enterSpring { rc := rc, vf := l.vf, asid := l.asid, parent := some r.inst.launch } t))

/-- LAUNCH_ENQUEUE (R311): the record of the request in focus is read, when the accesses before it let it (R143); then it is checked
and entered, when the releases before it have performed. -/
def execLaunchEnqueue (s : State) : Host.Outcome State Fault Refusal :=
  match s.dev.lreqs.find? fun r => r.id = s.foc.id with
  | none => .next s
  | some r =>
    match s.launchAt r.inst.launch with
    | none => .next (dropLaunch r.id s)
    | some l =>
      let s := s.focusOn r.core r.ctx
      match r.got with
      | none =>
        match s.core.acc.find? fun a => a.id = r.id with
        | some x => .next (if eligible s.core x && banksFree x s then performNow x s else s)
        | none => .next s
      | some (v, bad) => .next (if launchMay r s then enqueueRecord r v bad.isSome l s else s)

end Sys2Proof.Machine
end

