-- ==== Sys2Proof/Machine/Sched.lean ====
section
/-! DEFINITION. The scheduler: binding (R282, R283), READY contexts (R285, R286), saving and resuming (R289, R290), the
rebalancer (R291), deferral batches (R292, R318), the ends of instances and launches (R293, R294), kills and replays
(R360, R372). -/

namespace Sys2Proof.Machine

/-! ### READY (R285) -/

/-- A context of a core becomes READY; a core that issues nothing chooses three cycles later (R285). -/
def becomeReady (core n : Nat) (s : State) : State :=
  let s := s.modCtxAt core n fun c => { c with st := .ready, wait := none, woken := false, wokeFor := 0 }
  s.modCoreAt core fun k => if k.issuing.isNone && k.pickAt.isNone then { k with pickAt := some (k.cyc + 3) } else k

/-- Cores that share a cluster or a column with core `a` (R13, R14). -/
def nearby (a b : Nat) : Bool :=
  decide (coreCL a = coreCL b) || (decide (coreCOL a = coreCOL b))

/-- Whether a context of a launch on a core near `core` has a rewind pending (R370). -/
def rewindNear (core launch : Nat) (s : State) : Bool :=
  s.cores.any fun e => nearby core e.1 && e.2.ctxs.any fun c =>
    c.2.rewPend && (match c.2.inst with | some i => decide (i.launch = launch) | none => false)

/-- Whether the context in focus waits on something that has changed (R286), or for a rewind that has ended (R370). -/
def mayWake (s : State) : Bool :=
  let c := s.ctx
  let calm := match c.wait with | some (.rendezvous l) => !rewindNear s.foc.core l s | _ => false
  decide (c.st = .blocked) && (c.woken || calm)

/-- WAITER_READY (R286): the context in focus waits on something that has changed. -/
def execWaiterReady (s : State) : Host.Outcome State Fault Refusal :=
  .next (if mayWake s then becomeReady s.foc.core s.foc.ctx s else s)

/-! ### Where an instance may bind (R282) -/

/-- Contexts of a core that hold an instance or a batch. -/
def Core.bound (k : Core) : List Ctx := (k.ctxs.filter fun c => c.2.st ≠ .free).map Prod.snd

/-- The launches bound on a core. -/
def boundLaunches (s : State) (core : Nat) : List Launch := (s.coreAt core).bound.filterMap s.launchOf

/-- Whether a launch has a context bound on a core. -/
def launchOn (s : State) (core launch : Nat) : Bool :=
  (s.coreAt core).bound.any fun c => match c.inst with | some i => decide (i.launch = launch) | none => false

/-- The four cores of a core's column. -/
def columnOf (core : Nat) : List Nat := (List.range 4).map fun l => core / 128 * 128 + l * 32 + core % 32

/-- Whether a core waits to lose its top scratchpad group, or a register bank (R377). -/
def Core.losesGroup (k : Core) : Bool := match k.retire with | some r => r.wait && decide (r.kind = 0) | none => false
def Core.losesBank (k : Core) : Bool := match k.retire with | some r => r.wait && decide (r.kind = 1) | none => false

/-- The context that loses a register bank, the bank's logical number, and whether it is a vector bank (R377): of the contexts with the
largest NVB, or NMB when every NVB is 0, the highest-numbered. -/
def Core.loser (k : Core) : Nat × Nat × Bool :=
  let top (m : Map Nat) (d : Nat) : Nat × Nat :=
    (List.range 4).foldl (fun (b : Nat × Nat) n => if m.get n d ≥ b.2 then (n, m.get n d) else b) (0, 0)
  let (cv, nv) := top k.nvb 4
  let (cm, nm) := top k.nmb 2
  if nv = 0 then (cm, 6 * cm + 4 + (nm - 1), false) else (cv, 6 * cv + (nv - 1), true)

/-- The first run of `n` free groups of 512 KiB in the banks in service (R87); a group about to leave service takes no region
(R377). -/
def Core.freeRun (k : Core) (n : Nat) : Option Nat :=
  let groups := min 8 (k.spLog / 4) - b2n k.losesGroup
  let used (g : Nat) : Bool := k.regions.any fun r =>
    decide (r.base < (g + 1) * 524288) && decide (g * 524288 < r.base + r.size)
  (List.range groups).find? fun g => decide (g + n ≤ groups) && (List.range n).all fun i => !used (g + i)

/-- Whether a core of `k`'s regions would keep its L1 with a region of `n` groups more: some bank, and room for its lines (R86, R89). -/
def keepsL1 (k : Core) (n : Nat) : Bool :=
  decide (k.regionBytes + n * 524288 < k.spLog * 131072)
    && decide (k.l1.length ≤ (k.spLog * 131072 - k.regionBytes - n * 524288) / 128)

/-- Whether the L1 of a core can be emptied where binding a launch needs it: before a context of another function, for which the
accesses of the function before have all performed (R333), and when a new region takes banks of the L1 that its lines fill (R89,
DEDUCED, log 10). -/
def mayEmpty (k : Core) (launch : Nat) (l : Launch) : Bool :=
  if k.lastVF = some l.vf then promotableAll k || (k.region? launch).isSome || keepsL1 k l.rc.rgn || !k.hasL1
  else promotableAll k && k.waiting.all fun a => a.vf = l.vf

/-- Whether a core may take an instance of a launch but for a free context (R282, R324, R333); `but` is a context that is to be left
out of account. -/
def fitsOn (launch core n : Nat) (but : Option Nat) (s : State) : Bool :=
  match s.launchAt launch with
  | none => false
  | some l =>
    let k := s.coreAt core
    let bound := ((k.ctxs.filter fun c => decide (c.2.st ≠ .free) && decide (some c.1 ≠ but)).map Prod.snd)
    let here := bound.filterMap s.launchOf
    let others := (bound.filter fun c => match c.inst with | some i => decide (i.launch ≠ launch) | none => false).filterMap
      s.launchOf
    decide (core < 256) && decide (n < 4) && !l.killed && !l.complete
      && !s.resetting l.vf && !s.dev.stopped.get (coreTower core) false
      && bit (s.dev.asd.get l.asid 0).toNat 63 && decide (bits (s.dev.asd.get l.asid 0).toNat 50 46 = l.vf)
      && (here.all fun o => decide (o.vf = l.vf))
      && ((k.region? launch).isSome || (k.freeRun l.rc.rgn).isSome)
      && (!l.rc.muse || !(others.any fun o => o.rc.muse)) && (!l.rc.tuse || !(others.any fun o => o.rc.tuse))
      && ((columnOf core).all fun c => (boundLaunches s c).all fun o =>
        decide (o.rc.slots = l.rc.slots) && decide (o.rc.rest = l.rc.rest))
      && decide (k.nvb.get n 4 = 4) && decide (k.nmb.get n 2 = 2) && !(k.losesBank && decide (k.loser.1 = n))
      && mayEmpty k launch l

/-- Whether a context of a core may take an instance of a launch (R282). -/
def fits (launch core n : Nat) (s : State) : Bool :=
  decide (((s.coreAt core).ctxAt n).st = .free) && fitsOn launch core n none s

/-- The next instance of a launch to bind: an unstarted one, when none is saved (R282, R290). -/
def Launch.nextNew (l : Launch) : Option InstRec :=
  if l.insts.any fun r => r.st = .saved then none else l.insts.find? fun r => r.st = .unstarted

/-- The next instance of a launch to get a context: a saved one first (R290). -/
def Launch.nextWant (l : Launch) : Option InstRec := (l.insts.find? fun r => r.st = .saved).or l.nextNew

/-- Whether a launch has an instance that a context could take (R281). -/
def Launch.wants (l : Launch) : Bool := l.insts.any fun r => decide (r.st = .saved) || decide (r.st = .unstarted)

/-! ### Binding -/

/-- Every dirty line of a core promoted, written back and dropped (R333). -/
def emptyL1 (core : Nat) (s : State) : State :=
  let s := (s.coreAt core).plog.foldl (fun s _ => promoteOldest core s) s
  let s := (s.coreAt core).l1.foldl (fun s x => l1WriteBack core x s) s
  s.modCoreAt core fun k => { k with l1 := [] }

/-- What goes before a context of another function (R333). -/
def changeFunction (core vf : Nat) (s : State) : State :=
  if (s.coreAt core).lastVF = some vf then s
  else (emptyL1 core s).modCoreAt core fun k => { k with 
    arr := {}, arrOf := none, xpose := [], xposeW := [], xpOf := none, lastVF := some vf
    regions := k.regions.map fun r => { r with flags := [] } }

/-- `n` bytes of an image of a function placed in a core's SRAM, read through the L2 and the Mere (R102); a byte that cannot be read is
not placed (R278; DESIGN CHOICE, log 52). -/
def placeImage (core addr asid vf va n : Nat) (s : State) : State :=
  (cuts 128 va n).foldl (fun s (a, len, o) =>
    match vaRead s none asid a len with
    | some x => s.modCoreAt core fun k => { k with sp := k.sp.write (addr + o) len x }
    | none => s) (vaTouch asid va n vf s)

/-- A region formed (R86, R91, R271, R282), where the launch has none on the core: every word FULL but those of the pond space, every
byte 0 but those of the image. -/
def formRegion (launch core : Nat) (l : Launch) (s : State) : State :=
  match (s.coreAt core).region? launch, (s.coreAt core).freeRun l.rc.rgn with
  | none, some g =>
    let base := g * 524288
    let size := l.rc.rgn * 524288
    let pb := pondBytes l.rc
    let inside (w : Nat) : Bool := decide (base / 4 ≤ w) && decide (w < (base + size) / 4)
    let ponds := (List.range (pb / 4)).map fun i => (base + size - pb) / 4 + i
    let s := if keepsL1 (s.coreAt core) l.rc.rgn then s else emptyL1 core s
    let s := s.modCoreAt core fun k => { k with
      sp := k.sp.filter fun c => !inside (c.1 / 4)
      regions := k.regions ++ [{ launch := launch, base := base, size := size }]
      empt := (k.empt.filter fun w => !inside w) ++ ponds }
    placeImage core base l.asid l.vf l.rc.spimg l.rc.splen s
  | _, _ => s.modCoreAt core fun k => { k with
      regions := k.regions.map fun r => if r.launch = launch then { r with ended := false } else r }

/-- Ponds whose consuming stage is first bound on this core take it as their home (R282). -/
def settlePonds (launch core stage : Nat) (l : Launch) (s : State) : State :=
  l.rc.ponds.zipIdx.foldl (fun s (d, q) =>
    if d.2.1 = stage ∧ ((s.launchAt launch).bind fun x => (x.ponds.get q {}).home).isNone = true then
      (s.modLaunch launch fun x => { x with ponds := x.ponds.set q { x.ponds.get q {} with home := some core } }).modCoreAt
        core fun k => { k with regions := k.regions.map fun r => if r.launch = launch then { r with keep := true } else r }
    else s) s

/-- The core made ready for a context of a launch (R185, R235, R282, R333). -/
def prepareCore (launch core stage : Nat) (l : Launch) (s : State) : State :=
  let s := changeFunction core l.vf s
  let s := s.modCoreAt core fun k => if l.rc.muse && decide (k.arrOf ≠ some launch) then { k with arr := {}, arrOf := some launch } else k
  let s := s.modCoreAt core fun k => if l.rc.tuse && decide (k.xpOf ≠ some launch) then
      { k with xpose := [], xposeW := [], xpOf := some launch } else k
  settlePonds launch core stage l (formRegion launch core l s)

/-- Spill memory at the start (R283). -/
def startSpill (rc : LaunchRec) (stage num : Nat) : Mem :=
  (Mem.write [] 0 rc.plen rc.pblock).write 0x1000 8 (num % 1024 + stage % 16 * 65536)

/-- The state of R283, the entry being `entry` words from CODE. -/
def startArch (rc : LaunchRec) (stage num entry : Nat) : Arch :=
  { pc := BitVec.ofNat 64 (rc.code + 4 * entry), spill := startSpill rc stage num }

/-- A context taken by an instance. -/
def seatCtx (core n : Nat) (c : Ctx) (s : State) : State :=
  becomeReady core n (s.modCtxAt core n fun o => { c with seq := max o.seq c.seq, frm := (s.coreAt core).cyc })

/-- Instance (stage, num) of a launch changed. -/
def setInst (launch stage num : Nat) (g : InstRec → InstRec) (s : State) : State :=
  s.modLaunch launch fun l => { l with insts := l.insts.map fun r => if r.stage = stage ∧ r.num = num then g r else r }

/-- An instance starts on a context (R282, R283). -/
def bindNew (launch core n stage num : Nat) (s : State) : State :=
  match s.launchAt launch with
  | none => s
  | some l =>
    let s := prepareCore launch core stage l s
    let entry := (l.rc.stages.getD stage (1, 0)).2
    setInst launch stage num (fun r => { r with st := .bound core n })
      (seatCtx core n { a := startArch l.rc stage num entry, inst := some { launch := launch, stage := stage, num := num } } s)

/-- Whether a batch's issuer stands on a core after its END, or runs a batch of its own there: it runs the batch itself (R318). -/
def ownBatch (core : Nat) (b : Batch) (s : State) : Bool :=
  let o := (s.coreAt core).ctxAt b.ctx
  let bound := match s.launchAt b.inst.launch with
    | some l => l.insts.any fun r => decide (r.stage = b.inst.stage) && decide (r.num = b.inst.num) && decide (r.st = .bound core b.ctx)
    | none => false
  match o.inst with
  | some i => bound && decide ({ i with batch := none } = b.inst) && (i.batch.isSome || decide (o.st = .ended))
  | none => false

/-- Whether a formed batch waits for a free context of a core: it is taken before any binding (R318). -/
def batchWaits (core : Nat) (s : State) : Bool := (s.coreAt core).batches.any fun b => !ownBatch core b s

/-- INSTANCE_BIND (R282): the launch in focus binds its next instance to the context in focus. -/
def execInstanceBind (s : State) : Host.Outcome State Fault Refusal :=
  match (s.launchAt s.foc.id).bind Launch.nextNew with
  | none => .next s
  | some r =>
    if fits s.foc.id s.foc.core s.foc.ctx s && !batchWaits s.foc.core s then
      .next (bindNew s.foc.id s.foc.core s.foc.ctx r.stage r.num s)
    else .next s

/-- LAUNCH_SELECTION (R281): the context in focus is free and no selected launch has an instance for it. -/
def execLaunchSelection (s : State) : Host.Outcome State Fault Refusal :=
  let free := decide (s.foc.core < 256) && decide (s.foc.ctx < 4) && decide (s.ctx.st = .free)
  if free && !(s.dev.launches.any fun e => e.2.wants && fits e.1 s.foc.core s.foc.ctx s) then
    match bestQueue s with
    | some q => .next (selectQueue q s)
    | none => .next s
  else .next s

/-! ### Saving and resuming (R289, R290, R359) -/

/-- Whether the context in focus is at a drain point (R289): its next issue is the first of a bundle with D = 1, or is
blocked there; not in handler mode or while firmware holds it (R348). -/
def atDrain (s : State) : Bool :=
  let c := s.ctx
  c.resume.isNone && c.fsnap.isEmpty &&
  let calm := match c.st with
    | .ready => true
    | .issuing => s.core.hold.isNone && !s.core.midIss
    | .blocked => decide (c.wait ≠ some .firmware) && decide (c.wait ≠ some .service)
    | _ => false
  calm && !c.hmode && c.answer.isNone && decide (c.a.idx = 0)
    && match s.launch?.bind fun l => headerAt s l c.a.pc.toNat with | some h => decide (h.d = 1#1) | none => false

/-- The context in focus is being saved (R289 step 1): its segment is committed, for its next issue would do it
(R362, DEDUCED, log 30). -/
def startSave (s : State) : State :=
  leaveIssue (s.modCtx fun c => { c.commit with st := .saving, wait := none, woken := false, answer := none, asked := none })

/-- Every operation of the context in focus has started and every result has landed (R85). -/
def through (s : State) : Bool :=
  let c := s.ctx
  c.flight.isEmpty && c.starts.isEmpty && c.spillW.isEmpty && c.entering.isEmpty && !(s.core.todo.any fun t => t.1 = s.foc.ctx)

/-- Nothing of the context in focus is still to happen (R289 step 2). -/
def settled (s : State) : Bool :=
  through s && !(s.core.acc.any fun a => a.ctx = s.foc.ctx)
    && !(s.core.arr.pushes.any fun p => decide (p.ctx = s.foc.ctx) && decide (p.k < p.n))
    && !(s.core.arr.loads.any fun l => l.ctx = s.foc.ctx)

/-- The context in focus holds nothing any more; its place in program order stays (log 31). Accesses it has started perform as they
would have, and what they bring is discarded (R85); a LAUNCH on its way still waits for the releases before it (R313), and no miss is left
of it. -/
def freeCtx (s : State) : State :=
  let n := 4 * (s.uid + 1) + s.foc.ctx
  let apart (a : Access) : Access := if a.ctx = s.foc.ctx then { a with ctx := n, entry := none } else a
  let left (r : LaunchReq) : LaunchReq := if r.core = s.foc.core ∧ r.ctx = s.foc.ctx then { r with ctx := n } else r
  ((s.modCore fun k => { k with acc := k.acc.map apart }).modDev fun d => { d with
    lreqs := d.lreqs.map left
    walks := d.walks.filter fun w => w.user.1 ≠ 4 * s.foc.core + s.foc.ctx + 1 }).modCtx fun c => { seq := c.seq }

/-- A filled queue entry: its data is there, whatever the cycle count of the core that it resumes on (R290, R359). -/
def QEntry.atRest (e : QEntry) : QEntry := { e with due := none, arrived := true }

/-- The saved record of an instance (R289 step 4, R359); its queue has filled. -/
def saveInto (c : Ctx) (parked : Bool) (r : InstRec) : InstRec :=
  { r with st := .saved, saved := some { c.a with queue := c.a.queue.map QEntry.atRest }, sNoStall := c.noStall, pend := c.pend, parked := parked, watches := c.watches
           hs := c.hs, rec0 := (c.cause, c.tpc, c.tinfo), sSeq := c.seq }

/-- The instance that a pre-emption serves still waits. -/
def stillWaits (launch stage num : Nat) (s : State) : Bool :=
  match s.launchAt launch with
  | some l => match l.nextWant with | some r => decide (r.stage = stage) && decide (r.num = num) | none => false
  | none => false

/-- The highest number of a stage's instances, plus 1. -/
def Launch.nextNum (l : Launch) (stage : Nat) : Nat :=
  ((l.insts.filter fun r => r.stage = stage).map fun r => r.num + 1).foldl max 0

/-- A context as its instance resumes (R290, R359). -/
def resumedCtx (i : InstId) (r : InstRec) (a : Arch) : Ctx :=
  { a := a, inst := some i, noStall := r.sNoStall, pend := r.pend.map fun q => { q with defer := true }
    watches := r.watches, hs := r.hs, cause := r.rec0.1, tpc := r.rec0.2.1, tinfo := r.rec0.2.2, seq := r.sSeq }

/-- A saved instance of a launch resumes on a context (R290). -/
def resumeOn (launch core n : Nat) (r : InstRec) (s : State) : State :=
  match s.launchAt launch, r.saved with
  | some l, some a =>
    setInst launch r.stage r.num
      (fun r => { r with st := .bound core n, saved := none, pend := [], watches := [], parked := false })
      (seatCtx core n (resumedCtx { launch := launch, stage := r.stage, num := r.num } r a) (prepareCore launch core r.stage l s))
  | _, _ => s

/-- The next instance of a launch takes a context (R282, R290). -/
def takeCtx (launch core n : Nat) (s : State) : State :=
  match (s.launchAt launch).bind Launch.nextWant with
  | none => s
  | some r => if r.st = .saved then resumeOn launch core n r s else bindNew launch core n r.stage r.num s

/-- What the freed context is for (R290, R291). -/
def afterSave (w : Option SaveFor) (launch : Nat) (s : State) : State :=
  if batchWaits s.foc.core s then s
  else
  match w with
  | some (.preempt l st n) =>
    if stillWaits l st n s && fits l s.foc.core s.foc.ctx s then takeCtx l s.foc.core s.foc.ctx s else s
  | some (.move b) =>
    match s.launchAt launch with
    | none => s
    | some l =>
      let n := l.nextNum b
      if n < 1024 ∧ fits launch s.foc.core s.foc.ctx s = true then
        bindNew launch s.foc.core s.foc.ctx b n
          (s.modLaunch launch fun x => { x with insts := x.insts ++ [{ stage := b, num := n }] })
      else s
  | none => s

/-- CONTEXT_SAVE (R289): a context marked for it begins to be saved at its drain point, and one whose results have
landed and whose queue has filled is saved. -/
def execContextSave (s : State) : Host.Outcome State Fault Refusal :=
  let c := s.ctx
  match c.inst with
  | none => .next s
  | some i =>
    if c.st = .saving then
      if settled s && c.a.queue.all (fun e => e.ready s.cyc) && promotableAll s.core then
        let s := (s.core.plog).foldl (fun s _ => promoteOldest s.foc.core s) s
        let parked := match c.saveFor with | some (.move _) => true | _ => false
        .next (afterSave c.saveFor i.launch (freeCtx (setInst i.launch i.stage i.num (saveInto c parked) s)))
      else .next s
    else
      match c.saveFor with
      | some (.preempt l st n) =>
        if !stillWaits l st n s then .next (s.modCtx fun c => { c with saveFor := none })
        else if atDrain s then .next (startSave s)
        else .next s
      | some (.move _) => if atDrain s then .next (startSave s) else .next s
      | none => .next s

/-- PREEMPTION (R290): an instance of the launch in focus finds no context, and the context in focus, of a launch of lower
PRIO on a core where only a context is wanting, is to be saved at its next drain point. -/
def execPreemption (s : State) : Host.Outcome State Fault Refusal :=
  let c := s.ctx
  match (s.launchAt s.foc.id), c.inst with
  | some l, some i =>
    match l.nextWant, s.launchAt i.launch with
    | some r, some o =>
      let open' := (List.range 256).any fun k => (List.range 4).any fun n => fits s.foc.id k n s
      let gives := fitsOn s.foc.id s.foc.core s.foc.ctx (some s.foc.ctx) s
      let marked := s.cores.any fun e => e.2.ctxs.any fun x => x.2.saveFor = some (.preempt s.foc.id r.stage r.num)
      if !open' && gives && !marked && decide (o.rc.prio < l.rc.prio) && c.saveFor.isNone && i.batch.isNone
          && (decide (c.st = .ready) || decide (c.st = .issuing) || decide (c.st = .blocked)) then
        .next (s.modCtx fun c => { c with saveFor := some (.preempt s.foc.id r.stage r.num) })
      else .next s
    | _, _ => .next s
  | _, _ => .next s

/-- CONTEXT_RESUME (R290): the first saved instance of the launch in focus resumes on the context in focus. -/
def execContextResume (s : State) : Host.Outcome State Fault Refusal :=
  match s.launchAt s.foc.id with
  | none => .next s
  | some l =>
    match l.insts.find? fun r => r.st = .saved with
    | none => .next s
    | some r =>
      if r.saved.isSome && fits s.foc.id s.foc.core s.foc.ctx s && !batchWaits s.foc.core s then
        .next (resumeOn s.foc.id s.foc.core s.foc.ctx r s)
      else .next s

/-! ### The rebalancer (R291) -/

/-- The cycles of the last 4,096 in which a pond was full. -/
def Pond.fullTime (p : Pond) (now : Nat) : Nat :=
  (((match p.fullFrom with | some t => [(t, now)] | none => []) ++ p.fulls).map fun f => f.2 - max f.1 (now - 4096)).sum

/-- Whether a stage is a source (R291). -/
def sourceStage (launch stage : Nat) (l : Launch) (s : State) : Bool :=
  let outs := l.rc.ponds.zipIdx.filter fun d => d.1.1 = stage
  (outs.all fun d =>
      let p := l.ponds.get d.2 {}
      decide (2048 ≤ p.fullTime ((s.coreAt (p.home.getD s.foc.core)).clk)))
    && s.cores.any fun e => e.2.ctxs.any fun c => decide (c.2.st = .blocked)
      && outs.any fun d => decide (c.2.wait = some (.pond launch d.2))
        && match c.2.inst with | some i => decide (i.launch = launch) && decide (i.stage = stage) | none => false

/-- Whether a stage is a target (R291). -/
def targetStage (stage : Nat) (l : Launch) : Bool :=
  (l.rc.ponds.zipIdx.any fun d => decide (d.1.2.1 = stage) && decide (d.1.2.2.2 + 1 < (l.ponds.get d.2 {}).words.length))
    && decide ((l.insts.filter fun r => r.stage = stage).length < 1024)

/-- The context of a stage on the core in focus that is at a drain point, the lowest first. -/
def drainedCtx (launch stage : Nat) (s : State) : Option Nat :=
  (List.range 4).find? fun n =>
    let s' := s.focusOn s.foc.core n
    match s'.ctx.inst with
    | some i => decide (i.launch = launch) && decide (i.stage = stage) && i.batch.isNone && atDrain s'
    | none => false

/-- What the check finds (R291): the pair of stages of the launch that was selected earliest, the lowest source and the lowest target
first; then the context of the source at a drain point, without which nothing moves. -/
def rebalanceFind (s : State) : Option (Nat × Nat) :=
  (s.dev.launches.findSome? fun e =>
    if launchOn s s.foc.core e.1 then
      (List.range e.2.rc.nstg).findSome? fun a =>
        if sourceStage e.1 a e.2 s then ((List.range e.2.rc.nstg).find? fun b => targetStage b e.2).map fun b => (e.1, a, b)
        else none
    else none).bind fun (l, a, b) => (drainedCtx l a s).map fun n => (n, b)

/-- REBALANCE_CHECK (R291): in a compute cycle whose number is a multiple of 4,096, the core in focus may park one
context. -/
def execRebalanceCheck (s : State) : Host.Outcome State Fault Refusal :=
  if s.core.clk % 4096 ≠ 0 then .next s
  else
    match rebalanceFind s with
    | none => .next s
    | some (n, b) =>
      let c := s.foc.ctx
      let s := s.focusOn s.foc.core n
      let s := startSave (s.modCtx fun x => { x with saveFor := some (.move b) })
      .next (s.focusOn s.foc.core c)

/-! ### Deferral batches (R292, R318) -/

/-- The start state of a batch (R318). -/
def batchArch (rc : LaunchRec) (i : InstId) (b : Batch) : Arch :=
  let n := b.ents.length
  let lanes (g : DefEntry → BitVec 32) : VReg := { bits := mkVec fun j => match b.ents[j]? with | some e => g e | none => 0 }
  let a := startArch rc i.stage i.num b.entry
  { a with
    s := [(1, BitVec.ofNat 64 n), (2, BitVec.ofNat 64 b.path)]
    p := [(1, mkPred fun j => j < n)]
    v := ((List.range 4).map fun r => (r, lanes fun e => e.vals.getD r 0)) ++ [(4, lanes fun e => e.lane)] }

/-- Whether entries that an instance has deferred are in no batch yet. -/
def defersLeft (i : InstId) (s : State) : Bool := s.cores.any fun e => e.2.defq.any fun d => d.inst = i

/-- The batch that the context in focus may start: on a free context one that its issuer does not run itself, or its own after
its END, when every entry that it deferred is in a batch (R292). -/
def nextBatch (s : State) : Option Batch :=
  let k := s.core
  if s.ctx.st = .free then k.batches.find? fun b => !ownBatch s.foc.core b s
  else if s.ctx.st = .ended ∧ s.instHere.batch.isNone = true ∧ defersLeft s.instHere s = false then k.batches.find? fun b => decide (b.inst = s.instHere)
  else none

/-- DEFERRAL_BATCH_START (R318): once the accesses that its issuer made before the DEFRUN have performed. -/
def execDeferralBatchStart (s : State) : Host.Outcome State Fault Refusal :=
  match nextBatch s with
  | none => .next s
  | some b =>
    match s.launchAt b.inst.launch with
    | none => .next s
    | some l =>
      if (s.core.waiting.any fun a => decide (a.ctx = b.ctx) && decide (a.id < b.mark))
          || (decide (s.ctx.st = .ended) && !through s) then .next s
      else
        let s := s.modCore fun k => { k with batches := k.batches.erase b }
        let gone := if s.ctx.st = .ended then s.ctx.watches.map fun w =>
          (b.inst, { w with mask := w.mask &&& ~~~s.ctx.a.tagDone }) else []
        let s := s.modLaunch b.inst.launch fun x => { x with orphans := x.orphans ++ gone }
        .next (seatCtx s.foc.core s.foc.ctx
          { a := batchArch l.rc b.inst b, inst := some { b.inst with batch := some (b.path, b.ctx) } } s)

/-- Every remaining entry of the instance in focus formed into batches, paths rising, on whatever core it was deferred (R292; DEDUCED,
log 28); those of a path whose table word is not valid are dropped (DESIGN CHOICE, log 32). -/
def formRest (s : State) : State :=
  let i := s.instHere
  let full := (s.cores.filter fun e => e.2.defq.any fun d => d.inst = i).map Prod.fst
  full.foldl (fun s c => (List.range 128).foldl (fun s p =>
    let w := pathWord s.ctx.a p
    (List.range 4).foldl (fun s _ =>
      let n := min 128 (defEntries (s.coreAt c) i p).length
      if bit w 31 && decide (bits w 30 22 = 0) then formBatch c s.foc.ctx i p (w % 2 ^ 22) n s
      else wakeDefer c (s.modCoreAt c fun k => { k with defq := dropEntries i p n k.defq })) s) s) s

/-! ### Ends (R85, R293) -/

/-- Whether an access of the device still concerns a launch's region on a core. -/
def regionBusy (launch core : Nat) (s : State) : Bool :=
  s.cores.any fun e => e.2.waiting.any fun a => decide (a.launch = launch)
    && a.els.any fun x => match x.loc with | .sp c _ => decide (c = core) | .gm _ => false

/-- When no context of a launch is left on a core the last one there has ended: its region may go (R86, R293). A save is no end. -/
def regionEnds (launch core : Nat) (s : State) : State :=
  if launchOn s core launch then s
  else s.modCoreAt core fun k => { k with
    regions := k.regions.map fun r => if r.launch = launch then { r with ended := true } else r }

/-- A launch's region on a core is released when its last context there has ended and it holds no pond storage (R86), and no access
to it is still to perform (DEDUCED, log 29). -/
def releaseRegion (launch core : Nat) (s : State) : State :=
  if launchOn s core launch || regionBusy launch core s then s
  else s.modCoreAt core fun k => { k with regions := k.regions.filter fun r => r.launch ≠ launch || r.keep || !r.ended }

/-- The instance of the context in focus has ended (R293). -/
def endInstance (i : InstId) (s : State) : State :=
  let c := s.ctx
  let gone := c.watches.map fun w => (i, { w with mask := w.mask &&& ~~~c.a.tagDone })
  let s := s.modLaunch i.launch fun l => { l with orphans := l.orphans ++ gone }
  let s := freeCtx (setInst i.launch i.stage i.num (fun r => { r with st := .ended, saved := none, events := 0 }) s)
  let gs := match s.launchAt i.launch with | some l => l.rc.groups.map Prod.fst | none => []
  let s := if launchOn s s.foc.core i.launch then s else s.modCore fun k => { k with
    arrOf := if k.arrOf = some i.launch then none else k.arrOf, xpOf := if k.xpOf = some i.launch then none else k.xpOf }
  releaseRegion i.launch s.foc.core (regionEnds i.launch s.foc.core (gs.foldl (fun s g => closeGroup i.launch g s) s))

/-- Whether an access is on one of the A paths: CTXLS, ATOM and VERT. -/
def Access.onPathA (a : Access) : Bool := decide (a.path = .ctxls) || decide (a.path = .atom) || decide (a.path = .vert)

/-- The batch of the context in focus has ended (R318); a context that ran its own batch is the ended issuer again. -/
def endBatch (i : InstId) (issuer : Nat) (s : State) : State :=
  let own := match s.launchAt i.launch with
    | some l => l.insts.any fun r => decide (r.stage = i.stage) && decide (r.num = i.num) && decide (r.st = .bound s.foc.core s.foc.ctx)
    | none => false
  let s := if issuer = s.foc.ctx ∧ own = true then s.modCtx fun c => { seq := c.seq, st := .ended, inst := some { i with batch := none } }
    else regionEnds i.launch s.foc.core (freeCtx s)
  wake (fun w => match w with | .batch _ _ => true | _ => false) s

/-- STAGE_INSTANCE_END (R293, R318): after an END, when nothing of the context is still to happen; entries still deferred
are formed into batches first (R292). What handler mode has set aside and the entries of its snapshot go with the context when
END comes in the handler (R85; DESIGN CHOICE, log 46). -/
def execStageInstanceEnd (s : State) : Host.Outcome State Fault Refusal :=
  match s.ctx.st, s.ctx.inst with
  | .ended, some i =>
    if !through s then .next s
    else
      match i.batch with
      | some (_, o) =>
        .next (if s.core.acc.any fun a => decide (a.ctx = s.foc.ctx) && a.onPathA then s else endBatch i o s)
      | none =>
        if defersLeft i s then .next (formRest s)
        else if batchLive i s then .next s
        else .next (endInstance i s)
  | _, _ => .next s

/-! ### The end of a launch (R294) -/

/-- Whether a launch is through: every instance ended, every copy, job and watch completed or stopped. -/
def launchThrough (launch : Nat) (l : Launch) (s : State) : Bool :=
  (l.insts.all fun r => r.st = .ended) && l.orphans.isEmpty
    && !(s.cores.any fun e => (e.2.copyq.any fun c => c.inst.launch = launch)
      || e.2.jobq.any fun j => j.inst.launch = launch)
    && !(s.dev.jobs.any fun j => decide (j.inst.launch = launch) && j.live)
    && !(s.dev.lreqs.any fun r => r.inst.launch = launch)
    && !(s.cores.any fun e => e.2.waiting.any fun a => a.launch = launch)
    && (l.later.all fun r => (springOf s r.2).length + (l.later.filter fun x => x.2 = r.2).length ≤ 256)

/-- The versions of a shadowed launch enter coherence order at once (R168). -/
def commitShadow (launch : Nat) (l : Launch) (s : State) : State :=
  let s := (List.range 256).foldl (fun s c =>
    ((s.coreAt c).l1.filter fun x => x.ver = some launch).foldl (fun s x => l1Drop c x (l1WriteBack c x s)) s) s
  let units := match s.launchAt launch with | some x => x.shadow | none => l.shadow
  let s := units.foldl (fun s u => (List.range 65536).foldl (fun s i =>
    if bit u.2.written i then homeWrite (65536 * u.1 + i) 1 (u.2.data.byte (65536 * u.1 + i)).toNat
      (u.2.keyAt (4096 * u.1 + i / 16)) l.vf s else s) s) s
  let s := s.modDev fun d => { d with pool := d.pool.set l.vf (s.poolOf l.vf + units.length) }
  s.modLaunch launch fun x => { x with shadow := [] }

/-- The versions of a launch are discarded (R168). -/
def discardShadow (launch : Nat) (l : Launch) (s : State) : State :=
  let s := { s with cores := s.cores.map fun (e : Nat × Core) => (e.1, { e.2 with l1 := e.2.l1.filter fun x => x.ver ≠ some launch }) }
  let s := if l.shadow.isEmpty then s else
    s.modDev fun d => { d with pool := d.pool.set l.vf (s.poolOf l.vf + l.shadow.length) }
  s.modLaunch launch fun x => { x with shadow := [], later := [] }

/-- Every region of a launch is released, pond storage with it; one that an access already sent is still to reach when that has
performed (R342; DEDUCED, log 29). -/
def freeRegions (launch : Nat) (s : State) : State :=
  let go (c : Nat) (r : Region) : Option Region :=
    if r.launch ≠ launch then some r
    else if regionBusy launch c s then some { r with keep := false, ended := true }
    else none
  { s with cores := s.cores.map fun (e : Nat × Core) => (e.1, { e.2 with regions := e.2.regions.filterMap (go e.1) }) }

/-- LAUNCH_COMPLETE (R294): the launch in focus is through; the commit of a shadowed launch comes first, and the records
that its LAUNCHes made enter their queues then (R371). -/
def execLaunchComplete (s : State) : Host.Outcome State Fault Refusal :=
  match s.launchAt s.foc.id with
  | none => .next s
  | some l =>
    if l.complete || !launchThrough s.foc.id l s then .next s
    else
      let id := s.foc.id
      let s := if l.killed then discardShadow id l s else if l.rc.shadow then commitShadow id l s else s
      let s := if l.killed then s else l.later.foldl (fun s r =>
        enterSpring { rc := r.1, vf := l.vf, asid := l.asid, parent := some id } s) s
      .next ((freeRegions id s).modLaunch id fun x => { x with complete := true, wordDue := true, later := [] })

/-- The launch in focus is no more. -/
def forgetLaunch (launch : Nat) (s : State) : State :=
  s.modDev fun d => { d with
    launches := Map.drop d.launches launch
    jobs := d.jobs.filter fun j => j.inst.launch ≠ launch
    chanUse := d.chanUse.filter fun e => e.2 ≠ launch }

/-- Firmware counts an event of a function (R294). -/
def countEvent (vf : Nat) (s : State) : State := s.modDev fun d => { d with firmEv := d.firmEv.set vf (d.firmEv.get vf 0 + 1) }

/-- A completion word in global memory written through its launch's address space; one that cannot be written is only
counted (R294). -/
def completionGlobal (l : Launch) (v : Nat) (s : State) : State :=
  let w := l.rc.compl
  match walkPage s.dev l.asid (bits w 51 0) with
  | none => countEvent l.vf s
  | some h => if h.wr then homeWrite (h.phys (bits w 51 0)) 4 v h.key l.vf s else countEvent l.vf s

/-- COMPLETION_WORD_WRITE (R294): the status of the launch in focus; a scratchpad word waits for EMPTY; a word that
cannot be written is only counted. -/
def execCompletionWordWrite (s : State) : Host.Outcome State Fault Refusal :=
  match s.launchAt s.foc.id with
  | none => .next s
  | some l =>
    if !l.wordDue then .next s
    else
      let v := if l.killed then 2 else 1
      let w := l.rc.compl
      if complKind w then
        let c := bits w 29 22
        let off := bits w 21 0
        match l.parent.bind fun p => (s.coreAt c).region? p with
        | none => .next (forgetLaunch s.foc.id (countEvent l.vf s))
        | some r =>
          if off + 4 > r.size then .next (forgetLaunch s.foc.id (countEvent l.vf s))
          else if fullAtBank c (r.base + off) s then .next s
          else .next (forgetLaunch s.foc.id (spSetFull c (r.base + off) true
            (spWrite c (r.base + off) 4 v (spoilPonds c (r.base + off) 4 s))))
      else .next (forgetLaunch s.foc.id (completionGlobal l v s))

/-! ### Kills and replays (R334 step 2, R360, R372) -/

/-- Whether an instance identifier is of a launch. -/
def ofLaunch (launch : Nat) (i : Option InstId) : Bool := match i with | some i => decide (i.launch = launch) | none => false

/-- A core without a launch's contexts: results in flight and unsent requests are discarded, sent ones run on (which have
been sent is not promised: `sent` says it). -/
def Core.evict (k : Core) (launch : Nat) (sent : Nat → Bool) : Core :=
  let gone (n : Nat) : Bool := ofLaunch launch (k.ctxAt n).inst
  { k with
    ctxs := k.ctxs.map fun e => if gone e.1 then (e.1, { seq := e.2.seq }) else e
    issuing := k.issuing.filter fun n => !gone n
    last := match k.issuing with | some n => if gone n then n else k.last | none => k.last
    pickAt := if (k.issuing.map gone).getD false then some (k.cyc + 3) else k.pickAt
    hold := if (k.issuing.map gone).getD false then none else k.hold
    midIss := k.midIss && !(k.issuing.map gone).getD false
    acc := (k.acc.filter fun a => a.launch ≠ launch || (sent a.id && a.kind ≠ .record)).map fun a =>
      if a.launch = launch then { a with entry := none, ctx := 4 * (a.launch + 1) + a.ctx } else a
    copyq := k.copyq.filter fun c => c.inst.launch ≠ launch
    flushq := k.flushq.filter fun c => !ofLaunch launch c.inst
    jobq := k.jobq.filter fun j => j.inst.launch ≠ launch
    defq := k.defq.filter fun e => e.inst.launch ≠ launch
    batches := k.batches.filter fun b => b.inst.launch ≠ launch
    todo := k.todo.filter fun t => !gone t.1
    arr := { k.arr with pushes := k.arr.pushes.filter fun p => !gone p.ctx, loads := k.arr.loads.filter fun l => !gone l.ctx } }

/-- Every context of a launch ends at once, with no trap, and what it has not sent is discarded (R334 steps 2 and 3,
R360); its regions stay. -/
def stopLaunch (launch : Nat) (s : State) : State :=
  let (key, s) := s.fresh
  let s := { s with cores := s.cores.map fun (e : Nat × Core) => (e.1, e.2.evict launch fun id => Config.freeBit (key + 2 ^ 32 * id)) }
  let s := wake (fun w => match w with | .deferQueue _ => true | _ => false) s
  let s := s.modDev fun d => { d with
    jobs := d.jobs.filter fun j => j.inst.launch ≠ launch
    lreqs := d.lreqs.filter fun r => r.inst.launch ≠ launch }
  s.modLaunch launch fun l => { l with
    insts := l.insts.map fun r => { r with st := .ended, saved := none }
    orphans := [], gens := [], ponds := [] }

/-- Every context of a launch ends at once and its regions are free. -/
def evictLaunch (launch : Nat) (s : State) : State := freeRegions launch (stopLaunch launch s)

/-- A launch killed with status 2 (R360, R372). -/
def killLaunch (launch : Nat) (s : State) : State :=
  evictLaunch launch (s.modLaunch launch fun l => { l with killed := true })

/-- The port's status, and its ST. -/
def portOf (s : State) (p : Nat) : Nat := (s.dev.ports.get p 0).toNat
def portSt (s : State) (p : Nat) : Nat := bits (portOf s p) 3 0

/-- Whether attempt `a` is newer than `b` in serial order modulo 2^16. -/
def newerAttempt (a b : Nat) : Bool := decide (0 < (a + 65536 - b % 65536) % 65536) && decide ((a + 65536 - b % 65536) % 65536 < 32768)

/-- The descriptor of a channel. -/
def chanOf (s : State) (c : Nat) : Nat := (s.dev.chans.get c 0).toNat

/-- A channel's attempt set: buffered packets of older attempts are discarded (R374). -/
def setAttempt (c a : Nat) (s : State) : State :=
  let w := chanOf s c
  s.modDev fun d => { d with
    chans := d.chans.set c (BitVec.ofNat 64 (a % 65536 * 2 ^ 48 + w % 2 ^ 48))
    chanBuf := d.chanBuf.filter fun p => !(decide (p.1 = c) && newerAttempt a p.2.1) }

/-- Tokens sent on every port of a channel but `but` (R374); a port that has failed drops them (R387). -/
def sendTokens (c a but : Nat) (s : State) : State :=
  let out := (List.range 16).filter fun p => bit (chanOf s c) p && decide (p ≠ but) && decide (portSt s p ≠ 3)
  s.modDev fun d => { d with tokens := d.tokens ++ out.map fun p => (p, c, a % 65536) }

/-- Firmware starts a token on a channel (R374). -/
def startToken (chan : Nat) (s : State) : State :=
  let a := (bits (chanOf s chan) 63 48 + 1) % 65536
  sendTokens chan a 16 (setAttempt chan a s)

/-- A shadowed launch discarded and placed again at the tail of its queue (R372), after a token on every channel that it uses
(R374). -/
def replayLaunch (launch : Nat) (l : Launch) (counted : Bool) (s : State) : State :=
  let s := (s.dev.chanUse.filter fun e => e.2 = launch).foldl (fun s e => startToken e.1 s) s
  let s := forgetLaunch launch (discardShadow launch l (evictLaunch launch s))
  enterSpring { rc := l.rc, vf := l.vf, asid := l.asid, parent := l.parent, replays := l.replays + b2n counted } s

/-- Ended by firmware: replayed while its count and its queue allow, else killed (R360, R372). -/
def endByFirmware (launch : Nat) (counted : Bool) (s : State) : State :=
  match s.launchAt launch with
  | none => s
  | some l =>
    if l.complete then s
    else if l.rc.shadow && (decide (l.replays + b2n counted ≤ s.limit l.vf 3) || !counted) then
      if (springOf s l.rc.queue).length < 256 then replayLaunch launch l counted s else s
    else killLaunch launch s

/-- The limit of a launch's watchdog in compute cycles; 0 is none (R277). -/
def watchdogLimit (l : Launch) (s : State) : Nat := (if l.rc.lwdog = 0 then s.limit l.vf 4 else l.rc.lwdog) * 2 ^ 20

/-- Whether a launch's watchdog has expired, or firmware is to kill it (R347, R360). -/
def watchdogDue (l : Launch) (s : State) : Bool :=
  !l.complete && (l.insts.any fun r => r.st ≠ .ended)
    && (l.killed || (decide (watchdogLimit l s ≠ 0) && decide (l.selClk + watchdogLimit l s ≤ (s.coreAt 0).clk)))

/-- LAUNCH_WATCHDOG_EXPIRY (R360) of the launch in focus. -/
def execLaunchWatchdogExpiry (s : State) : Host.Outcome State Fault Refusal :=
  match s.launchAt s.foc.id with
  | none => .next s
  | some l => if watchdogDue l s then .next (endByFirmware s.foc.id true s) else .next s

/-- Firmware ends a launch for over-capacity and relaunches it, shadowed or not, and the replay is not counted (R377, R372). With its
queue full it is killed instead (R280). -/
def overCapacity (launch : Nat) (s : State) : State :=
  match s.launchAt launch with
  | none => s
  | some l =>
    if l.complete then s
    else if (springOf s l.rc.queue).length < 256 then replayLaunch launch l false s
    else killLaunch launch s

/-- TRAPINFO of 0x12 (R377). -/
def info12 (core lbank res : Nat) : Word := BitVec.ofNat 64 (core % 256 * 2 ^ 16 + lbank % 256 * 256 + res % 256)

/-- A launch takes over-capacity (R377): 0x12 is raised in its contexts on the core, or where it has none there in every context of it;
without any, firmware relaunches it at once. -/
def raiseOver (launch core : Nat) (info : Word) (s : State) : State :=
  let mine (c : Ctx) : Bool := ofLaunch launch c.inst && !(c.pend.any fun q => q.cause = 0x12)
  let some' := launchOn s core launch
  if some' || s.cores.any fun e => launchOn s e.1 launch then
    { s with cores := s.cores.map fun (e : Nat × Core) =>
        if some' && decide (e.1 ≠ core) then e
        else (e.1, { e.2 with ctxs := e.2.ctxs.map fun x =>
          (x.1, if mine x.2 then x.2.pendTrap { cause := 0x12, info := info } else x.2) }) }
  else overCapacity launch s

/-- LAUNCH_REPLAY (R372): firmware ends the launch in focus and replays it, or kills it; `aux` 1 says for
over-capacity. -/
def execLaunchReplay (s : State) : Host.Outcome State Fault Refusal :=
  .next (if s.foc.aux = 1 then overCapacity s.foc.id s else endByFirmware s.foc.id true s)

end Sys2Proof.Machine
end

