-- ==== Sys2Proof/Machine/Paths.lean ====
section
/-! DEFINITION. What happens on the memory paths between the cycles of a core: accesses that perform (R90, R144, R149),
data that arrives (R112), promotion and write-back (R155 to R157), the held buffer's release (R366), walks (R328, R329),
errors that nothing consumes (R368). -/

namespace Sys2Proof.Machine

/-! ### Accesses -/

/-- Whether every element of an access lies in a scratchpad. -/
def Access.inSp (a : Access) : Bool := !a.els.isEmpty && a.els.all fun e => match e.loc with | .sp _ _ => true | .gm _ => false

/-- The kinds of access, by the event that performs them. -/
inductive AccRow where
  | bank | perform | release | flag | event | record
  deriving DecidableEq, Repr

/-- The event that performs an access (R90, R144, R149, R296, R308, R311). -/
def Access.row (a : Access) : AccRow :=
  match a.kind with
  | .record => .record
  | .flag _ _ _ _ => .flag
  | .event _ _ _ => .event
  | .store => if a.rel.isSome then .release else if a.inSp then .bank else .perform
  | _ => if a.inSp then .bank else .perform

/-- The access in focus performs, if it is of that kind, may perform now, and finds its banks free. -/
def performRow (r : AccRow) (s : State) : State :=
  match s.core.acc.find? fun a => a.id = s.foc.id with
  | none => s
  | some a => if a.row = r ∧ eligible s.core a = true ∧ banksFree a s = true then performNow a s else s

/-- BANK_SERVICE (R90): a bank serves the access in focus. -/
def execBankService (s : State) : Host.Outcome State Fault Refusal := .next (performRow .bank s)

/-- ACCESS_PERFORM (R144): the access in focus performs at the L1 or its home. -/
def execAccessPerform (s : State) : Host.Outcome State Fault Refusal := .next (performRow .perform s)

/-- RELEASE_PERFORM (R149): the release in focus performs once its earlier accesses have. -/
def execReleasePerform (s : State) : Host.Outcome State Fault Refusal := .next (performRow .release s)

/-- FLAG_OPERATION_ARRIVAL (R296): the FLADD or FLSET in focus arrives at its target core. -/
def execFlagOperationArrival (s : State) : Host.Outcome State Fault Refusal := .next (performRow .flag s)

/-- EVENT_SIGNAL_ARRIVAL (R308): the EVSIG in focus arrives at its target instance. -/
def execEventSignalArrival (s : State) : Host.Outcome State Fault Refusal := .next (performRow .event s)

/-- LOAD_DATA_FILL (R112): the data of the queue entry in focus arrives. -/
def execLoadDataFill (s : State) : Host.Outcome State Fault Refusal := .next (s.modCtx fun c => c.arrive s.foc.id)

/-- The slots of the vertical bus that an entering action takes. -/
def Action.slots : Action → Nat
  | .access x => if x.path = .vert then x.slots else 0
  | _ => 0

/-- The hold of an entry that would enter its path now, as of an operation that starts (R366): its queue is full (R113, R138), or its
slots of the vertical bus come too late (R97). -/
def entryHold (a : Action) (s : State) : Option Nat :=
  let full : Bool := match a with
    | .access x => decide (x.h ≠ 0) && decide (32 ≤ s.core.loadQueue)
    | .copy _ => decide (32 ≤ s.core.copyq.length)
    | _ => false
  if full then some 3
  else if a.slots ≠ 0 ∧ s.core.clk + 7 < lastSlot a.slots s.core.clk s then some 2
  else none

/-- Whether an action may enter its path now: nothing holds it, the job queue has room (R257), and no entry of its context has entered
in this cycle (R366). -/
def mayEnter (a : Action) (s : State) : Bool :=
  (entryHold a s).isNone && decide (s.ctx.entered ≠ some s.core.clk)
    && match a with | .job j => j.isXdt || decide (s.core.jobq.length < 16) | _ => true

/-- HELD_ENTRY_COMMIT (R366): the oldest committed entry of the context in focus enters its path. -/
def execHeldEntryCommit (s : State) : Host.Outcome State Fault Refusal :=
  match s.ctx.entering with
  | [] => .next s
  | a :: r =>
    if mayEnter a s then
      let t := s.core.clk
      let u := if a.slots = 0 then s.core.busTo else lastSlot a.slots t s + 1
      .next (enterPath a ((s.modCtx fun c => { c with entering := r, entered := some t, entLoose := false }).modCore fun k =>
        { k with busTo := u }))
    else .next s

/-- The kind of the hold in which the first of the committed entries of some context keeps core `c`. -/
def entriesHold (c : Nat) (s : State) : Option Nat :=
  (s.coreAt c).ctxs.findSome? fun e =>
    match e.2.entering with
    | a :: _ => if e.2.entLoose then none else entryHold a (s.focusOn c e.1)
    | [] => none

/-- DRN_COMPLETE (R152): the conditions of a DRN that the context in focus is starting hold: it acts on its later paths. -/
def execDrnComplete (s : State) : Host.Outcome State Fault Refusal :=
  match s.ctx.starts.find? fun e => decide (e.due ≤ s.cyc) && match e.op with | .drn _ => true | _ => false with
  | none => .next s
  | some e =>
    match e.op with
    | .drn f =>
      let s' := { s with foc := { s.foc with ord := e.ord, k := e.k, idx := e.idx } }
      if decide (s.core.hold = some 5) && drained (bits f.off.toNat 7 0) f.sc.toNat s' then
        .next (drnAct f (s.modCtx fun c => { c.commit with starts := c.starts.filter fun x => x ≠ e }))
      else .next s
    | _ => .next s

/-! ### The L1 write-back unit -/

/-- Whether the oldest entry of a log is to be promoted: a request's cut covers it, or a narrow release finds the log full
(R156, R159). -/
def promotionAsked (k : Core) : Bool :=
  match k.plog with
  | [] => false
  | e :: _ => decide (k.hold = some 10) || (k.acc.any fun a => logFull k a)
      || k.pacq.any fun r => !r.done && match r.cut with | some c => decide ((c - e.num).toNat < 2 ^ 31) | none => false

/-- LOG_PROMOTION (R155): the oldest entry of the core in focus is promoted. -/
def execLogPromotion (s : State) : Host.Outcome State Fault Refusal :=
  match s.core.plog with
  | [] => .next s
  | e :: _ =>
    if promotionAsked s.core && promotable s.core e.gen then .next (promoteOldest s.foc.core s) else .next s

/-- L1_WRITE_BACK (R155): the write-back unit of the core in focus writes the line in focus back, after the entries it
follows; `aux` 1 says that the line is evicted. -/
def execL1WriteBack (s : State) : Host.Outcome State Fault Refusal :=
  match s.core.l1.find? fun x => x.pa = lineOf s.foc.id with
  | none => .next s
  | some x =>
    if x.dirty ≠ 0 ∧ promotable s.core x.gen = false then .next s
    else
      let s' := l1WriteBack s.foc.core x s
      .next (if s.foc.aux = 1 then l1Drop s.foc.core x s' else s')

/-- A PACQ request changed at its target. -/
def setPacq (id : Nat) (g : PacqReq → PacqReq) (s : State) : State :=
  s.modCore fun k => { k with pacq := k.pacq.map fun r => if r.id = id then g r else r }

/-- PACQ_REQUEST_ARRIVAL (R156): the request in focus takes its cut; a core whose entries another function made answers at
once (R333). -/
def execPacqRequestArrival (s : State) : Host.Outcome State Fault Refusal :=
  .next (setPacq s.foc.id (fun r =>
    if r.cut.isSome then r
    else { r with cut := some s.core.plnum
                  done := r.done || (!s.core.plog.isEmpty && decide (s.core.lastVF ≠ some r.vf)) }) s)

/-- PACQ_REPLY (R157): the cut of the request in focus is promoted. -/
def execPacqReply (s : State) : Host.Outcome State Fault Refusal :=
  .next (setPacq s.foc.id (fun r =>
    match r.cut with
    | none => r
    | some c => if s.core.plog.any fun e => decide ((c - e.num).toNat < 2 ^ 31) then r else { r with done := true }) s)

/-! ### Walks and errors -/

/-- The compute cycle in which a translation that hits in the second or third level ends (R328). -/
def Walk.hitAt (w : Walk) (s : State) : Option Nat :=
  if (tlbFind (s.tlb2 w.core) w.asid w.va).isSome then some (w.since + 12)
  else if (tlbFind (s.tlb3 w.core w.va) w.asid w.va).isSome then some (w.since + 40)
  else none

/-- Whether a translation hits and its cycle has come. -/
def Walk.hit (w : Walk) (s : State) : Bool :=
  !w.done && match w.hitAt s with | some t => decide (t ≤ (s.coreAt w.core).clk) | none => false

/-- Whether a translation has missed every level and needs a walk. -/
def Walk.missed (w : Walk) (s : State) : Bool :=
  !w.done && (w.hitAt s).isNone && decide (w.since + 40 ≤ (s.coreAt w.core).clk)

/-- Whether two misses are for one page of one address space (R329). -/
def samePage (a b : Walk) (s : State) : Bool :=
  decide (a.asid = b.asid) && match walkPage s.dev a.asid a.va with
    | some h => decide (h.va ≤ b.va) && decide (b.va < h.va + pageBytes h.psz)
    | none => decide (a.va / 65536 = b.va / 65536)

/-- The walks in progress on a base die. -/
def walkersOf (tower : Nat) (s : State) : List Walk :=
  s.dev.walks.filter fun w => w.begun && !w.done && decide (coreTower w.core = tower)

/-- Whether a miss is behind its function's own walks: the function holds WQ walkers of the base die (R329). -/
def Walk.atLimit (w : Walk) (s : State) : Bool :=
  decide (s.limit w.vf 1 ≤ ((walkersOf (coreTower w.core) s).filter fun x => x.vf = w.vf).length)

/-- Whether a miss waits for a walker of its own: no walk in progress serves its page. -/
def Walk.queued (w : Walk) (s : State) : Bool :=
  w.missed s && !w.begun && !((walkersOf (coreTower w.core) s).any fun x => samePage x w s)

/-- Whether a miss may take one of the 192 walkers now, in arrival order (R329). -/
def Walk.mayBegin (w : Walk) (s : State) : Bool :=
  w.queued s && !w.atLimit s && decide ((walkersOf (coreTower w.core) s).length < 192)
    && !(s.dev.walks.any fun x => decide (x.id < w.id) && decide (coreTower x.core = coreTower w.core) && x.queued s && !x.atLimit s)

/-- The misses that a walk serves. -/
def Walk.mates (w : Walk) (s : State) : List Walk :=
  s.dev.walks.filter fun x => x.missed s && decide (coreTower x.core = coreTower w.core) && (decide (x.id = w.id) || samePage w x s)

/-- A translation has ended: the entry found is filled into the TLBs that missed; a fault is left to the miss's user. -/
def endWalk (s : State) (w : Walk) : State :=
  let (h, s) := translate w.core w.asid w.va s
  s.modDev fun d => { d with walks := d.walks.map fun x => if x.id = w.id then { x with done := true, bad := h.isNone } else x }

/-- PAGE_WALK (R328, R329): the translation in focus ends with a hit, takes a walker, or ends with the walk that it shares with
every miss for its page. -/
def execPageWalk (s : State) : Host.Outcome State Fault Refusal :=
  match s.dev.walks.find? fun w => w.id = s.foc.id with
  | none => .next s
  | some w =>
    .next (if w.hit s then endWalk s w
      else if w.begun && w.missed s then (w.mates s).foldl endWalk s
      else if w.mayBegin s then
        s.modDev fun d => { d with walks := d.walks.map fun x => if x.id = w.id then { x with begun := true } else x }
      else s)

/-! ### Errors counted and not consumed (R368, R375) -/

/-- An error counted in the field at bit `at'` of the status word of physical bank `p`, up to 0xFFFF: CECNT at 48, UECNT at 32
(R375). -/
def countAt (slice : Bool) (i kind p at' : Nat) (s : State) : State :=
  let w := (bankWord (bankTable slice i s) kind p).toNat
  setBankTable slice i p (BitVec.ofNat 64 (w + (if bits w (at' + 15) at' = 0xFFFF then 0 else 2 ^ at'))) s

/-- An uncorrectable error counted by the bank in service for a logical bank of a core or slice (R375). -/
def countError (slice : Bool) (i kind l : Nat) (s : State) : State :=
  match servedBy (bankTable slice i s) kind l with
  | none => s
  | some p => countAt slice i kind p 32 s

/-- An uncorrectable error in a line of global memory that the L2 holds counts in a bank of its home slice: which bank a line is in is not
given (DESIGN CHOICE, log 38). -/
def countL2 (pa : Nat) (s : State) : State :=
  if (findLine s.dev.l2 pa).isSome then
    let (n, s) := s.fresh
    countError true (home pa) 2 (Config.choice n % 16) s
  else s

/-- ERROR_NOT_CONSUMED (R368): an uncorrectable error found where no context consumes it, in a line of global memory, or
with `aux` 1 of the SRAM of the core in focus; firmware handles it at the boundary of the launch in focus, if it concerns
one (R372). The other values of `aux` say that something has become corrupt which its next use will find (log 33): 2 the
register `line` (class × 256 + number) and 3 the byte `line` of spill memory of the context in focus (R368); 4 a term
(residue) and 5 a stored value (ECC) of the push in focus (R211); 7 the journal or checkpoint of the context in focus
(R369); 8 row `line % 128` of buffer `line / 128`, and 9 grid slot `line`, of the array of the core in focus (R211). A bank counts its
errors in UECNT (R375; DESIGN CHOICE, log 38: when they arise). With 10 it is an error that ECC has corrected, in physical bank `line`
of the core in focus, and with 11 in that of slice `id`: CECNT counts it and nothing else happens (R375). -/
def execErrorNotConsumed (line : Nat) (s : State) : Host.Outcome State Fault Refusal :=
  if s.foc.aux = 2 then
    let r : RegId := ⟨[.s, .v, .m, .p, .h, .sh, .th, .lp].getD (line / 256) .s, line % 256⟩
    let s := match registerBank s.foc.ctx r with | some l => countError false s.foc.core 1 l s | none => s
    .next (s.modArch fun a => { a with bad := r :: a.bad })
  else if s.foc.aux = 3 then .next (s.modArch fun a => { a with badSpill := line :: a.badSpill })
  else if s.foc.aux = 4 ∨ s.foc.aux = 5 then
    .next (match s.core.arr.pushes.find? fun p => p.id = s.foc.id with
      | some p => loseRows p (info14 0 3 p.op.opcode.toNat s.foc.aux s) s
      | none => s)
  else if s.foc.aux = 7 then
    .next (s.modCtx fun c => { c with seg := c.seg.map fun g => { g with bad := true } })
  else if s.foc.aux = 8 then
    let b := BitVec.ofNat 1 (line / 128)
    .next (s.modArr fun a => a.setBuf b { a.buf b with bad := line % 128 :: (a.buf b).bad })
  else if s.foc.aux = 10 ∨ s.foc.aux = 11 then
    let slice := decide (s.foc.aux = 11)
    let i := if slice then s.foc.id else s.foc.core
    let kind := bankKind slice line
    .next (if (banksOf kind).contains line && (!slice || decide (i < 128)) then countAt slice i kind line 48 s else s)
  else if s.foc.aux = 9 then
    .next (s.modArr fun a => { a with grid := a.grid.map fun e => if e.1 = line then (e.1, { e.2 with bad := true }) else e })
  else
    let l : Loc := if s.foc.aux = 1 then .sp s.foc.core (lineOf line) else .gm (lineOf line)
    let s := if s.foc.aux = 1 then countError false s.foc.core 0 (bankOf (lineOf line)) s else countL2 line s
    let s := s.modDev fun d => if d.badLines.contains l then d else { d with badLines := l :: d.badLines }
    .next (if s.foc.id = 0 then s else endByFirmware s.foc.id true s)

end Sys2Proof.Machine
end

