-- ==== Sys2Proof/Machine/Firmware.lean ====
section
/-! DEFINITION. What wellhead firmware does to the device (R388): address-space and key-slot descriptors, the key port,
limits, grants, the flush command; shoot-downs (R330, R331); function-level resets (R334, R335); answers to traps and
services (R352, R355); the firmware's own swap and restart (R389, R390, R360); bank status and retirement (R375 to R378). -/

namespace Sys2Proof.Machine

/-! ### KDSEL and KDDATA (R388) -/

/-- A write through KDDATA of the wellhead in focus (`foc.id`) refused: ERR is set and nothing else changes. -/
def kdErr (s : State) : State :=
  s.modDev fun d => { d with kdsel := d.kdsel.set (s.foc.id % 8) (d.kdsel.get (s.foc.id % 8) 0 ||| BitVec.ofNat 64 (2 ^ 55)) }

/-- A write to KDSEL: STRUCT and INDEX replaced, ERR cleared by a 1, reserved bits ignored (R7, R8). -/
def kdselWrite (old w : Word) : Word :=
  let err := old.getLsbD 55 && !w.getLsbD 55
  BitVec.ofNat 64 (bits w.toNat 63 56 * 2 ^ 56 + b2n err * 2 ^ 55 + bits w.toNat 39 0)

/-- ADDRESS_SPACE_DESCRIPTOR_WRITE (R324): VALID, VF and ROOT are kept, the reserved bits read 0 (R8). -/
def execAddressSpaceDescriptorWrite (index word : Nat) (s : State) : Host.Outcome State Fault Refusal :=
  if index ≥ 4096 then .next (kdErr s)
  else
    let w := bits word 63 63 * 2 ^ 63 + bits word 50 16 * 2 ^ 16
    .next (s.modDev fun d => { d with asd := d.asd.set index (BitVec.ofNat 64 w) })

/-- KEY_SLOT_DESCRIPTOR_WRITE (R337): GLOBAL and OWNER; slot 0 stays function 0's. -/
def execKeySlotDescriptorWrite (index word : Nat) (s : State) : Host.Outcome State Fault Refusal :=
  if index ≥ 1024 then .next (kdErr s)
  else if index = 0 then .next s
  else
    let k := { s.dev.keys.get index {} with glob := bit word 6, owner := bits word 4 0 }
    .next (s.modDev fun d => { d with keys := d.keys.set index k })

/-- A table of block keys in which number `b` stands for number `a`. -/
def renamed (a b : Nat) (m : Map Nat) : Map Nat := m.map fun e => if e.2 = a then (e.1, b) else e

/-- Every block encrypted under key number `a` counts as under key number `b`, those of shadow versions too (R341). -/
def renameKey (a b : Nat) (d : Dev) : Dev :=
  { d with
    blockKey := renamed a b d.blockKey
    launches := d.launches.map fun e => (e.1, { e.2 with shadow := e.2.shadow.map fun u => (u.1, { u.2 with keys := renamed a b u.2.keys }) }) }

/-- A slot loaded with a key; blocks encrypted under the same key when it was in the slot before read as written
(R336, R341). -/
def loadKey (index : Nat) (key : List Word) (d : Dev) : Dev :=
  let k := { d.keys.get index {} with loaded := true, key := key }
  let d := { d with keys := d.keys.set index k, keyPort := Map.drop d.keyPort index }
  match List.find? (fun e : Nat × List Word => decide (e.2 = key)) d.oldKeys with
  | none => d
  | some (n, _) => { renameKey n index d with oldKeys := Map.drop d.oldKeys n }

/-- KEY_PORT_WRITE (R337, R340): eight writes of 64 bits, lowest first; a LOADED slot refuses. -/
def execKeyPortWrite (index word : Nat) (s : State) : Host.Outcome State Fault Refusal :=
  if index ≥ 1024 ∨ (s.dev.keys.get index {}).loaded = true then .next (kdErr s)
  else
    let l := s.dev.keyPort.get index [] ++ [BitVec.ofNat 64 word]
    .next (s.modDev fun d =>
      if l.length < 8 then { d with keyPort := d.keyPort.set index l } else loadKey index l d)

/-- Every line of the L1s under a key slot written back and dropped. -/
def l1DropKey (key : Nat) (s : State) : State :=
  (List.range 256).foldl (fun s c =>
    ((s.coreAt c).l1.filter fun x => x.key = key).foldl (fun s x => l1Drop c x (l1WriteBack c x s)) s) s

/-- Every line of the L2 and then of the Mere under a key slot written back and dropped. -/
def cachesDropKey (key : Nat) (d : Dev) : Dev :=
  let d := (d.l2.filter fun c => c.key = key).foldl (fun d c => l2Drop c.pa (l2Flush c.pa 0 d)) d
  (d.mere.filter fun c => c.key = key).foldl (fun d c => mereDrop c.pa (mereFlush c.pa 0 d)) d

/-- Whether every line of the L1s under a key slot may leave its core now (R155). -/
def unloadReady (index : Nat) (s : State) : Bool := s.cores.all fun e => e.2.l1.all fun x => decide (x.key ≠ index) || mayLeave e.2 x

/-- KEY_SLOT_UNLOAD (R340): once the promotions before them let every line leave (R155), lines are written back and dropped, the key
erased, LOADED cleared; slot 0 is never unloaded (R337). The blocks stay encrypted under the erased key, which gets a number of its
own. -/
def execKeySlotUnload (index : Nat) (s : State) : Host.Outcome State Fault Refusal :=
  let k := s.dev.keys.get index {}
  if index = 0 ∨ k.loaded = false then .next s
  else if !unloadReady index s then
    .next (s.modDev fun d => { d with unloads := index :: d.unloads.filter fun i => i ≠ index })
  else
    let (n, s) := (l1DropKey index s).newId
    .next (s.modDev fun d =>
      let d := renameKey index (1024 + n) (cachesDropKey index d)
      { d with keys := d.keys.set index { k with loaded := false, key := [] }
               oldKeys := d.oldKeys.set (1024 + n) k.key
               unloads := d.unloads.filter fun i => i ≠ index })

/-- Whether a limit word takes a value (R287, R329, R369, R372, R383, R388). -/
def limitOk (word v : Nat) : Bool :=
  match word with
  | 0 => decide (256 ≤ v) && decide (v ≤ 65536)
  | 1 => decide (1 ≤ v) && decide (v ≤ 192)
  | 2 | 3 => decide (v ≤ 15)
  | 4 => decide (v < 2 ^ 32)
  | 5 => decide (v < 2 ^ 64)
  | 6 => decide (1 ≤ v) && decide (v ≤ 64)
  | _ => false

/-- FUNCTION_LIMITS_WRITE (R388). -/
def execFunctionLimitsWrite (index word : Nat) (s : State) : Host.Outcome State Fault Refusal :=
  if index / 8 < 32 ∧ limitOk (index % 8) word = true then
    .next (s.modDev fun d => { d with limits := d.limits.set index (BitVec.ofNat 64 word) })
  else .next (kdErr s)

/-- HOST_QUEUE_GRANT_WRITE (R388): [4:0] function, [5] valid. -/
def execHostQueueGrantWrite (index word : Nat) (s : State) : Host.Outcome State Fault Refusal :=
  if index ≥ 256 ∨ word ≥ 64 then .next (kdErr s)
  else
    let q := { s.dev.hostq.get index {} with grant := if bit word 5 then some (bits word 4 0) else none }
    .next (s.modDev fun d => { d with hostq := d.hostq.set index q })

/-- FLUSH_COMMAND (R388): the length in word 2 starts it. -/
def execFlushCommand (word : Nat) (s : State) : Host.Outcome State Fault Refusal :=
  let pa := s.dev.flushA.toNat
  let op := bits s.dev.flushK.toNat 17 16
  if word = 0 ∨ word % 128 ≠ 0 ∨ op = 0 ∨ s.dev.flush.isSome = true ∨ inHBM (pa + word - 1) = false then .next (kdErr s)
  else
    .next (s.modDev fun d => { d with
      flush := some { id := 0, pa := pa, len := word, key := bits d.flushK.toNat 9 0, op := op } })

/-- FLUSH_COMMAND_COMPLETE (R388): the command treats its next line; after the last one word 2 reads 0. -/
def execFlushCommandComplete (s : State) : Host.Outcome State Fault Refusal :=
  match s.dev.flush with
  | none => .next s
  | some c =>
    .next (s.modDev fun d => { flushFirst c d with
      flush := if c.len > 128 then some { c with pa := c.pa + 128, len := c.len - 128 } else none })

/-! ### Shoot-down (R330, R331) -/

/-- Whether a page of an address space overlaps a range; `all` names every page. -/
def covers (asid va count : Nat) (all : Bool) (h : Handle) : Bool :=
  decide (h.asid = asid)
    && (all || (decide (h.va < 65536 * (va + count)) && decide (65536 * va < h.va + pageBytes h.psz)))

/-- A handle of the range REVOKED, with the attributes it had (R122). -/
def revokeIf (p : Handle → Bool) (h : Handle) : Handle := if h.st = .valid ∧ p h = true then { h with st := .revoked } else h

/-- A result in flight that is a handle of the range. -/
def Payload.revoke (p : Handle → Bool) : Payload → Payload
  | .handle h => .handle (revokeIf p h)
  | v => v

/-- The same in a snapshot. -/
def Snap.revoke (p : Handle → Bool) : Snap → Snap
  | .result r ord reg v => .result r ord reg (v.revoke p)
  | x => x

/-- The handles of a saved context. -/
def Arch.revoke (p : Handle → Bool) (a : Arch) : Arch := { a with h := a.h.map fun e => (e.1, revokeIf p e.2) }

/-- The number of the handle that a held action names, if it is one of h3 to h15. -/
def Action.handles : Action → List Nat
  | .access a => [a.h]
  | .accesses l => l.map Access.h
  | .copy c => [c.srcH, c.dstH]
  | .job j => [j.srcH, j.dstH]
  | .launch r => [r.hn]
  | .flush c => [c.hn]

/-- An action whose commands name pages of the range. -/
def Action.revoke (p : Handle → Bool) (mine : Bool) (cut : List (Nat × Nat)) : Action → Action
  | .copy c => .copy { c with src := revokeIf p c.src, dst := revokeIf p c.dst, cut := if mine then c.cut ++ cut else c.cut }
  | .job j => .job { j with src := revokeIf p j.src, cut := if mine then j.cut ++ cut else j.cut }
  | .launch r => .launch { r with loc := revokeIf p r.loc }
  | x => x

/-- The handles of a context revoked; an open segment with a held entry that names one of them commits (R366). -/
def Ctx.revoke (p : Handle → Bool) (mine : Bool) (cut : List (Nat × Nat)) (c : Ctx) : Ctx :=
  let hit (n : Nat) : Bool := decide (3 ≤ n) && (let h := c.a.h.get n {}; decide (h.st = .valid) && p h)
  let c := match c.seg with
    | some g => if g.held.any fun a => a.handles.any hit then c.commit else c
    | none => c
  { c with
    a := c.a.revoke p
    flight := c.flight.map fun l => { l with val := l.val.revoke p }
    snap := c.snap.map (Snap.revoke p)
    fsnap := c.fsnap.map (Snap.revoke p)
    entering := c.entering.map (Action.revoke p mine cut)
    seg := c.seg.map fun g => { g with ck := g.ck.revoke p
                                       flight := g.flight.map fun l => { l with val := l.val.revoke p }
                                       held := g.held.map (Action.revoke p mine cut) } }

/-- Whether a launch is of an address space. -/
def inSpace (s : State) (asid launch : Nat) : Bool := match s.launchAt launch with | some l => decide (l.asid = asid) | none => false

/-- The pages that the TLB entries of a range map (R330 step 4). -/
def tlbPages (p : Handle → Bool) (s : State) : List (Nat × Nat) :=
  let l1 := s.cores.flatMap fun e => e.2.tlb
  let l2 := s.dev.tlb2.flatMap Prod.snd
  let l3 := s.dev.tlb3.flatMap Prod.snd
  (((l1 ++ l2 ++ l3).filter p).map fun h => (h.pa, pageBytes h.psz)).eraseDups

/-- Whether a walk-cache entry of an address space overlaps a range; `all` names every page. -/
def WalkEntry.overlaps (asid va count : Nat) (all : Bool) (e : WalkEntry) : Bool :=
  let size := 2 ^ (walkLevels.getD e.level default).1
  decide (e.asid = asid) && (all || (decide (e.pre * size < 65536 * (va + count)) && decide (65536 * va < (e.pre + 1) * size)))

/-- Whether a walk is for an address of a range. -/
def Walk.inRange (asid va count : Nat) (all : Bool) (w : Walk) : Bool :=
  decide (w.asid = asid) && (all || (decide (65536 * va ≤ w.va) && decide (w.va < 65536 * (va + count))))

/-- Step 1 (R330): the TLB and walk-cache entries of the range are dropped, and walks for it start again. -/
def invalidate (asid va count : Nat) (all : Bool) (s : State) : State :=
  let keep (l : List Handle) : List Handle := l.filter fun h => !covers asid va count all h
  let s := { s with cores := s.cores.map fun (e : Nat × Core) => (e.1, { e.2 with tlb := keep e.2.tlb }) }
  s.modDev fun d => { d with
    tlb2 := d.tlb2.map fun e => (e.1, keep e.2)
    tlb3 := d.tlb3.map fun e => (e.1, keep e.2)
    wcache := d.wcache.map fun e => (e.1, e.2.filter fun x => !x.overlaps asid va count all)
    walks := d.walks.map fun w => if w.inRange asid va count all then { w with begun := false, done := false, bad := false } else w }

/-- Step 2 (R330): the handles of the range are REVOKED wherever they stand; commands that have not translated a chunk of
the range will not. -/
def revokeAll (p : Handle → Bool) (asid : Nat) (cut : List (Nat × Nat)) (s : State) : State :=
  let s0 := s
  let mine (i : Option InstId) : Bool := match i with | some i => inSpace s0 asid i.launch | none => false
  let job (j : Job) : Job :=
    { j with src := revokeIf p j.src, cut := if mine (some j.inst) then j.cut ++ cut else j.cut }
  let copy (c : CopyCmd) : CopyCmd :=
    { c with src := revokeIf p c.src, dst := revokeIf p c.dst, cut := if mine (some c.inst) then c.cut ++ cut else c.cut }
  let s := s.mapCtxs fun c => c.revoke p (mine c.inst) cut
  let s := { s with cores := s.cores.map fun (e : Nat × Core) => (e.1, { e.2 with
    copyq := e.2.copyq.map copy, jobq := e.2.jobq.map job }) }
  s.modDev fun d => { d with
    jobs := d.jobs.map job
    lreqs := d.lreqs.map fun r => { r with loc := revokeIf p r.loc }
    launches := d.launches.map fun e => (e.1, { e.2 with insts := e.2.insts.map fun r =>
      { r with saved := r.saved.map (Arch.revoke p) } }) }

/-- The accesses to global memory of an address space that have not performed (step 3). -/
def outstanding (asid : Nat) (s : State) : List (Nat × Nat) :=
  s.cores.flatMap fun e => (e.2.waiting.filter fun a => decide (a.asid = asid) && !a.lines.isEmpty).map fun a => (e.1, a.id)

/-- The L1 lines of a core in some physical pages. -/
def linesIn (pages : List (Nat × Nat)) (k : Core) : List L1Line :=
  k.l1.filter fun x => pages.any fun p => decide (p.1 ≤ x.pa) && decide (x.pa < p.1 + p.2)

/-- Step 4 (R330): every L1 line of the pages is written back and dropped, log entries first (R155). -/
def writePagesBack (pages : List (Nat × Nat)) (s : State) : State :=
  (List.range 256).foldl (fun s c =>
    (linesIn pages (s.coreAt c)).foldl (fun s x => l1Drop c x (l1WriteBack c x s)) s) s

/-- SHOOT_DOWN_COMMAND (R330): steps 1 and 2 at once; the accesses that step 3 waits for are noted. -/
def execShootDownCommand (asid all wb va count : Nat) (s : State) : Host.Outcome State Fault Refusal :=
  let every := decide (all ≠ 0)
  if asid ≥ 4096 ∨ (every = false ∧ (count = 0 ∨ count ≥ 2 ^ 20 ∨ va ≥ 2 ^ 36)) then .next (kdErr s)
  else
    let p := covers asid va count every
    let pages := tlbPages p s
    let cut := if every then [(0, 2 ^ 52)] else [(65536 * va, 65536 * (va + count))]
    let s := revokeAll p asid cut (invalidate asid va count every s)
    .next (s.modDev fun d => { d with shoot := d.shoot ++ [{ asid := asid, all := every, wb := decide (wb ≠ 0), va := va
                                                             count := count, pages := pages, old := outstanding asid s }] })

/-- Whether the accesses that a shoot-down waits for have performed, and the lines it writes back may leave their cores. -/
def shootDone (c : ShootDown) (s : State) : Bool :=
  (c.old.all fun x => !((s.coreAt x.1).waiting.any fun a => a.id = x.2))
    && (!c.wb || s.cores.all fun e => (linesIn c.pages e.2).all (mayLeave e.2))

/-- SHOOT_DOWN_ACKNOWLEDGE (R330): the first command whose step 3 has ended does step 4 and is acknowledged. -/
def execShootDownAcknowledge (s : State) : Host.Outcome State Fault Refusal :=
  match s.dev.shoot.find? fun c => shootDone c s with
  | none => .next s
  | some c =>
    let s := if c.wb then writePagesBack c.pages s else s
    .next (s.modDev fun d => { d with shoot := d.shoot.erase c })

/-! ### Function-level reset (R334, R335) -/

/-- A host queue as a reset leaves it (R386). -/
def HostQueue.reset (q : HostQueue) : HostQueue := { q with rc := 0, wc := 0, st := 0, en := false, nref := 0, lastref := 0 }

/-- The launches of a function. -/
def launchesOf (vf : Nat) (s : State) : List Nat := (s.dev.launches.filter fun e => e.2.vf = vf).map Prod.fst

/-- The cores that the restart of their contexts has freed choose again. -/
def beginFlr (vf : Nat) (s : State) : State :=
  let s := s.modDev fun d => { d with
    flr := d.flr ++ [{ vf := vf, since := d.base }]
    hostq := d.hostq.map fun e => if e.2.grant = some vf then (e.1, { e.2 with st := 0 }) else e
    walks := d.walks.filter fun w => w.vf ≠ vf }
  let s := { s with cores := s.cores.map fun (e : Nat × Core) => (e.1, { e.2 with
    pacq := e.2.pacq.filter fun r => r.vf ≠ vf || r.cut.isSome }) }
  (launchesOf vf s).foldl (fun s l => stopLaunch l s) s

/-- The address spaces of a function. -/
def spacesOf (vf : Nat) (s : State) : List Nat := (s.dev.asd.filter fun e => bits e.2.toNat 50 46 = vf).map Prod.fst

/-- Whether everything that a function had sent has performed (R334 step 3), and its lines and those of its pages may leave their cores
(R155). -/
def flrQuiet (vf : Nat) (s : State) : Bool :=
  let pages := (spacesOf vf s).flatMap fun a => tlbPages (covers a 0 0 true) s
  !(s.cores.any fun e => e.2.waiting.any fun a => a.vf = vf)
    && s.cores.all fun e => (e.2.l1.all fun x => decide (x.vf ≠ vf) || mayLeave e.2 x) && (linesIn pages e.2).all (mayLeave e.2)

/-- The regions of a function's launches written with zero, FULL (R334 step 5), and the cores that held it scrubbed. -/
def scrubCore (vf : Nat) (ls : List Nat) (k : Core) : Core :=
  let mine := k.regions.filter fun r => ls.contains r.launch
  let inside (a : Nat) : Bool := mine.any fun r => decide (r.base ≤ a) && decide (a < r.base + r.size)
  let k := { k with sp := k.sp.filter fun c => !inside c.1
                    empt := k.empt.filter fun w => !inside (4 * w)
                    regions := k.regions.filter fun r => !ls.contains r.launch }
  if k.lastVF = some vf then { k with arr := {}, xpose := [], xposeW := [], xclear := false } else k

/-- Steps 4 to 7 (R334): a shoot-down of every address space of the function, the scrub, the launches' ends with status 2
in a completion word in global memory, the queues. -/
def finishFlr (vf : Nat) (s : State) : State :=
  let s := (spacesOf vf s).foldl (fun s a =>
    let p := covers a 0 0 true
    writePagesBack (tlbPages p s) (revokeAll p a [(0, 2 ^ 52)] (invalidate a 0 0 true s))) s
  let ls := launchesOf vf s
  let s := { s with cores := s.cores.map fun (e : Nat × Core) => (e.1, scrubCore vf ls e.2) }
  let s := ls.foldl (fun s l =>
    match s.launchAt l with
    | none => s
    | some x =>
      let s := discardShadow l x s
      forgetLaunch l (if complKind x.rc.compl then s else completionGlobal x 2 s)) s
  s.modDev fun d => { d with
    springs := d.springs.map fun e =>
      let l := e.2.filter fun r => r.vf ≠ vf
      (e.1, if (e.2.head?.map (·.vf)) = some vf then newHead d.base l else l)
    chanBuf := d.chanBuf.filter fun p => p.2.2.2 ≠ vf
    hostq := d.hostq.map fun e => if e.2.grant = some vf then (e.1, e.2.reset) else e
    flr := d.flr.filter fun f => f.vf ≠ vf }

/-- FUNCTION_LEVEL_RESET (R334): of a virtual function; steps 1 and 2 at once, and steps 3 to 7 when what it had sent has
performed. Function 0 is not reset this way. -/
def execFunctionLevelReset (vf : Nat) (s : State) : Host.Outcome State Fault Refusal :=
  if vf = 0 ∨ vf ≥ 32 then .next s
  else if s.resetting vf then .next (if flrQuiet vf s then finishFlr vf s else s)
  else .next (beginFlr vf s)

/-- FUNCTION_RESET_TIMEOUT (R335): a reset not complete within 2^21 base-die cycles goes to the next step of the ladder, the
restart of the wellheads (R360). -/
def execFunctionResetTimeout (vf : Nat) (s : State) : Host.Outcome State Fault Refusal :=
  if s.dev.flr.any fun f => decide (f.vf = vf) && decide (f.since + 2 ^ 21 ≤ s.dev.base) then
    .next (s.modDev fun d => { d with ladder := max d.ladder 4, fwDown := true })
  else .next s

/-! ### Traps and services that firmware answers -/

/-- Whether firmware answers requests now: not while the wellheads restart or a swap is in progress (R360, R390). -/
def firmwareUp (s : State) : Bool := !s.dev.fwDown && decide (s.dev.fwStatus ≠ 3)

/-- The causes that reach a context from outside its issues (R343, R346): of a fault that firmware or an engine finds. -/
def asyncCause (cause : Nat) : Bool := [0x0B, 0x10, 0x11, 0x12, 0x14, 0x17].contains cause

/-- PENDING_TRAP (R357) of the context in focus; any other cause is never raised this way. -/
def execPendingTrap (cause info : Nat) (s : State) : Host.Outcome State Fault Refusal :=
  if s.ctx.inst.isNone ∨ asyncCause cause = false then .next s
  else .next (s.modCtx fun c => c.pendTrap { cause := cause, info := BitVec.ofNat 64 info })

/-- Whether firmware may resolve or forward a trap that it holds: not over-capacity (R377), and not an error of a journal or
checkpoint, for which it ends the launch (R369, R372). -/
def mayResolve (q : TrapReq) : Bool := decide (q.cause ≠ 0x12) && !(decide (q.cause = 0x14) && decide (q.info.toNat % 256 = 7))

/-- Whether it may resume a context by resolving such a trap: one that arose in handler mode only when it is a page fault (R347; DEDUCED,
log 87). -/
def mayResume (q : TrapReq) (hmode : Bool) : Bool := mayResolve q && (!(hmode || q.hm) || decide (q.cause = 0x0B))

/-- SERVICE_ANSWER (R352): the context in focus is READY, and its answer lands in its resume issue's cycle. -/
def execServiceAnswer (word : Nat) (s : State) : Host.Outcome State Fault Refusal :=
  match s.ctx.svc, s.ctx.fwHeld with
  | some (sd, _), some q =>
    if decide (s.ctx.wait = some .service) && firmwareUp s then
      .next (becomeReady s.foc.core s.foc.ctx (s.modCtx fun c => { c with resume := some (q.owed, some (sd, BitVec.ofNat 64 word)) }))
    else .next s
  | _, _ => .next s

/-- FIRMWARE_TRAP_RESUME (R355): the context in focus resumes as by ERET; up to `aux` versions of its function's grant are added to its
shadow pool (R371, R397). -/
def execFirmwareTrapResume (s : State) : Host.Outcome State Fault Refusal :=
  match s.ctx.fwHeld with
  | some q =>
    if decide (s.ctx.wait = some .firmware) && mayResume q s.ctx.hmode && firmwareUp s then
      let vf := s.vfid
      let n := min s.foc.aux (s.grantOf vf)
      let s := s.modDev fun d => { d with pool := d.pool.set vf (s.poolOf vf + n), grants := d.grants.set vf (s.grantOf vf - n) }
      .next (becomeReady s.foc.core s.foc.ctx (s.modCtx fun c => { c with resume := some (q.owed, none) }))
    else .next s
  | none => .next s

/-- FIRMWARE_TRAP_FORWARD (R355): the handler is entered as at a trap in the cycle of forwarding, with FWD = 1; a launch
without a handler, or a trap that arose in handler mode, is killed (R347). -/
def execFirmwareTrapForward (s : State) : Host.Outcome State Fault Refusal :=
  match s.ctx.fwHeld, s.launch? with
  | some q, some l =>
    if decide (s.ctx.wait = some .firmware) && mayResolve q && firmwareUp s then
      if !l.rc.hnd || s.ctx.hmode then .next (killHere s)
      else
        let f := s.cyc
        .next (becomeReady s.foc.core s.foc.ctx (s.modCtx fun c =>
          { c.enterHandler q c.fsnap true f l.handlerPC with fwHeld := none, fsnap := [] }))
    else .next s
  | _, _ => .next s

/-! ### The firmware itself (R389, R390, R360) -/

/-- The host address space as the device reaches it through its window (R101); an address of the host is an offset in it
(DESIGN CHOICE, log 34). -/
def hostAddr (a : Nat) : Nat := 0x200000000000 + a % 2 ^ 45

/-- `n` bytes of the host's memory from an address of it on. -/
def hostBytes (s : State) (a n : Nat) : List Nat := (List.range n).map fun i => (s.dev.hostMem.byte (hostAddr (a + i))).toNat

/-- Whether a staged image passes its checks (R389): magic, zeros, the digest of the image, the signature of its header. -/
def imageOk (s : State) (a : Nat) : Bool :=
  let h := hostBytes s a 256
  let at' (o n : Nat) : List Nat := (h.drop o).take n
  decide (packElems 8 (at' 0 4) = 0x4B5A4657) && (at' 0xA0 96).all (· = 0)
    && decide (sha384 (hostBytes s (a + 256) (packElems 8 (at' 8 8))) = bigEndian (at' 0x10 48))
    && ecdsaOk Config.romPublic (sha384 (at' 0 64)) (bigEndian (at' 0x40 48)) (bigEndian (at' 0x70 48))

/-- Whether a swap in progress has had its 2^24 base-die cycles. -/
def swapLate (d : Dev) : Bool := (decide (d.fwStatus = 2) || decide (d.fwStatus = 3)) && decide (d.fwSince + 2 ^ 24 ≤ d.base)

/-- A swap is given up and the wellheads restart (R390). -/
def abandonSwap (d : Dev) : Dev := { d with fwStatus := 5, fwDown := true, ladder := max d.ladder 4 }

/-- FIRMWARE_SWAP_GO (R390): a write of GO starts it (`aux` 0); the verification of the staged image (`aux` 1) and the
takeover on all wellheads (`aux` 2) follow, in the time that a swap has. -/
def execFirmwareSwapGo (s : State) : Host.Outcome State Fault Refusal :=
  let d := s.dev
  match s.foc.aux with
  | 0 => .next (if d.fwStatus = 2 ∨ d.fwStatus = 3 ∨ d.fwDown = true then s
      else s.modDev fun d => { d with fwStatus := 2, fwSince := d.base })
  | 1 =>
    if swapLate d then .next (s.modDev abandonSwap)
    else if d.fwStatus ≠ 2 then .next s
    else if imageOk s d.fwStage.toNat then
      let v := BitVec.ofNat 32 (d.hostMem.read (hostAddr d.fwStage.toNat + 4) 4)
      .next (s.modDev fun d => { d with fwStatus := 3, fwStaged := v, fwImage := some v })
    else .next (s.modDev fun d => { d with fwStatus := 1 })
  | _ =>
    .next (if swapLate d then s.modDev abandonSwap
      else if d.fwStatus = 3 then s.modDev fun d => { d with fwStatus := 4, fwRun := d.fwImage.getD d.fwRun } else s)

/-- FIRMWARE_SWAP_TIMEOUT (R390): a swap not ended within 2^24 base-die cycles is given up and the wellheads restart with
the last verified image. -/
def execFirmwareSwapTimeout (s : State) : Host.Outcome State Fault Refusal :=
  .next (if swapLate s.dev then s.modDev abandonSwap else s)

/-- WELLHEAD_RESTART (R360): the restart begins, or the restart in progress completes with the last verified image, whatever its
version; contexts run on, and requests are held meanwhile. -/
def execWellheadRestart (s : State) : Host.Outcome State Fault Refusal :=
  if s.dev.fwDown then
    .next (s.modDev fun d => { d with fwDown := false, ladder := 0, kdsel := [], harts := [], fwRun := d.fwImage.getD d.fwRun })
  else
    .next (s.modDev fun d => { d with fwDown := true, ladder := max d.ladder 4, fwStatus := if d.fwStatus = 3 then 5 else d.fwStatus })

/-! ### Bank maps and retirement (R375 to R378) -/

/-- A bank's STATE and LOGICAL changed. -/
def markBank (slice : Bool) (i p st l : Nat) (s : State) : State :=
  setBankTable slice i p (setBank (bankWord (bankTable slice i s) (bankKind slice p) p) st l) s

/-- The fields of INDEX (R388): core or slice, kind, physical bank. -/
def bankIndex (index : Nat) : Nat × Nat × Nat := (bits index 39 32, bits index 31 24, bits index 7 0)

/-- BANK_STATUS_WRITE (R375): only CECNT is RW. -/
def execBankStatusWrite (index word : Nat) (s : State) : Host.Outcome State Fault Refusal :=
  let (i, kind, p) := bankIndex index
  if kind > 2 ∨ (kind = 2 ∧ i ≥ 128) ∨ (banksOf kind).contains p = false then .next (kdErr s)
  else
    let slice := decide (kind = 2)
    let old := (bankWord (bankTable slice i s) kind p).toNat
    .next (setBankTable slice i p (BitVec.ofNat 64 (bits word 63 48 * 2 ^ 48 + old % 2 ^ 48)) s)

/-- A retirement in progress on a core or slice. -/
def retireOf (slice : Bool) (i : Nat) (s : State) : Option Retire := if slice then s.dev.l2Ret.find? i else (s.coreAt i).retire

/-- The retirement of a core or slice set, or ended. -/
def setRetire (slice : Bool) (i : Nat) (r : Option Retire) (s : State) : State :=
  if slice then s.modDev fun d => { d with l2Ret := match r with | some x => d.l2Ret.set i x | none => Map.drop d.l2Ret i }
  else s.modCoreAt i fun k => { k with retire := r }

/-- A move from bank `src` into bank `dst` begins (R376): the source is evacuating, the target in service. -/
def beginMove (slice : Bool) (i src dst l : Nat) (spare : Bool) (s : State) : State :=
  let lines := if bankKind slice src = 1 then 64 else 1024
  setRetire slice i (some { kind := bankKind slice src, src := src, dst := dst, lines := lines, spare := spare })
    (markBank slice i dst 1 l (markBank slice i src 2 l s))

/-- A retirement without a spare waits until what it takes out of service is given up (R377). -/
def waitRetire (i src : Nat) (s : State) : State :=
  setRetire false i (some { kind := bankKind false src, src := src, dst := src, lines := if bankKind false src = 1 then 64 else 1024
                            spare := false, wait := true }) s

/-- The launches whose regions hold words of the top scratchpad group of a core. -/
def topLaunches (k : Core) : List Nat :=
  let g := k.spLog / 4 - 1
  (k.regions.filter fun r => decide (r.base < (g + 1) * 524288) && decide (g * 524288 < r.base + r.size)).map Region.launch

/-- Whether nothing keeps what a waiting retirement takes: no region of the group, whose dirty L1 lines may leave; no instance on the
context that loses a bank (R377). -/
def Core.vacated (k : Core) : Bool :=
  if k.losesGroup then (topLaunches k).isEmpty && k.l1.all (mayLeave k)
  else k.losesBank && decide ((k.ctxAt k.loser.1).st = .free)

/-- The top scratchpad group leaves service (R377): dirty L1 lines are written back, and the source evacuates into the group's bank of
its position unless it is in the group. -/
def loseGroup (i src : Nat) (s : State) : State :=
  let k := s.coreAt i
  let g := k.spLog / 4 - 1
  let l := bankLogical (bankWord k.banks 0 src)
  let s := emptyL1 i (setRetire false i none s)
  let target := if 4 * g ≤ l then none else servedBy k.banks 0 (4 * g + l % 4)
  let group := (List.range 4).filterMap fun j => servedBy k.banks 0 (4 * g + j)
  let s := (group.filter fun p => some p ≠ target).foldl (fun s p => markBank false i p 3 0xFF s) s
  let s := s.modCoreAt i fun k => { k with spLog := k.spLog - 4 }
  match target with
  | some t => beginMove false i src t l false s
  | none => s

/-- A register bank is lost (R377), and the source moves into it unless it is the source itself. -/
def loseRegisterBank (i src : Nat) (s : State) : State :=
  let k := s.coreAt i
  let (c, l, vec) := k.loser
  let s := (setRetire false i none s).modCoreAt i fun k =>
    if vec then { k with nvb := k.nvb.set c (k.nvb.get c 4 - 1) } else { k with nmb := k.nmb.set c (k.nmb.get c 2 - 1) }
  match servedBy k.banks 1 l with
  | some p =>
    if p = src then markBank false i src 3 0xFF s
    else beginMove false i src p (bankLogical (bankWord k.banks 1 src)) false s
  | none => s

/-- What a waiting retirement takes leaves service once it is given up. -/
def loseNow (i : Nat) (s : State) : State :=
  match (s.coreAt i).retire with
  | some r =>
    if r.wait && (s.coreAt i).vacated then (if r.kind = 0 then loseGroup i r.src s else loseRegisterBank i r.src s) else s
  | none => s

/-- What holds the group or bank to be lost takes over-capacity first (R377). -/
def takeOver (i kind : Nat) (s : State) : State :=
  let k := s.coreAt i
  if kind = 0 then (topLaunches k).foldl (fun s l => raiseOver l i (info12 i (k.spLog / 4 - 1) 1) s) s
  else
    let (c, l, vec) := k.loser
    match (k.ctxAt c).inst with
    | some x => raiseOver x.launch i (info12 i l (if vec then 2 else 3)) s
    | none => s

/-- An L2 bank leaves service without a spare (R377): dirty lines are written back and every line is dropped; which lines
of the slice lie in the bank is not architectural, and all of the slice's are treated. -/
def loseL2Bank (i src : Nat) (s : State) : State :=
  let s := s.modDev fun d => (d.l2.filter fun c => home c.pa = i).foldl (fun d c => l2Drop c.pa (l2Flush c.pa 0 d)) d
  (markBank true i src 3 0xFF s).modDev fun d => { d with l2Log := d.l2Log - 1 }

/-- A bank in service begins to retire, into the lowest spare of its kind, else as R377 says; any other bank does nothing. -/
def retireBank (slice : Bool) (i p : Nat) (s : State) : State :=
  let pk := bankKind slice p
  let m := bankTable slice i s
  let w := bankWord m pk p
  if !(banksOf pk).contains p || decide (bankState w ≠ 1) then s
  else
    match (banksOf pk).find? fun q => bankState (bankWord m pk q) = 0 with
    | some q => beginMove slice i p q (bankLogical w) true s
    | none => if pk = 2 then loseL2Bank i p s else takeOver i pk (waitRetire i p s)

/-- The repair record lists a bank as retired, which the next reset applies (R108; DESIGN CHOICE, log 38). -/
def listRetired (slice : Bool) (i p : Nat) (s : State) : State :=
  s.modDev fun d => { d with record := d.record ++ [(bankKind slice p, i, p)] }

/-- RETIREMENT_COMMAND (R375 to R377): PBANK, and with GO the retirement of a bank in service, one at a time on a core or
slice (R378). -/
def execRetirementCommand (index word : Nat) (s : State) : Host.Outcome State Fault Refusal :=
  let (i, kind, _) := bankIndex index
  let slice := decide (kind = 2)
  let p := bits word 7 0
  if kind > 2 ∨ (slice = true ∧ i ≥ 128) then .next (kdErr s)
  else
    let busy := (retireOf slice i s).isSome
    let serves := decide (bankState (bankWord (bankTable slice i s) (bankKind slice p) p) = 1)
    let s := if slice then s.modDev fun d => { d with l2Cmd := d.l2Cmd.set i (BitVec.ofNat 64 p) }
      else s.modCoreAt i fun k => { k with retCmd := BitVec.ofNat 64 p }
    if busy || !bit word 63 then .next s
    else
      let s := retireBank slice i p s
      .next (if serves && (retireOf slice i s).isNone then listRetired slice i p s else s)

/-- The spares of a kind fall by one (R108, R376). -/
def useSpare (r : Retire) (i : Nat) (s : State) : State :=
  if !r.spare then s
  else if r.kind = 2 then s.modDev fun d => { d with l2Spare := d.l2Spare - 1 }
  else s.modCoreAt i fun k => if r.kind = 0 then { k with spSpare := k.spSpare - 1 } else { k with rgSpare := k.rgSpare - 1 }

/-- The retirement of a core or slice ends: the map names the target and the source is retired (R376). -/
def endRetire (slice : Bool) (i : Nat) (s : State) : State :=
  match retireOf slice i s with
  | none => s
  | some r => useSpare r i (setRetire slice i none (markBank slice i r.src 3 0xFF s))

/-- The retirements that a repair record lists are made at a reset (R108): nothing is bound, so that none waits. -/
def applyBanks (s : State) : State :=
  s.dev.record.foldl (fun s (e : Nat × Nat × Nat) =>
    let slice := decide (e.1 = 2)
    endRetire slice e.2.1 (loseNow e.2.1 (retireBank slice e.2.1 e.2.2 s))) s

/-- The wellhead verifies the repair record at a reset (R389): a good one takes the banks that it lists out of service and loads the
soft-repair registers, before any core starts (R108, R395); a record that lists nothing is none (log 38). -/
def applyRecord (s : State) : State :=
  let d := s.dev
  if d.record.isEmpty && d.softRec.isEmpty then s.modDev fun d => { d with repair := 0, repairN := 0, soft := [] }
  else if Config.recordOk d.record d.softRec then
    (applyBanks s).modDev fun d => { d with
      repair := BitVec.ofNat 64 (2 ^ 32 + d.record.length)
      repairN := BitVec.ofNat 64 (d.softRec.length % 65536 * 65536 + d.record.length % 65536)
      soft := d.softRec }
  else s.modDev fun d => { d with repair := BitVec.ofNat 64 (2 ^ 33), repairN := 0, soft := [] }

/-- A line in motion of the retirement of a core or slice has been written to its target; after the last line the map names the
target (R376). -/
def lineMoved (slice : Bool) (i : Nat) (s : State) : State :=
  match retireOf slice i s with
  | none => s
  | some r =>
    if r.moved + 1 < r.lines then setRetire slice i (some { r with moved := r.moved + 1, locked := false, age := 0 }) s
    else listRetired slice i r.src (endRetire slice i s)

/-- The bank access of a move (R376): it goes before every row of R90. -/
def moveAccess (i : Nat) (r : Retire) (s : State) : State :=
  if r.kind = 0 then takeBank false (i, bankLine (bankLogical (bankWord (s.coreAt i).banks 0 r.src)) r.moved) s else s

/-- BANK_LINE_MOVE (R376) of the core in focus (`aux` 0) or of slice `id` (`aux` 1): a retirement that waits goes on when it may
(R377); the next line is locked as its old copy is read, and the lock ends as its new copy is written. Contents, full/empty bits and
poison stay those of the logical bank. The lines of a slice have no place in it that a program could see, and none is locked (log 20). -/
def execBankLineMove (s : State) : Host.Outcome State Fault Refusal :=
  let slice := decide (s.foc.aux = 1)
  let i := if slice then s.foc.id else s.foc.core
  match retireOf slice i s with
  | none => .next s
  | some r =>
    if r.wait then
      let t := loseNow i s
      .next (if (retireOf slice i t).isNone then listRetired slice i r.src t else t)
    else if slice then .next (lineMoved slice i s)
    else if r.locked then .next (lineMoved slice i (moveAccess i r s))
    else .next (setRetire slice i (some { r with locked := true, age := 0 }) (moveAccess i r s))

/-- A compute cycle of a core whose line is in motion: the lock lasts at most 64 of them (R376). -/
def lockAges (i : Nat) (s : State) : State :=
  match (s.coreAt i).retire with
  | some r =>
    if !r.locked then s
    else if r.age < 62 then setRetire false i (some { r with age := r.age + 1 }) s
    else lineMoved false i (moveAccess i r s)
  | none => s

end Sys2Proof.Machine
end

