-- ==== Sys2Proof/Machine/Host.lean ====
section
/-! DEFINITION. What the host, the tarn links and the package do to the device: host queues (R384 to R386), CXL.mem and
completion timeouts (R382, R383), link ports and collectives (R373, R374, R387), throttling (R394), resets (R337, R395);
and the registers that the host and the wellheads read (R375, R384, R387, R388, R391 to R393). -/

namespace Sys2Proof.Machine

/-! ### Host queues (R384 to R386) -/

/-- Host queue q. -/
def queueAt (s : State) (q : Nat) : HostQueue := s.dev.hostq.get q {}

/-- A host queue changed. -/
def setQueue (q : Nat) (g : HostQueue → HostQueue) (s : State) : State :=
  s.modDev fun d => { d with hostq := d.hostq.set q (g (d.hostq.get q {})) }

/-- Whether function `vf` reaches queue q (R384). -/
def reaches (vf q : Nat) (s : State) : Bool := decide (q < 256) && decide ((queueAt s q).grant = some vf)

/-- QCTL written (R384): RST resets the queue and the rest of the word does nothing; else an LSZ outside 3 to 16 leaves EN at 0; a queue
that runs is in STATE 1, and overflow stays until a reset (R385). -/
def HostQueue.control (w now : Nat) (q : HostQueue) : HostQueue :=
  let lsz := bits w 28 24
  let en := bit w 31 && decide (3 ≤ lsz) && decide (lsz ≤ 16)
  if bit w 32 then q.reset
  else { q with en := en, lsz := lsz, asid := bits w 11 0, st := if q.st = 2 then 2 else b2n en, since := now }

/-- QWC_DOORBELL (R385), by the function in focus (`aux`). -/
def execQwcDoorbell (queue count : Nat) (s : State) : Host.Outcome State Fault Refusal :=
  let q := queueAt s queue
  let w := BitVec.ofNat 32 count
  if !reaches s.foc.aux queue s || decide (q.st = 2) || s.resetting s.foc.aux then .next s
  else if (w - q.rc).toNat ≤ 2 ^ q.lsz then
    .next (setQueue queue (fun q => { q with wc := w, since := if q.rc = q.wc then s.dev.base else q.since }) s)
  else .next (setQueue queue (fun q => { q with st := 2 }) s)

/-- QCTL_RST (R386). -/
def execQctlRst (queue : Nat) (s : State) : Host.Outcome State Fault Refusal :=
  .next (if reaches s.foc.aux queue s then setQueue queue HostQueue.reset s else s)

/-- Whether queue q has an entry to consume (R385). -/
def mayConsume (q : Nat) (s : State) : Bool :=
  let h := queueAt s q
  h.en && decide (h.st = 1) && decide (h.rc ≠ h.wc)
    && match h.grant with | some vf => !s.resetting vf | none => false

/-- Whether the read of the next entry of queue q has run out of its time (R383): it waits for the CXL port. -/
def queueLate (q : Nat) (s : State) : Bool :=
  mayConsume q s && !s.hostUp && match (queueAt s q).grant with | some vf => s.hostLate vf (queueAt s q).since | none => false

/-- The next entry of queue q is consumed and refused with a subcode (R385). -/
def refuseEntry (q sub : Nat) (s : State) : State :=
  setQueue q (fun q => { q with rc := q.rc + 1, nref := min 0xFFFF (q.nref + 1), lastref := sub, since := s.dev.base }) s

/-- QUEUE_ENTRY_CONSUME (R385): the next entry of the queue in focus (`id`) is read, counted and checked under R278 with the
queue's address space and function; a record whose spring queue is full stays in the ring until there is room. The port must carry the
read (R382). -/
def execQueueEntryConsume (s : State) : Host.Outcome State Fault Refusal :=
  let n := s.foc.id
  let h := queueAt s n
  match mayConsume n s && s.hostUp, h.grant with
  | true, some vf =>
    let a := hostAddr (h.base.toNat + 128 * (h.rc.toNat % 2 ^ h.lsz))
    let x := s.dev.hostMem.read a 128
    match (if badGlobal s a 128 then .error 5 else checkRecord s x vf h.asid none true :
        Except Nat LaunchRec) with
    | .error sub => .next (refuseEntry n sub (if badGlobal s a 128 then s else recordTouch x vf h.asid true s))
    | .ok rc =>
      if (springOf s rc.queue).length ≥ 256 then .next (setQueue n (fun q => { q with since := s.dev.base }) s)
      else .next (enterSpring { rc := rc, vf := vf, asid := h.asid, parent := none }
        (setQueue n (fun q => { q with rc := q.rc + 1, since := s.dev.base }) (recordTouch x vf h.asid true s)))
  | _, _ => .next s

/-! ### The capability list (R391) -/

/-- The entries of the capability list in their order: ID and LEN (R391, R392; the order is a DESIGN CHOICE, log 39). ID 5 is
present only on KZ9-YH-MOD (R2). -/
def capEntries : List (Nat × Nat) := [(1, 2), (2, 12), (3, 18), (4, 4)] ++ (if Config.isModule then [(5, 19)] else []) ++ [(6, 3)]

/-- The entries with their offsets, one after another: offset, ID, LEN. -/
def capPlaces (at' : Nat) : List (Nat × Nat) → List (Nat × Nat × Nat)
  | [] => []
  | (id, len) :: r => (at', id, len) :: capPlaces (at' + 8 * len) r

/-- The capability list, from BAR 0 offset 0x100 (R391). -/
def capList : List (Nat × Nat × Nat) := capPlaces 0x100 capEntries

/-! ### KDDATA (R388) -/

/-- A word of the flush structure but the last. -/
def flushWord (n word : Nat) (s : State) : State :=
  let w := BitVec.ofNat 64 word
  if n = 0 then if word % 128 = 0 ∧ inHBM word = true then s.modDev fun d => { d with flushA := w } else kdErr s
  else if word / 2 ^ 18 = 0 ∧ bits word 15 10 = 0 ∧ bits word 17 16 ≠ 0 then s.modDev fun d => { d with flushK := w } else kdErr s

/-- COLLECTIVE_CHANNEL_WRITE (R373); firmware assigns the channel to the launch that the focus names, if it names one (R374; DESIGN
CHOICE, log 106). -/
def execCollectiveChannelWrite (index word : Nat) (s : State) : Host.Outcome State Fault Refusal :=
  if index ≥ 256 then .next (kdErr s)
  else
    let s := setAttempt index (bits word 63 48) s
    .next (s.modDev fun d => { d with
      chans := d.chans.set index (BitVec.ofNat 64 (bits word 63 32 * 2 ^ 32 + bits word 16 0))
      chanUse := if s.foc.id = 0 then d.chanUse else d.chanUse.set index s.foc.id })

/-- The mode and the last exception of wellhead `n` (R388). -/
def State.hart (s : State) (n : Nat) : Hart := s.dev.harts.get n {}

/-- What an access of wellhead `n` to one of its custom CSRs does: `act` in Machine mode; in another the illegal-instruction exception,
which Machine mode takes as cause 2 (R388; PRESUMED, log 111). -/
def csrAccess (n : Nat) (act : State → Host.Outcome State Fault Refusal) (s : State) : Host.Outcome State Fault Refusal :=
  if (s.hart n).mode = 3 then act s
  else .next (s.modDev fun d => { d with harts := d.harts.set n { mode := 3, before := (s.hart n).mode, cause := 2 } })

/-- A write of KDDATA of wellhead `n` acts on the structure word that its KDSEL selects (R388). The layout of the word that starts a
shoot-down is not given: SHOOT_DOWN_COMMAND has its fields (log 100). -/
def kdWrite (n word : Nat) (s : State) : Host.Outcome State Fault Refusal :=
  let sel := (s.dev.kdsel.get n 0).toNat
  let i := bits sel 39 0
  let s := { s with foc := { s.foc with id := n } }
  match bits sel 63 56 with
  | 1 => execAddressSpaceDescriptorWrite i word s
  | 2 => execKeySlotDescriptorWrite i word s
  | 3 => execKeyPortWrite i word s
  | 5 => execBankStatusWrite i word s
  | 6 => execRetirementCommand i word s
  | 7 => if i < 256 then execCollectiveChannelWrite i word { s with foc := { s.foc with id := 0 } } else .next (kdErr s)
  | 8 => execFunctionLimitsWrite i word s
  | 9 => execHostQueueGrantWrite i word s
  | 10 => if i < 2 then .next (flushWord i word s) else if i = 2 then execFlushCommand word s else .next (kdErr s)
  | _ => .next (kdErr s)

/-! ### Register writes (R7) -/

/-- Where the registers of a host queue stand in BAR 0: the queue and the register at an offset (R384, R392). -/
def barQueue (off : Nat) : Option (Nat × Nat) :=
  if 0x1000 ≤ off ∧ off < 0x1000 + 32 * 256 then some ((off - 0x1000) / 32, off % 32 / 8) else none

/-- A register of a queue written by the function in focus (`aux`). -/
def queueWrite (q reg word : Nat) (s : State) : Host.Outcome State Fault Refusal :=
  match reg with
  | 0 => .next (if reaches s.foc.aux q s then
      setQueue q (fun q => { q with base := BitVec.ofNat 64 (word % 2 ^ 64 / 4096 * 4096) }) s else s)
  | 1 => .next (if reaches s.foc.aux q s then setQueue q (HostQueue.control (word % 2 ^ 64) s.dev.base) s else s)
  | 2 => execQwcDoorbell q word s
  | _ => .next s

/-- What the CXL port is told: [0] IDE required, [1] keyed (R382). -/
def cxlWrite (word : Nat) (s : State) : State :=
  s.modDev fun d => { d with cxl := { d.cxl with ideReq := bit word 0, ideKey := bit word 1 } }

/-- A register of BAR 0 of the physical function's capability list that software writes (R392): STAGE, and GO of the firmware status. -/
def capWrite (off word : Nat) (s : State) : Host.Outcome State Fault Refusal :=
  match capList.find? fun e => decide (e.2.1 = 4) with
  | none => .next s
  | some (o, _, _) =>
    if off = o + 16 then .next (s.modDev fun d => { d with fwStage := BitVec.ofNat 64 (word % 2 ^ 64 / 4096 * 4096) })
    else if off = o + 24 ∧ bit word 0 = true then execFirmwareSwapGo { s with foc := { s.foc with aux := 0 } }
    else .next s

/-- The registers without a row of their own, by the unit a REGISTER_WRITE names (log 35): 0 KDSEL of wellhead `index`,
1 QBASE and 2 QCTL of queue `index`, 3 STAGE of the firmware capability, 4 THROT in units of 0.125 °C, 5 and 6 words 0 and 1
of the flush structure, 7 KDDATA of wellhead `index`, 8 what the CXL port is told of IDE, 9 offset `index` of BAR 0 as the function in
focus (`aux`) writes it. 10 to 12 are no registers: whether module power stage `index` reports a fault, a soft repair of vertical
bus `index` that the repair record lists from the next reset on, and the mode in which wellhead `index` runs on. Any other register is read-only, and a write has no effect. -/
def execRegisterWrite (unit index word : Nat) (s : State) : Host.Outcome State Fault Refusal :=
  match unit with
  | 0 => if index < 8 then csrAccess index (fun s => .next (s.modDev fun d => { d with
      kdsel := d.kdsel.set index (kdselWrite (d.kdsel.get index 0) (BitVec.ofNat 64 word)) })) s else .next s
  | 1 => queueWrite index 0 word s
  | 2 => queueWrite index 1 word s
  | 3 => .next (s.modDev fun d => { d with fwStage := BitVec.ofNat 64 (word % 2 ^ 64 / 4096 * 4096) })
  | 4 => .next (if 560 ≤ word ∧ word ≤ 840 then s.modDev fun d => { d with throt := word } else kdErr s)
  | 5 => .next (flushWord 0 word s)
  | 6 => .next (flushWord 1 word s)
  | 7 => if index < 8 then csrAccess index (kdWrite index word) s else .next s
  | 8 => .next (cxlWrite word s)
  | 9 =>
    match barQueue index with
    | some (q, r) => queueWrite q r word s
    | none => if s.foc.aux = 0 then capWrite index word s else .next s
  | 10 => .next (if index < 16 then s.modDev fun d => { d with
      stages := (d.stages.filter fun i => i ≠ index) ++ (if bit word 0 then [index] else []) } else s)
  | 11 => .next (s.modDev fun d => { d with softRec := Map.set d.softRec index (BitVec.ofNat 64 word) })
  | 12 => .next (if index < 8 ∧ word < 4 ∧ word ≠ 2 then
      s.modDev fun d => { d with harts := d.harts.set index { s.hart index with mode := word } } else s)
  | _ => .next s

/-! ### CXL.mem and the HOST path (R382, R383) -/

/-- HOST_MEMORY_ACCESS (R382): `aux` bytes (0 is 64) at a device address, under key slot 0; an untrained port carries nothing. -/
def execHostMemoryAccess (write addr data : Nat) (s : State) : Host.Outcome State Fault Refusal :=
  let n := if s.foc.aux = 0 then 64 else s.foc.aux
  if !s.hostUp then .next s
  else if !inHBM (addr + n - 1) then .fault (.unbackedPhysical addr)
  else if write = 0 then .next (homeRead addr n 0 0 s).2
  else .next (homeWrite addr n data 0 0 s)

/-- HOST_COMPLETION_TIMEOUT (R383): the HOST-path access in focus (`id`), whose time has run out, completes: a read with poisoned data,
a write dropped and counted. With `aux` 1 it is the read of the next entry of queue `id`, whose record is refused as unreadable
(R278). -/
def execHostCompletionTimeout (s : State) : Host.Outcome State Fault Refusal :=
  if s.foc.aux = 1 then .next (if queueLate s.foc.id s then refuseEntry s.foc.id 5 s else s)
  else
    match s.core.acc.find? fun a => a.id = s.foc.id with
    | none => .next s
    | some a =>
      if !a.toHost || !s.hostLate a.vf a.since then .next s
      else
        let s := dropAccess a s
        let line := (a.lines.filter inHost).headD 0
        match a.kind with
        | .load => .next (fillEntry a.ctx a.entry 0 (some (3, line)) s)
        | .record => .next (s.modDev fun d => { d with lreqs := d.lreqs.map fun r =>
            if r.id = a.id then { r with got := some (0, some (3, line)) } else r })
        | .amo _ _ _ =>
          .next ((fillEntry a.ctx a.entry 0 (some (3, line)) s).modDev fun d => { d with linkErr := d.linkErr + 1 })
        | _ => .next (s.modDev fun d => { d with linkErr := d.linkErr + 1 })

/-! ### Tarn links (R387) -/

/-- The status word of a port: CRCERR, PEER, DEGR, ST. -/
def portWord (crc peer degr st : Nat) : Word :=
  BitVec.ofNat 64 (min crc 0xFFFF * 2 ^ 48 + peer % 65536 * 2 ^ 32 + degr % 2 * 2 ^ 4 + st % 16)

/-- A port's status written. -/
def setPort (p : Nat) (w : Word) (s : State) : State := s.modDev fun d => { d with ports := d.ports.set p w }

/-- The retries of a port in the last 2^20 base-die cycles. -/
def recentRetries (s : State) (p : Nat) : List Nat := (s.dev.retries.get p []).filter fun t => s.dev.base < t + 2 ^ 20

/-- Whether a port has had more than 1,024 retries in 2^20 base-die cycles (R387). -/
def portWorn (s : State) (p : Nat) : Bool := decide (portSt s p = 2) && decide (1024 < (recentRetries s p).length)

/-- Such a port fails: ST 3, and packets on it are dropped. -/
def failPort (p : Nat) (s : State) : State :=
  if portWorn s p then
    let w := portOf s p
    (setPort p (portWord (bits w 63 48) (bits w 47 32) (bits w 4 4) 3) s).modDev fun d => { d with tokens := d.tokens.filter fun t => t.1 ≠ p }
  else s

/-- LINK_FLIT_RECEIVE (R387): a flit that fails its CRC (`good` 0 says so) is retried and counted, and the port that has had too many
fails at once. One that passes brings its packet, which COLLECTIVE_PACKET_RECEIVE and ABORT_TOKEN_RECEIVE take up. -/
def execLinkFlitReceive (port good : Nat) (s : State) : Host.Outcome State Fault Refusal :=
  if port ≥ 16 ∨ portSt s port ≠ 2 ∨ good ≠ 0 then .next s
  else
    let w := portOf s port
    let s := setPort port (portWord (bits w 63 48 + 1) (bits w 47 32) (bits w 4 4) 2) s
    .next (failPort port (s.modDev fun d => { d with retries := d.retries.set port (d.base :: recentRetries s port) }))

/-- LINK_PORT_FAIL (R387): more than 1,024 retries in 2^20 base-die cycles. -/
def execLinkPortFail (port : Nat) (s : State) : Host.Outcome State Fault Refusal := .next (if port < 16 then failPort port s else s)

/-- TARN_LINK_TRAINING (R387): ST down, training or up, with the peer's number and width. -/
def execTarnLinkTraining (port st peer degr : Nat) (s : State) : Host.Outcome State Fault Refusal :=
  if port ≥ 16 ∨ st > 2 then .next s
  else
    .next ((setPort port (portWord (bits (portOf s port) 63 48) peer degr st) s).modDev fun d =>
      { d with retries := Map.drop d.retries port })

/-! ### Collectives (R373, R374) -/

/-- COLLECTIVE_PACKET_RECEIVE (R373): a packet that arrives on port `id` with the tag of function `aux` (R332); one of a function
that is being reset is dropped (R334). -/
def execCollectivePacketReceive (chan attempt data : Nat) (s : State) : Host.Outcome State Fault Refusal :=
  let w := chanOf s chan
  let cur := bits w 63 48
  let a := attempt % 65536
  if portSt s s.foc.id ≠ 2 ∨ bit w 16 = false ∨ s.resetting s.foc.aux = true then .next s
  else
    let take (s : State) : State := s.modDev fun d => { d with chanBuf := d.chanBuf ++ [(chan, a, data, s.foc.aux)] }
    if a = cur then .next (take s)
    else if newerAttempt a cur then .next (take (sendTokens chan a s.foc.id (setAttempt chan a s)))
    else
      let drops := min 0xFFFF (bits w 47 32 + 1)
      .next (s.modDev fun d => { d with
        chans := d.chans.set chan (BitVec.ofNat 64 (cur * 2 ^ 48 + drops * 2 ^ 32 + w % 2 ^ 32)) })

/-- ABORT_TOKEN_START (R374). -/
def execAbortTokenStart (chan : Nat) (s : State) : Host.Outcome State Fault Refusal :=
  .next (if chan < 256 then startToken chan s else s)

/-- ABORT_TOKEN_RECEIVE (R374): on an ingress port. -/
def execAbortTokenReceive (chan attempt port : Nat) (s : State) : Host.Outcome State Fault Refusal :=
  let w := chanOf s chan
  let a := attempt % 65536
  .next (if portSt s port = 2 ∧ bit w 16 = true ∧ newerAttempt a (bits w 63 48) = true then
    sendTokens chan a port (setAttempt chan a s) else s)

/-! ### Throttling (R394) -/

/-- Whether a monitor site is of a tower: its four compute layers, its base die (R393); 10 stands for the package. -/
def siteOf (site tower : Nat) : Bool :=
  decide (tower < 2) && (decide (site < 8 ∧ site / 4 = tower) || decide (site = 8 + tower) || decide (site = 10))

/-- The package's power figure in W (R21). -/
def powerFigure : Nat := if Config.isModule then 3200 else 2900

/-- Whether a report of a site is a cause to throttle (R394): a temperature, in units of 0.125 °C, that reaches THROT, or of the package
a power, in W, above its figure. -/
def tooHot (site x : Nat) (s : State) : Bool := if site = 10 then decide (powerFigure < x) else decide (s.dev.throt ≤ x)

/-- What a site, or the package, reports; while it is a cause it throttles. -/
def reportSite (site x : Nat) (s : State) : State :=
  s.modDev fun d => { d with
    temps := d.temps.set site x
    thrSites := (d.thrSites.filter fun i => i ≠ site) ++ (if tooHot site x s then [site] else []) }

/-- THROTTLE (R394): site `id` of the tower, or with 10 the package, reports `aux`. A cause lowers the tower's clock by a step of
100 MHz, no lower than 900 MHz; no result and no count in cycles changes. A cause that has ended throttles no more, and the clock
recovers from then on. -/
def execThrottle (tower : Nat) (s : State) : Host.Outcome State Fault Refusal :=
  let site := s.foc.id
  if !siteOf site tower then .next s
  else
    let step := if tooHot site s.foc.aux s then 1 else 0
    .next ((reportSite site s.foc.aux s).modDev fun d => { d with
      thr := d.thr.set tower (min 9 (d.thr.get tower 0 + step))
      thrAt := if step = 1 || d.thrSites.contains site || s.dev.thrSites.contains site then d.thrAt.set tower d.base else d.thrAt })

/-- Whether a tower's clock recovers a step now: no cause is left, and a millisecond has passed (R394). -/
def mayRecover (tower : Nat) (s : State) : Bool :=
  decide (0 < s.dev.thr.get tower 0) && !(s.dev.thrSites.any fun i => siteOf i tower)
    && decide (s.dev.thrAt.get tower 0 + 1600000 ≤ s.dev.base)

/-- CLOCK_RECOVERY_STEP (R394). -/
def execClockRecoveryStep (tower : Nat) (s : State) : Host.Outcome State Fault Refusal :=
  .next (if mayRecover tower s then s.modDev fun d => { d with
    thr := d.thr.set tower (d.thr.get tower 0 - 1), thrAt := d.thrAt.set tower d.base } else s)

/-- CRITICAL_TEMPERATURE (R394): a site of the tower (`id`) reports 110 °C or more (`aux`): the tower's compute clocks stop, and the
ladder goes to warm reset. -/
def execCriticalTemperature (tower : Nat) (s : State) : Host.Outcome State Fault Refusal :=
  .next (if siteOf s.foc.id tower && decide (s.foc.id ≠ 10) && decide (880 ≤ s.foc.aux) then
    (reportSite s.foc.id s.foc.aux s).modDev fun d => { d with stopped := d.stopped.set tower true, ladder := max d.ladder 5 } else s)

/-! ### Resets (R337, R395) -/

/-- COLD_RESET (R337): State.reset with the banks of the repair record out of service (R108); the host's memory, the record and
events still to come are outside the device. -/
def execColdReset (s : State) : Host.Outcome State Fault Refusal :=
  .next (applyRecord { State.reset with
    inputs := s.inputs, nfree := s.nfree, dev := { State.reset.dev with
      hostMem := s.dev.hostMem, record := s.dev.record, softRec := s.dev.softRec, temps := s.dev.temps, stages := s.dev.stages
      cxl := s.dev.cxl } })

/-- Key slots but slot 0 erased: the blocks under a key get a number of its own (R337, R340). -/
def eraseKeys (s : State) : State :=
  s.dev.keys.foldl (fun s (e : Nat × KeySlot) =>
    if e.1 = 0 ∨ e.2.loaded = false then s
    else
      let (n, s) := s.newId
      s.modDev fun d => { renameKey e.1 (1024 + n) d with oldKeys := d.oldKeys.set (1024 + n) e.2.key }) s

/-- A warm reset (R395): every context ends without a completion word, dirty Mere lines are written to HBM, on-die state is
scrubbed, and what is kept is HBM, its keys' numbers, slot 0's key, the running firmware, the repair record, what the monitors and
the link report, and the clocks. The soft-repair registers are cleared and reloaded from a record that verifies. -/
def warm (s : State) : State :=
  let s := s.modDev fun d => d.mere.foldl (fun d c => mereFlush c.pa 0 d) d
  let s := eraseKeys s
  let d := s.dev
  applyRecord { State.reset with
    inputs := s.inputs
    nfree := s.nfree
    uid := s.uid
    dev := { State.reset.dev with
      hbm := d.hbm
      blockKey := d.blockKey
      oldKeys := d.oldKeys
      hostMem := d.hostMem
      keys := [(0, d.keys.get 0 {})]
      badLines := d.badLines.filter fun l => match l with | .gm _ => true | .sp _ _ => false
      fwRun := d.fwRun
      fwImage := d.fwImage
      record := d.record
      softRec := d.softRec
      temps := d.temps
      stages := d.stages
      cxl := d.cxl
      linkErr := d.linkErr
      base := d.base } }

/-- WARM_RESET (R395). -/
def execWarmReset (s : State) : Host.Outcome State Fault Refusal := .next (warm s)

/-- HOST_CXL_RESET (R395): a warm reset, and the link is reset and retrained to one of the widths and speeds that it supports (R382); how
IDE is set stays (DESIGN CHOICE, log 101). -/
def execHostCxlReset (s : State) : Host.Outcome State Fault Refusal :=
  let (n, s) := s.fresh
  .next ((warm s).modDev fun d => { d with
    linkErr := 0
    cxl := { d.cxl with lanes := [16, 8, 4].getD (Config.choice n % 3) 16, speed := [128, 64, 32].getD (Config.choice n / 3 % 3) 128 } })

/-! ### What the host and the wellheads read -/

/-- A queue's registers as function `vf` reads them (R384). -/
def queueRead (s : State) (vf q reg : Nat) : Word :=
  if !reaches vf q s then 0
  else
    let h := queueAt s q
    match reg with
    | 0 => h.base
    | 1 => BitVec.ofNat 64 (b2n h.en * 2 ^ 31 + h.lsz * 2 ^ 24 + h.asid)
    | 3 => BitVec.ofNat 64 (h.rc.toNat * 2 ^ 32 + h.st * 2 ^ 30 + h.lastref * 2 ^ 16 + h.nref)
    | _ => 0

/-- The header of an entry (R391): NEXT, LEN, VER 1, ID; ID 6 ends the list. -/
def capHeader (id : Nat) : Word :=
  match capList.find? fun e => e.2.1 = id with
  | none => 0
  | some (o, _, len) => BitVec.ofNat 64 ((if id = 6 then 0 else o + 8 * len) * 2 ^ 32 + len * 2 ^ 24 + 2 ^ 16 + id)

/-- What a monitor measures now: it varies in a run (R392, R393). -/
def measuredNow (n : Nat) (s : State) : Word := Config.measured (n + 128 * s.dev.base)

/-- The word of a monitor site (R393): the site that is a cause throttles; its temperature is what it last reported, else measured. -/
def siteWord (site : Nat) (s : State) : Word :=
  let x := measuredNow (2 + site) s
  let temp := match s.dev.temps.find? site with | some t => t % 65536 | none => x.toNat % 65536
  BitVec.ofNat 64 (b2n (s.dev.thrSites.contains site) * 2 ^ 40 + bits x.toNat 39 16 * 65536 + temp)

/-- The words of the capability entries (R391 to R393). -/
def capWord (s : State) (id word : Nat) : Word :=
  match id, word with
  | id, 0 => capHeader id
  | 1, 1 => BitVec.ofNat 64 (32 * 2 ^ 40 + 0x1000 * 2 ^ 16 + 256)
  | 2, 1 => 10
  | 2, n => if 2 ≤ n ∧ n < 12 then siteWord (n - 2) s else 0
  | 3, 1 => 16
  | 3, n => if 2 ≤ n ∧ n < 18 then s.dev.ports.get (n - 2) 0 else 0
  | 4, 1 => BitVec.ofNat 64 (s.dev.fwStaged.toNat * 2 ^ 32 + s.dev.fwRun.toNat)
  | 4, 2 => s.dev.fwStage
  | 4, 3 => BitVec.ofNat 64 (s.dev.fwStatus * 256)
  | 5, 1 => if Config.isModule then 16 else 0
  | 5, 2 => if Config.isModule then BitVec.ofNat 64 (3200 * 2 ^ 16) ||| (measuredNow 64 s &&& 0xFFFF#64) else 0
  | 5, n => if Config.isModule && decide (3 ≤ n) && decide (n < 19) then
      BitVec.ofNat 64 (b2n (s.dev.stages.contains (n - 3)) * 2 ^ 48) ||| (measuredNow (64 + n) s &&& 0xFFFFFFFFFFFF#64) else 0
  | 6, 1 => s.dev.repair
  | 6, 2 => s.dev.repairN
  | _, _ => 0

/-- The word at an offset of the physical function's capability list (R391). -/
def capRead (s : State) (off : Nat) : Word :=
  match capList.find? fun e => decide (e.1 ≤ off) && decide (off < e.1 + 8 * e.2.2) with
  | none => 0
  | some (o, id, _) => capWord s id ((off - o) / 8)

/-- The word that function `vf` reads at an offset of BAR 0: a queue's register (R384), or of the physical function the capability list
(R391). -/
def barRead (s : State) (vf off : Nat) : Word :=
  match barQueue off with
  | some (q, r) => queueRead s vf q r
  | none => if vf = 0 then capRead s off else 0

/-- KDINFO of a wellhead (R388). -/
def kdInfo (w : Nat) : Word :=
  BitVec.ofNat 64 (b2n Config.isModule * 2 ^ 16 + Config.deviceNumber % 256 * 256 + w % 8)

/-- The word a read of KDDATA returns for a STRUCT and INDEX (R388). -/
def kdRead (s : State) (struct index : Nat) : Word :=
  let (i, kind, p) := bankIndex index
  match struct with
  | 1 => s.dev.asd.get index 0
  | 2 => let k := s.dev.keys.get index {}; BitVec.ofNat 64 (b2n k.loaded * 128 + b2n k.glob * 64 + k.owner)
  | 4 => BitVec.ofNat 64 (b2n (!s.dev.shoot.isEmpty))
  | 5 => bankWord (bankTable (decide (kind = 2)) i s) kind p
  | 6 =>
    let slice := decide (kind = 2)
    let cmd := if slice then s.dev.l2Cmd.get i 0 else (s.coreAt i).retCmd
    let r := retireOf slice i s
    BitVec.ofNat 64 (b2n r.isSome * 2 ^ 63 + ((r.map (·.moved)).getD 0) * 2 ^ 32 + cmd.toNat % 256)
  | 7 => s.dev.chans.get index 0
  | 8 => BitVec.ofNat 64 (s.limit (index / 8) (index % 8))
  | 9 => match (queueAt s index).grant with | some vf => BitVec.ofNat 64 (32 + vf) | none => 0
  | 10 => match index with | 0 => s.dev.flushA | 1 => s.dev.flushK | 2 => BitVec.ofNat 64 (b2n s.dev.flush.isSome) | _ => 0
  | _ => 0

/-- What a read of KDDATA of wellhead `n` returns: the word that its KDSEL selects (R388). -/
def kdData (s : State) (n : Nat) : Word :=
  let sel := (s.dev.kdsel.get n 0).toNat
  kdRead s (bits sel 63 56) (bits sel 39 0)

end Sys2Proof.Machine
end

