-- ==== Sys2Proof/Machine/Reserved.lean ====
section
/-! DEFINITION. Reserved fields and values of each slot operation (R46, R47, R61, R67, R109, R217, R396, and every
entry's own list): the lowest bit of the lowest offending field, as TRAPINFO.FLDLO names it (R64). A part of a field
that must be 0 is reported by the lowest bit of the field that R46 draws (DEDUCED, log 13). -/

namespace Sys2Proof

/-- The bit of the first entry whose condition holds. -/
def firstBad : List (Bool × Nat) → Option Nat
  | [] => none
  | (true, b) :: _ => some b
  | (false, _) :: l => firstBad l

/-- The lowest bit of the lowest field of an operation that holds a reserved value (R63 check 4). Where the spec is silent, a source or
option that a selector leaves unselected is no reserved field outside the C slot (PSET, VBCAST, the M sources, VRSUM's U and RM),
STEP is accepted on the one-shot LDACQ and STREL, and on SPLV and FILV of every class (R47, R65, R232; DESIGN CHOICE, log 47). MD 96 to
127 is a reserved value where it names an m-register; with VT = 1 the 0x06 of MD[6] governs (R199, R396). -/
def Instr.reservedBit : Instr → Option Nat
  | .cnop f =>
    firstBad [(f.sd ≠ 0, 8), (f.sa ≠ 0, 13), (f.sb ≠ 0, 18), (f.i ≠ 0, 23), (f.w ≠ 0, 24), (f.mir ≠ 0, 26), (f.fn ≠ 0,
      27), (f.imm ≠ 0, 32)]
  | .endInst f | .eret f =>
    firstBad [(f.sd ≠ 0, 8), (f.sa ≠ 0, 13), (f.sb ≠ 0, 18), (f.i ≠ 0, 23), (f.w ≠ 3#2, 24), (f.mir ≠ 0, 26), (f.fn ≠
      0, 27), (f.imm ≠ 0, 32)]
  | .add f | .sub f | .mul f | .mulh f | .mulhn f | .div f | .divn f | .rem f | .remn f | .and f | .or f | .xor f |
    .andn f | .shl f | .shr f | .sar f | .rol f | .min f | .max f | .minn f | .maxn f | .seq f | .slt f | .sltn f =>
    firstBad [(f.i = 1#1 ∧ f.sb ≠ 0, 18), (f.fn ≠ 0, 27), (f.i = 0#1 ∧ f.imm ≠ 0, 32)]
  | .clz f | .ctz f | .popc f =>
    firstBad [(f.sb ≠ 0, 18), (f.i ≠ 0, 23), (f.fn ≠ 0, 27), (f.imm ≠ 0, 32)]
  | .sel f =>
    firstBad [(f.i = 1#1 ∧ f.sb ≠ 0, 18), (f.i = 0#1 ∧ f.imm ≠ 0, 32)]
  | .li f =>
    firstBad [(f.sa ≠ 0, 13), (f.i = 1#1 ∧ f.sb ≠ 0, 18), (f.fn ≠ 0, 27), (f.i = 0#1 ∧ f.imm ≠ 0, 32)]
  | .lih f =>
    firstBad [(f.sb ≠ 0, 18), (f.i = 0#1, 23), (f.w ≠ 3#2, 24), (f.fn ≠ 0, 27)]
  | .lea f =>
    firstBad [(f.i = 1#1 ∧ f.sb ≠ 0, 18), (f.w ≠ 3#2, 24), (f.fn.extractLsb' 3 2 ≠ 0, 27), (f.i = 0#1 ∧ f.imm ≠ 0,
      32)]
  | .popq f =>
    firstBad [(f.sa ≠ 0, 13), (f.sb ≠ 0, 18), (f.i ≠ 0, 23), (f.mir ≠ 0, 26), (f.fn ≠ 0, 27), (f.imm ≠ 0, 32)]
  | .br f =>
    firstBad [(f.sd ≠ 0, 8), (f.sa ≠ 0, 13), (f.sb ≠ 0, 18), (f.i ≠ 0, 23), (f.w ≠ 3#2, 24), (f.mir ≠ 0, 26), (f.fn ≠
      0, 27)]
  | .beq f | .bne f | .blt f | .bge f | .bltn f | .bgen f =>
    firstBad [(f.sd ≠ 0, 8), (f.i ≠ 0, 23), (f.mir ≠ 0, 26), (f.fn ≠ 0, 27)]
  | .bpany f | .bpall f =>
    firstBad [(f.sd ≠ 0, 8), (f.sa.extractLsb' 3 2 ≠ 0, 13), (f.sb ≠ 0, 18), (f.i ≠ 0, 23), (f.w ≠ 3#2, 24), (f.mir ≠
      0, 26), (f.fn ≠ 0, 27)]
  | .call f =>
    firstBad [(f.sa ≠ 0, 13), (f.sb ≠ 0, 18), (f.i ≠ 0, 23), (f.w ≠ 3#2, 24), (f.mir ≠ 0, 26), (f.fn ≠ 0, 27)]
  | .ret f =>
    firstBad [(f.sd ≠ 0, 8), (f.sb ≠ 0, 18), (f.i ≠ 0, 23), (f.w ≠ 3#2, 24), (f.mir ≠ 0, 26), (f.fn ≠ 0, 27), (f.imm ≠
      0, 32)]
  | .jmpr f =>
    firstBad [(f.sd ≠ 0, 8), (f.sb ≠ 0, 18), (f.w ≠ 3#2, 24), (f.mir ≠ 0, 26), (f.fn ≠ 0, 27), (f.i = 0#1 ∧ f.imm ≠ 0,
      32)]
  | .loop f =>
    firstBad [(f.sd ≠ 0, 8), (f.sb ≠ 0, 18), (f.i ≠ 0, 23), (f.w ≠ 3#2, 24), (f.mir ≠ 0, 26), (f.fn.extractLsb' 1 4 ≠
      0, 27)]
  | .lexit f =>
    firstBad [(f.sd ≠ 0, 8), (f.sa ≠ 0, 13), (f.sb ≠ 0, 18), (f.i ≠ 0, 23), (f.w ≠ 3#2, 24), (f.mir ≠ 0, 26),
      (f.fn.extractLsb' 1 4 ≠ 0, 27), (f.imm ≠ 0, 32)]
  | .spl f =>
    firstBad [(f.sd ≠ 0, 8), (f.sb ≠ 0, 18), (f.i = 0#1, 23), (f.mir ≠ 0, 26), (f.fn ≠ 0, 27)]
  | .fil f =>
    firstBad [(f.sa ≠ 0, 13), (f.sb ≠ 0, 18), (f.i = 0#1, 23), (f.mir ≠ 0, 26), (f.fn ≠ 0, 27)]
  | .mfs f =>
    firstBad [(f.sa ≠ 0, 13), (f.sb ≠ 0, 18), (f.i ≠ 0, 23), (f.w ≠ 3#2, 24), (f.mir ≠ 0, 26), (f.fn ≠ 0, 27),
      (f.imm.extractLsb' 16 16 ≠ 0, 32)]
  | .mts f =>
    firstBad [(f.sd ≠ 0, 8), (f.sb ≠ 0, 18), (f.i ≠ 0, 23), (f.w ≠ 3#2, 24), (f.mir ≠ 0, 26), (f.fn ≠ 0, 27),
      (f.imm.extractLsb' 16 16 ≠ 0, 32)]
  | .trap f =>
    firstBad [(f.sd ≠ 0, 8), (f.sa ≠ 0, 13), (f.sb ≠ 0, 18), (f.i = 0#1, 23), (f.w ≠ 3#2, 24), (f.mir ≠ 0, 26),
      (f.fn.extractLsb' 1 4 ≠ 0, 27), (f.imm.extractLsb' 16 16 ≠ 0, 32)]
  | .trapSys f =>
    firstBad [(f.sa ≠ 0, 13), (f.sb ≠ 0, 18), (f.i = 0#1, 23), (f.w ≠ 3#2, 24), (f.mir ≠ 0, 26), (f.fn.extractLsb' 1 4
      ≠ 0, 27), (f.imm.extractLsb' 16 16 ≠ 0, 32)]
  | .chk f =>
    firstBad [(f.sd ≠ 0, 8), (f.i = 1#1 ∧ f.sb ≠ 0, 18), (f.mir ≠ 0, 26), (f.fn ≠ 0, 27), (f.i = 0#1 ∧ f.imm ≠ 0, 32)]
  | .blend f | .bret f =>
    firstBad [(f.sd ≠ 0, 8), (f.sa ≠ 0, 13), (f.sb ≠ 0, 18), (f.i ≠ 0, 23), (f.w ≠ 3#2, 24), (f.mir ≠ 0, 26),
      (f.fn.extractLsb' 2 3 ≠ 0, 27), (f.imm ≠ 0, 32)]
  | .anop f =>
    firstBad [(f.sdly ≠ 0, 8), (f.mir ≠ 0, 11), (f.dr ≠ 0, 12), (f.xs ≠ 0, 18), (f.h ≠ 0, 23), (f.w ≠ 0, 27), (f.sc ≠
      0, 29), (f.step ≠ 0, 32), (f.off ≠ 0, 38)]
  | .ldq f =>
    firstBad [(f.dr ≠ 0, 12), (f.sc ≠ 0, 29)]
  | .ldqv f | .tld f =>
    firstBad [(f.dr ≠ 0, 12), (f.w ≠ 2#2, 27), (f.sc ≠ 0, 29)]
  | .ldqg f | .ldqs f | .sts f | .stg f =>
    firstBad [(f.sc ≠ 0, 29)]
  | .stv f | .stvp f | .tst f =>
    firstBad [(f.w ≠ 2#2, 27), (f.sc ≠ 0, 29)]
  | .ldf f =>
    firstBad [(f.mir ≠ 0, 11), (f.dr.extractLsb' 1 5 ≠ 0, 12), (f.w ≠ 2#2, 27), (f.sc ≠ 0, 29)]
  | .ste f | .hld f =>
    firstBad [(f.mir ≠ 0, 11), (f.w ≠ 2#2, 27), (f.sc ≠ 0, 29)]
  | .setf f | .sete f | .tstf f =>
    firstBad [(f.mir ≠ 0, 11), (f.dr ≠ 0, 12), (f.w ≠ 2#2, 27), (f.sc ≠ 0, 29)]
  | .xlt f =>
    firstBad [(f.mir ≠ 0, 11), (f.w ≠ 2#2, 27), (f.sc ≠ 0, 29), (f.step ≠ 0, 32)]
  | .hdrop f =>
    firstBad [(f.mir ≠ 0, 11), (f.dr ≠ 0, 12), (f.xs ≠ 0, 18), (f.w ≠ 2#2, 27), (f.sc ≠ 0, 29), (f.step ≠ 0, 32),
      (f.off ≠ 0, 38)]
  | .hinfo f =>
    firstBad [(f.mir ≠ 0, 11), (f.xs ≠ 0, 18), (f.w ≠ 2#2, 27), (f.sc ≠ 0, 29), (f.step ≠ 0, 32), (f.off ≠ 0, 38)]
  | .hst f =>
    firstBad [(f.mir ≠ 0, 11), (f.w ≠ 2#2, 27), (f.sc ≠ 0, 29), (f.off.extractLsb' 21 2 ≠ 0, 38)]
  | .amoadd f | .amomin f | .amomax f | .amominn f | .amomaxn f | .amoand f | .amoor f | .amoxor f | .amoswp f |
    .amocas f | .amoincw f | .amobfa f | .amofadd f | .pacq f =>
    firstBad [(f.mir ≠ 0, 11), (f.sc = 7#3, 29), (f.step ≠ 0, 32)]
  | .ldacq f =>
    firstBad [(f.mir ≠ 0, 11), (f.dr ≠ 0, 12), (f.sc = 7#3, 29)]
  | .strel f =>
    firstBad [(f.mir ≠ 0, 11), (f.sc = 7#3, 29)]
  | .drn f =>
    firstBad [(f.mir ≠ 0, 11), (f.dr ≠ 0, 12), (f.xs ≠ 0, 18), (f.h ≠ 0, 23), (f.w ≠ 2#2, 27), (f.sc = 7#3, 29),
      (f.step ≠ 0, 32)]
  | .barv f | .bwait f =>
    firstBad [(f.mir ≠ 0, 11), (f.w ≠ 2#2, 27), (f.sc = 7#3, 29)]
  | .fladd f =>
    firstBad [(f.mir ≠ 0, 11), (f.h ≠ 0, 23), (f.w ≠ 2#2, 27), (f.sc = 7#3, 29), (f.step ≠ 0, 32), (f.off.extractLsb'
      6 20 ≠ 0, 38)]
  | .flset f =>
    firstBad [(f.mir ≠ 0, 11), (f.h ≠ 0, 23), (f.w ≠ 2#2, 27), (f.sc = 7#3, 29), (f.step ≠ 0, 32), (f.off.extractLsb'
      9 17 ≠ 0 ∨ (f.off.getLsbD 6 ∧ f.off.extractLsb' 7 2 ≠ 0), 38)]
  | .flwait f =>
    firstBad [(f.mir ≠ 0, 11), (f.xs ≠ 0, 18), (f.h ≠ 0, 23), (f.w ≠ 2#2, 27), (f.sc = 7#3, 29), (f.step ≠ 0, 32),
      (f.off.extractLsb' 9 17 ≠ 0, 38)]
  | .vnop f =>
    firstBad [(f.sdly ≠ 0, 8), (f.mir ≠ 0, 11), (f.vd ≠ 0, 12), (f.va ≠ 0, 18), (f.vb ≠ 0, 24), (f.vc ≠ 0, 30), (f.p ≠
      0, 36), (f.z ≠ 0, 39), (f.fa ≠ 0, 40), (f.fd ≠ 0, 43), (f.step ≠ 0, 46), (f.qa ≠ 0, 48), (f.rm ≠ 0, 49), (f.aux
      ≠ 0, 52)]
  | .vfadd f | .vfsub f | .vfmul f | .vfmin f | .vfmax f =>
    firstBad [(f.qa = 1#1 ∧ f.va ≠ 0, 18), (f.vc ≠ 0, 30), (f.rm.getLsbD 2, 49), (f.aux &&& 0x7FF#12 ≠ 0, 52)]
  | .vfma f | .vfms f | .vfnma f =>
    firstBad [(f.qa = 1#1 ∧ f.va ≠ 0, 18), (f.rm.getLsbD 2, 49), (f.aux &&& 0x7FF#12 ≠ 0, 52)]
  | .vfabs f | .vfneg f | .vcvt f =>
    firstBad [(f.qa = 1#1 ∧ f.va ≠ 0, 18), (f.vb ≠ 0, 24), (f.vc ≠ 0, 30), (f.rm.getLsbD 2, 49),
      (f.aux &&& 0x7FF#12 ≠ 0, 52)]
  | .vfcmp f =>
    firstBad [(f.vd.extractLsb' 3 3 ≠ 0, 12), (f.qa = 1#1 ∧ f.va ≠ 0, 18), (f.vc ≠ 0, 30), (f.fd ≠ 0, 43),
      (f.rm ≠ 0, 49), (f.aux &&& 0xFF8#12 ≠ 0, 52), (f.aux.extractLsb' 0 3 = 7, 52)]
  | .vfspec f =>
    firstBad [(f.qa = 1#1 ∧ f.va ≠ 0, 18), (f.vb ≠ 0, 24), (f.vc ≠ 0, 30), (f.rm.getLsbD 2, 49),
      (f.aux &&& 0x7F8#12 ≠ 0, 52)]
  | .vfclass f =>
    firstBad [(f.qa = 1#1 ∧ f.va ≠ 0, 18), (f.vb ≠ 0, 24), (f.vc ≠ 0, 30), (f.rm ≠ 0, 49), (f.aux ≠ 0, 52)]
  | .viadd f | .visub f | .vimul f =>
    firstBad [(f.qa = 1#1 ∧ f.va ≠ 0, 18), (f.vc ≠ 0, 30), (f.rm ≠ 0, 49), (f.aux &&& 0x3FF#12 ≠ 0, 52)]
  | .vimad f =>
    firstBad [(f.qa = 1#1 ∧ f.va ≠ 0, 18), (f.rm ≠ 0, 49), (f.aux &&& 0x3FF#12 ≠ 0, 52)]
  | .viand f | .vior f | .vixor f | .vishl f | .visar f =>
    firstBad [(f.qa = 1#1 ∧ f.va ≠ 0, 18), (f.vc ≠ 0, 30), (f.rm ≠ 0, 49), (f.aux ≠ 0, 52)]
  | .vishr f | .vimin f | .vimax f =>
    firstBad [(f.qa = 1#1 ∧ f.va ≠ 0, 18), (f.vc ≠ 0, 30), (f.rm ≠ 0, 49), (f.aux &&& 0xBFF#12 ≠ 0, 52)]
  | .vicmp f =>
    firstBad [(f.vd.extractLsb' 3 3 ≠ 0, 12), (f.qa = 1#1 ∧ f.va ≠ 0, 18), (f.vc ≠ 0, 30), (f.fd ≠ 0, 43),
      (f.rm ≠ 0, 49), (f.aux &&& 0xBF8#12 ≠ 0, 52), (f.aux.extractLsb' 1 2 = 3, 52)]
  | .vpack f =>
    firstBad [(f.qa = 1#1 ∧ f.va ≠ 0, 18), (f.vb ≠ 0, 24), (f.vc ≠ 0, 30), (f.rm.getLsbD 2, 49),
      (f.aux &&& 0x7FC#12 ≠ 0, 52)]
  | .vunpk f =>
    firstBad [(f.qa = 1#1 ∧ f.va ≠ 0, 18), (f.vb ≠ 0, 24), (f.vc ≠ 0, 30), (f.rm.getLsbD 2, 49),
      (f.aux &&& 0xFFC#12 ≠ 0, 52)]
  | .vscacc f =>
    firstBad [(f.qa = 1#1 ∧ f.va ≠ 0, 18), (f.rm.getLsbD 2, 49), (f.aux &&& 0x700#12 ≠ 0, 52)]
  | .vscal f =>
    firstBad [(f.qa = 1#1 ∧ f.va ≠ 0, 18), (f.vc ≠ 0, 30), (f.rm.getLsbD 2, 49), (f.aux &&& 0x700#12 ≠ 0, 52)]
  | .vmov f =>
    firstBad [(f.qa = 1#1 ∧ f.va ≠ 0, 18), (f.vb ≠ 0, 24), (f.vc ≠ 0, 30), (f.fa ≠ 0, 40), (f.fd ≠ 0, 43),
      (f.rm ≠ 0, 49), (f.aux ≠ 0, 52)]
  | .vsel f =>
    firstBad [(f.qa = 1#1 ∧ f.va ≠ 0, 18), (f.vc.extractLsb' 3 3 ≠ 0, 30), (f.fa ≠ 0, 40), (f.fd ≠ 0, 43),
      (f.rm ≠ 0, 49), (f.aux ≠ 0, 52)]
  | .vbcast f =>
    firstBad [(f.aux.getLsbD 7 ∧ f.va.getLsbD 5, 18), (¬ f.aux.getLsbD 7 ∧ f.qa = 1#1 ∧ f.va ≠ 0, 18), (f.vb ≠ 0, 24),
      (f.vc ≠ 0, 30), (f.fa ≠ 0, 40), (¬ f.aux.getLsbD 7 ∧ f.fd ≠ 0, 43), (f.aux.getLsbD 7 ∧ f.qa = 1#1, 48),
      (f.rm ≠ 0, 49), (f.aux &&& 0xF00#12 ≠ 0, 52)]
  | .vins f =>
    firstBad [(f.va.getLsbD 5, 18), (f.vb ≠ 0, 24), (f.vc ≠ 0, 30), (f.fa ≠ 0, 40), (f.fd ≠ 0, 43), (f.qa ≠ 0, 48),
      (f.rm ≠ 0, 49), (f.aux &&& 0xF80#12 ≠ 0, 52)]
  | .vext f =>
    firstBad [
      ((f.aux.extractLsb' 10 2 = 0 ∧ f.vd.getLsbD 5) ∨ ((f.aux.extractLsb' 10 2 = 1 ∨ f.aux.extractLsb' 10 2 = 2) ∧ f.vd.extractLsb' 3 3 ≠ 0), 12),
      (f.qa = 1#1 ∧ f.va ≠ 0, 18), (f.vb ≠ 0, 24), (f.vc ≠ 0, 30), (f.p ≠ 0, 36), (f.z ≠ 0, 39), (f.fa ≠ 0, 40),
      (f.fd ≠ 0, 43), (f.rm ≠ 0, 49), (f.aux &&& 0x380#12 ≠ 0, 52), (f.aux.extractLsb' 10 2 = 3, 52)]
  | .vperm f =>
    firstBad [(f.qa = 1#1 ∧ f.va ≠ 0, 18), (f.vc ≠ 0, 30), (f.fa ≠ 0, 40), (f.fd ≠ 0, 43), (f.rm ≠ 0, 49),
      (f.aux ≠ 0, 52)]
  | .vrot f =>
    firstBad [(f.qa = 1#1 ∧ f.va ≠ 0, 18), (f.vb ≠ 0, 24), (f.vc ≠ 0, 30), (f.fa ≠ 0, 40), (f.fd ≠ 0, 43),
      (f.rm ≠ 0, 49), (f.aux &&& 0xF80#12 ≠ 0, 52)]
  | .viota f | .vli f =>
    firstBad [(f.va ≠ 0, 18), (f.vb ≠ 0, 24), (f.vc ≠ 0, 30), (f.fa ≠ 0, 40), (f.qa ≠ 0, 48), (f.rm ≠ 0, 49), (f.aux
      &&& 0x000#12 ≠ 0, 52)]
  | .vrsum f | .vrmax f | .vrmin f =>
    firstBad [(f.qa = 1#1 ∧ f.va ≠ 0, 18), (f.vb ≠ 0, 24), (f.vc ≠ 0, 30), (f.z ≠ 0, 39), (f.rm.getLsbD 2, 49),
      (f.aux &&& 0xAFF#12 ≠ 0, 52)]
  | .pset f =>
    firstBad [(f.vd.extractLsb' 3 3 ≠ 0, 12), (f.va.getLsbD 5, 18), (f.vb ≠ 0, 24),
      (f.vc ≠ 0, 30), (f.fa ≠ 0, 40), (f.fd ≠ 0, 43), (f.step ≠ 0, 46), (f.qa ≠ 0, 48), (f.rm ≠ 0, 49), (f.aux &&&
      0xE00#12 ≠ 0, 52)]
  | .pand f | .por f | .pxor f =>
    firstBad [(f.vd.extractLsb' 3 3 ≠ 0, 12), (f.va.extractLsb' 3 3 ≠ 0, 18), (f.vb.extractLsb' 3 3 ≠ 0, 24), (f.vc ≠
      0, 30), (f.fa ≠ 0, 40), (f.fd ≠ 0, 43), (f.step ≠ 0, 46), (f.qa ≠ 0, 48), (f.rm ≠ 0, 49), (f.aux ≠ 0, 52)]
  | .pnot f =>
    firstBad [(f.vd.extractLsb' 3 3 ≠ 0, 12), (f.va.extractLsb' 3 3 ≠ 0, 18), (f.vb ≠ 0, 24), (f.vc ≠ 0, 30), (f.fa ≠
      0, 40), (f.fd ≠ 0, 43), (f.step ≠ 0, 46), (f.qa ≠ 0, 48), (f.rm ≠ 0, 49), (f.aux ≠ 0, 52)]
  | .pcnt f =>
    firstBad [(f.vd.getLsbD 5, 12), (f.va.extractLsb' 3 3 ≠ 0, 18), (f.vb ≠ 0, 24), (f.vc ≠ 0, 30), (f.z ≠ 0, 39),
      (f.fa ≠ 0, 40), (f.fd ≠ 0, 43), (f.step ≠ 0, 46), (f.qa ≠ 0, 48), (f.rm ≠ 0, 49), (f.aux ≠ 0, 52)]
  | .pfirst f =>
    firstBad [(f.vd.getLsbD 5, 12), (f.va.extractLsb' 3 3 ≠ 0, 18), (f.vb ≠ 0, 24), (f.vc ≠ 0, 30), (f.p ≠ 0, 36),
      (f.z ≠ 0, 39), (f.fa ≠ 0, 40), (f.fd ≠ 0, 43), (f.step ≠ 0, 46), (f.qa ≠ 0, 48), (f.rm ≠ 0, 49), (f.aux ≠ 0,
      52)]
  | .hfwd f | .hinv f =>
    firstBad [(f.qa = 1#1 ∧ f.va ≠ 0, 18), (f.vc ≠ 0, 30), (f.rm.getLsbD 2, 49), (f.aux &&& 0x7E0#12 ≠ 0, 52)]
  | .hthr f =>
    firstBad [(f.qa = 1#1 ∧ f.va ≠ 0, 18), (f.vb.extractLsb' 3 3 ≠ 0, 24), (f.vc ≠ 0, 30), (f.rm ≠ 0, 49),
      (f.aux &&& 0xFF8#12 ≠ 0, 52)]
  | .htagSet f =>
    firstBad [(f.va ≠ 0, 18), (f.vb ≠ 0, 24), (f.vc ≠ 0, 30), (f.p ≠ 0, 36), (f.z ≠ 0, 39), (f.fa ≠ 0, 40), (f.fd ≠ 0,
      43), (f.step ≠ 0, 46), (f.qa ≠ 0, 48), (f.rm ≠ 0, 49), (f.aux &&& 0x600#12 ≠ 0, 52)]
  | .htagRead f =>
    firstBad [(f.vd.getLsbD 5, 12), (f.vb ≠ 0, 24), (f.vc ≠ 0, 30), (f.p ≠ 0, 36), (f.z ≠ 0, 39), (f.fa ≠ 0, 40),
      (f.fd ≠ 0, 43), (f.step ≠ 0, 46), (f.qa ≠ 0, 48), (f.rm ≠ 0, 49), (f.aux &&& 0x7FF#12 ≠ 0, 52)]
  | .hcmp f =>
    firstBad [(f.vd.getLsbD 5, 12), (f.qa = 1#1 ∧ f.va ≠ 0, 18), (f.vb ≠ 0, 24), (f.vc ≠ 0, 30), (f.z ≠ 0, 39),
      (f.fd ≠ 0, 43), (f.rm ≠ 0, 49), (f.aux &&& 0xFC0#12 ≠ 0, 52)]
  | .splv f =>
    firstBad [(f.mir ≠ 0, 11), (f.vd ≠ 0, 12), (f.aux.extractLsb' 10 2 ≠ 0 ∧ f.va.extractLsb' 3 3 ≠ 0, 18), (f.vb ≠ 0,
      24), (f.vc ≠ 0, 30), (f.p ≠ 0, 36), (f.z ≠ 0, 39), (f.fa ≠ 0, 40), (f.fd ≠ 0, 43), (f.qa ≠ 0, 48), (f.rm ≠ 0,
      49), (f.aux &&& 0x200#12 ≠ 0, 52)]
  | .filv f =>
    firstBad [(f.mir ≠ 0, 11), (f.aux.extractLsb' 10 2 ≠ 0 ∧ f.vd.extractLsb' 3 3 ≠ 0, 12), (f.va ≠ 0, 18), (f.vb ≠ 0,
      24), (f.vc ≠ 0, 30), (f.p ≠ 0, 36), (f.z ≠ 0, 39), (f.fa ≠ 0, 40), (f.fd ≠ 0, 43), (f.qa ≠ 0, 48), (f.rm ≠ 0,
      49), (f.aux &&& 0x200#12 ≠ 0, 52)]
  | .vchk f =>
    firstBad [(f.mir ≠ 0, 11), (f.vd ≠ 0, 12), (f.vc ≠ 0, 30), (f.p ≠ 0, 36), (f.z ≠ 0, 39), (f.fa ≠ 0, 40), (f.fd ≠
      0, 43), (f.step ≠ 0, 46), (f.qa ≠ 0, 48), (f.rm ≠ 0, 49), (f.aux ≠ 0, 52)]
  | .mnop f =>
    firstBad [(f.sdly ≠ 0, 8), (f.rsv ≠ 0, 11), (f.b ≠ 0, 12), (f.mode ≠ 0, 13), (f.inf ≠ 0, 16), (f.af ≠ 0, 19),
      (f.md ≠ 0, 21), (f.sa ≠ 0, 28), (f.sb ≠ 0, 33), (f.src ≠ 0, 38), (f.q ≠ 0, 39), (f.vs ≠ 0, 40), (f.n ≠ 0, 46),
      (f.cbf ≠ 0, 54), (f.spn ≠ 0, 56), (f.h ≠ 0, 59), (f.aux ≠ 0, 60)]
  | .fgrid f =>
    firstBad [(f.rsv ≠ 0, 11), (f.b ≠ 0, 12), (f.mode ≠ 0, 13), (f.inf ≠ 0, 16), (f.af ≠ 0, 19), (f.md ≠ 0, 21), (f.q
      ≠ 0, 39), (f.vs ≠ 0, 40), (f.n ≠ 0, 46), (f.cbf ≠ 0, 54), (f.spn ≠ 0, 56), (f.h ≠ 0, 59), (f.aux ≠ 0, 60)]
  | .fload f =>
    firstBad [(f.rsv ≠ 0, 11), (f.mode.getLsbD 2, 13), (f.af ≠ 0, 19), (f.md ≠ 0, 21), (f.q ≠ 0, 39), (5 ≤
      f.spn.toNat, 56), (f.h ≠ 0, 59), (f.aux.extractLsb' 1 3 ≠ 0, 60)]
  | .fsel f =>
    firstBad [(f.rsv ≠ 0, 11), (f.mode ≠ 0, 13), (f.inf ≠ 0, 16), (f.af ≠ 0, 19), (f.md ≠ 0, 21), (f.sa ≠ 0, 28),
      (f.sb ≠ 0, 33), (f.n ≠ 0, 46), (f.cbf ≠ 0, 54), (f.spn ≠ 0, 56), (f.h ≠ 0, 59), (f.aux ≠ 0, 60)]
  | .fmx f | .fmxHaar f =>
    firstBad [(f.rsv ≠ 0, 11), (f.mode.getLsbD 2, 13), (f.af = 3#2, 19), (96 ≤ f.md.toNat && !f.aux.getLsbD 3, 21),
      (f.cbf ≠ 0, 54), (5 ≤ f.spn.toNat, 56), (f.aux.extractLsb' 1 2 ≠ 0, 60)]
  | .fmxd f =>
    firstBad [(f.rsv ≠ 0, 11), (f.mode.getLsbD 2, 13), (f.af = 3#2, 19), (96 ≤ f.md.toNat && !f.aux.getLsbD 3, 21),
      (f.cbf ≠ 0, 54), (5 ≤ f.spn.toNat, 56), (f.h ≠ 0, 59), (f.mode = 0 ∧ f.aux.extractLsb' 0 3 ≠ 0, 60)]
  | .fmxc f =>
    firstBad [(f.rsv ≠ 0, 11), (f.mode.getLsbD 2, 13), (f.af = 3#2, 19), (96 ≤ f.md.toNat, 21), (f.cbf ≠ 0, 54), (5 ≤
      f.spn.toNat, 56), (f.h ≠ 0, 59), (f.aux ≠ 0, 60)]
  | .fgout f =>
    firstBad [(f.rsv ≠ 0, 11), (f.mode ≠ 0, 13), (f.inf ≠ 0, 16), (f.af ≠ 0, 19), (96 ≤ f.md.toNat, 21), (f.sb ≠ 0,
      33), (f.src ≠ 0, 38), (f.q ≠ 0, 39), (f.vs ≠ 0, 40), (f.cbf ≠ 0, 54), (f.spn ≠ 0, 56), (f.h ≠ 0, 59)]
  | .fknot f =>
    firstBad [(f.rsv ≠ 0, 11), (f.mode ≠ 0, 13), (f.inf ≠ 0, 16), (f.af ≠ 0, 19), (f.md ≠ 0, 21), (f.sb ≠ 0, 33),
      (f.src ≠ 0, 38), (f.q ≠ 0, 39), (f.vs ≠ 0, 40), (f.n ≠ 0, 46), (f.cbf ≠ 0, 54), (f.spn ≠ 0, 56), (f.h ≠ 0, 59),
      (f.aux ≠ 0, 60)]
  | .foog f =>
    firstBad [(f.rsv ≠ 0, 11), (f.b ≠ 0, 12), (f.mode ≠ 0, 13), (f.inf ≠ 0, 16), (f.af ≠ 0, 19),
      (96 ≤ f.md.toNat && !f.aux.getLsbD 3, 21), (f.sa ≠ 0, 28), (f.sb ≠ 0, 33), (f.src ≠ 0, 38), (f.q ≠ 0, 39), (f.vs ≠ 0, 40), (f.n ≠ 0, 46), (f.cbf ≠ 0,
      54), (f.spn ≠ 0, 56), (f.h ≠ 0, 59), (f.aux.extractLsb' 1 2 ≠ 0, 60)]
  | .fclrBuffer f | .fclrGrad f =>
    firstBad [(f.rsv ≠ 0, 11), (f.mode ≠ 0, 13), (f.inf ≠ 0, 16), (f.af ≠ 0, 19), (f.md ≠ 0, 21), (f.sa ≠ 0, 28),
      (f.sb ≠ 0, 33), (f.src ≠ 0, 38), (f.q ≠ 0, 39), (f.vs ≠ 0, 40), (f.n ≠ 0, 46), (f.cbf ≠ 0, 54), (f.spn ≠ 0, 56),
      (f.h ≠ 0, 59)]
  | .fclrCounters f | .fclrGrid f =>
    firstBad [(f.rsv ≠ 0, 11), (f.b ≠ 0, 12), (f.mode ≠ 0, 13), (f.inf ≠ 0, 16), (f.af ≠ 0, 19), (f.md ≠ 0, 21), (f.sa
      ≠ 0, 28), (f.sb ≠ 0, 33), (f.src ≠ 0, 38), (f.q ≠ 0, 39), (f.vs ≠ 0, 40), (f.n ≠ 0, 46), (f.cbf ≠ 0, 54), (f.spn
      ≠ 0, 56), (f.h ≠ 0, 59)]
  | .frdc f =>
    firstBad [(f.rsv ≠ 0, 11), (f.mode ≠ 0, 13), (f.inf ≠ 0, 16), (f.af ≠ 0, 19), (96 ≤ f.md.toNat, 21), (f.sb ≠ 0,
      33), (f.src ≠ 0, 38), (f.q ≠ 0, 39), (f.vs ≠ 0, 40), (f.cbf ≠ 0, 54), (f.spn ≠ 0, 56), (f.h ≠ 0, 59), (f.aux ≠
      0, 60)]
  | .tnop f =>
    firstBad [(f.sdly ≠ 0, 8), (f.v ≠ 0, 11), (f.idx ≠ 0, 17), (f.fmt ≠ 0, 24), (f.step ≠ 0, 27), (f.rsv ≠ 0, 29)]
  | .txi f =>
    firstBad [(f.fmt ≠ 0, 24), (f.rsv ≠ 0, 29)]
  | .txo f =>
    firstBad [(f.rsv ≠ 0, 29)]
  | .txc f =>
    firstBad [(f.v ≠ 0, 11), (f.idx ≠ 0, 17), (f.fmt ≠ 0, 24), (f.step ≠ 0, 27), (f.rsv ≠ 0, 29)]
  | .xnop f =>
    firstBad [(f.sa ≠ 0, 8), (f.sb ≠ 0, 13), (f.scc ≠ 0, 18), (f.tag ≠ 0, 23), (f.sc ≠ 0, 29), (f.h ≠ 0, 32), (f.h2 ≠
      0, 36), (f.fs ≠ 0, 40), (f.fd2 ≠ 0, 43), (f.imm ≠ 0, 46)]
  | .copy f =>
    firstBad [(f.sc = 7#3, 29), (f.imm.extractLsb' 3 15 ≠ 0, 46)]
  | .copy2d f | .copyt f =>
    firstBad [(f.sc = 7#3, 29), (f.imm.extractLsb' 8 10 ≠ 0, 46)]
  | .waitany f =>
    firstBad [(f.scc ≠ 0, 18), (f.tag ≠ 0, 23), (f.sc ≠ 0, 29), (f.h ≠ 0, 32), (f.h2 ≠ 0, 36), (f.fs ≠ 0, 40), (f.fd2
      ≠ 0, 43), (f.imm ≠ 0, 46)]
  | .waitall f | .tagclr f =>
    firstBad [(f.sb ≠ 0, 13), (f.scc ≠ 0, 18), (f.tag ≠ 0, 23), (f.sc ≠ 0, 29), (f.h ≠ 0, 32), (f.h2 ≠ 0, 36), (f.fs ≠
      0, 40), (f.fd2 ≠ 0, 43), (f.imm ≠ 0, 46)]
  | .ffrdy f =>
    firstBad [(f.scc ≠ 0, 18), (f.tag ≠ 0, 23), (f.sc = 7#3, 29), (f.h2 ≠ 0, 36), (f.fs ≠ 0, 40), (f.fd2 ≠ 0, 43),
      (f.imm ≠ 0, 46)]
  | .xdt f =>
    firstBad [(f.sb ≠ 0, 13), (f.scc ≠ 0, 18), (f.sc ≠ 0, 29), (f.h2 ≠ 0, 36), (f.fs ≠ 0, 40), (f.fd2 ≠ 0, 43),
      (f.imm.extractLsb' 4 14 ≠ 0, 46)]
  | .xds f =>
    firstBad [(f.sc = 7#3, 29), (f.fs ≠ 0, 40), (f.fd2 ≠ 0, 43), (f.imm.extractLsb' 10 8 ≠ 0, 46)]
  | .xdq f =>
    firstBad [(f.sb ≠ 0, 13), (f.scc ≠ 0, 18), (f.sc ≠ 0, 29), (f.h ≠ 0, 32), (f.h2 ≠ 0, 36), (f.fs ≠ 0, 40), (f.fd2 ≠
      0, 43), (f.imm ≠ 0, 46)]
  | .launch f =>
    firstBad [(f.sb ≠ 0, 13), (f.scc ≠ 0, 18), (f.sc ≠ 0, 29), (f.h2 ≠ 0, 36), (f.fs ≠ 0, 40), (f.fd2 ≠ 0, 43), (f.imm
      ≠ 0, 46)]
  | .lwait f =>
    firstBad [(f.scc ≠ 0, 18), (f.tag ≠ 0, 23), (f.sc = 7#3, 29), (f.h2 ≠ 0, 36), (f.fs ≠ 0, 40), (f.fd2 ≠ 0, 43),
      (f.imm.extractLsb' 1 17 ≠ 0, 46)]
  | .defer f =>
    firstBad [(f.sb ≠ 0, 13), (f.scc ≠ 0, 18), (f.tag ≠ 0, 23), (f.sc ≠ 0, 29), (f.h ≠ 0, 32), (f.h2 ≠ 0, 36), (f.fs ≠
      0, 40), (f.fd2 ≠ 0, 43)]
  | .defrun f =>
    firstBad [(f.sa ≠ 0, 8), (f.scc ≠ 0, 18), (f.tag ≠ 0, 23), (f.sc ≠ 0, 29), (f.h ≠ 0, 32), (f.h2 ≠ 0, 36), (f.fs ≠
      0, 40), (f.fd2 ≠ 0, 43), (f.imm.extractLsb' 8 10 ≠ 0, 46)]
  | .pput f =>
    firstBad [(f.sb ≠ 0, 13), (f.scc ≠ 0, 18), (f.tag ≠ 0, 23), (f.sc = 7#3, 29), (f.h ≠ 0, 32), (f.h2 ≠ 0, 36), (f.fs
      ≠ 0, 40), (f.fd2 ≠ 0, 43), (f.imm.extractLsb' 6 12 ≠ 0, 46)]
  | .pget f =>
    firstBad [(f.sa ≠ 0, 8), (f.scc ≠ 0, 18), (f.tag ≠ 0, 23), (f.sc = 7#3, 29), (f.h ≠ 0, 32), (f.h2 ≠ 0, 36), (f.fs
      ≠ 0, 40), (f.fd2 ≠ 0, 43), (f.imm.extractLsb' 6 12 ≠ 0, 46)]
  | .grpbar f =>
    firstBad [(f.sb ≠ 0, 13), (f.scc ≠ 0, 18), (f.tag ≠ 0, 23), (f.sc = 7#3, 29), (f.h ≠ 0, 32), (f.h2 ≠ 0, 36), (f.fs
      ≠ 0, 40), (f.fd2 ≠ 0, 43), (f.imm ≠ 0, 46)]
  | .evwait f | .evsig f =>
    firstBad [(f.scc ≠ 0, 18), (f.tag ≠ 0, 23), (f.sc = 7#3, 29), (f.h ≠ 0, 32), (f.h2 ≠ 0, 36), (f.fs ≠ 0, 40),
      (f.fd2 ≠ 0, 43), (f.imm ≠ 0, 46)]
  | .mflush f =>
    firstBad [(f.scc ≠ 0, 18), (f.sc ≠ 0, 29), (f.h2 ≠ 0, 36), (f.fs ≠ 0, 40), (f.fd2 ≠ 0, 43), (f.imm.extractLsb' 0 2
      = 0 ∨ f.imm.extractLsb' 2 16 ≠ 0, 46)]
  | .cntrd f =>
    firstBad [(f.sb ≠ 0, 13), (f.scc ≠ 0, 18), (f.tag ≠ 0, 23), (f.sc ≠ 0, 29), (f.h ≠ 0, 32), (f.h2 ≠ 0, 36), (f.fs ≠
      0, 40), (f.fd2 ≠ 0, 43), (f.imm.extractLsb' 7 11 ≠ 0, 46)]
  | _ => none

end Sys2Proof
end

