-- ==== Sys2Proof/Machine/Scalar.lean ====
section
/-! DEFINITION. The scalar arithmetic of the C slot (R65 to R71). -/

namespace Sys2Proof.Machine

/-- An arithmetic operation (R65): width, operands and B taken at that width as natural numbers, the result extended by
sign (S) or by zero (Z), landing after `lat` cycles. -/
def alu (f : CSlot) (signed : Bool) (lat : Nat) (g : Nat → Nat → Nat → Nat) (s : State) : State :=
  let w := widthBits f.w
  let a := (rdS s f.sa.toNat).toNat % 2 ^ w
  let b := (operandB s f).toNat % 2 ^ w
  let r := g w a b
  postS f.sd.toNat lat (if signed then sx r w else zx r w) s

/-- Quotient and remainder of R69, at width w. -/
def divide (signed : Bool) (w a b : Nat) : Nat × Nat :=
  let x : Int := if signed then sintOf w a else a
  let y : Int := if signed then sintOf w b else b
  if y = 0 then (2 ^ w - 1, wrapInt w x)
  else
    let q := Int.tdiv x y
    (wrapInt w q, wrapInt w (x - q * y))

/-- Leading zero bits at width w (R68). -/
def clzW (w a : Nat) : Nat := w - bitLen (a % 2 ^ w)

/-- Trailing zero bits at width w (R68). -/
def ctzW (w a : Nat) : Nat := ((List.range w).find? fun i => a.testBit i).getD w

/-- One bits at width w (R68). -/
def popcW (w a : Nat) : Nat := ((List.range w).filter fun i => a.testBit i).length

/-- A comparison's result (R65): 0 or 1 in all 64 bits. -/
def flag01 (b : Bool) : Nat := if b then 1 else 0

/-- ADD (R68). -/
def execAdd (f : CSlot) (s : State) : Host.Outcome State Fault Refusal :=
  gated (.add f) .go (alu f true 1 fun _ a b => a + b) s

/-- SUB (R68). -/
def execSub (f : CSlot) (s : State) : Host.Outcome State Fault Refusal :=
  gated (.sub f) .go (alu f true 1 fun w a b => a + 2 ^ w - b) s

/-- MUL (R68). -/
def execMul (f : CSlot) (s : State) : Host.Outcome State Fault Refusal :=
  gated (.mul f) .go (alu f true 3 fun _ a b => a * b) s

/-- MULH (R68). -/
def execMulh (f : CSlot) (s : State) : Host.Outcome State Fault Refusal :=
  gated (.mulh f) .go (alu f true 3 fun w a b => wrapInt w (sintOf w a * sintOf w b / (2 ^ w : Nat))) s

/-- MULHN (R68). -/
def execMulhn (f : CSlot) (s : State) : Host.Outcome State Fault Refusal :=
  gated (.mulhn f) .go (alu f false 3 fun w a b => a * b / 2 ^ w) s

/-- DIV (R69). -/
def execDiv (f : CSlot) (s : State) : Host.Outcome State Fault Refusal :=
  gated (.div f) .go (alu f true 18 fun w a b => (divide true w a b).1) s

/-- DIVN (R69). -/
def execDivn (f : CSlot) (s : State) : Host.Outcome State Fault Refusal :=
  gated (.divn f) .go (alu f false 18 fun w a b => (divide false w a b).1) s

/-- REM (R69). -/
def execRem (f : CSlot) (s : State) : Host.Outcome State Fault Refusal :=
  gated (.rem f) .go (alu f true 18 fun w a b => (divide true w a b).2) s

/-- REMN (R69). -/
def execRemn (f : CSlot) (s : State) : Host.Outcome State Fault Refusal :=
  gated (.remn f) .go (alu f false 18 fun w a b => (divide false w a b).2) s

/-- AND (R68). -/
def execAnd (f : CSlot) (s : State) : Host.Outcome State Fault Refusal :=
  gated (.and f) .go (alu f true 1 fun _ a b => a &&& b) s

/-- OR (R68). -/
def execOr (f : CSlot) (s : State) : Host.Outcome State Fault Refusal :=
  gated (.or f) .go (alu f true 1 fun _ a b => a ||| b) s

/-- XOR (R68). -/
def execXor (f : CSlot) (s : State) : Host.Outcome State Fault Refusal :=
  gated (.xor f) .go (alu f true 1 fun _ a b => a ^^^ b) s

/-- ANDN (R68). -/
def execAndn (f : CSlot) (s : State) : Host.Outcome State Fault Refusal :=
  gated (.andn f) .go (alu f true 1 fun w a b => a &&& (2 ^ w - 1 - b)) s

/-- SHL (R68). -/
def execShl (f : CSlot) (s : State) : Host.Outcome State Fault Refusal :=
  gated (.shl f) .go (alu f true 1 fun w a b => a * 2 ^ (b % w)) s

/-- SHR (R68). -/
def execShr (f : CSlot) (s : State) : Host.Outcome State Fault Refusal :=
  gated (.shr f) .go (alu f false 1 fun w a b => a / 2 ^ (b % w)) s

/-- SAR (R68). -/
def execSar (f : CSlot) (s : State) : Host.Outcome State Fault Refusal :=
  gated (.sar f) .go (alu f true 1 fun w a b => wrapInt w (sintOf w a / (2 ^ (b % w) : Nat))) s

/-- ROL (R68). -/
def execRol (f : CSlot) (s : State) : Host.Outcome State Fault Refusal :=
  gated (.rol f) .go (alu f true 1 fun w a b => a * 2 ^ (b % w) % 2 ^ w + a / 2 ^ (w - b % w)) s

/-- MIN (R68). -/
def execMin (f : CSlot) (s : State) : Host.Outcome State Fault Refusal :=
  gated (.min f) .go (alu f true 1 fun w a b => if sintOf w a ≤ sintOf w b then a else b) s

/-- MAX (R68). -/
def execMax (f : CSlot) (s : State) : Host.Outcome State Fault Refusal :=
  gated (.max f) .go (alu f true 1 fun w a b => if sintOf w a ≤ sintOf w b then b else a) s

/-- MINN (R68). -/
def execMinn (f : CSlot) (s : State) : Host.Outcome State Fault Refusal :=
  gated (.minn f) .go (alu f false 1 fun _ a b => Nat.min a b) s

/-- MAXN (R68). -/
def execMaxn (f : CSlot) (s : State) : Host.Outcome State Fault Refusal :=
  gated (.maxn f) .go (alu f false 1 fun _ a b => Nat.max a b) s

/-- CLZ (R68). -/
def execClz (f : CSlot) (s : State) : Host.Outcome State Fault Refusal :=
  gated (.clz f) .go (alu f false 1 fun w a _ => clzW w a) s

/-- CTZ (R68). -/
def execCtz (f : CSlot) (s : State) : Host.Outcome State Fault Refusal :=
  gated (.ctz f) .go (alu f false 1 fun w a _ => ctzW w a) s

/-- POPC (R68). -/
def execPopc (f : CSlot) (s : State) : Host.Outcome State Fault Refusal :=
  gated (.popc f) .go (alu f false 1 fun w a _ => popcW w a) s

/-- SEQ (R68). -/
def execSeq (f : CSlot) (s : State) : Host.Outcome State Fault Refusal :=
  gated (.seq f) .go (alu f false 1 fun _ a b => flag01 (decide (a = b))) s

/-- SLT (R68). -/
def execSlt (f : CSlot) (s : State) : Host.Outcome State Fault Refusal :=
  gated (.slt f) .go (alu f false 1 fun w a b => flag01 (decide (sintOf w a < sintOf w b))) s

/-- SLTN (R68). -/
def execSltn (f : CSlot) (s : State) : Host.Outcome State Fault Refusal :=
  gated (.sltn f) .go (alu f false 1 fun _ a b => flag01 (decide (a < b))) s

/-- LI (R68). -/
def execLi (f : CSlot) (s : State) : Host.Outcome State Fault Refusal :=
  gated (.li f) .go (alu f true 1 fun _ _ b => b) s

/-- SEL (R68): the condition is all 64 bits of s[F]. -/
def execSel (f : CSlot) (s : State) : Host.Outcome State Fault Refusal :=
  gated (.sel f) .go (fun s => alu f true 1 (fun _ a b => if rdS s f.fn.toNat ≠ 0 then a else b) s) s

/-- LIH (R70). -/
def execLih (f : CSlot) (s : State) : Host.Outcome State Fault Refusal :=
  gated (.lih f) .go (fun s => postS f.sd.toNat 1 (f.imm ++ (rdS s f.sa.toNat).truncate 32) s) s

/-- LEA (R70): formed in 64 bits. -/
def execLea (f : CSlot) (s : State) : Host.Outcome State Fault Refusal :=
  gated (.lea f) .go
    (fun s => postS f.sd.toNat 1 (rdS s f.sa.toNat + operandB s f <<< (f.fn.toNat % 8)) s) s

/-- POPQ's hold (R71): the head entry is not filled yet. The schedule cycle stands still meanwhile (R48, R95), so that an entry whose
filling falls in a later schedule cycle is not filled by the hold, which then ends by the freeze watchdog alone (DEDUCED, log 103). -/
def ownPopq (s : State) : Verdict :=
  match s.ctx.a.queue with
  | [] => .go
  | e :: _ => if e.ready s.cyc then .go else .hold 1

/-- POPQ (R71): the head entry's low bytes, sign-extended. -/
def execPopq (f : CSlot) (s : State) : Host.Outcome State Fault Refusal :=
  gated (.popq f) (ownPopq s) (fun s =>
    let (e, s) := popEntry s
    postS f.sd.toNat 1 (sx e.data.toNat (widthBits f.w)) s) s

end Sys2Proof.Machine
end

