-- ==== Sys2Proof/Machine/Transposer.lean ====
section
/-! DEFINITION. The T slot: the transposer buffer of a core, 128 rows of 128 elements (R235). -/

namespace Sys2Proof.Machine

/-- A T operation's register and row or column, stepped (R54). -/
def tReg (f : TSlot) (k : Nat) : Nat := (f.v.toNat + k * f.step.toNat) % 64
def tIdx (f : TSlot) (k : Nat) : Nat := (f.idx.toNat + k * f.step.toNat) % 128

/-- TNOP: nothing. -/
def execTnop (f : TSlot) (s : State) : Host.Outcome State Fault Refusal := gated (.tnop f) .go (fun s => s) s

/-- TXI (R235): the register is read now, the row written at the end of cycle start + 15; a HAAR source traps 0x07. -/
def execTxi (f : TSlot) (s : State) : Host.Outcome State Fault Refusal :=
  gated (.txi f) .go (fun s =>
    let n := tReg f s.foc.k
    let r := rdV s n
    if tagHaar r.tag then startFault (.txi f) 7 (opInfo (.txi f) 1 n 0 s) s
    else
      let (key, s) := if s.foc.bad then s.fresh else (0, s)
      let row := if s.foc.bad then Config.freeVec key else r.bits
      s.modCore fun k => { k with xposeW := k.xposeW ++ [(s.cyc + 15, tIdx f s.foc.k, row)] }) s

/-- Column `j` of the transposer buffer. -/
def xposeColumn (k : Core) (j : Nat) : Vec := mkVec fun i => lane (k.xpose.get i 0) j

/-- TXO (R235). -/
def execTxo (f : TSlot) (s : State) : Host.Outcome State Fault Refusal :=
  gated (.txo f) .go (fun s =>
    postV (tReg f s.foc.k) 4 (xposeColumn s.core (tIdx f s.foc.k)) (plainTag f.fmt.toNat) s) s

/-- TXC (R235): the buffer is 0 from the end of the cycle on; one that collides leaves it unpredictable (R58). -/
def execTxc (f : TSlot) (s : State) : Host.Outcome State Fault Refusal :=
  gated (.txc f) .go (fun s =>
    if s.foc.bad then
      let (key, s) := s.fresh
      s.modCore fun k => { k with xposeW := k.xposeW ++ (List.range 128).map fun i => (s.cyc, i, Config.freeVec (key + 2 ^ 32 * i)) }
    else s.modCore fun k => { k with xclear := true }) s

/-- A row of the buffer; one of zeros is not listed. -/
def setRow (m : Map Vec) (n : Nat) (v : Vec) : Map Vec := if v = 0 then Map.drop m n else m.set n v

/-- TXI_ROW_WRITE (R235): at the end of this cycle the rows due are written, the later-started last. -/
def execTxiRowWrite (s : State) : Host.Outcome State Fault Refusal :=
  .next (s.modCore fun k => { k with
    xpose := (k.xposeW.filter fun w => w.1 ≤ k.cyc).foldl (fun m w => setRow m w.2.1 w.2.2) k.xpose
    xposeW := k.xposeW.filter fun w => k.cyc < w.1 })

/-- A TXC of this cycle clears the buffer after the rows (R235). -/
def applyClear (s : State) : State := s.modCore fun k => if k.xclear then { k with xpose := [], xclear := false } else k

end Sys2Proof.Machine
end

