-- ==== Sys2Proof/Machine/Issue.lean ====
section
/-! DEFINITION. A core's cycle, part by part: fetching a bundle (R43 to R45), the checks of an issue in their order (R63,
R344), blocks and holds, the sticky operations (R53), the issue's header (R49, R362, R370), starts with their holds (R56,
R287), landings (R57), the choice of a context (R285), the freeze watchdog (R356). -/

namespace Sys2Proof.Machine

/-! ### Fetch (R43 to R45) -/

/-- A bundle as fetched: its header and the words of its present slots, in order. -/
structure Bundle where
  hdr   : Header
  words : List (Slot × BitVec 64)
  deriving DecidableEq, Repr

/-- The words of the slots from address `va` on; none where a byte cannot be fetched. -/
def slotWords (s : State) (l : Launch) : Nat → List Slot → Option (List (Slot × BitVec 64))
  | _, [] => some []
  | va, sl :: r =>
    match codeBytes s l va sl.bytes, slotWords s l (va + sl.bytes) r with
    | some x, some ws => some ((sl, BitVec.ofNat 64 x) :: ws)
    | _, _ => none

/-- The bundle at an address, or the cause and TRAPINFO of the fetch fault (R45, R346). -/
def fetchBundle (s : State) (l : Launch) (pc : Word) : Except (Nat × Word) Bundle :=
  let va := pc.toNat
  if va % 4 ≠ 0 then .error (0x0C, pc)
  else
    match headerAt s l va with
    | none => .error (0x0B, BitVec.ofNat 64 (codeFault s l va 4))
    | some h =>
      match slotWords s l (va + 4) (Slot.all.filter h.present) with
      | some ws => .ok { hdr := h, words := ws }
      | none => .error (0x0B, BitVec.ofNat 64 (codeFault s l va h.length))

/-! ### Checks 1 to 4 (R63) -/

/-- A failed check: cause, TRAPINFO, FSLOT. -/
abbrev Failure := Nat × Word × Nat

/-- A header cause (R64): SLOT 7, OPC 0. -/
def headerFailure (cause idx fld : Nat) : Failure := (cause, info64 7 0 idx 0 0 fld, 7)

/-- The operations of a bundle's slots; the first slot with an opcode that R62 does not assign fails (check 3). -/
def decodeAll (idx : Nat) : List (Slot × BitVec 64) → Except Failure (List (Slot × Instr))
  | [] => .ok []
  | (sl, w) :: r =>
    match decodeSlot sl w with
    | none => .error (2, info64 sl.code (w.toNat % 256) idx 0 0 0, sl.code)
    | some i => (decodeAll idx r).map ((sl, i) :: ·)

/-- Check 2 (R50), with ERET's bundle, which carries the C slot alone (R353; log 13). -/
def repCheck (b : Bundle) (idx : Nat) : Option Failure :=
  match (b.words.find? fun e => decide (e.1 = .c)).bind fun e => decodeSlot .c e.2 with
  | none => none
  | some i =>
    if b.hdr.rep ≠ 0 ∧ needsRep0 i = true then some (headerFailure 1 idx 6)
    else
      match i with
      | .eret _ => if b.words.length > 1 then some (headerFailure 1 idx 0) else none
      | _ => none

/-- Check 4: the first slot with a reserved field or value. -/
def reservedCheck (idx : Nat) (l : List (Slot × Instr)) : Option Failure :=
  (l.filterMap fun e => e.2.reservedBit.map fun b => (3, info64 e.1.code e.2.opcode.toNat idx 0 0 b, e.1.code)).head?

/-- Checks 1 to 4: the operations of the present slots, or the first failure. -/
def encodedChecks (b : Bundle) (idx : Nat) : Except Failure (List (Slot × Instr)) :=
  if b.hdr.rsv ≠ 0 then .error (headerFailure 1 idx 20)
  else
    match repCheck b idx with
    | some x => .error x
    | none =>
      match decodeAll idx b.words with
      | .error x => .error x
      | .ok l => match reservedCheck idx l with | some x => .error x | none => .ok l

/-! ### The operations of an issue (R53, R55) -/

/-- An operation that an issue executes, with its step counter. -/
structure Entry where
  slot : Slot
  op   : Instr
  k    : Nat := 0
  deriving DecidableEq, Repr

/-- The sticky operation of an engine slot. -/
def Arch.sticky (a : Arch) : Slot → Sticky
  | .a => a.stA | .v => a.stV | .m => a.stM | .t => a.stT | _ => {}

/-- The sticky operation of an engine slot set. -/
def Arch.setSticky (a : Arch) (x : Sticky) : Slot → Arch
  | .a => { a with stA := x } | .v => { a with stV := x } | .m => { a with stM := x } | .t => { a with stT := x } | _ => a

/-- What a slot executes on issue `idx`, present with an operation or absent (R53, R55); an engine's NOP starts nothing
(R58). -/
def entryOf (a : Arch) (sl : Slot) (p : Option Instr) : Option Entry :=
  match sl, p with
  | .c, some i | .x, some i => some { slot := sl, op := i }
  | .c, none | .x, none => none
  | _, some i =>
    if isNop i then none
    else if a.idx = 0 then some { slot := sl, op := i }
    else if oneShot i then none
    else some { slot := sl, op := i, k := (a.sticky sl).k + 1 }
  | _, none => (a.sticky sl).op.map fun i => { slot := sl, op := i, k := (a.sticky sl).k + 1 }

/-- The sticky operation after an issue (R53, R55). -/
def stickyAfter (a : Arch) (sl : Slot) (p : Option Instr) : Sticky :=
  let old := a.sticky sl
  match p with
  | some i => if isNop i || oneShot i then {} else { op := some i, k := if a.idx = 0 then 0 else old.k + 1 }
  | none => if old.op.isSome then { old with k := old.k + 1 } else old

/-- The operation of a slot in a bundle, if it is present. -/
def slotOf (l : List (Slot × Instr)) (sl : Slot) : Option Instr := (l.find? fun e => decide (e.1 = sl)).map Prod.snd

/-- The operations an issue executes, in slot order. -/
def entriesOf (a : Arch) (l : List (Slot × Instr)) : List Entry := Slot.all.filterMap fun sl => entryOf a sl (slotOf l sl)

/-- The context after the sticky operations have taken an issue. -/
def Arch.takeSticky (a : Arch) (l : List (Slot × Instr)) : Arch :=
  [Slot.a, .v, .m, .t].foldl (fun b sl => b.setSticky (stickyAfter a sl (slotOf l sl)) sl) a

/-! ### Verdicts on an issue (R63, R344) -/

/-- The A operations whose test is part of their issue (R117, R299, R302): they act in their issue cycle. -/
def testsAtIssue : Instr → Bool
  | .ldf _ | .ste _ | .setf _ | .sete _ | .tstf _ | .barv _ | .bwait _ | .flwait _ => true
  | _ => false

/-- What an operation's own entry says of its issue. -/
def ownOf (i : Instr) (s : State) : Verdict :=
  match i with
  | .popq _ => ownPopq s
  | .eret f => ownEret f s
  | .chk f => ownChk f s
  | .spl f => ownSpl f s
  | .ldf f => ownFE f (some true) s
  | .ste f => ownFE f (some false) s
  | .setf f | .sete f | .tstf f => ownFE f none s
  | .barv f => ownBarv f s
  | .bwait f => ownBwait f s
  | .flwait f => ownFlwait f s
  | .waitany f => ownWaitany f s
  | .waitall f => ownWaitall f s
  | .ffrdy f => ownFfrdy f s
  | .pput f => ownPond i f true s
  | .pget f => ownPond i f false s
  | .grpbar f => ownGrpbar f s
  | .lwait f => ownLwait f s
  | .evsig f => ownEvsig f s
  | .evwait f => ownEvwait f s
  | .launch f => ownLaunch f s
  | .defer f => ownDefer f s
  | .defrun f => ownDefrun f s
  | .mflush f => ownMflush f s
  | .cntrd f => ownCntrd f s
  | .copy f | .copy2d f | .copyt f => ownCopyOp i f s
  | .xdt f => ownXdt f s
  | .xds f => ownXds f s
  | _ => .go

/-- Whether an operation reads a register whose line is in motion: it holds its core (R376). -/
def locksReads (i : Instr) (s : State) : Bool := (readsOf i s.foc.k s).any (lockedReg s.core s.foc.ctx)

/-- What an operation's own entry decides at its issue, before any slot executes. A hold that would keep an operation from
starting whose test is part of its issue holds the issue, and the test comes after it (R117; DEDUCED, log 43). -/
def issueOwn (i : Instr) (s : State) : Verdict :=
  match ownOf i s with
  | .go =>
    if (i.slot? = some .c ∨ i.slot? = some .x) ∧ locksReads i s = true then .hold 2
    else if testsAtIssue i then (match holdA i false s with | some k => .hold k | none => .go) else .go
  | .block w => if testsAtIssue i then (match holdA i false s with | some k => .hold k | none => .block w) else .block w
  | v => v

/-- The place in program order of a slot's operation in the issue in progress. -/
def ordOf (c : Ctx) (sl : Slot) : Nat := 8 * c.seq + sl.code

/-- The state with an entry of the issue in focus. -/
def atEntry (e : Entry) (s : State) : State :=
  { s with foc := { core := s.foc.core, ctx := s.foc.ctx, k := e.k, idx := s.ctx.a.idx, ord := ordOf s.ctx e.slot } }

/-- The first entry whose verdict `g` is one of `p`: the verdict and the slot's code. -/
def firstVerdict (g : Instr → State → Verdict) (p : Verdict → Bool) (es : List Entry) (s : State) : Option (Verdict × Nat) :=
  (es.filterMap fun e => let v := g e.op (atEntry e s); if p v then some (v, e.slot.code) else none).head?

/-- A verdict that a trap, or a rewind in its place, is due. -/
def Verdict.isTrap : Verdict → Bool
  | .trap _ _ => true
  | .deny _ => true
  | .rewind => true
  | _ => false

/-- The verdict on an issue: check 5 of every slot, check 6, the other traps, the rendezvous of R370, then blocks and holds,
each in slot order (R63, R344). -/
def issueVerdict (es : List Entry) (rendezvous : Bool) (s : State) : Verdict × Nat :=
  let other (i : Instr) (s : State) : Verdict := otherVerdict i (issueOwn i s) s
  let notGo (v : Verdict) : Bool := decide (v ≠ .go)
  match firstVerdict verdict5 notGo es s with
  | some x => x
  | none =>
    match firstVerdict verdict6 notGo es s with
    | some x => x
    | none =>
      match firstVerdict other Verdict.isTrap es s with
      | some x => x
      | none =>
        if rendezvous then (.block (.rendezvous s.lid), 7)
        else (firstVerdict other notGo es s).getD (.go, 7)

/-! ### An issue that executes -/

/-- The start of an engine operation of this issue (R56); without a check, operations that collide are marked (R58). -/
def addStart (e : Entry) (s : State) : State :=
  let s' := atEntry e s
  let t := startCycle e.op s.cyc
  let hit := s'.ctx.starts.any (collides e.op t s')
  let x : Start := { due := t, ord := s'.foc.ord, op := e.op, k := e.k, idx := s'.foc.idx, hm := s.ctx.hmode, bad := hit }
  s.modCtx fun c => { c with
    starts := (c.starts.map fun y => if hit && collides e.op t s' y then { y with bad := true } else y) ++ [x] }

/-- A C or X operation of this issue, which acts now. -/
def addNow (e : Entry) (s : State) : State :=
  let s' := atEntry e s
  let x : Start := { due := s.cyc, ord := s'.foc.ord, op := e.op, k := 0, idx := s'.foc.idx, hm := s.ctx.hmode }
  s.modCore fun k => { k with todo := k.todo ++ [(s.foc.ctx, x)] }

/-- The issue executes (R49, R53): sticky operations, starts, and the C and X operations to act now, the X operation first: the C
operation sees what becomes of its tag in this cycle (R84, R133). -/
def executeIssue (l : List (Slot × Instr)) (es : List Entry) (s : State) : State :=
  let of (sl : Slot) : List Entry := es.filter fun e => e.slot = sl
  let s := (es.filter fun e => decide (e.slot ≠ .c) && decide (e.slot ≠ .x)).foldl (fun s e => addStart e s) s
  let s := (of .x ++ of .c).foldl (fun s e => addNow e s) s
  (s.modCtx fun c => { c with a := c.a.takeSticky l, seq := c.seq + 1
                              seg := c.seg.map fun g => { g with again := false } }).modCore fun k =>
    { k with midIss := true }

/-- Whether the issue of a bundle closes the open segment first (R362): D or RV on the first issue, which the re-issue
after a rewind is not, or a closing operation of the C or X slot, or one whose test is part of its issue. -/
def closesFirst (h : Header) (first : Bool) (es : List Entry) : Bool :=
  (first && (decide (h.d = 1#1) || decide (h.rv = 1#1)))
    || es.any fun e => (decide (e.slot = .c) || decide (e.slot = .x) || testsAtIssue e.op) && closing e.op

/-- A bundle that passes checks 1 to 4 on the issue in focus. -/
def issueOps (l : Launch) (h : Header) (ops : List (Slot × Instr)) (s : State) : State :=
  let again := match s.ctx.seg with | some g => g.again | none => false
  let first := decide (s.ctx.a.idx = 0) && !again
  let es := entriesOf s.ctx.a ops
  let s := if closesFirst h first es then s.modCtx Ctx.commit else s
  let meet := first && l.rc.segprot && decide (h.rv = 1#1) && rewindNear s.foc.core s.lid s
  match issueVerdict es meet s with
  | (.go, _) =>
    let s := if first && l.rc.segprot && decide (h.g = 1#1) then openSegment s.cyc s else s
    executeIssue ops es s
  | (v, slot) => v.act slot s

/-- The next issue of the context in focus (R63): fetch, checks 1 to 4, then the operations. -/
def issueBundle (l : Launch) (s : State) : State :=
  match fetchBundle s l s.ctx.a.pc with
  | .error x => takeTrap { cause := x.1, info := x.2 } s
  | .ok b =>
    let s := s.modCtx fun c => { c with blen := b.hdr.length, brep := b.hdr.rep.toNat }
    match encodedChecks b s.ctx.a.idx with
    | .error x => takeTrap { cause := x.1, info := x.2.1, fslot := x.2.2 } s
    | .ok ops => issueOps l b.hdr ops s

/-- Whether the context in focus issues in this cycle (R49, R285). -/
def mayIssue (s : State) : Bool :=
  decide (s.core.issuing = some s.foc.ctx) && decide (s.ctx.st = .issuing) && !s.core.midIss
    && decide (s.ctx.frm + stallNext s ≤ s.cyc)

/-- The oldest pending trap to take now: in handler mode only one that arose there (R353, DEDUCED, log 36). -/
def nextPend (c : Ctx) : Option TrapReq := if c.hmode then c.pend.find? fun q => q.hm else c.pend.head?

/-- BUNDLE_ISSUE (R49): the context in focus makes its next issue, if it is due: saved instead at the drain point it is to
be saved at (R289), a pending trap taken first (R344), else the bundle issues. Its C and X operations wait in `todo`, and
the step runs each of them in this same cycle; the engine operations are among the starts. -/
def execBundleIssue (s : State) : Host.Outcome State Fault Refusal :=
  if !mayIssue s then .next s
  else
    match s.launch? with
    | none => .next s
    | some l =>
      if s.ctx.saveFor.isSome && atDrain s then .next (startSave s)
      else
        match (if s.core.holdIss then none else nextPend s.ctx) with
        | some q => .next (takeTrap q (s.modCtx fun c => { c with pend := c.pend.erase q }))
        | none => .next (issueBundle l s)

/-- The bytes of a bundle are read through the L2 and the Mere at its first issue (R102; DESIGN CHOICE, log 12). -/
def fetchTouch (s : State) : State :=
  match s.launch? with
  | some l => if s.ctx.a.idx = 0 then vaTouch l.asid s.ctx.a.pc.toNat s.ctx.blen l.vf s else s
  | none => s

/-- After the C and X operations of an issue have acted: the context is advanced, and END takes effect (R49, R85). -/
def finishIssue (s : State) : State :=
  let s := advanceHere (fetchTouch s)
  if s.ctx.ending then leaveIssue (s.modCtx fun c => { c.commit with st := .ended, ending := false }) else s

/-! ### Starts (R56, R287) -/

/-- The operations of a core due to start, with their contexts, in slot order and, in one slot, by context: of two TXIs of one cycle
the higher numbered context's is the later-started one (R235; DESIGN CHOICE, log 16). -/
def dueStarts (k : Core) : List (Nat × Start) :=
  let l := k.ctxs.flatMap fun e => (e.2.starts.filter fun x => decide (x.due ≤ k.cyc)).map fun x => (e.1, x)
  [1, 2, 3, 4].flatMap fun n => l.filter fun x => slotCode x.2.op = n

/-- Those of them that may start together: the array takes M operations of one context at a time (R209), the lowest numbered
first (DESIGN CHOICE, log 16). -/
def dueNow (k : Core) : List (Nat × Start) :=
  let l := dueStarts k
  match l.find? fun x => decide (slotCode x.2.op = 3) with
  | none => l
  | some (c, _) => l.filter fun x => decide (slotCode x.2.op ≠ 3) || decide (x.1 = c)

/-- The state with an operation that starts in focus. -/
def atStart (c : Nat) (e : Start) (pre : Bool) (s : State) : State :=
  { s with foc := { core := s.foc.core, ctx := c, k := e.k, idx := e.idx, ord := e.ord, bad := e.bad, pre := pre } }

/-- Whether an operation's pop waits for an entry that is not filled (R112, R216); `n` entries go to operations before
it. -/
def popWaits (i : Instr) (n : Nat) (s : State) : Bool :=
  let m := popCount i s
  decide (n + m ≤ s.ctx.a.queue.length) && ((s.ctx.a.queue.drop n).take m).any fun e => !e.ready s.cyc

/-- The hold that keeps a due operation from starting: its kind (R356). -/
def startHold (c : Nat) (e : Start) (before : List (Nat × Start)) (s : State) : Option Nat :=
  let s := atStart c e false s
  let n := ((before.filter fun x => x.1 = c).map fun x => popCount x.2.op (atStart x.1 x.2 false s)).sum
  if popWaits e.op n s then some 1
  else if locksReads e.op s then some 2
  else
    match e.op.slot? with
    | some .a => holdA e.op s.ctx.begun s
    | some .m => holdM e.op s
    | _ => none

/-- The first due operation that must hold, and its kind. -/
def firstHold (s : State) : List (Nat × Start) → List (Nat × Start) → Option (Nat × Start × Nat)
  | _, [] => none
  | before, (c, e) :: r =>
    match startHold c e before s with
    | some k => some (c, e, k)
    | none => firstHold s (before ++ [(c, e)]) r

/-- The order in which operations that start together act: those that pop the queue (R71) before the A operation, which
allocates an entry (R111; log 14). -/
def startOrder (l : List (Nat × Start)) : List (Nat × Start) :=
  [2, 3, 4, 1].flatMap fun n => l.filter fun x => slotCode x.2.op = n

/-- Operations that start: their bus slots are granted (R97), and they wait in `todo`. -/
def startNow (l : List (Nat × Start)) (s : State) : State :=
  let f := s.foc
  let s := l.foldl (fun s (x : Nat × Start) => grantBus x.2.op (atStart x.1 x.2 false s)) s
  { s with foc := f }.modCore fun (k : Core) => { k with
    todo := k.todo ++ startOrder l
    ctxs := k.ctxs.map fun (e : Nat × Ctx) => (e.1, { e.2 with starts := e.2.starts.filter fun x => !l.contains (e.1, x) }) }

/-! ### Full-rate turns (R98, R288) -/

/-- Whether a streaming operation takes its rows at full rate (R197, R198). -/
def fullRate (i : Instr) (a : ArrayState) : Bool :=
  match i with
  | .fmx f | .fmxHaar f | .fmxd f | .fmxc f => decide (rowCycles (a.buf f.b).desc f.inf.toNat f.af.toNat = 1)
  | _ => false

/-- Whether the array of a core has a row to take at full rate in its cycle. -/
def fullRow (k : Core) : Bool := k.arr.pushes.any fun p => decide (p.c = 1) && p.due k.cyc

/-- The layer that loses a full-rate turn of a core's column in bus cycle t: that of its plan, or the rotating one (R288). -/
def losingLayer (core t : Nat) (s : State) : Nat :=
  let rest := (((columnOf core).flatMap fun c => boundLaunches s c).map fun l => l.rc.rest).headD 4
  if rest = 4 then t / 64 % 4 else rest % 4

/-- The losing layers of the 64 columns in a round. -/
def planNow (s : State) : List Nat :=
  (List.range 64).map fun i => let c := i / 32 * 128 + i % 32; losingLayer c (s.coreAt c).clk s

/-- The losing layer of a core's column in the round in progress. -/
def State.loserOf (s : State) (core : Nat) : Nat := s.plan.getD (core / 128 * 32 + core % 32) 3

/-- The core whose turn comes in place `n` of the round: of each column the losing layer's comes last, after what the other three make
of the cycle (R288). -/
def State.coreOfTurn (s : State) (n : Nat) : Nat :=
  let c := n / 128 * 128 + n % 32
  c + 32 * ((n / 32 % 4 + s.loserOf c + 1) % 4)

/-- The core whose turn it is. -/
def State.turnCore (s : State) : Nat := s.coreOfTurn s.cur

/-- Whether the core in focus, with the operations that are due to start, loses its full-rate turn to the other three cores of its
column, which have taken theirs (R98, R288). -/
def turnLost (l : List (Nat × Start)) (s : State) : Bool :=
  let k := s.core
  decide (s.loserOf s.foc.core = coreLayer s.foc.core)
    && (fullRow k || l.any fun x => fullRate x.2.op k.arr)
    && ((columnOf s.foc.core).filter fun c => c ≠ s.foc.core).all fun c => decide ((s.coreAt c).fullAt = some k.clk)

/-- The core in focus has taken rows at full rate in its cycle. -/
def noteTurn (s : State) : State :=
  if fullRow s.core then s.modCore fun k => { k with fullAt := some k.clk } else s

/-- The segments of the contexts with a closing operation among those about to start are closed (R362), before anything decides
whether it may start. -/
def closeDue (l : List (Nat × Start)) (s : State) : State :=
  (l.filter fun x => closing x.2.op).foldl (fun s x => s.modCtxAt s.foc.core x.1 Ctx.commit) s

/-- OPERATION_START (R56): the due operations of the core in focus start, or one of them, or a lost full-rate turn, holds the
core (R287, R288); the step runs each of those that start in this same cycle. One whose test is part of its issue acts in its issue
cycle, whatever holds another (R117). -/
def execOperationStart (s : State) : Host.Outcome State Fault Refusal :=
  let l := dueNow s.core
  let lost := turnLost l s
  let s := closeDue l s
  match firstHold s [] l with
  | some (c, e, kind) =>
    let f := s.foc
    let s := startNow (l.filter fun x => testsAtIssue x.2.op && decide (x ≠ (c, e))) s
    let s := holdBegins e.op (atStart c e false s)
    .next { s.modCore fun k => { k with
      hold := some kind, holdIss := false, turnOwed := lost, bankHeld := k.bankHeld + b2n (kind = 2) } with foc := f }
  | none =>
    if lost then
      .next ((startNow (l.filter fun x => testsAtIssue x.2.op) s).modCore fun k =>
        { k with hold := some 7, holdIss := false, turnOwed := true })
    else .next (startNow l s)

/-- RESULT_LANDING (R57): the results of the context in focus that land in this cycle. -/
def execResultLanding (s : State) : Host.Outcome State Fault Refusal := .next (s.modCtx fun c => c.landDue s.cyc)

/-! ### The choice of a context (R285) -/

/-- The first READY context after the last one that issued. -/
def nextReady (k : Core) : Option Nat :=
  ([1, 2, 3, 4].map fun i => (k.last + i) % 4).find? fun n => (k.ctxAt n).st = .ready

/-- CONTEXT_SWITCH (R285): the core in focus chooses; a context that firmware or a service's answer resumes is put back as
if by ERET in the cycle from which it issues (R352, R355). -/
def execContextSwitch (s : State) : Host.Outcome State Fault Refusal :=
  match s.core.pickAt with
  | none => .next s
  | some t =>
    if s.cyc < t ∨ s.core.issuing.isSome = true then .next s
    else
      match nextReady s.core with
      | none => .next (s.modCore fun k => { k with pickAt := none })
      | some n =>
        let e := s.cyc + 1
        .next ((s.modCore fun k => { k with issuing := some n, pickAt := none }).modCtxAt s.foc.core n fun c =>
          let c := match c.resume with | some (owed, ans) => c.firmwareReturn e owed ans | none => c
          { c with st := .issuing, wait := none, woken := false })

/-! ### The freeze watchdog (R287, R356) -/

/-- The limit FWL of the function whose context issues (R388). -/
def freezeLimit (s : State) : Nat :=
  match s.core.issuing with
  | some n => s.limit (s.focusOn s.foc.core n).vfid 0
  | none => s.limit 0 0

/-- Accesses and late data that hold the core in focus do so no longer: an access performs and its data fills its entry when
they come (R356 kinds 2, 6, 9 and 10). A reply that is late lands when its context resumes (DESIGN CHOICE, log 44). -/
def letLate (kind : Nat) (s : State) : State :=
  let now := s.cyc
  let late (d : Option Nat) : Bool := match d with | some t => decide (t ≤ now) | none => false
  let held (a : Access) : Bool := late a.due || (a.holds s.foc.core s).isSome
  let ids := (s.core.acc.filter held).filterMap fun a => a.entry.map fun e => (a.ctx, e)
  let loose (c : Nat) (q : List QEntry) : List QEntry :=
    q.map fun e => if ids.contains (c, e.id) || (decide (kind = 9) && e.filled && decide (e.due = some now)) then { e with due := none } else e
  s.modCore fun k => { k with
    acc := k.acc.map fun a => if held a then { a with due := none, loose := true } else a
    replies := k.replies.filter fun t => kind ≠ 9 || t ≠ now
    ctxs := k.ctxs.map fun e => (e.1, { e.2 with
      a := { e.2.a with queue := loose e.1 e.2.a.queue }
      aside := e.2.aside.map fun x => { x with queue := loose e.1 x.queue } }) }

/-- Committed entries that hold the core in focus do so no longer: they enter when they can (R356 kinds 2 and 3, R366; DESIGN CHOICE,
log 44). -/
def letEntries (kind : Nat) (s : State) : State :=
  if kind = 2 ∨ kind = 3 then
    s.modCore fun k => { k with ctxs := k.ctxs.map fun e => (e.1, { e.2 with entLoose := !e.2.entering.isEmpty }) }
  else s

/-- FREEZE_WATCHDOG_EXPIRY (R356): the hold of the core in focus has lasted FWL cycles and ends. The issuing context takes
0x0F, at the held issue or, when a start is held, at its next issue with the stall it still owes; the held operation is
one of the starts and is taken up with r = 0. With no context issuing no trap is raised and the count restarts (log 37). -/
def execFreezeWatchdogExpiry (s : State) : Host.Outcome State Fault Refusal :=
  match s.core.hold with
  | none => .next s
  | some kind =>
    let lim := freezeLimit s
    if s.core.holdRun < lim then .next s
    else
      let iss := s.core.holdIss
      let s := (letEntries kind (if !iss && [2, 6, 9, 10].contains kind then letLate kind s else s)).modCore fun k =>
        { k with hold := none, holdIss := false, holdRun := 0, midIss := false }
      match s.core.issuing with
      | none => .next s
      | some n =>
        let s := s.focusOn s.foc.core n
        let owed := if iss then 0 else min 31 (s.ctx.frm + stallNext s - s.cyc)
        .next (takeTrap { cause := 0x0F, info := BitVec.ofNat 64 (kind * 2 ^ 32 + lim), owed := owed } s)

end Sys2Proof.Machine
end

