-- ==== Sys2Proof/Machine/Events.lean ====
section
/-! DEFINITION. Which events may happen next without anything from outside (log 1): each that concerns something in
progress, with the focus it has. The order and the moment of most of them are not promised, and the step chooses. -/

namespace Sys2Proof.Machine

/-! ### Events of a core -/

/-- The row of an access. -/
def AccRow.instr : AccRow → Instr
  | .bank => .bankService
  | .perform => .accessPerform
  | .release => .releasePerform
  | .flag => .flagOperationArrival
  | .event => .eventSignalArrival
  | .record => .launchEnqueue

/-- Accesses that may perform. -/
def accessEvents (c : Nat) (k : Core) (s : State) : List Event :=
  (k.acc.filter fun a => eligible k a && banksFree a s).map fun a => { row := a.row.instr, core := c, ctx := a.ctx, id := a.id }

/-- HOST-path accesses whose completion timeout has run out (R383). -/
def timeoutEvents (c : Nat) (k : Core) (s : State) : List Event :=
  (k.acc.filter fun a => a.toHost && s.hostLate a.vf a.since).map fun a => { row := .hostCompletionTimeout, core := c, ctx := a.ctx, id := a.id }

/-- Queue entries whose data has been read and has not arrived. -/
def fillEvents (c n : Nat) (x : Ctx) : List Event :=
  ((x.a.queue ++ (match x.aside with | some a => a.queue | none => [])).filter fun e =>
    e.filled && !e.arrived && e.due.isNone).map fun e => { row := .loadDataFill, core := c, ctx := n, id := e.id }

/-- Whether a 0x0B of context `x` is for an empty pool of versions (R346, R371), and not for an address of XLT or of a fetch whose bit
63 is set. -/
def poolTrap (q : TrapReq) (x : Ctx) (s : State) : Bool :=
  match s.launchOf x with
  | none => false
  | some l => l.rc.shadow && bit q.info.toNat 63 && !(q.replay.any fun e => match e.op with | .xlt _ => true | _ => false)
      && (decide (q.fslot ≠ 7) || match fetchBundle s l x.a.pc with | .ok _ => true | .error _ => false)

/-- What firmware's defaults make of a trap that it holds (R397), and of a service request: any answer (R352). Of traps in handler mode
only a page fault is resolved; a 0x13 there is forwarded, which kills the launch, though R397 has it resolved at once: R347 names
services and page faults alone as what handler mode survives (DEDUCED, log 87). An empty pool grows within the grant (R371). -/
def heldEvents (c n : Nat) (x : Ctx) (s : State) : List Event :=
  if !firmwareUp s || x.resume.isSome then []
  else
    match x.fwHeld, x.wait with
    | some _, some .service =>
      [{ row := .serviceAnswer (Config.freeWord (2 * s.nfree)).toNat, core := c, ctx := n }]
    | some q, some .firmware =>
      let shadowed := match s.launchOf x with | some l => l.rc.shadow | none => false
      let id := match x.inst with | some i => i.launch | none => 0
      match q.cause with
      | 0x12 => [{ row := .launchReplay, core := c, ctx := n, id := id, aux := 1 }]
      | 0x13 => [{ row := if mayResume q x.hmode then .firmwareTrapResume else .firmwareTrapForward, core := c, ctx := n }]
      | 0x0B =>
        let vf := match s.launchOf x with | some l => l.vf | none => 0
        if poolTrap q x s && decide (0 < s.grantOf vf) then [{ row := .firmwareTrapResume, core := c, ctx := n, aux := 1 }]
        else [{ row := .firmwareTrapForward, core := c, ctx := n }]
      | 0x14 =>
        if shadowed || decide (q.info.toNat % 256 = 7) then [{ row := .launchReplay, core := c, ctx := n, id := id }]
        else [{ row := .firmwareTrapForward, core := c, ctx := n }]
      | _ => [{ row := .firmwareTrapForward, core := c, ctx := n }]
    | _, _ => []

/-- Events of a context. -/
def ctxEvents (c n : Nat) (x : Ctx) (s : State) : List Event :=
  let s' := s.focusOn c n
  let ev (b : Bool) (r : Instr) : List Event := if b then [{ row := r, core := c, ctx := n }] else []
  let isDrn (e : Start) : Bool := match e.op with | .drn _ => true | _ => false
  fillEvents c n x ++ heldEvents c n x s
    ++ ev (match x.entering with | a :: _ => mayEnter a s' | [] => false) .heldEntryCommit
    ++ ev (x.asked.isSome && x.answer.isNone) .heldServiceAnswer
    ++ ev (mayWake s') .waiterReady
    ++ ev (decide (x.st = .ended)) .stageInstanceEnd
    ++ ev (decide (x.st = .saving) || x.saveFor.isSome) .contextSave
    ++ ev (decide ((s.coreAt c).hold = some 5) && x.starts.any fun e => decide (e.due ≤ (s.coreAt c).cyc) && isDrn e) .drnComplete

/-- Batches that a context of a core may start. -/
def batchEvents (c : Nat) (k : Core) (s : State) : List Event :=
  if k.batches.isEmpty then []
  else ((List.range 4).filter fun n => (nextBatch (s.focusOn c n)).isSome).map fun n =>
    { row := .deferralBatchStart, core := c, ctx := n }

/-- Events of a core's engines and of its L1 write-back unit. The copy engine runs on during any hold of its core: R17 freezes every
engine, while R138 and R152 hold the core until copies have progressed (DEDUCED, log 21). -/
def engineEvents (c : Nat) (k : Core) : List Event :=
  let ev (r : Instr) (id aux : Nat) : Event := { row := r, core := c, id := id, aux := aux }
  k.copyq.map (fun x => ev (if x.done < x.count then .copyChunk else .copyComplete) x.id 0)
    ++ k.flushq.map (fun x => ev .mflushComplete x.id 0)
    ++ (if k.jobq.isEmpty then [] else [ev .jobDispatch 0 0])
    ++ (match k.plog with | e :: _ => if promotionAsked k && promotable k e.gen then [ev .logPromotion 0 0] else [] | [] => [])
    ++ (k.l1.filter fun x => mayLeave k x).flatMap (fun x => [ev .l1WriteBack x.pa 0, ev .l1WriteBack x.pa 1])
    ++ (k.pacq.filter fun r => !r.done).map (fun r => ev (if r.cut.isNone then .pacqRequestArrival else .pacqReply) r.id 0)
    ++ (match k.retire with | some r => if !r.wait || k.vacated then [ev .bankLineMove 0 0] else [] | none => [])

/-- Events of a core. -/
def coreEvents (s : State) (c : Nat) (k : Core) : List Event :=
  accessEvents c k s ++ timeoutEvents c k s ++ engineEvents c k ++ batchEvents c k s ++ k.ctxs.flatMap fun e => ctxEvents c e.1 e.2 s

/-! ### Events of the scheduler -/

/-- The contexts of the device: core and number. -/
def allContexts : List (Nat × Nat) := (List.range 256).flatMap fun c => (List.range 4).map fun n => (c, n)

/-- Events of a launch. -/
def launchEvents (s : State) (id : Nat) (l : Launch) : List Event :=
  let ev (b : Bool) (r : Instr) : List Event := if b then [{ row := r, id := id }] else []
  let places := if l.wants then allContexts.filter fun p => fits id p.1 p.2 s && !batchWaits p.1 s else []
  let row : Instr := if (l.nextWant.map (·.st)) = some .saved then .contextResume else .instanceBind
  places.map (fun p => { row := row, core := p.1, ctx := p.2, id := id })
    ++ (if l.nextWant.isSome && places.isEmpty then
        s.cores.flatMap fun e => (e.2.ctxs.filter fun x => x.2.inst.isSome && x.2.saveFor.isNone).map fun x =>
          { row := .preemption, core := e.1, ctx := x.1, id := id }
      else [])
    ++ ev (!l.complete && launchThrough id l s) .launchComplete
    ++ ev l.wordDue .completionWordWrite
    ++ ev (watchdogDue l s) .launchWatchdogExpiry

/-- Selections (R281): a queue has a head, and a free context finds no instance of a selected launch. -/
def selectionEvents (s : State) : List Event :=
  if (bestQueue s).isNone then []
  else
    (allContexts.filter fun p => decide (((s.coreAt p.1).ctxAt p.2).st = .free)
      && !(s.dev.launches.any fun e => e.2.wants && fits e.1 p.1 p.2 s)).map fun p =>
      { row := .launchSelection, core := p.1, ctx := p.2 }

/-! ### Events of the rest of the device -/

/-- Events of a transducer job or table load. -/
def jobEvents (s : State) (j : Job) : List Event :=
  let ev (r : Instr) : List Event := [{ row := r, core := j.core, ctx := j.ctx, id := j.id }]
  if !j.live then []
  else if j.isXdt then ev .xdtComplete
  else if j.st = .suspended then if jobParked j s || laneBusy j s.dev.jobs then [] else ev .jobResumption
  else if !j.mayGo s then if j.begun then ev .jobSuspend else []
  else if j.out ≠ [] then if mayWrite j s then ev .chunkWrite else []
  else if j.blk < j.nblk then if laneBusy j s.dev.jobs || !mayDecode j s then [] else ev .blockDecode
  else ev .jobComplete

/-- Events of firmware, links and commands. -/
def firmwareEvents (s : State) : List Event :=
  let d := s.dev
  let ev (b : Bool) (r : Instr) (id aux : Nat) : List Event := if b then [{ row := r, id := id, aux := aux }] else []
  (d.walks.filter fun w => w.mayBegin s || (w.begun && w.missed s)).map (fun w => { row := .pageWalk, id := w.id })
    ++ (d.lreqs.filter fun r => r.got.isSome && launchMay r s).map
        (fun r => { row := .launchEnqueue, core := r.core, ctx := r.ctx, id := r.id })
    ++ ev (d.shoot.any fun c => shootDone c s) .shootDownAcknowledge 0 0
    ++ ev d.flush.isSome .flushCommandComplete 0 0
    ++ (d.hostq.filter fun e => mayConsume e.1 s && s.hostUp).map (fun e => { row := .queueEntryConsume, id := e.1 })
    ++ (d.hostq.filter fun e => queueLate e.1 s).map (fun e => { row := .hostCompletionTimeout, id := e.1, aux := 1 })
    ++ (d.unloads.filter fun i => unloadReady i s).map (fun i => { row := .keySlotUnload i })
    ++ ([0, 1].filter fun t => mayRecover t s).map (fun t => { row := .clockRecoveryStep t })
    ++ d.l2Ret.map (fun e => { row := .bankLineMove, id := e.1, aux := 1 })
    ++ (d.flr.filter fun f => flrQuiet f.vf s).map (fun f => { row := .functionLevelReset f.vf })
    ++ (d.flr.filter fun f => !d.fwDown && decide (f.since + 2 ^ 21 ≤ d.base)).map (fun f => { row := .functionResetTimeout f.vf })
    ++ ev (decide (d.fwStatus = 2)) .firmwareSwapGo 0 1
    ++ ev (decide (d.fwStatus = 3)) .firmwareSwapGo 0 2
    ++ ev (swapLate d) .firmwareSwapTimeout 0 0
    ++ ev d.fwDown .wellheadRestart 0 0
    ++ ev (decide (d.ladder = 5)) .warmReset 0 0
    ++ (d.retries.filter fun e => decide (portSt s e.1 = 2) && decide (1024 < (recentRetries s e.1).length)).map
        (fun e => { row := .linkPortFail e.1 })

/-- Every event that may happen next. -/
def enabledEvents (s : State) : List Event :=
  (s.cores.flatMap fun e => coreEvents s e.1 e.2) ++ (s.dev.launches.flatMap fun e => launchEvents s e.1 e.2)
    ++ selectionEvents s ++ s.dev.jobs.flatMap (jobEvents s) ++ firmwareEvents s

/-- What happens next, when something may: one of the events, or the next compute cycle of a core (none). -/
def chooseEvent (s : State) : Option Event :=
  match enabledEvents s with
  | [] => none
  | l => l[Config.choice (2 * s.nfree) % (l.length + 1)]?

/-- The state with an event in focus. -/
def Event.focus (e : Event) (s : State) : State := { s with foc := { core := e.core, ctx := e.ctx, id := e.id, aux := e.aux } }

end Sys2Proof.Machine
end

