-- ==== Sys2Proof/Machine/Cycle.lean ====
section
/-! DEFINITION. One compute cycle of a core (R48, R49, R56, R57, R285, R287), put together from the parts that Issue.lean and
the array give, and the step: an event from outside, an event of the device, or the next core's cycle (log 2). `ex` stands
for the meaning of an instruction, which Dispatch.lean defines from the meanings alone. -/

namespace Sys2Proof.Machine

/-- What an instruction or a step answers. -/
abbrev Result := Host.Outcome State Fault Refusal

/-- The meaning of instructions. -/
abbrev Meaning := Instr → State → Result

/-- Continue from a next state; a stop stays. -/
def andThen (r : Result) (g : State → Result) : Result :=
  match r with
  | .next s => g s
  | .fault f => .fault f
  | .refused x => .refused x

/-- One after another, for each of a list. -/
def runEach {α : Type} (g : α → State → Result) : List α → State → Result
  | [], s => .next s
  | x :: r, s => andThen (g x s) (runEach g r)

/-! ### Operations of this cycle -/

/-- An operation of this cycle in focus. -/
def focusOp (c : Nat) (x : Nat × Start) (s : State) : State :=
  { s with foc := { core := c, ctx := x.1, k := x.2.k, idx := x.2.idx, ord := x.2.ord, bad := x.2.bad, pre := true } }

/-- The operations in a core's `todo` run in their order; a rewind may take some of them away. -/
def runTodo (ex : Meaning) (c : Nat) : Nat → State → Result
  | 0, s => .next s
  | n + 1, s =>
    match (s.coreAt c).todo with
    | [] => .next s
    | x :: r => andThen (ex x.2.op (focusOp c x (s.modCoreAt c fun k => { k with todo := r }))) (runTodo ex c n)

/-- Every operation in the `todo` of a core. -/
def runAll (ex : Meaning) (c : Nat) (s : State) : Result := runTodo ex c (s.coreAt c).todo.length s

/-- The numbers of a core's contexts that hold something. -/
def heldCtxs (s : State) (c : Nat) : List Nat := (s.coreAt c).ctxs.map Prod.fst

/-! ### The parts of a cycle -/

/-- Whether a fixed-latency access is due and has not performed (R95). -/
def lateAccess (k : Core) (a : Access) : Bool := match a.due with | some t => decide (t ≤ k.cyc) | none => false

/-- Whether data or a reply of a fixed-latency operation of a core is due in its cycle (R95, R104, R266). -/
def dataDue (k : Core) : Bool :=
  k.replies.contains k.cyc || k.ctxs.any fun e => (e.2.a.queue ++ match e.2.aside with | some a => a.queue | none => []).any fun q =>
      q.filled && decide (q.due = some k.cyc)

/-- The kind of the hold that stands before anything of a cycle happens: of an access that waits to perform, of a committed entry that
cannot enter its path (R366), of a result for a register whose line is in motion (R376), or of late data (R356). -/
def earlyHold (c : Nat) (s : State) : Option Nat :=
  let k := s.coreAt c
  (((k.acc.findSome? fun a => a.holds c s).or (entriesHold c s)).or
    (if k.ctxs.any fun e => e.2.flight.any fun l => decide (l.due ≤ k.cyc) && lockedReg k e.1 l.reg then some 2 else none)).or
    (if k.acc.any (lateAccess k) || (dataDue k && Config.lateHeld s.nfree) then some 9 else none)

/-- Whether an access is one of the core's own to its SRAM, which a bank serves at once (R90). -/
def ownBank (a : Access) : Bool := decide (a.h = 0) && decide (a.row = .bank)

/-- Accesses through h0, and fixed-latency accesses due now, perform where the order of accesses lets them (R90, R95). -/
def performDue (ex : Meaning) (c : Nat) (s : State) : Result :=
  runEach (fun (a : Access) s => ex a.row.instr { s with foc := { core := c, ctx := a.ctx, id := a.id } })
    ((s.coreAt c).acc.filter fun a => ownBank a || lateAccess (s.coreAt c) a) s

/-- Results land in every context (R57). -/
def landAll (ex : Meaning) (c : Nat) (s : State) : Result :=
  runEach (fun n s => ex .resultLanding (s.focusOn c n)) (heldCtxs s c) s

/-- The changes of the array state due now (R187, R190, R191). -/
def arrayBegin (ex : Meaning) (c : Nat) (s : State) : Result :=
  let a := (s.coreAt c).arr
  if a.changes.isEmpty && a.loads.isEmpty then .next s
  else
    andThen (ex .fgridSlotWrite (applyChanges false (s.focusOn c 0))) fun s =>
      andThen (ex .floadComplete s) (ex .floadBegin)

/-- The rows and codebook reads of the array in this cycle (R194, R269), and the full-rate turns it takes (R288). -/
def arrayRows (ex : Meaning) (c : Nat) (s : State) : Result :=
  let s := noteTurn (s.focusOn c 0)
  let s := takeBanks false (arrayBanks s) s
  let k := s.coreAt c
  andThen (runEach (fun (p : Push) s => ex .arrayPushRow { s with foc := { core := c, ctx := p.ctx, id := p.id } })
      (k.arr.pushes.filter fun p => p.due k.cyc) s) fun s =>
    match (s.coreAt c).arr.loads with
    | l :: _ => if l.readDue (s.coreAt c).cyc then ex .codebookTableRead (s.focusOn c l.ctx) else .next s
    | [] => .next s

/-- The issue of the issuing context, and what its C and X operations do (R49). -/
def issuePhase (ex : Meaning) (c : Nat) (s : State) : Result :=
  match (s.coreAt c).issuing with
  | none => .next s
  | some n =>
    if (s.coreAt c).midIss then .next s
    else
      andThen (ex .bundleIssue (s.focusOn c n)) fun s =>
        if (s.coreAt c).midIss then andThen (runAll ex c s) fun s => .next (finishIssue (s.focusOn c n)) else .next s

/-- The operations that start in this cycle (R56), in at most `n` goes: one for each context with an M operation. -/
def startRounds (ex : Meaning) (c : Nat) : Nat → State → Result
  | 0, s => .next s
  | n + 1, s =>
    andThen (ex .operationStart (s.focusOn c 0)) fun s => andThen (runAll ex c s) fun s =>
      if (s.coreAt c).hold.isSome || (dueStarts (s.coreAt c)).isEmpty then .next s else startRounds ex c n s

/-- An access that has started and finds its bank taken holds the core (R90). -/
def holdAtBank (c : Nat) (s : State) : State :=
  if (s.coreAt c).hold.isNone && (s.coreAt c).acc.any fun a => !a.loose && waitsBank c a s then
    s.modCoreAt c fun k => { k with hold := some 2, holdIss := false }
  else s

/-- Whether a read of the array of core `c` finds its bank taken by an access of a higher row in this cycle (R90). -/
def arrayWaits (c : Nat) (s : State) : Bool :=
  let s := s.focusOn c 0
  !allFree false (arrayBanks s) s

/-- The array's reads hold their core while their banks are taken (R90, R95, R270; DEDUCED, log 11). -/
def holdAtRead (c : Nat) (s : State) : State :=
  if (s.coreAt c).hold.isNone && arrayWaits c s then s.modCoreAt c fun k => { k with hold := some 9, holdIss := false } else s

/-- The operations that start in this cycle (R56). -/
def startPhase (ex : Meaning) (c : Nat) (s : State) : Result :=
  andThen (startRounds ex c 4 s) fun s => .next (holdAtRead c (holdAtBank c s))

/-! ### The end of a cycle -/

/-- Spill memory written at the end of the cycle (R82). -/
def Ctx.spillNow (c : Ctx) : Ctx :=
  if c.spillW.isEmpty then c
  else { c with
    a := { c.a with
      spill := c.spillW.foldl (fun m w => m.write w.1 w.2.1 w.2.2) c.a.spill
      badSpill := c.a.badSpill.filter fun x => !(c.spillW.any fun w => decide (w.1 ≤ x) && decide (x < w.1 + w.2.1)) }
    spillW := [] }

/-- The first of the operations that faulted in a cycle, in the order A, V, M, T (R344). -/
def firstFault (l : List (Start × Nat × Word)) : Option (Start × Nat × Word) :=
  [1, 2, 3, 4].findSome? fun n => l.find? fun x => decide (slotCode x.1.op = n)

/-- A trap with the boundary after the cycle in the context in focus: taken if it issues, else pending (R343, R357). -/
def raise (here : Bool) (q : TrapReq) (s : State) : State :=
  if here then trapAfter q s else s.modCtx fun c => c.pendTrap q

/-- The traps of the context in focus in this cycle, the first in the order of R344: start faults, TRAP, a landing fault;
with none, a service request (R352). A fault of an operation that END left to start is pending in a context that issues no more, and
goes with it (R85; DESIGN CHOICE, log 45). The record's PC is that of the next issue, as R343 and R346 say, not the PC of the
bundle that R233 and R276 name (DEDUCED, log 50). -/
def settleTraps (s : State) : State :=
  let c := s.ctx
  let here := decide (s.core.issuing = some s.foc.ctx) && decide (c.st = .issuing)
  let s := s.modCtx fun c => { c with faults := [], lfault := none, trapEnd := none }
  match firstFault c.faults with
  | some (e, cause, info) =>
    let s := s.modCtx fun c => if here then { c with svc := none } else c
    raise here { cause := cause, info := info, fslot := slotCode e.op, replay := c.faults.map Prod.fst } s
  | none =>
    match c.trapEnd with
    | some q => raise here q s
    | none =>
      if here && c.svc.isSome then enterService s
      else
        match c.lfault with
        | some info => if here && canRewind s then rewind s else raise here { cause := 0x14, info := info, fslot := 3 } s
        | none => s

/-- The clock of a tower in steps of 100 MHz: 1.8 GHz less what it is throttled by, 0 when it has stopped (R15, R394). -/
def State.rate (s : State) (tower : Nat) : Nat := if s.dev.stopped.get tower false then 0 else 18 - s.dev.thr.get tower 0

/-- The faster clock of the two towers, in which rounds are counted. -/
def State.fastest (s : State) : Nat := max (s.rate 0) (s.rate 1)

/-- The core whose cycles count the base-die clock: the first of the tower with the faster clock. -/
def clockCore (s : State) : Nat := if s.rate 0 < s.rate 1 then 128 else 0

/-- The base-die clock after a compute cycle of core `c`: 1.6 GHz beside the clock of the tower (R15, R394). -/
def tickBase (c : Nat) (s : State) : State :=
  if c = clockCore s then
    let f := max 1 s.fastest
    let t := s.dev.baseFrac + 16
    s.modDev fun d => { d with base := d.base + t / f, baseFrac := t % f }
  else s

/-- The turn of a core ends, and with it the bank cycle of its SRAM (R90); the next core's cycle comes. -/
def nextCore (s : State) : State :=
  { s.modCoreAt s.turnCore fun k => { k with served := k.claims, claims := [] } with cur := (s.cur + 1) % 256, nfree := s.nfree + 1 }

/-- Regions of a core that nothing keeps any more are released (R86). -/
def releaseRegions (c : Nat) (s : State) : State :=
  (s.coreAt c).regions.foldl (fun s r => releaseRegion r.launch c s) s

/-- A schedule cycle of core `c` is over. -/
def closeCycle (c : Nat) (s : State) : State :=
  nextCore (tickBase c ((releaseRegions c s).modCoreAt c fun k => { k with
    cyc := k.cyc + 1, clk := k.clk + 1, midIss := false, hold := none, holdIss := false, holdRun := 0, bankHeld := 0
    mark := s.uid
    replies := k.replies.filter fun t => k.cyc < t
    ctxs := k.ctxs.map fun e => (e.1, { e.2 with tagNew := 0 })
    arr := k.arr.tidy k.cyc }))

/-- The rebalance check of a compute cycle, held cycles included (R291). -/
def rebalance (ex : Meaning) (c : Nat) (s : State) : Result :=
  if (s.coreAt c).clk % 4096 = 0 then ex .rebalanceCheck (s.focusOn c 0) else .next s

/-- The end of a schedule cycle: spill memory, transposer rows, traps, the choice of a context, the rebalancer, the
clocks. -/
def endPhase (ex : Meaning) (c : Nat) (s : State) : Result :=
  let s := s.modCoreAt c fun k => { k with ctxs := k.ctxs.map fun e => (e.1, e.2.spillNow) }
  andThen (ex .txiRowWrite (s.focusOn c 0)) fun s =>
    let s := (heldCtxs s c).foldl (fun s n => settleTraps (s.focusOn c n)) (applyClear s)
    andThen (ex .contextSwitch (s.focusOn c 0)) fun s =>
      andThen (rebalance ex c s) fun s => .next (closeCycle c s)

/-- Whether a hold waits for the array, which then runs ahead of the schedule (R209), but for a turn that it loses (R288). -/
def arrayHolds (k : Core) : Bool :=
  !k.turnOwed
    && (decide (k.hold = some 7) || (decide (k.hold = some 3) && decide (4 ≤ (k.arr.loads.filter fun l => l.g.isNone).length)))

/-- A held cycle of core `c` (R287): the array finishes what it has in hand when the hold is for it, and the freeze
watchdog looks. -/
def heldPhase (ex : Meaning) (c : Nat) (s : State) : Result :=
  let s := s.focusOn c 0
  let on := s.modCore fun k => { k with arr := k.arr.runAhead }
  andThen (if arrayHolds s.core && !arrayWaits c on then andThen (arrayBegin ex c on) (arrayRows ex c) else .next s) fun s =>
    andThen (rebalance ex c s) fun s =>
    andThen (ex .freezeWatchdogExpiry (heldCycle ((s.focusOn c 0).modCore fun k => { k with turnOwed := false }))) fun s =>
      .next (nextCore (tickBase c s))

/-- The rest of a cycle where no hold stands in its way, else a held cycle. -/
def unlessHeld (ex : Meaning) (c : Nat) (g : State → Result) (s : State) : Result :=
  if (s.coreAt c).hold.isSome then heldPhase ex c s else g s

/-- Whether an operation issued before this cycle keeps core `c` held: no issue of the cycle then executes, and the one that is due
is the next issue for the resume point (R343, R356; DEDUCED, log 94). -/
def heldBefore (c : Nat) (s : State) : Bool :=
  let t := s.focusOn c 0
  let l := dueNow t.core
  !l.isEmpty && ((firstHold (closeDue l t) [] l).isSome || turnLost l t)

/-- The issue of a cycle, or in its place the hold of an operation issued before it. -/
def issueOrHold (ex : Meaning) (c : Nat) (s : State) : Result :=
  if heldBefore c s then ex .operationStart (s.focusOn c 0) else issuePhase ex c s

/-- A compute cycle of core `c` that is not one of a rewind's hold. -/
def liveCycle (ex : Meaning) (c : Nat) (s : State) : Result :=
  andThen (performDue ex c s) fun s =>
    match earlyHold c s with
    | some kind => heldPhase ex c (s.modCoreAt c fun k => { k with hold := some kind, holdIss := false })
    | none =>
      andThen (landAll ex c (s.modCoreAt c fun k => { k with hold := none })) fun s =>
      andThen (arrayBegin ex c s) fun s =>
      andThen (issueOrHold ex c s) (unlessHeld ex c fun s =>
      andThen (startPhase ex c s) (unlessHeld ex c fun s =>
      andThen (arrayRows ex c s) (endPhase ex c)))

/-- Waiters of core `c` whose condition has changed are READY within 12 cycles (R286): this is the cycle of the last, and a cycle
more for the others. -/
def ageWaiters (ex : Meaning) (c : Nat) (s : State) : Result :=
  runEach (fun n s =>
    let t := s.focusOn c n
    if mayWake t then
      if 11 ≤ t.ctx.wokeFor then ex .waiterReady t else .next (t.modCtx fun x => { x with wokeFor := x.wokeFor + 1 })
    else .next s) (heldCtxs s c) s

/-- The translations of core `c` that end with a hit in this cycle (R328). -/
def endHits (ex : Meaning) (c : Nat) (s : State) : Result :=
  runEach (fun (w : Walk) s => ex .pageWalk { s with foc := { core := c, id := w.id } })
    (s.dev.walks.filter fun w => decide (w.core = c) && w.hit s) s

/-- Whether the slower clock of a core's tower has a cycle in this round of the faster one (R394). -/
def runsNow (c : Nat) (s : State) : Bool :=
  decide (0 < s.rate (coreTower c)) && decide (s.fastest ≤ (s.coreAt c).lag + s.rate (coreTower c))

/-- What core `c` is behind the faster clock after its turn of a round. -/
def countLag (c : Nat) (s : State) : State :=
  s.modCoreAt c fun k => { k with lag := k.lag + s.rate (coreTower c) - (if runsNow c s then s.fastest else 0) }

/-- The next compute cycle of core `c`, if its clock has one now. -/
def coreCycle (ex : Meaning) (c : Nat) (s : State) : Result :=
  let runs := runsNow c s
  let s := countLag c s
  if !runs then .next (nextCore s)
  else
    andThen (ageWaiters ex c (lockAges c s)) fun s =>
    andThen (endHits ex c s) fun s =>
      if 0 < (s.coreAt c).rewHold then
        andThen (rebalance ex c s) fun s => .next (nextCore (tickBase c (rewindCycle (s.focusOn c 0))))
      else liveCycle ex c s

/-! ### The step -/

/-- One step: the next event from outside, if there is one; else an event of the device or a cycle, whichever comes next.
An operation of a slot is no outside event. -/
def stepWith (ex : Meaning) (s : State) : Result :=
  match s.inputs with
  | e :: r =>
    let s := { s with inputs := r, nfree := s.nfree + 1 }
    if e.row.slot?.isSome then .next s else ex e.row (e.focus s)
  | [] =>
    match chooseEvent s with
    | some e => ex e.row (e.focus { s with nfree := s.nfree + 1 })
    | none =>
      let s := if s.cur = 0 then { s with plan := planNow s } else s
      coreCycle ex s.turnCore s

/-! ### A program placed from outside (log 5) -/

/-- Page tables for address space 0 in HBM and the one page they map: root at 0x10000, then 0x20000, 0x21000 and 0x22000,
each entry 0 leading on, and the 64 KiB page at 0x30000 read-only under key slot 0 (R324 to R326). -/
def placeTables (m : Mem) : Mem :=
  let next (pa : Nat) : Nat := 2 ^ 63 + pa
  (((m.write 0x10000 8 (next 0x20000)).write 0x20000 8 (next 0x21000)).write 0x21000 8 (next 0x22000)).write 0x22000 8
    (2 ^ 63 + 2 ^ 62 + 2 ^ 61 + 0x30000)

/-- The header of a bundle with one slot (R43). -/
def oneSlotHeader (sl : Slot) : Nat := 2 ^ sl.code

/-- The launch a placed program runs in: one stage of one context, its code at address 0 (R277). -/
def placedLaunch (s : State) : Launch :=
  { rc := { nstg := 1, clen := 1, stages := [(1, 0)] }
    insts := [{ stage := 0, num := 0, st := .bound 0 0 }]
    selAt := s.dev.base }

/-- A context issuing the first bundle of the placed program (R283). -/
def placedCtx (s : State) : Ctx :=
  { a := startArch (placedLaunch s).rc 0 0 0, st := .issuing, inst := some { launch := 1, stage := 0, num := 0 }
    frm := (s.coreAt 0).cyc }

/-- Whether a physical address is not one of the placed tables and code. -/
def offProgram (pa : Nat) : Bool := decide (pa < 0x10000) || decide (0x40000 ≤ pa)

/-- The device with the tables, the code and the launch of a placed program of `n` bytes. -/
def placeDev (n bytes : Nat) (l : Launch) (d : Dev) : Dev :=
  { d with
    hbm := (placeTables d.hbm).write 0x30000 n bytes
    blockKey := d.blockKey.filter fun e => offProgram (16 * e.1)
    l2 := d.l2.filter fun c => offProgram c.pa
    mere := d.mere.filter fun c => offProgram c.pa
    asd := d.asd.set 0 (BitVec.ofNat 64 (2 ^ 63 + 0x10000))
    keys := d.keys.set 0 { loaded := true }
    stopped := d.stopped.drop 0
    launches := d.launches.set 1 l }

/-- The state with a program of one bundle of one slot placed, which context 0 of core 0 issues next. -/
def placeProgram (sl : Slot) (w : Nat) (s : State) : State :=
  let l := placedLaunch s
  let c := placedCtx s
  let s := s.modCoreAt 0 fun k => { k with
    ctxs := k.ctxs.set 0 c, issuing := some 0, pickAt := none, midIss := false, rewHold := 0, todo := [], lag := 18 }
  let d := placeDev (4 + sl.bytes) (oneSlotHeader sl + 2 ^ 32 * w) l s.dev
  let s := { s with inputs := [], dev := d }
  let s := { s with plan := planNow s }
  { s with cur := 32 * (3 - s.loserOf 0) }

end Sys2Proof.Machine
end

