-- ==== Sys2Proof/Machine/Dispatch.lean ====
section
/-! DEFINITION. The dispatch of the machine: one arm per constructor of `Instr`, each one direct call of the meaning
of that row of the opcode table. -/

namespace Sys2Proof.Machine

/-- The meaning of an instruction or event at a state. A slot operation acts for the core, context and operation in the
focus of the state; `stepWith` sets the focus and decides when an operation starts. -/
def exec (i : Instr) (s : State) : Host.Outcome State Fault Refusal :=
  match i with
  | .cnop f => Sys2Proof.Machine.execCnop f s
  | .endInst f => Sys2Proof.Machine.execEndInst f s
  | .add f => Sys2Proof.Machine.execAdd f s
  | .sub f => Sys2Proof.Machine.execSub f s
  | .mul f => Sys2Proof.Machine.execMul f s
  | .mulh f => Sys2Proof.Machine.execMulh f s
  | .mulhn f => Sys2Proof.Machine.execMulhn f s
  | .div f => Sys2Proof.Machine.execDiv f s
  | .divn f => Sys2Proof.Machine.execDivn f s
  | .rem f => Sys2Proof.Machine.execRem f s
  | .remn f => Sys2Proof.Machine.execRemn f s
  | .and f => Sys2Proof.Machine.execAnd f s
  | .or f => Sys2Proof.Machine.execOr f s
  | .xor f => Sys2Proof.Machine.execXor f s
  | .andn f => Sys2Proof.Machine.execAndn f s
  | .shl f => Sys2Proof.Machine.execShl f s
  | .shr f => Sys2Proof.Machine.execShr f s
  | .sar f => Sys2Proof.Machine.execSar f s
  | .rol f => Sys2Proof.Machine.execRol f s
  | .min f => Sys2Proof.Machine.execMin f s
  | .max f => Sys2Proof.Machine.execMax f s
  | .minn f => Sys2Proof.Machine.execMinn f s
  | .maxn f => Sys2Proof.Machine.execMaxn f s
  | .clz f => Sys2Proof.Machine.execClz f s
  | .ctz f => Sys2Proof.Machine.execCtz f s
  | .popc f => Sys2Proof.Machine.execPopc f s
  | .seq f => Sys2Proof.Machine.execSeq f s
  | .slt f => Sys2Proof.Machine.execSlt f s
  | .sltn f => Sys2Proof.Machine.execSltn f s
  | .sel f => Sys2Proof.Machine.execSel f s
  | .li f => Sys2Proof.Machine.execLi f s
  | .lih f => Sys2Proof.Machine.execLih f s
  | .lea f => Sys2Proof.Machine.execLea f s
  | .popq f => Sys2Proof.Machine.execPopq f s
  | .br f => Sys2Proof.Machine.execBr f s
  | .beq f => Sys2Proof.Machine.execBeq f s
  | .bne f => Sys2Proof.Machine.execBne f s
  | .blt f => Sys2Proof.Machine.execBlt f s
  | .bge f => Sys2Proof.Machine.execBge f s
  | .bltn f => Sys2Proof.Machine.execBltn f s
  | .bgen f => Sys2Proof.Machine.execBgen f s
  | .bpany f => Sys2Proof.Machine.execBpany f s
  | .bpall f => Sys2Proof.Machine.execBpall f s
  | .call f => Sys2Proof.Machine.execCall f s
  | .ret f => Sys2Proof.Machine.execRet f s
  | .jmpr f => Sys2Proof.Machine.execJmpr f s
  | .loop f => Sys2Proof.Machine.execLoop f s
  | .lexit f => Sys2Proof.Machine.execLexit f s
  | .spl f => Sys2Proof.Machine.execSpl f s
  | .fil f => Sys2Proof.Machine.execFil f s
  | .mfs f => Sys2Proof.Machine.execMfs f s
  | .mts f => Sys2Proof.Machine.execMts f s
  | .trap f => Sys2Proof.Machine.execTrap f s
  | .trapSys f => Sys2Proof.Machine.execTrapSys f s
  | .eret f => Sys2Proof.Machine.execEret f s
  | .chk f => Sys2Proof.Machine.execChk f s
  | .blend f => Sys2Proof.Machine.execBlend f s
  | .bret f => Sys2Proof.Machine.execBret f s
  | .anop f => Sys2Proof.Machine.execAnop f s
  | .ldq f => Sys2Proof.Machine.execLdq f s
  | .ldqv f => Sys2Proof.Machine.execLdqv f s
  | .ldqg f => Sys2Proof.Machine.execLdqg f s
  | .ldqs f => Sys2Proof.Machine.execLdqs f s
  | .sts f => Sys2Proof.Machine.execSts f s
  | .stv f => Sys2Proof.Machine.execStv f s
  | .stvp f => Sys2Proof.Machine.execStvp f s
  | .stg f => Sys2Proof.Machine.execStg f s
  | .ldf f => Sys2Proof.Machine.execLdf f s
  | .ste f => Sys2Proof.Machine.execSte f s
  | .setf f => Sys2Proof.Machine.execSetf f s
  | .sete f => Sys2Proof.Machine.execSete f s
  | .tstf f => Sys2Proof.Machine.execTstf f s
  | .tld f => Sys2Proof.Machine.execTld f s
  | .tst f => Sys2Proof.Machine.execTst f s
  | .xlt f => Sys2Proof.Machine.execXlt f s
  | .hdrop f => Sys2Proof.Machine.execHdrop f s
  | .hinfo f => Sys2Proof.Machine.execHinfo f s
  | .hst f => Sys2Proof.Machine.execHst f s
  | .hld f => Sys2Proof.Machine.execHld f s
  | .amoadd f => Sys2Proof.Machine.execAmoadd f s
  | .amomin f => Sys2Proof.Machine.execAmomin f s
  | .amomax f => Sys2Proof.Machine.execAmomax f s
  | .amominn f => Sys2Proof.Machine.execAmominn f s
  | .amomaxn f => Sys2Proof.Machine.execAmomaxn f s
  | .amoand f => Sys2Proof.Machine.execAmoand f s
  | .amoor f => Sys2Proof.Machine.execAmoor f s
  | .amoxor f => Sys2Proof.Machine.execAmoxor f s
  | .amoswp f => Sys2Proof.Machine.execAmoswp f s
  | .amocas f => Sys2Proof.Machine.execAmocas f s
  | .amoincw f => Sys2Proof.Machine.execAmoincw f s
  | .amobfa f => Sys2Proof.Machine.execAmobfa f s
  | .amofadd f => Sys2Proof.Machine.execAmofadd f s
  | .ldacq f => Sys2Proof.Machine.execLdacq f s
  | .strel f => Sys2Proof.Machine.execStrel f s
  | .pacq f => Sys2Proof.Machine.execPacq f s
  | .drn f => Sys2Proof.Machine.execDrn f s
  | .barv f => Sys2Proof.Machine.execBarv f s
  | .bwait f => Sys2Proof.Machine.execBwait f s
  | .fladd f => Sys2Proof.Machine.execFladd f s
  | .flset f => Sys2Proof.Machine.execFlset f s
  | .flwait f => Sys2Proof.Machine.execFlwait f s
  | .vnop f => Sys2Proof.Machine.execVnop f s
  | .vfadd f => Sys2Proof.Machine.execVfadd f s
  | .vfsub f => Sys2Proof.Machine.execVfsub f s
  | .vfmul f => Sys2Proof.Machine.execVfmul f s
  | .vfma f => Sys2Proof.Machine.execVfma f s
  | .vfms f => Sys2Proof.Machine.execVfms f s
  | .vfnma f => Sys2Proof.Machine.execVfnma f s
  | .vfmin f => Sys2Proof.Machine.execVfmin f s
  | .vfmax f => Sys2Proof.Machine.execVfmax f s
  | .vfabs f => Sys2Proof.Machine.execVfabs f s
  | .vfneg f => Sys2Proof.Machine.execVfneg f s
  | .vfcmp f => Sys2Proof.Machine.execVfcmp f s
  | .vfspec f => Sys2Proof.Machine.execVfspec f s
  | .vfclass f => Sys2Proof.Machine.execVfclass f s
  | .viadd f => Sys2Proof.Machine.execViadd f s
  | .visub f => Sys2Proof.Machine.execVisub f s
  | .vimul f => Sys2Proof.Machine.execVimul f s
  | .vimad f => Sys2Proof.Machine.execVimad f s
  | .viand f => Sys2Proof.Machine.execViand f s
  | .vior f => Sys2Proof.Machine.execVior f s
  | .vixor f => Sys2Proof.Machine.execVixor f s
  | .vishl f => Sys2Proof.Machine.execVishl f s
  | .vishr f => Sys2Proof.Machine.execVishr f s
  | .visar f => Sys2Proof.Machine.execVisar f s
  | .vimin f => Sys2Proof.Machine.execVimin f s
  | .vimax f => Sys2Proof.Machine.execVimax f s
  | .vicmp f => Sys2Proof.Machine.execVicmp f s
  | .vcvt f => Sys2Proof.Machine.execVcvt f s
  | .vpack f => Sys2Proof.Machine.execVpack f s
  | .vunpk f => Sys2Proof.Machine.execVunpk f s
  | .vscacc f => Sys2Proof.Machine.execVscacc f s
  | .vscal f => Sys2Proof.Machine.execVscal f s
  | .vmov f => Sys2Proof.Machine.execVmov f s
  | .vsel f => Sys2Proof.Machine.execVsel f s
  | .vbcast f => Sys2Proof.Machine.execVbcast f s
  | .vins f => Sys2Proof.Machine.execVins f s
  | .vext f => Sys2Proof.Machine.execVext f s
  | .vperm f => Sys2Proof.Machine.execVperm f s
  | .vrot f => Sys2Proof.Machine.execVrot f s
  | .viota f => Sys2Proof.Machine.execViota f s
  | .vli f => Sys2Proof.Machine.execVli f s
  | .vrsum f => Sys2Proof.Machine.execVrsum f s
  | .vrmax f => Sys2Proof.Machine.execVrmax f s
  | .vrmin f => Sys2Proof.Machine.execVrmin f s
  | .pset f => Sys2Proof.Machine.execPset f s
  | .pand f => Sys2Proof.Machine.execPand f s
  | .por f => Sys2Proof.Machine.execPor f s
  | .pxor f => Sys2Proof.Machine.execPxor f s
  | .pnot f => Sys2Proof.Machine.execPnot f s
  | .pcnt f => Sys2Proof.Machine.execPcnt f s
  | .pfirst f => Sys2Proof.Machine.execPfirst f s
  | .hfwd f => Sys2Proof.Machine.execHfwd f s
  | .hinv f => Sys2Proof.Machine.execHinv f s
  | .hthr f => Sys2Proof.Machine.execHthr f s
  | .htagSet f => Sys2Proof.Machine.execHtagSet f s
  | .htagRead f => Sys2Proof.Machine.execHtagRead f s
  | .hcmp f => Sys2Proof.Machine.execHcmp f s
  | .splv f => Sys2Proof.Machine.execSplv f s
  | .filv f => Sys2Proof.Machine.execFilv f s
  | .vchk f => Sys2Proof.Machine.execVchk f s
  | .mnop f => Sys2Proof.Machine.execMnop f s
  | .fgrid f => Sys2Proof.Machine.execFgrid f s
  | .fload f => Sys2Proof.Machine.execFload f s
  | .fsel f => Sys2Proof.Machine.execFsel f s
  | .fmx f => Sys2Proof.Machine.execFmx f s
  | .fmxHaar f => Sys2Proof.Machine.execFmxHaar f s
  | .fmxd f => Sys2Proof.Machine.execFmxd f s
  | .fmxc f => Sys2Proof.Machine.execFmxc f s
  | .fgout f => Sys2Proof.Machine.execFgout f s
  | .fknot f => Sys2Proof.Machine.execFknot f s
  | .foog f => Sys2Proof.Machine.execFoog f s
  | .fclrBuffer f => Sys2Proof.Machine.execFclrBuffer f s
  | .fclrCounters f => Sys2Proof.Machine.execFclrCounters f s
  | .fclrGrid f => Sys2Proof.Machine.execFclrGrid f s
  | .fclrGrad f => Sys2Proof.Machine.execFclrGrad f s
  | .frdc f => Sys2Proof.Machine.execFrdc f s
  | .tnop f => Sys2Proof.Machine.execTnop f s
  | .txi f => Sys2Proof.Machine.execTxi f s
  | .txo f => Sys2Proof.Machine.execTxo f s
  | .txc f => Sys2Proof.Machine.execTxc f s
  | .xnop f => Sys2Proof.Machine.execXnop f s
  | .copy f => Sys2Proof.Machine.execCopy f s
  | .copy2d f => Sys2Proof.Machine.execCopy2d f s
  | .copyt f => Sys2Proof.Machine.execCopyt f s
  | .waitany f => Sys2Proof.Machine.execWaitany f s
  | .waitall f => Sys2Proof.Machine.execWaitall f s
  | .ffrdy f => Sys2Proof.Machine.execFfrdy f s
  | .tagclr f => Sys2Proof.Machine.execTagclr f s
  | .xdt f => Sys2Proof.Machine.execXdt f s
  | .xds f => Sys2Proof.Machine.execXds f s
  | .xdq f => Sys2Proof.Machine.execXdq f s
  | .launch f => Sys2Proof.Machine.execLaunch f s
  | .lwait f => Sys2Proof.Machine.execLwait f s
  | .defer f => Sys2Proof.Machine.execDefer f s
  | .defrun f => Sys2Proof.Machine.execDefrun f s
  | .pput f => Sys2Proof.Machine.execPput f s
  | .pget f => Sys2Proof.Machine.execPget f s
  | .grpbar f => Sys2Proof.Machine.execGrpbar f s
  | .evwait f => Sys2Proof.Machine.execEvwait f s
  | .evsig f => Sys2Proof.Machine.execEvsig f s
  | .mflush f => Sys2Proof.Machine.execMflush f s
  | .cntrd f => Sys2Proof.Machine.execCntrd f s
  | .pendingTrap cause info => Sys2Proof.Machine.execPendingTrap cause info s
  | .functionLevelReset vf => Sys2Proof.Machine.execFunctionLevelReset vf s
  | .functionResetTimeout vf => Sys2Proof.Machine.execFunctionResetTimeout vf s
  | .shootDownCommand asid all wb va count => Sys2Proof.Machine.execShootDownCommand asid all wb va count s
  | .addressSpaceDescriptorWrite index word => Sys2Proof.Machine.execAddressSpaceDescriptorWrite index word s
  | .keySlotDescriptorWrite index word => Sys2Proof.Machine.execKeySlotDescriptorWrite index word s
  | .keyPortWrite index word => Sys2Proof.Machine.execKeyPortWrite index word s
  | .keySlotUnload index => Sys2Proof.Machine.execKeySlotUnload index s
  | .bankStatusWrite index word => Sys2Proof.Machine.execBankStatusWrite index word s
  | .retirementCommand index word => Sys2Proof.Machine.execRetirementCommand index word s
  | .collectiveChannelWrite index word => Sys2Proof.Machine.execCollectiveChannelWrite index word s
  | .functionLimitsWrite index word => Sys2Proof.Machine.execFunctionLimitsWrite index word s
  | .hostQueueGrantWrite index word => Sys2Proof.Machine.execHostQueueGrantWrite index word s
  | .flushCommand word => Sys2Proof.Machine.execFlushCommand word s
  | .registerWrite unit index word => Sys2Proof.Machine.execRegisterWrite unit index word s
  | .qwcDoorbell queue count => Sys2Proof.Machine.execQwcDoorbell queue count s
  | .qctlRst queue => Sys2Proof.Machine.execQctlRst queue s
  | .hostMemoryAccess write addr data => Sys2Proof.Machine.execHostMemoryAccess write addr data s
  | .linkFlitReceive port good => Sys2Proof.Machine.execLinkFlitReceive port good s
  | .linkPortFail port => Sys2Proof.Machine.execLinkPortFail port s
  | .collectivePacketReceive chan attempt data => Sys2Proof.Machine.execCollectivePacketReceive chan attempt data s
  | .abortTokenStart chan => Sys2Proof.Machine.execAbortTokenStart chan s
  | .abortTokenReceive chan attempt port => Sys2Proof.Machine.execAbortTokenReceive chan attempt port s
  | .serviceAnswer word => Sys2Proof.Machine.execServiceAnswer word s
  | .throttle tower => Sys2Proof.Machine.execThrottle tower s
  | .clockRecoveryStep tower => Sys2Proof.Machine.execClockRecoveryStep tower s
  | .criticalTemperature tower => Sys2Proof.Machine.execCriticalTemperature tower s
  | .tarnLinkTraining port st peer degr => Sys2Proof.Machine.execTarnLinkTraining port st peer degr s
  | .recordPrioChange queue pos prio => Sys2Proof.Machine.execRecordPrioChange queue pos prio s
  | .errorNotConsumed line => Sys2Proof.Machine.execErrorNotConsumed line s
  | .bundleIssue => Sys2Proof.Machine.execBundleIssue s
  | .operationStart => Sys2Proof.Machine.execOperationStart s
  | .resultLanding => Sys2Proof.Machine.execResultLanding s
  | .loadDataFill => Sys2Proof.Machine.execLoadDataFill s
  | .bankService => Sys2Proof.Machine.execBankService s
  | .accessPerform => Sys2Proof.Machine.execAccessPerform s
  | .releasePerform => Sys2Proof.Machine.execReleasePerform s
  | .waiterReady => Sys2Proof.Machine.execWaiterReady s
  | .contextSwitch => Sys2Proof.Machine.execContextSwitch s
  | .freezeWatchdogExpiry => Sys2Proof.Machine.execFreezeWatchdogExpiry s
  | .heldEntryCommit => Sys2Proof.Machine.execHeldEntryCommit s
  | .arrayPushRow => Sys2Proof.Machine.execArrayPushRow s
  | .floadBegin => Sys2Proof.Machine.execFloadBegin s
  | .floadComplete => Sys2Proof.Machine.execFloadComplete s
  | .codebookTableRead => Sys2Proof.Machine.execCodebookTableRead s
  | .fgridSlotWrite => Sys2Proof.Machine.execFgridSlotWrite s
  | .txiRowWrite => Sys2Proof.Machine.execTxiRowWrite s
  | .copyChunk => Sys2Proof.Machine.execCopyChunk s
  | .copyComplete => Sys2Proof.Machine.execCopyComplete s
  | .mflushComplete => Sys2Proof.Machine.execMflushComplete s
  | .logPromotion => Sys2Proof.Machine.execLogPromotion s
  | .l1WriteBack => Sys2Proof.Machine.execL1WriteBack s
  | .pacqRequestArrival => Sys2Proof.Machine.execPacqRequestArrival s
  | .pacqReply => Sys2Proof.Machine.execPacqReply s
  | .drnComplete => Sys2Proof.Machine.execDrnComplete s
  | .heldServiceAnswer => Sys2Proof.Machine.execHeldServiceAnswer s
  | .flagOperationArrival => Sys2Proof.Machine.execFlagOperationArrival s
  | .eventSignalArrival => Sys2Proof.Machine.execEventSignalArrival s
  | .jobDispatch => Sys2Proof.Machine.execJobDispatch s
  | .blockDecode => Sys2Proof.Machine.execBlockDecode s
  | .chunkWrite => Sys2Proof.Machine.execChunkWrite s
  | .jobComplete => Sys2Proof.Machine.execJobComplete s
  | .jobSuspend => Sys2Proof.Machine.execJobSuspend s
  | .xdtComplete => Sys2Proof.Machine.execXdtComplete s
  | .launchEnqueue => Sys2Proof.Machine.execLaunchEnqueue s
  | .launchSelection => Sys2Proof.Machine.execLaunchSelection s
  | .instanceBind => Sys2Proof.Machine.execInstanceBind s
  | .preemption => Sys2Proof.Machine.execPreemption s
  | .contextSave => Sys2Proof.Machine.execContextSave s
  | .contextResume => Sys2Proof.Machine.execContextResume s
  | .rebalanceCheck => Sys2Proof.Machine.execRebalanceCheck s
  | .deferralBatchStart => Sys2Proof.Machine.execDeferralBatchStart s
  | .stageInstanceEnd => Sys2Proof.Machine.execStageInstanceEnd s
  | .launchComplete => Sys2Proof.Machine.execLaunchComplete s
  | .completionWordWrite => Sys2Proof.Machine.execCompletionWordWrite s
  | .launchWatchdogExpiry => Sys2Proof.Machine.execLaunchWatchdogExpiry s
  | .launchReplay => Sys2Proof.Machine.execLaunchReplay s
  | .shootDownAcknowledge => Sys2Proof.Machine.execShootDownAcknowledge s
  | .pageWalk => Sys2Proof.Machine.execPageWalk s
  | .bankLineMove => Sys2Proof.Machine.execBankLineMove s
  | .flushCommandComplete => Sys2Proof.Machine.execFlushCommandComplete s
  | .queueEntryConsume => Sys2Proof.Machine.execQueueEntryConsume s
  | .hostCompletionTimeout => Sys2Proof.Machine.execHostCompletionTimeout s
  | .firmwareTrapResume => Sys2Proof.Machine.execFirmwareTrapResume s
  | .firmwareTrapForward => Sys2Proof.Machine.execFirmwareTrapForward s
  | .firmwareSwapGo => Sys2Proof.Machine.execFirmwareSwapGo s
  | .firmwareSwapTimeout => Sys2Proof.Machine.execFirmwareSwapTimeout s
  | .wellheadRestart => Sys2Proof.Machine.execWellheadRestart s
  | .coldReset => Sys2Proof.Machine.execColdReset s
  | .warmReset => Sys2Proof.Machine.execWarmReset s
  | .hostCxlReset => Sys2Proof.Machine.execHostCxlReset s
  | .jobResumption => Sys2Proof.Machine.execJobResumption s

end Sys2Proof.Machine
end

