-- ==== Sys2Proof/Machine/Step.lean ====
section
/-! DEFINITION. The step: `stepWith` with the meanings of Dispatch.lean; and the state in which the very next step fetches
and issues a given instruction (log 5). -/

namespace Sys2Proof.Machine

/-- One step of the device: an event from outside, an event of the device, or the next core's compute cycle (log 2). -/
def step (s : State) : Host.Outcome State Fault Refusal := stepWith exec s

/-- `s` with the instruction of `nbits` bits placed where the next step fetches: a launch in address space 0 whose code
page holds a bundle with that one slot, bound to context 0 of core 0 in the state of R283 and issuing there, its turn next,
no event in its way. It stands for the load of a program from outside the machine (log 5). -/
def State.withFetchWord (s : State) (nbits w : Nat) : State :=
  placeProgram (tableSlot nbits) (w % 2 ^ nbits) s

end Sys2Proof.Machine
end

