-- ==== Sys2Proof/Safety.lean ====
section
/-! DEFINITION. The terms in which claims speak: a safe run, an operation whose checks pass, an operand that is certain, a
result on its way to a register, and what an operation leaves alone. -/

namespace Sys2Proof.Machine

/-! ### Runs -/

/-- A run of `k` steps without a stop. -/
def SafeRun (k : Nat) (s : State) : Prop := ∃ s', Host.Core.run Sys2Proof.core k s = .next s'

/-- A property that every step keeps. -/
def Kept (p : State → Prop) : Prop := ∀ s t, p s → step s = .next t → p t

/-! ### Operations whose checks pass -/

/-- The state in which an operation's checks are made: a closing operation has closed the open segment (R362). -/
def checkedState (i : Instr) (s : State) : State := if closing i then s.modCtx Ctx.commit else s

/-- The checks of R63 and of the operation's own entry pass: the issue of the bundle has made them for every slot, or they
pass now. -/
def Accepted (i : Instr) (s : State) : Prop := s.foc.pre = true ∨ verdictOf i (ownOf i s) (checkedState i s) = .go

/-- An A, V, M or T operation may start: the load-data queue holds the entries it pops, and nothing it consumes is corrupt
(R216, R368). -/
def Startable (i : Instr) (s : State) : Prop :=
  popCount i (checkedState i s) ≤ (checkedState i s).ctx.a.queue.length ∧ corruptOf i (checkedState i s) = none

/-- Registers read as they stand, and no other operation collides: the scoreboard check is on (R60), and the operation is
not one of R58's colliding ones. -/
def Certain (s : State) : Prop := s.ctx.a.check = true ∧ s.foc.bad = false

/-- `exec` answers the next state `g` of the state in which the checks were made. -/
def Does (i : Instr) (s : State) (g : State → State) : Prop := exec i s = .next (g (checkedState i s))

/-! ### Results on their way -/

/-- A result that lands in register `r` in `lat` schedule cycles (R56, R57). -/
def State.lands (s : State) (r : RegId) (lat : Nat) (v : Payload) : State :=
  s.modCtx fun c => { c with
    flight := c.flight ++ [{ due := s.cyc + lat, ord := s.foc.ord, reg := r, val := v, hm := s.ctx.hmode }] }

/-- A scalar result; one for s0 is discarded (R66). -/
def State.landsS (s : State) (n lat : Nat) (x : Word) : State :=
  if n = 0 then s else s.lands ⟨.s, n⟩ lat (.scalar x)

/-- A reply is to land in 24 schedule cycles (R104, R266). -/
def State.awaits (s : State) : State := s.modCore fun k => { k with replies := (s.cyc + 24) :: k.replies }

/-- What register file the context in focus has once the results due by schedule cycle `t` have landed. -/
def State.after (s : State) (t : Nat) : Arch := (s.ctx.landDue t).a

/-! ### Operands -/

/-- Source B of a C-slot operation: the immediate or a register (R65). -/
def sourceB (f : CSlot) (s : State) : Word := if f.i = 1#1 then f.imm.signExtend 64 else s.ctx.a.sReg f.sb.toNat

/-- Source A of a C-slot operation. -/
def sourceA (f : CSlot) (s : State) : Word := s.ctx.a.sReg f.sa.toNat

/-- A C-slot arithmetic operation of R65: `g` at width W of source A and source B, extended by sign or by zero, lands in
s[SD] after `lat` cycles, and nothing else changes. -/
def Computes (i : Instr) (f : CSlot) (lat : Nat) (signed : Bool) (g : (w : Nat) → BitVec w → BitVec w → BitVec w) : Prop :=
  ∀ s, Accepted i s → Certain s →
    exec i s = .next (s.landsS f.sd.toNat lat
      (let r := g (widthBits f.w) ((sourceA f s).truncate _) ((sourceB f s).truncate _)
       if signed then r.signExtend 64 else r.zeroExtend 64))

/-- Source A and source B of a C-slot operation at its width W. -/
def narrowA (f : CSlot) (s : State) : BitVec (widthBits f.w) := (sourceA f s).truncate _
def narrowB (f : CSlot) (s : State) : BitVec (widthBits f.w) := (s.ctx.a.sReg f.sb.toNat).truncate _

/-! ### Where control goes -/

/-- The bundle's next PC is that of a taken branch to `t` (R72). -/
def State.goes (s : State) (t : Word) : State := s.modCtx fun c => { c with next := .branch t }

/-- The target PC + sext(IMM) (R72). -/
def aheadBy (f : CSlot) (s : State) : Word := s.ctx.a.pc + f.imm.signExtend 64

/-- The address of the bundle after this one. -/
def linkOf (s : State) : Word := s.ctx.a.pc + BitVec.ofNat 64 s.ctx.blen

/-- A conditional branch (R73). -/
def BranchesIf (i : Instr) (f : CSlot) (cond : State → Prop) : Prop :=
  ∀ s, Accepted i s → Certain s →
    (cond s → exec i s = .next (s.goes (aheadBy f s))) ∧ (¬cond s → exec i s = .next s)

/-- An operation that changes nothing. -/
def Idle (i : Instr) : Prop := ∀ s, Accepted i s → Startable i s → exec i s = .next s

/-! ### Engine operations -/

/-- An operation that may act now, on registers that read as they stand. -/
def Ready (i : Instr) (s : State) : Prop := Accepted i s ∧ Startable i s ∧ Certain s

/-- The load-data queue without its first `n` entries. -/
def State.pops (s : State) (n : Nat) : State := s.modArch fun a => { a with queue := a.queue.drop n }

/-! ### Accesses -/

/-- The effective offset of an A access of `size` bytes (R54, R94). -/
def offsetOf (f : ASlot) (size : Nat) (s : State) : Word :=
  s.ctx.a.sReg f.xs.toNat + f.off.signExtend 64 + BitVec.ofInt 64 (s.foc.k * f.step.toInt * size)

/-- The offset of an operation that names no scalar base, stepped by 512 bytes (R115). -/
def offsetAlone (f : ASlot) (s : State) : Word := f.off.signExtend 64 + BitVec.ofInt 64 (s.foc.k * f.step.toInt * 512)

/-- The element at offset `off` of `size` bytes through handle `h`. -/
def elemAt (s : State) (h size off pos data : Nat) : Elem :=
  { loc := locOf s h off size, size := size, pos := pos, data := data }

/-- The access that a load starts (R113, R114): its entry is the last of the queue. -/
def loadAccess (f : ASlot) (els : List Elem) (acq : Option Nat) (s : State) : Access :=
  { id := s.uid + 1, ctx := s.foc.ctx, ord := s.foc.ord, h := f.h.toNat, path := aPath f.h.toNat, kind := .load, els := els
    acq := acq, entry := some s.uid, ca := (handleOf s f.h.toNat).ca, key := (handleOf s f.h.toNat).key, launch := s.lid
    due := (handleLat f.h.toNat).map (s.cyc + ·), shadow := (verOf s).isSome, vf := s.vfid, asid := s.asid, since := s.dev.base }

/-- The state with a new entry at the end of the load-data queue (R111, R112). -/
def State.entered (s : State) (uids : Nat) (due : Option Nat) : State :=
  ({ s with uid := s.uid + uids } : State).modArch fun a => { a with queue := a.queue ++ [{ id := s.uid, due := due }] }

/-- A load of the elements `els s` (offset, bytes, byte of the entry), checked as `check s` at the offset `base s`; `bad`
says that its operands are refused (R110, R111, R114, R115, R120). -/
def Loads (i : Instr) (f : ASlot) (bad : State → Bool) (base : State → Nat) (check : State → List AEl)
    (els : State → List (Nat × Nat × Nat)) (acq : Option Nat) : Prop :=
  ∀ s, Ready i s → bad s = false →
    (accessCheck s f.h.toNat .rd (base s) (check s) = none → s.ctx.a.queue.length < 16 →
      exec i s = .next (begin (loadAccess f ((els s).map fun e => elemAt s f.h.toNat e.2.1 e.1 e.2.2 0) acq s)
        (s.entered 2 ((handleLat f.h.toNat).map (s.cyc + ·)))))
    ∧ (∀ c info, accessCheck s f.h.toNat .rd (base s) (check s) = some (c, info) →
      exec i s = .next (startFault i c info s))
    ∧ (accessCheck s f.h.toNat .rd (base s) (check s) = none → 16 ≤ s.ctx.a.queue.length →
      exec i s = .next (startFault i 6 (opInfo i 0 0 0 s) s))

/-- The access that a store starts (R113, R114). -/
def storeAccess (f : ASlot) (els : List Elem) (s : State) : Access :=
  { id := s.uid, ctx := s.foc.ctx, ord := s.foc.ord, h := f.h.toNat, path := aPath f.h.toNat, kind := .store, els := els
    ca := (handleOf s f.h.toNat).ca, key := (handleOf s f.h.toNat).key, launch := s.lid, shadow := (verOf s).isSome
    vf := s.vfid, asid := s.asid, since := s.dev.base }

/-- What a store that may act makes of the state: through h0 the journal takes the old lines and the access begins, and
through any other handle it enters its path, or an open segment holds it, with the slots of the vertical bus that it then takes
(R96, R114, R146, R147, R363, R371). -/
def storing (slots h : Nat) (written : List AEl) (x : Access) (s : State) : State :=
  let t := { makeVersions h written s with uid := s.uid + 1 }
  if h = 0 then begin x (journal false (spLines x.els) t) else submit (.access { x with slots := slots }) t

/-- A store of the elements `els s` (offset, bytes, value), checked as `check s` at the offset `base s`; `bad` says that its
operands are refused (R110, R114, R115, R120, R365, R366, R371). -/
def Stores (i : Instr) (f : ASlot) (bad : State → Bool) (base : State → Nat) (check : State → List AEl)
    (els : State → List (Nat × Nat × Nat)) : Prop :=
  ∀ s, Ready i s → bad s = false →
    let written : List AEl := (els s).map fun e => { off := e.1, size := e.2.1, align := 1 }
    let x := storeAccess f ((els s).map fun e => elemAt s f.h.toNat e.2.1 e.1 0 e.2.2) s
    let slots := match i with | .stv _ | .stvp _ => 4 | .stg _ | .tst _ => (els s).length | _ => 1
    (accessCheck s f.h.toNat .wr (base s) (check s) = none → shadowFault s f.h.toNat written = none →
      (f.h.toNat = 0 → journalFull false (spLines x.els) s = none) → (f.h.toNat ≠ 0 → heldFull s = false) →
      exec i s = .next (storing slots f.h.toNat written x s))
    ∧ (∀ c info, accessCheck s f.h.toNat .wr (base s) (check s) = some (c, info) →
      exec i s = .next (startFault i c info s))

/-- The offsets and sizes that a storing operation writes (R114, R115, R118, R120, R130). -/
def storeTargets (i : Instr) (s : State) : List (Nat × Nat) :=
  match i with
  | .sts f | .strel f => [((offsetOf f (sizeW f) s).toNat, sizeW f)]
  | .stv f => [((offsetOf f 512 s).toNat, 512)]
  | .stvp f => ((List.range 128).filter fun n => (s.ctx.a.pReg (f.xs.toNat % 8)).getLsbD n).map fun n =>
      ((offsetAlone f s).toNat + 4 * n, 4)
  | .stg f => (List.range 128).map fun n =>
      ((offsetOf f (sizeW f) s + (lane (s.ctx.a.vReg (f.dr.toNat + 1)).bits n).signExtend 64).toNat, sizeW f)
  | .tst f => (tensorEls f s).map fun x => (x.2.toNat, tensorSize f s)
  | .ste f => [((offsetOf f 4 s).toNat, 4)]
  | _ => []

/-- The handle that a storing operation stores through. -/
def storeHandle : Instr → Option (BitVec 4)
  | .sts f | .strel f | .stv f | .stvp f | .stg f | .tst f | .ste f => some f.h
  | _ => none

/-- Whether byte `a` of core `c`'s SRAM is one that a storing operation writes. -/
def isStored (i : Instr) (h : BitVec 4) (s : State) (c a : Nat) : Prop :=
  ∃ e ∈ storeTargets i s, ∃ b, locOf s h.toNat e.1 e.2 = .sp c b ∧ b ≤ a ∧ a < b + e.2

/-! ### Atomics and flags -/

/-- An operand of an atomic at its width (R127). -/
def atomicOperand (f : ASlot) (n : Nat) (s : State) : Nat := ((s.ctx.a.sReg n).truncate (widthBits f.w)).toNat

/-- The access that an atomic starts (R127, R148): its entry is the last of the queue. -/
def atomicAccess (i : Instr) (f : ASlot) (status : Bool) (s : State) : Access :=
  let sc := if f.sc.toNat = 0 then none else some f.sc.toNat
  { id := s.uid + 1, ctx := s.foc.ctx, ord := s.foc.ord, h := f.h.toNat, path := .atom
    kind := .amo i.opcode (atomicOperand f f.dr.toNat s) (if status then atomicOperand f (f.dr.toNat + 1) s else 0)
    els := [elemAt s f.h.toNat (sizeW f) (offsetOf f 0 s).toNat 0 0]
    acq := sc, rel := sc, entry := some s.uid, status := status, ca := (handleOf s f.h.toNat).ca
    key := (handleOf s f.h.toNat).key, launch := s.lid, due := (handleLat f.h.toNat).map (s.cyc + 2 + ·)
    shadow := (verOf s).isSome, vf := s.vfid, asid := s.asid, since := s.dev.base }

/-- An atomic of one location (R110, R127, R371). -/
def Atomically (i : Instr) (f : ASlot) (status : Bool) : Prop := ∀ s, Ready i s →
  let el : List AEl := [{ off := (offsetOf f 0 s).toNat, size := sizeW f, align := sizeW f }]
  (accessCheck s f.h.toNat .amo (offsetOf f 0 s).toNat el = none → shadowFault s f.h.toNat el = none →
    s.ctx.a.queue.length < 16 → exec i s = .next (enterPath (.access (atomicAccess i f status s))
      ((makeVersions f.h.toNat el (checkedState i s)).entered 2 ((handleLat f.h.toNat).map (s.cyc + 2 + ·)))))
  ∧ (∀ c info, accessCheck s f.h.toNat .amo (offsetOf f 0 s).toNat el = some (c, info) →
    exec i s = .next (startFault i c info (checkedState i s)))

/-- The access by which a LAUNCH reads its record (R311). -/
def recordAccess (f : XSlot) (s : State) : Access :=
  { id := s.uid, ctx := s.foc.ctx, ord := s.foc.ord, h := f.h.toNat, path := .ctxls, kind := .record
    els := [elemAt s f.h.toNat 128 (s.ctx.a.sReg f.sa.toNat).toNat 0 0], ca := (handleOf s f.h.toNat).ca
    key := (handleOf s f.h.toNat).key, launch := s.lid, shadow := (verOf s).isSome, vf := s.vfid, asid := s.asid
    since := s.dev.base }

/-- The access of a flag operation or a signal: on path ATOM, a release, of no location in memory (R296, R304). -/
def atomAccess (id : Nat) (kind : AccKind) (rel : Nat) (s : State) : Access :=
  { id := id, ctx := s.foc.ctx, ord := s.foc.ord, path := .atom, kind := kind, els := [], rel := some rel, launch := s.lid
    shadow := (verOf s).isSome, vf := s.vfid, asid := s.asid, since := s.dev.base }

/-! ### Vector operations -/

/-- The lanes and the domain tag of source A: the head of the load-data queue counts as PLAIN in FA (R216, R218). -/
def vecA (f : VSlot) (s : State) : Vec :=
  if f.qa = 1#1 then (match s.ctx.a.queue with | e :: _ => e.data | [] => 0) else (s.ctx.a.vReg (vField f f.va s.foc.k)).bits
def domA (f : VSlot) (s : State) : BitVec 32 :=
  if f.qa = 1#1 then plainTag f.fa.toNat else (s.ctx.a.vReg (vField f f.va s.foc.k)).tag

/-- Sources B and C. -/
def vecB (f : VSlot) (s : State) : Vec := (s.ctx.a.vReg (vField f f.vb s.foc.k)).bits
def vecC (f : VSlot) (s : State) : Vec := (s.ctx.a.vReg (vField f f.vc s.foc.k)).bits
def domB (f : VSlot) (s : State) : BitVec 32 := (s.ctx.a.vReg (vField f f.vb s.foc.k)).tag
def domC (f : VSlot) (s : State) : BitVec 32 := (s.ctx.a.vReg (vField f f.vc s.foc.k)).tag

/-- A lane of a source as a value in format FA. -/
def valA (f : VSlot) (s : State) (n : Nat) : FVal := decodeF f.fa.toNat (lane (vecA f s) n).toNat
def valB (f : VSlot) (s : State) (n : Nat) : FVal := decodeF f.fa.toNat (lane (vecB f s) n).toNat
def valC (f : VSlot) (s : State) (n : Nat) : FVal := decodeF f.fa.toNat (lane (vecC f s) n).toNat

/-- The state with source A popped, when QA says so. -/
def State.popped (f : VSlot) (s : State) : State := if f.qa = 1#1 then s.pops 1 else s

/-- Whether lane n is active (R215). -/
def isActive (f : VSlot) (s : State) (n : Nat) : Bool := (s.ctx.a.pReg f.p.toNat).getLsbD n

/-- `t` is `s` with source A popped and a vector result on its way, in `lat` cycles: active lanes take `g`, the others 0 or
what they hold at the landing, and the register takes the tag, if there is one (R215, R218). -/
def LanesLand (f : VSlot) (lat : Nat) (tag : Option (BitVec 32)) (g : Nat → BitVec 32) (s t : State) : Prop :=
  ∃ mask data, t = (s.popped f).lands ⟨.v, vField f f.vd s.foc.k⟩ lat (.vec mask data tag) ∧ ∀ (r : VReg) (n : Nat), n < 128 →
    lane (r.land (.vec mask data tag)).bits n =
      if isActive f s n then g n else if f.z = 1#1 then 0 else lane r.bits n

/-- A vector operation on lanes: where `may` holds, `g` lands in `lat` cycles under P and Z, with the tag. -/
def Lanes (i : Instr) (f : VSlot) (lat : Nat) (may : State → Prop) (tag : State → Option (BitVec 32))
    (g : State → Nat → BitVec 32) : Prop :=
  ∀ s, Ready i s → may s → ∃ t, exec i s = .next t ∧ LanesLand f lat (tag s) (g s) s t

/-- A predicate operation: where `may` holds, `g` lands in `lat` cycles under P and Z (R215). -/
def Bits (i : Instr) (f : VSlot) (lat : Nat) (may : State → Prop) (g : State → Nat → Bool) : Prop :=
  ∀ s, Ready i s → may s → f.vd.toNat % 8 ≠ 0 → ∃ mask data,
    exec i s = .next ((s.popped f).lands ⟨.p, f.vd.toNat % 8⟩ lat (.pred mask data)) ∧ ∀ (old : Pred) (n : Nat), n < 128 →
      ((old &&& ~~~mask) ||| (data &&& mask)).getLsbD n =
        if isActive f s n then g s n else if f.z = 1#1 then false else old.getLsbD n

/-- Every source is PLAIN (R218). -/
def AllPlain (l : List (BitVec 32)) : Prop := ∀ t ∈ l, tagHaar t = false

/-- HAAR sources agree in L and layout (R218). -/
def Agree (l : List (BitVec 32)) : Prop :=
  ∀ a ∈ l, ∀ b ∈ l, tagHaar a = true → tagHaar b = true → tagL a = tagL b ∧ tagLay a = tagLay b

/-- The result tag of the linear class (R218). -/
def domainOf (l : List (BitVec 32)) (fd : Nat) : BitVec 32 := linearTag (l.map fun t => (none, t)) fd

/-- The value of a finite number. -/
def FVal.real : FVal → ℚ
  | .num neg m e _ => (if neg then -1 else 1) * m * (2 : ℚ) ^ e
  | _ => 0

/-- A finite value of sign `neg` that is `v`. -/
def FVal.FiniteIs (x : FVal) (neg : Bool) (v : ℚ) : Prop := (∃ m e, x = .num neg m e false) ∧ x.real = v

/-- The values that rounding to a floating-point format chooses from, its exponent unbounded above, and those whose least significant
mantissa bit is 0 (R175, R176). -/
def OnGrid (f : Nat) (y : ℚ) : Prop :=
  ∃ n k : ℤ, 1 - (fmtBias f : ℤ) - fmtM f ≤ k ∧ |n| < 2 ^ (fmtM f + 1) ∧ y = n * (2 : ℚ) ^ k
def EvenOn (f : Nat) (y : ℚ) : Prop :=
  ∃ n k : ℤ, 1 - (fmtBias f : ℤ) - fmtM f ≤ k ∧ |n| < 2 ^ (fmtM f + 1) ∧ y = n * (2 : ℚ) ^ k ∧ Even n
    ∧ (k = 1 - (fmtBias f : ℤ) - fmtM f ∨ 2 ^ fmtM f ≤ |n|)

/-- `y` is `v` rounded to a format by a mode, the exponent unbounded above (R175, R176). -/
def RoundsTo (f rm : Nat) (v y : ℚ) : Prop :=
  OnGrid f y ∧ ∀ g, OnGrid f g → match rm with
    | 0 => |y - v| < |g - v| ∨ g = y ∨ (|y - v| = |g - v| ∧ EvenOn f y)
    | 1 => |y| ≤ |v| ∧ 0 ≤ y * v ∧ (|g| ≤ |v| → |g| ≤ |y|)
    | 2 => y ≤ v ∧ (g ≤ v → g ≤ y)
    | _ => v ≤ y ∧ (v ≤ g → y ≤ g)

/-- `n` is `v` rounded to an integer by a mode (R175, R177). -/
def RoundsToInt (rm : Nat) (v : ℚ) (n : ℤ) : Prop :=
  match rm with
  | 0 => |n - v| ≤ 1 / 2 ∧ (|n - v| = 1 / 2 → Even n)
  | 1 => |(n : ℚ)| ≤ |v| ∧ |v| < |(n : ℚ)| + 1 ∧ 0 ≤ n * v
  | 2 => n ≤ v ∧ v < n + 1
  | _ => v ≤ n ∧ n - 1 < v

/-- The order of values, −0 and +0 equal; nothing is below or above a NaN. -/
def FVal.lt : FVal → FVal → Prop
  | .nan, _ => False
  | _, .nan => False
  | .inf x, .inf y => x = true ∧ y = false
  | .inf x, .num _ _ _ _ => x = true
  | .num _ _ _ _, .inf y => y = false
  | x, y => x.real < y.real

/-- The order of R220: −0 below +0. -/
def FVal.below (x y : FVal) : Prop := x.lt y ∨ (x.real = 0 ∧ y.real = 0 ∧ x.isNeg = true ∧ y.isNeg = false
  ∧ (∀ b, x ≠ .inf b) ∧ (∀ b, y ≠ .inf b) ∧ x ≠ .nan ∧ y ≠ .nan)

/-- An integer at the width of a format, widened into a lane (R214). -/
def widen (fmt : Nat) (uns : Bool) (x : Int) : BitVec 32 :=
  if uns then BitVec.ofInt 32 (x % 2 ^ fmtBits fmt) else (BitVec.ofInt (fmtBits fmt) x).signExtend 32

/-- An exact integer result as it stands or clamped to the range of the format (R172, R224). -/
def settle (fmt : Nat) (uns sat : Bool) (x : Int) : Int :=
  let lo : Int := if uns then 0 else -2 ^ (fmtBits fmt - 1)
  let hi : Int := if uns then 2 ^ fmtBits fmt - 1 else 2 ^ (fmtBits fmt - 1) - 1
  if sat then max lo (min hi x) else x

/-- A lane as an integer at the width of FA, signed or not (R224). -/
def intOf (f : VSlot) (uns : Bool) (v : Vec) (n : Nat) : Int :=
  let x := (lane v n).truncate (fmtBits f.fa.toNat)
  if uns then x.toNat else x.toInt

/-- The tree of R230 over 128 lanes: level `l`, node `k`; none is ABSENT. -/
def treeNode {α : Type} (comb : α → α → α) (leaf : Nat → Option α) : Nat → Nat → Option α
  | 0, k => leaf k
  | l + 1, k =>
    match treeNode comb leaf l (2 * k), treeNode comb leaf l (2 * k + 1) with
    | none, b => b
    | a, none => a
    | some a, some b => some (comb a b)

/-! ### The function array -/

/-- The source registers of a push, or the queue entries that take their place, which count as PLAIN (R195, R199). -/
def pushSources (f : MSlot) (r : Nat) (s : State) : List VReg :=
  if f.q = 1#1 then (s.ctx.a.queue.take r).map fun e => { bits := e.data, tag := plainTag f.inf.toNat }
  else (List.range r).map fun j => s.ctx.a.vReg (f.vs.toNat + s.foc.k * r + j)

/-- The tag of a LIN push's result: the sources' tag with format AF (R199). -/
def pushDomain (f : MSlot) (l : List VReg) : BitVec 32 :=
  match l with
  | x :: _ => if f.mode.toNat = 0 then setFmt x.tag f.af.toNat else plainTag f.af.toNat
  | [] => plainTag f.af.toNat

/-- The tag of a LIN FMXD's result: that of g, as it stands (R201, R255). That queue entries give PLAIN in AF is the model's choice
(log 96). -/
def gradDomain (f : MSlot) (l : List VReg) : BitVec 32 :=
  match l with
  | x :: _ => if f.q = 1#1 then plainTag f.af.toNat else x.tag
  | [] => plainTag f.af.toNat

/-- The results of a push on their way, row k in pushLatency + k × c cycles (R195, R197). -/
def pushLandings (i : Instr) (f : MSlot) (c len : Nat) (acc : Bool) (tag : BitVec 32) (s : State) : List Landing :=
  let md := mDest i f s.foc.k (rowRegs (len * fmtSize f.af.toNat) (mCount f))
  (List.range (mCount f)).flatMap fun k => (rowPieces f.af.toNat len k).map fun x =>
    { due := s.cyc + (262 + 2 * c + k * c), ord := s.foc.ord, reg := ⟨if mToV i then .v else .m, md + x.1⟩
      val := .row s.uid k acc f.af.toNat x.2.1 x.2.2.1 x.2.2.2 tag, hm := s.ctx.hmode }

/-- The push that an operation in focus starts. -/
def startedPush (i : Instr) (f : MSlot) (c : Nat) (s : State) : Push :=
  { id := s.uid, op := i, ctx := s.foc.ctx, ord := s.foc.ord, start := s.cyc, n := mCount f, c := c
    dst := pushDests i s.foc.k s.core.arr }

/-- A push enters the array: it is the newest one there, it has the port for N × c cycles, `pops` queue entries are taken,
`lands` are on their way, and nothing else of the array or the registers differs (R194, R195, R198). -/
def Enters (i : Instr) (f : MSlot) (pops : Nat) (p : Push) (lands : List Landing) (s : State) : Prop :=
  ∃ t, exec i s = .next t
    ∧ t.core.arr.pushes = s.core.arr.pushes ++ [p]
    ∧ t.core.arr.portTo = s.cyc + mCount f * p.c ∧ t.core.arr.port = some p
    ∧ t.core.arr.b0 = s.core.arr.b0 ∧ t.core.arr.b1 = s.core.arr.b1 ∧ t.core.arr.grid = s.core.arr.grid
    ∧ t.core.arr.below = s.core.arr.below ∧ t.core.arr.above = s.core.arr.above
    ∧ t.core.arr.loads = s.core.arr.loads ∧ t.core.arr.changes = s.core.arr.changes
    ∧ t.ctx.a = { s.ctx.a with queue := s.ctx.a.queue.drop pops }
    ∧ t.ctx.flight = s.ctx.flight ++ lands

/-- The state with some parts of the array kept by the operation in focus until a cycle, and a change of it to come. -/
def State.changes (s : State) (n : Nat) (parts : List Nat) (c : ArrChange) : State :=
  s.modCore fun k => { k with arr := { k.arr with
    uses := k.arr.uses ++ parts.map fun r => (r, true, s.cyc + n - 1)
    changes := k.arr.changes ++ [(s.cyc + n, c)] } }

/-- Some parts of the array kept until cycle `last`. -/
def State.keeps (s : State) (parts : List (Nat × Bool)) (last : Nat) : State :=
  s.modCore fun k => { k with arr := { k.arr with uses := k.arr.uses ++ parts.map fun r => (r.1, r.2, last) } }

/-! ### Commands of the X slot -/

/-- Tag `t` of the context in focus made PENDING (R133). -/
def State.opens (s : State) (t : Nat) : State := s.modArch fun a => { a with
  tagPend := a.tagPend ||| (1#64 <<< t)
  tagDone := a.tagDone &&& ~~~(1#64 <<< t) }

/-- The answer of a held service is used (R303). -/
def State.answered (s : State) : State := s.modCtx fun c => { c with answer := none, asked := none }

/-- The copy command that an issue makes, of rows and columns with their pitches (R134). -/
def copyMade (i : Instr) (f : XSlot) (rows cols : Nat) (sp dp : Int) (s : State) : CopyCmd :=
  { id := s.uid, ctx := s.foc.ctx, inst := s.instHere, ord := s.foc.ord, tag := f.tag.toNat, op := i.opcode.toNat
    mode := f.imm.toNat % 8, fs := f.fs.toNat, fd := f.fd2.toNat, sc := f.sc.toNat, srcH := f.h.toNat
    src := handleOf s f.h.toNat, dstH := f.h2.toNat, dst := handleOf s f.h2.toNat, so := s.ctx.a.sReg f.sa.toNat
    dofs := s.ctx.a.sReg f.sb.toNat, rows := rows, cols := cols, spitch := sp, dpitch := dp }

/-- A copy operation that is accepted: its tag is PENDING and its command on its way, or, with no element to move, done
(R134, R138). -/
def Copies (i : Instr) (f : XSlot) (shape : State → Nat × Nat) (pitch : State → Int × Int) : Prop :=
  ∀ s, Accepted i s → Certain s →
    let n := shape s
    let s' := s.opens f.tag.toNat
    exec i s = .next (if n.1 * n.2 = 0 then tagComplete s.instHere f.tag.toNat s'
      else submit (.copy (copyMade i f n.1 n.2 (pitch s).1 (pitch s).2 s)) { s' with uid := s.uid + 1 })

/-- Nothing keeps a job from reading `n` words of its source from `off` on: no translation to wait for (R328), no read over the HOST
path (R101). -/
def Reads (j : Job) (off n : Nat) (s : State) : Prop := jobMisses j off n s = [] ∧ jobHost j off n s = none

/-- The job that an issue makes (R264, R265). -/
def jobMade (f : XSlot) (s : State) : Job :=
  { id := s.uid, core := s.foc.core, ctx := s.foc.ctx, inst := s.instHere, ord := s.foc.ord, tag := f.tag.toNat, isXdt := false
    srcH := f.h.toNat, src := handleOf s f.h.toNat, so := s.ctx.a.sReg f.sa.toNat }

/-- Whether the word of an access may be served now, as R304 orders a held service. -/
def servable (i : Instr) (s : State) : Prop :=
  eligible s.core (serviceAccess i { s with foc := { s.foc with ord := 8 * s.ctx.seq + 5 } }) = true

/-! ### Events -/

/-- `exec` answers a next state of which `p` holds. -/
def Answers (i : Instr) (s : State) (p : State → Prop) : Prop := ∃ t, exec i s = .next t ∧ p t

/-- The access in focus is `a`, of the kind that event `r` performs, and may perform now (R144), its banks free (R90). -/
def Arrives (r : AccRow) (a : Access) (s : State) : Prop :=
  (a.shadow = true → (s.launchAt a.launch).isSome = true) ∧
  s.core.acc.find? (fun x => x.id = s.foc.id) = some a ∧ a.row = r ∧ eligible s.core a = true ∧ banksFree a s = true

/-- The state in which an access performs: it waits no longer, and its banks are taken (R90). -/
def State.serving (s : State) (a : Access) : State :=
  let t := takeBanks (decide (a.path = .atom)) a.banks (dropAccess a s)
  { t with foc := { t.foc with bad := a.bad } }

/-- An access is of one element in the SRAM of core `c`, at `x`, of `n` bytes, where nothing is corrupt and no pond is
stored. -/
def OneWord (a : Access) (e : Elem) (c x n : Nat) (s : State) : Prop :=
  a.els = [e] ∧ e.loc = .sp c x ∧ e.size = n ∧ e.pos = 0 ∧ badSp s c x n = false ∧ pondSpace s c x n = none

/-- An access is of one element of global memory in one line, past the L1 and of no shadow version (R100, R168). -/
def OneGlobal (a : Access) (e : Elem) (pa n : Nat) (s : State) : Prop :=
  a.els = [e] ∧ e.loc = .gm pa ∧ e.size = n ∧ e.pos = 0 ∧ 0 < n ∧ pa % 128 + n ≤ 128 ∧ a.ca = false
    ∧ badGlobal s pa n = false ∧ a.shadow = false

/-- No open segment of its context holds a store back (R363). -/
def Access.unheld (a : Access) (s : State) : Prop := (s.core.ctxAt a.ctx).heldAccs = []

/-- No acquire, no release, and not of an operation that collided (R58). -/
def Access.plain (a : Access) : Prop := a.acq = none ∧ a.rel = none ∧ a.narrow = false ∧ a.bad = false

/-- The record of instance (stage, num) of a launch has property `p`. -/
def InstIs (t : State) (i : InstId) (p : InstRec → Prop) : Prop :=
  ∃ l, t.launchAt i.launch = some l ∧ ∃ r ∈ l.insts, r.stage = i.stage ∧ r.num = i.num ∧ p r

/-- No context of the device runs launch `id`. -/
def Evicted (t : State) (id : Nat) : Prop := ∀ c n, ofLaunch id ((t.coreAt c).ctxAt n).inst = false

/-- A write through KDDATA is refused: ERR of the wellhead's KDSEL is set and nothing else is written (R388). -/
def Refused (i : Instr) (s : State) : Prop :=
  Answers i s fun t => (t.dev.kdsel.get (s.foc.id % 8) 0).getLsbD 55 = true ∧ t = s.modDev fun d => { d with kdsel := t.dev.kdsel }

/-! ### A step -/

/-- What is left of a compute cycle of core `c` after its context has issued. -/
def restOfCycle (c : Nat) : State → Result :=
  unlessHeld exec c fun s => andThen (startPhase exec c s) (unlessHeld exec c fun s => andThen (arrayRows exec c s) (endPhase exec c))

/-- What is left of the starts of a cycle of core `c` once the first operations have been run. -/
def afterStarts (c : Nat) (s : State) : Result :=
  andThen (if (s.coreAt c).hold.isSome || (dueStarts (s.coreAt c)).isEmpty then .next s else startRounds exec c 3 s)
    fun s => .next (holdAtRead c (holdAtBank c s))

/-- The state with the losing layers of a round, which its first turn settles (R288). -/
def planned (s : State) : State := if s.cur = 0 then { s with plan := planNow s } else s

/-- The state in which the cycle of core `c` begins: its clock counted (R394), and the lock of a line in motion a cycle older
(R376). -/
def cycleState (c : Nat) (s : State) : State := lockAges c (countLag c (planned s))

/-- The next step is a compute cycle of core `c` that no event and no rewind stands in the way of; no waiter of it is to wake,
and no translation of it ends with a hit. -/
def CycleNext (c : Nat) (s : State) : Prop :=
  let t := cycleState c s
  s.inputs = [] ∧ chooseEvent s = none ∧ (planned s).turnCore = c ∧ runsNow c (planned s) = true ∧ (t.coreAt c).rewHold = 0
    ∧ (∀ n ∈ heldCtxs t c, mayWake (t.focusOn c n) = false) ∧ ∀ w ∈ t.dev.walks, w.core = c → w.hit t = false

/-- Context `n` of core `c` makes an issue of launch `l` in this cycle, for which its stickies start nothing. -/
def IssuesNow (c n : Nat) (l : Launch) (s : State) : Prop :=
  let u := s.focusOn c n
  mayIssue u = true ∧ u.launch? = some l ∧ u.ctx.saveFor = none ∧ u.ctx.pend = [] ∧ (s.coreAt c).todo = []
    ∧ u.ctx.ending = false ∧ ∀ sl, (u.ctx.a.sticky sl).op = none

/-- The bytes at the PC of the context in focus are a bundle with header `h`, with no slot but `sl`, whose word decodes to
`i`, and no field of it is reserved (R43 to R47, R63). -/
def BundleIs (l : Launch) (h : Header) (sl : Slot) (i : Instr) (s : State) : Prop :=
  let pc := s.ctx.a.pc.toNat
  pc % 4 = 0 ∧ headerAt s l pc = some h ∧ h.rsv = 0 ∧ (h.rep = 0 ∨ needsRep0 i = false)
    ∧ Slot.all.filter h.present = [sl] ∧ i.reservedBit = none
    ∧ ∃ w, codeBytes s l (pc + 4) sl.bytes = some w ∧ decodeSlot sl (BitVec.ofNat 64 w) = some i

/-- The state in which the checks of an issue with one operation are made: the bundle's length and REP are known, and a
segment that the bundle closes is closed (R362). -/
def issueState (h : Header) (sl : Slot) (i : Instr) (s : State) : State :=
  let s := s.modCtx fun c => { c with blen := h.length, brep := h.rep.toNat }
  let again := match s.ctx.seg with | some g => g.again | none => false
  if closesFirst h (decide (s.ctx.a.idx = 0) && !again) [{ slot := sl, op := i }] then s.modCtx Ctx.commit else s

/-- The checks of the one operation pass, and no rewind is awaited (R63, R370). -/
def IssuePasses (h : Header) (sl : Slot) (i : Instr) (s : State) : Prop :=
  let w := issueState h sl i s
  (issueVerdict [{ slot := sl, op := i }] false w).1 = .go ∧ (h.rv = 1#1 → rewindNear w.foc.core w.lid w = false)

/-! ### Memory -/

/-- Every memory is in its canonical form. -/
def MemoriesOk (s : State) : Prop :=
  Memory.wf s.dev.hbm = true ∧ Memory.wf s.dev.hostMem = true ∧ ∀ e ∈ s.cores, Memory.wf e.2.sp = true

/-! ### What does not differ -/

/-- No register of the context in focus, no special register and no byte outside the device's caches differs. -/
def SameRegisters (s t : State) : Prop :=
  t.ctx.a.s = s.ctx.a.s ∧ t.ctx.a.v = s.ctx.a.v ∧ t.ctx.a.m = s.ctx.a.m ∧ t.ctx.a.p = s.ctx.a.p ∧ t.ctx.a.h = s.ctx.a.h
    ∧ t.ctx.a.sh = s.ctx.a.sh ∧ t.ctx.a.th = s.ctx.a.th ∧ t.ctx.a.lp0 = s.ctx.a.lp0 ∧ t.ctx.a.lp1 = s.ctx.a.lp1
    ∧ t.ctx.a.tagDone = s.ctx.a.tagDone ∧ t.ctx.a.tagPend = s.ctx.a.tagPend ∧ t.ctx.a.check = s.ctx.a.check
    ∧ t.ctx.a.lent = s.ctx.a.lent ∧ t.ctx.a.spill = s.ctx.a.spill ∧ t.ctx.cause = s.ctx.cause ∧ t.ctx.tpc = s.ctx.tpc
    ∧ t.ctx.tinfo = s.ctx.tinfo ∧ t.ctx.hmode = s.ctx.hmode ∧ t.core.holdcnt = s.core.holdcnt

/-- Every memory of the device is as it was. -/
def SameMemory (s t : State) : Prop :=
  (∀ c, (t.coreAt c).sp = (s.coreAt c).sp ∧ (t.coreAt c).empt = (s.coreAt c).empt ∧ (t.coreAt c).l1 = (s.coreAt c).l1)
    ∧ t.dev.hbm = s.dev.hbm ∧ t.dev.blockKey = s.dev.blockKey ∧ t.dev.hostMem = s.dev.hostMem ∧ t.dev.l2 = s.dev.l2
    ∧ t.dev.mere = s.dev.mere

end Sys2Proof.Machine
end

