-- ==== Sys2Proof/WellFormed.lean ====
section
/-! DEFINITION. A well-formed instruction: no reserved field and no reserved value (R47, R396), and, where the
opcode table has two rows for one opcode, the field that tells them apart agrees with the constructor. An event is
well-formed. -/

namespace Sys2Proof

/-- The field that tells two rows of one opcode apart holds what the constructor says (R199, R200, R207, R251, R352). -/
def Instr.formOk : Instr → Bool
  | .trap f => !f.fn.getLsbD 0
  | .trapSys f => f.fn.getLsbD 0
  | .htagSet f => !f.aux.getLsbD 11
  | .htagRead f => f.aux.getLsbD 11
  | .fmx f => f.h = 0#1
  | .fmxHaar f => f.h = 1#1
  | .fclrBuffer f => f.aux = 0#4 ∨ f.aux = 1#4 ∨ f.aux.getLsbD 3
  | .fclrCounters f => f.aux = 2#4
  | .fclrGrid f => f.aux = 3#4
  | .fclrGrad f => 4 ≤ f.aux.toNat ∧ f.aux.toNat ≤ 7
  | _ => true

/-- No reserved field or value, and the form the constructor names (R47, R63 check 4). -/
def Instr.WellFormed (i : Instr) : Bool := i.formOk && i.reservedBit.isNone

end Sys2Proof
end

