-- ==== Sys2Proof/Certificates/Slice0/Obligations.lean ====
section
/-! DEFINITION. The statements for the provers. -/

open Sys2Proof Sys2Proof.Machine

/-! ### Scalar arithmetic -/

/-- Sums, products, bitwise operations, shifts by b mod w, minima, maxima, comparisons and LI (R65, R68). -/
def Obligations.ScalarArithmetic : Prop := ∀ f : CSlot,
  Computes (.add f) f 1 true (fun _ a b => a + b)
    ∧ Computes (.sub f) f 1 true (fun _ a b => a - b)
    ∧ Computes (.mul f) f 3 true (fun _ a b => a * b)
    ∧ Computes (.mulh f) f 3 true (fun w a b => (a.signExtend (2 * w) * b.signExtend (2 * w)).extractLsb' w w)
    ∧ Computes (.mulhn f) f 3 false (fun w a b => (a.zeroExtend (2 * w) * b.zeroExtend (2 * w)).extractLsb' w w)
    ∧ Computes (.and f) f 1 true (fun _ a b => a &&& b)
    ∧ Computes (.or f) f 1 true (fun _ a b => a ||| b)
    ∧ Computes (.xor f) f 1 true (fun _ a b => a ^^^ b)
    ∧ Computes (.andn f) f 1 true (fun _ a b => a &&& ~~~b)
    ∧ Computes (.shl f) f 1 true (fun w a b => a <<< (b.toNat % w))
    ∧ Computes (.shr f) f 1 false (fun w a b => a >>> (b.toNat % w))
    ∧ Computes (.sar f) f 1 true (fun w a b => a.sshiftRight (b.toNat % w))
    ∧ Computes (.rol f) f 1 true (fun w a b => a.rotateLeft (b.toNat % w))
    ∧ Computes (.min f) f 1 true (fun _ a b => if a.sle b then a else b)
    ∧ Computes (.max f) f 1 true (fun _ a b => if a.sle b then b else a)
    ∧ Computes (.minn f) f 1 false (fun _ a b => if a ≤ b then a else b)
    ∧ Computes (.maxn f) f 1 false (fun _ a b => if a ≤ b then b else a)
    ∧ Computes (.seq f) f 1 false (fun w a b => if a = b then BitVec.ofNat w 1 else 0)
    ∧ Computes (.slt f) f 1 false (fun w a b => if a.slt b then BitVec.ofNat w 1 else 0)
    ∧ Computes (.sltn f) f 1 false (fun w a b => if a < b then BitVec.ofNat w 1 else 0)
    ∧ Computes (.li f) f 1 true (fun _ _ b => b)

/-- s0 reads 0 in every state; a write to it changes nothing and is in no flight, so no read of it collides with one
(R66). -/
def Obligations.ScalarZero : Prop :=
  (∀ a : Arch, a.sReg 0 = 0)
    ∧ (∀ (a : Arch) (v : Payload), a.write ⟨.s, 0⟩ v = a)
    ∧ (∀ (lat : Nat) (x : Word) (s : State), postS 0 lat x s = s)
    ∧ (∀ (i : Instr) (k : Nat) (s : State), (∀ l ∈ s.ctx.flight, l.reg ≠ ⟨.s, 0⟩) → (⟨.s, 0⟩ : RegId) ∉ readsOf i k s)
    ∧ (∀ (i : Instr) (k : Nat) (s : State), ∀ d ∈ destsOf i k s, d.1 ≠ ⟨.s, 0⟩)
    ∧ (∀ (f : CSlot) (s : State), f.sd.toNat = 0 → Accepted (.add f) s → Certain s → exec (.add f) s = .next s)

/-- Division rounds toward zero, and by zero gives all ones and the dividend (R69). -/
def Obligations.ScalarDivision : Prop := ∀ f : CSlot,
  Computes (.div f) f 18 true (fun w a b => if b = 0 then BitVec.allOnes w else a.sdiv b)
    ∧ Computes (.divn f) f 18 false (fun w a b => if b = 0 then BitVec.allOnes w else a / b)
    ∧ Computes (.rem f) f 18 true (fun _ a b => if b = 0 then a else a.srem b)
    ∧ Computes (.remn f) f 18 false (fun _ a b => if b = 0 then a else a % b)

/-- Bit counts, SEL, LIH and LEA (R65, R68, R70); POPQ takes the head entry of the load-data queue, and holds the core while
it is not filled (R71). -/
def Obligations.CountsAndPops : Prop :=
  (∀ f : CSlot,
   Computes (.clz f) f 1 false (fun w a _ => BitVec.ofNat w ((List.range w).takeWhile fun i => !a.getMsbD i).length)
     ∧ Computes (.ctz f) f 1 false (fun w a _ => BitVec.ofNat w ((List.range w).takeWhile fun i => !a.getLsbD i).length)
     ∧ Computes (.popc f) f 1 false (fun w a _ => BitVec.ofNat w ((List.range w).countP fun i => a.getLsbD i))
     ∧ (∀ s, Accepted (.sel f) s → Certain s →
         exec (.sel f) s = .next (s.landsS f.sd.toNat 1
           ((if s.ctx.a.sReg f.fn.toNat ≠ 0 then narrowA f s else (sourceB f s).truncate _).signExtend 64)))
     ∧ (∀ s, Accepted (.lih f) s → Certain s →
         exec (.lih f) s = .next (s.landsS f.sd.toNat 1 (f.imm ++ (sourceA f s).extractLsb' 0 32)))
     ∧ (∀ s, Accepted (.lea f) s → Certain s →
         exec (.lea f) s = .next (s.landsS f.sd.toNat 1 (sourceA f s + sourceB f s <<< (f.fn.toNat % 8)))))
  ∧ (∀ (f : CSlot) (s : State) (e : QEntry) (r : List QEntry),
   s.ctx.a.queue = e :: r →
     (Accepted (.popq f) s → Certain s →
       exec (.popq f) s = .next ((s.pops 1).landsS f.sd.toNat 1 ((e.data.truncate (widthBits f.w)).signExtend 64)))
     ∧ (s.foc.pre = false → verdict5 (.popq f) s = .go → verdict6 (.popq f) s = .go → corruptOf (.popq f) s = none →
         e.ready s.cyc = false → exec (.popq f) s = .next (s.modCore fun k => { k with hold := some 1, holdIss := true })))

/-! ### Control -/

/-- The branches, and where CALL, RET and JMPR go (R72 to R74); LOOP and LEXIT: the level's register and the next PC that the
entry fixes (R76, R79). -/
def Obligations.BranchesAndLoops : Prop :=
  (∀ f : CSlot,
   BranchesIf (.br f) f (fun _ => True)
     ∧ BranchesIf (.beq f) f (fun s => narrowA f s = narrowB f s)
     ∧ BranchesIf (.bne f) f (fun s => narrowA f s ≠ narrowB f s)
     ∧ BranchesIf (.blt f) f (fun s => (narrowA f s).slt (narrowB f s) = true)
     ∧ BranchesIf (.bge f) f (fun s => (narrowB f s).sle (narrowA f s) = true)
     ∧ BranchesIf (.bltn f) f (fun s => narrowA f s < narrowB f s)
     ∧ BranchesIf (.bgen f) f (fun s => narrowB f s ≤ narrowA f s)
     ∧ BranchesIf (.bpany f) f (fun s => ∃ n < 128, (s.ctx.a.pReg f.sa.toNat).getLsbD n = true)
     ∧ BranchesIf (.bpall f) f (fun s => ∀ n < 128, (s.ctx.a.pReg f.sa.toNat).getLsbD n = true)
     ∧ (∀ s, Accepted (.call f) s → Certain s →
         exec (.call f) s = .next ((s.landsS f.sd.toNat 1 (linkOf s)).goes (aheadBy f s)))
     ∧ (∀ s, Accepted (.ret f) s → Certain s → exec (.ret f) s = .next (s.goes (sourceA f s)))
     ∧ (∀ s, Accepted (.jmpr f) s → Certain s →
         exec (.jmpr f) s = .next (s.goes (sourceA f s + if f.i = 1#1 then f.imm.signExtend 64 else 0))))
  ∧ (∀ (f : CSlot) (s : State),
   (Accepted (.loop f) s → Certain s → sourceA f s ≠ 0 → exec (.loop f) s = .next (s.modCtx fun c => { c with
       next := .own (linkOf s)
       a := c.a.setLoop (f.fn.getLsbD 0) { start := (linkOf s).truncate 52, len := (aheadBy f s - linkOf s).truncate 23
                                           act := true, count := (sourceA f s).truncate 32 } }))
   ∧ (Accepted (.loop f) s → Certain s → sourceA f s = 0 → exec (.loop f) s = .next (s.modCtx fun c => { c with
       next := .own (afterBundle (aheadBy f s) s)
       a := c.a.setLoop (f.fn.getLsbD 0) { c.a.loopReg (f.fn.getLsbD 0) with act := false } }))
   ∧ (Accepted (.lexit f) s → exec (.lexit f) s = .next (s.modCtx fun c => { c with
       next := .own (afterBundle (BitVec.ofNat 64 ((s.ctx.a.loopReg (f.fn.getLsbD 0)).endAt)) s)
       a := { c.a with lp1 := { c.a.lp1 with act := false }
                       lp0 := if f.fn.getLsbD 0 then c.a.lp0 else { c.a.lp0 with act := false } } })))

/-- What issues next (R49, R77, R78): the same bundle again while its repeat count lasts; then a branch target, after which
an active level that does not contain it is inactive; the PC that LOOP or LEXIT fixes; or what the loop-end test finds, lp1
before lp0: neither level ends its body here, lp1 goes round, lp1 leaves alone, lp1 leaves and lp0 goes round, both leave in one
bundle, lp0 alone goes round or leaves. -/
def Obligations.NextIssue : Prop := ∀ (c : Ctx) (t : Nat),
  (c.next ≠ .placed → c.a.idx < c.brep →
    (c.advance t).a = { c.a with idx := c.a.idx + 1 } ∧ (c.advance t).frm = t + 1)
  ∧ (∀ x, c.next = .branch x → c.brep ≤ c.a.idx →
      (c.advance t).a.pc = x ∧ (c.advance t).a.idx = 0 ∧ (c.advance t).frm = t + 1
      ∧ ∀ n, (c.advance t).a.loopReg n = { c.a.loopReg n with
          act := (c.a.loopReg n).act && decide ((c.a.loopReg n).start.toNat ≤ x.toNat)
            && decide (x.toNat ≤ (c.a.loopReg n).start.toNat + (c.a.loopReg n).len.toNat) })
  ∧ (∀ x, c.next = .own x → c.brep ≤ c.a.idx →
      (c.advance t).a.pc = x ∧ (c.advance t).a.lp0 = c.a.lp0 ∧ (c.advance t).a.lp1 = c.a.lp1)
  ∧ (c.next = .seq → c.brep ≤ c.a.idx → c.a.lp1.endsAt c.a.pc.toNat = true → c.a.lp1.count ≠ 1 →
      (c.advance t).a.pc = c.a.lp1.start.zeroExtend 64 ∧ (c.advance t).a.lp0 = c.a.lp0
      ∧ (c.advance t).a.lp1 = { c.a.lp1 with count := c.a.lp1.count - 1 })
  ∧ (c.next = .seq → c.brep ≤ c.a.idx → c.a.lp1.endsAt c.a.pc.toNat = false → c.a.lp0.endsAt c.a.pc.toNat = false →
      (c.advance t).a.pc = c.a.pc + BitVec.ofNat 64 c.blen ∧ (c.advance t).a.lp0 = c.a.lp0
      ∧ (c.advance t).a.lp1 = c.a.lp1)
  ∧ (c.next = .seq → c.brep ≤ c.a.idx → c.a.lp1.endsAt c.a.pc.toNat = true → c.a.lp1.count = 1 →
      c.a.lp0.endsAt c.a.pc.toNat = true → c.a.lp0.count ≠ 1 →
      (c.advance t).a.pc = c.a.lp0.start.zeroExtend 64 ∧ (c.advance t).a.lp1 = { c.a.lp1 with count := 0, act := false }
      ∧ (c.advance t).a.lp0 = { c.a.lp0 with count := c.a.lp0.count - 1 })
  ∧ (c.next = .seq → c.brep ≤ c.a.idx → c.a.lp1.endsAt c.a.pc.toNat = true → c.a.lp1.count = 1 →
      c.a.lp0.endsAt c.a.pc.toNat = false →
      (c.advance t).a.pc = c.a.pc + BitVec.ofNat 64 c.blen ∧ (c.advance t).a.lp1 = { c.a.lp1 with count := 0, act := false }
      ∧ (c.advance t).a.lp0 = c.a.lp0)
  ∧ (c.next = .seq → c.brep ≤ c.a.idx → c.a.lp1.endsAt c.a.pc.toNat = true → c.a.lp1.count = 1 →
      c.a.lp0.endsAt c.a.pc.toNat = true → c.a.lp0.count = 1 →
      (c.advance t).a.pc = c.a.pc + BitVec.ofNat 64 c.blen ∧ (c.advance t).a.lp1 = { c.a.lp1 with count := 0, act := false }
      ∧ (c.advance t).a.lp0 = { c.a.lp0 with count := 0, act := false })
  ∧ (c.next = .seq → c.brep ≤ c.a.idx → c.a.lp1.endsAt c.a.pc.toNat = false → c.a.lp0.endsAt c.a.pc.toNat = true →
      (c.advance t).a.lp1 = c.a.lp1
      ∧ (c.a.lp0.count ≠ 1 → (c.advance t).a.pc = c.a.lp0.start.zeroExtend 64
        ∧ (c.advance t).a.lp0 = { c.a.lp0 with count := c.a.lp0.count - 1 })
      ∧ (c.a.lp0.count = 1 → (c.advance t).a.pc = c.a.pc + BitVec.ofNat 64 c.blen
        ∧ (c.advance t).a.lp0 = { c.a.lp0 with count := 0, act := false }))

/-- Spill memory (R81, R82, R232, R233): SPL's bytes stand in spill memory after the cycle, no other byte changes, and FIL
reads what cycles before wrote; SPLV, FILV and VCHK. -/
def Obligations.Spills : Prop :=
  (∀ (f : CSlot) (s : State),
   (Accepted (.spl f) s → Certain s → exec (.spl f) s = .next ((journal true (spillLines f.imm.toNat (widthBits f.w / 8)) s).modCtx
       fun c => { c with spillW := c.spillW ++ [(f.imm.toNat, widthBits f.w / 8, (narrowA f s).toNat)] }))
   ∧ (∀ c : Ctx, ∀ off n v, c.spillW = [(off, n, v)] →
       c.spillNow.a.spill.read off n = v % 256 ^ n
       ∧ (∀ x, x < off ∨ off + n ≤ x → c.spillNow.a.spill.byte x = c.a.spill.byte x))
   ∧ (Accepted (.fil f) s → Certain s → exec (.fil f) s = .next (s.landsS f.sd.toNat 1
       ((BitVec.ofNat (widthBits f.w) (s.ctx.a.spill.read f.imm.toNat (widthBits f.w / 8))).signExtend 64))))
  ∧ (∀ (f : VSlot) (s : State),
   let cls := f.aux.toNat / 2 ^ 10
   let off := 16 * (f.aux.toNat % 512)
   let keep (n x : Nat) (s : State) : State := (journal true (linesOf off n) s).modCtx fun c => { c with
     spillW := c.spillW ++ [(off, n, x)] }
   let r := s.ctx.a.vReg (vField f f.va s.foc.k)
   let m := f.va.toNat % 8
   let d := f.vd.toNat % 8
   (Ready (.splv f) s → journalFull true (linesOf off 512) s = none → cls = 0 → exec (.splv f) s =
     .next ((keep 512 r.bits.toNat s).modArch fun a => { a with slotTag := a.slotTag.set (off / 512) r.tag }))
   ∧ (Ready (.splv f) s → journalFull true (linesOf off 32) s = none → cls = 1 → exec (.splv f) s =
     .next (keep 32 (s.ctx.a.sh.get m 0).toNat s))
   ∧ (Ready (.splv f) s → journalFull true (linesOf off 16) s = none → cls = 2 → exec (.splv f) s =
     .next (keep 16 (s.ctx.a.th.get m 0).toNat s))
   ∧ (Ready (.splv f) s → journalFull true (linesOf off 16) s = none → cls = 3 → exec (.splv f) s =
     .next (keep 16 (s.ctx.a.pReg m).toNat s))
   ∧ (Ready (.filv f) s → cls = 0 → exec (.filv f) s = .next (s.lands ⟨.v, vField f f.vd s.foc.k⟩ 1
     (.vec (BitVec.allOnes 4096) (BitVec.ofNat 4096 (s.ctx.a.spill.read off 512))
       (some (s.ctx.a.slotTag.get (off / 512) (plainTag 0))))))
   ∧ (Ready (.filv f) s → cls = 1 → exec (.filv f) s =
     .next (s.lands ⟨.sh, d⟩ 1 (.shape (BitVec.ofNat 256 (s.ctx.a.spill.read off 32)))))
   ∧ (Ready (.filv f) s → cls = 2 → exec (.filv f) s =
     .next (s.lands ⟨.th, d⟩ 1 (.thr (BitVec.ofNat 128 (s.ctx.a.spill.read off 16)))))
   ∧ (Ready (.filv f) s → cls = 3 → d ≠ 0 → exec (.filv f) s =
     .next (s.lands ⟨.p, d⟩ 1 (.pred (BitVec.allOnes 128) (BitVec.ofNat 128 (s.ctx.a.spill.read off 16)))))
   ∧ (Ready (.vchk f) s → f.qa = 0#1 → domA f s = domB f s → (∀ n < 128, lane (vecA f s) n = lane (vecB f s) n) →
     exec (.vchk f) s = .next s)
   ∧ (Ready (.vchk f) s → f.qa = 0#1 → ∀ l < 128, (∀ n < l, lane (vecA f s) n = lane (vecB f s) n) →
     lane (vecA f s) l ≠ lane (vecB f s) l → exec (.vchk f) s = .next (startFault (.vchk f) 0x0D (BitVec.ofNat 64
       ((if domA f s = domB f s then 0 else 2 ^ 39) + l * 2 ^ 32 + s.foc.idx % 64 * 2 ^ 23 + 0x5C * 2 ^ 8 + 2)) s))
   ∧ (Ready (.vchk f) s → f.qa = 0#1 → domA f s ≠ domB f s → (∀ n < 128, lane (vecA f s) n = lane (vecB f s) n) →
     exec (.vchk f) s = .next (startFault (.vchk f) 0x0D
       (BitVec.ofNat 64 (2 ^ 39 + s.foc.idx % 64 * 2 ^ 23 + 0x5C * 2 ^ 8 + 2)) s)))

/-- MFS and MTS (R83, R84), with each system register's value: the capabilities of R105 to R107 and the counters of R206 among them. A
write to a number that is read-only, or to the trap record outside handler mode, changes nothing. A clear leaves a tag DONE that completes in the same cycle. That a
handler writes each field that its cause's TRAPINFO has is the model's choice (log 42). -/
def Obligations.SystemRegisters : Prop := ∀ (f : CSlot) (s : State),
  (Accepted (.mfs f) s → Certain s →
    exec (.mfs f) s = .next (s.landsS f.sd.toNat 1 (sysRead (f.imm.toNat % 65536) s)))
  ∧ (Accepted (.mts f) s → Certain s →
    exec (.mts f) s = .next (sysWrite (f.imm.toNat % 65536) (sourceA f s) (s.modCtx Ctx.commit)))
  ∧ sysRead 0x00 s = s.ctx.a.tagDone
  ∧ sysRead 0x01 s = (if s.ctx.a.check then 1 else 0)
  ∧ sysRead 0x08 s = BitVec.ofNat 64 s.foc.ctx
  ∧ sysRead 0x09 s = BitVec.ofNat 64 s.foc.core
  ∧ sysRead 0x0A s = BitVec.ofNat 64 (s.foc.core / 128 % 2 * 16 + s.foc.core / 32 % 4 * 4 + s.foc.core / 8 % 4)
  ∧ sysRead 0x0B s = BitVec.ofNat 64 (s.foc.core / 128 % 2 * 32 + s.foc.core / 8 % 4 * 8 + s.foc.core % 8)
  ∧ sysRead 0x0C s = BitVec.ofNat 64 (s.foc.core / 128 % 2)
  ∧ sysRead 0x0D s = BitVec.ofNat 64 s.vfid
  ∧ sysRead 0x10 s = BitVec.ofNat 64 (s.core.spSpare * 2 ^ 32 + 128 * s.core.spLog * 2 ^ 8 + s.core.spLog)
  ∧ (let k := s.core
    let banks (g : Nat → Nat) : Word := BitVec.ofNat 64 (k.rgSpare * 2 ^ 32 + g 0 % 16 + g 1 % 16 * 2 ^ 4 + g 2 % 16 * 2 ^ 8
      + g 3 % 16 * 2 ^ 12)
    sysRead 0x11 s = banks (fun n => k.nvb.get n 4) ∧ sysRead 0x12 s = banks (fun n => k.nmb.get n 2))
  ∧ sysRead 0x13 s = BitVec.ofNat 64 (s.dev.l2Spare * 2 ^ 40 + 128 * s.dev.l2Log * 2 ^ 16 + s.dev.l2Log)
  ∧ (let a := s.core.arr
    let rows (m : Map (BitVec 16)) : Nat := (List.range 128).countP fun r => m.get r 0 ≠ 0
    ((∃ r < 128, a.below.get r 0 = 0xFFFF#16 ∨ a.above.get r 0 = 0xFFFF#16) →
      sysRead 0x20 s = BitVec.ofNat 64 (2 ^ 16 + rows a.above * 2 ^ 8 + rows a.below))
    ∧ ((∀ r < 128, a.below.get r 0 ≠ 0xFFFF#16 ∧ a.above.get r 0 ≠ 0xFFFF#16) →
      sysRead 0x20 s = BitVec.ofNat 64 (rows a.above * 2 ^ 8 + rows a.below)))
  ∧ sysRead 0x18 s = s.ctx.cause ∧ sysRead 0x19 s = s.ctx.tpc ∧ sysRead 0x1A s = s.ctx.tinfo
  ∧ sysRead 0x21 s = s.core.holdcnt
  ∧ sysRead 0x22 s = BitVec.ofNat 64 (s.core.plog.length * 2 ^ 32 + s.core.plnum.toNat)
  ∧ (∀ x, sysRead 0x00 (sysWrite 0x00 x s) = s.ctx.a.tagDone &&& ~~~(x &&& ~~~s.ctx.tagNew))
  ∧ (∀ x, (sysWrite 0x01 x s).ctx = { s.ctx with chkNext := some (x.getLsbD 0) })
  ∧ (∀ x, sysRead 0x21 (sysWrite 0x21 x s) = x)
  ∧ (∀ x, s.ctx.hmode = true → sysRead 0x19 (sysWrite 0x19 x s) = x
      ∧ sysRead 0x1A (sysWrite 0x1A x s) = x &&& infoMask (s.ctx.cause.toNat % 256) (s.ctx.tinfo.toNat % 8) s.ctx.tr64
      ∧ ∀ n < 64, (sysRead 0x18 (sysWrite 0x18 x s)).getLsbD n
        = if n = 17 ∨ (21 ≤ n ∧ n ≤ 31) then x.getLsbD n else s.ctx.cause.getLsbD n)
  ∧ (∀ n x, s.ctx.hmode = false ∨ n ∉ [0x18, 0x19, 0x1A] → n ∉ [0x00, 0x01, 0x21] → sysWrite n x s = s)

/-! ### Traps (R343 to R354) -/

/-- Taking a trap whose handler is entered: the record, the resume point, handler mode at CODE + HANDLER in cycle f + 4, what
is set aside, and what a trap does not change; the snapshot holds every result and every start in flight with the cycles it has left,
counted from the boundary, and each operation that is to be replayed (R277, R345, R347, R348, R350). -/
def Obligations.TrapEntry : Prop := ∀ (q : TrapReq) (s : State) (l : Launch),
  s.launch? = some l → l.rc.hnd = true → s.ctx.hmode = false → q.hm = false → firmwareFirst q.cause = false →
    let c := s.ctx
    let t := (takeTrap q s).ctx
    let w := t.cause.toNat
    w % 256 = q.cause % 256 ∧ w / 2 ^ 16 % 2 = (if q.before then 1 else 0) ∧ w / 2 ^ 17 % 2 = (if q.replay = [] then 0 else 1)
      ∧ w / 2 ^ 18 % 8 = q.fslot % 8 ∧ w / 2 ^ 21 % 64 = c.a.idx % 64 ∧ w / 2 ^ 27 % 32 = q.owed % 32
      ∧ w / 2 ^ 32 = min (c.flight.length + c.starts.length + q.replay.length) 255
      ∧ t.tpc = c.a.pc ∧ t.tinfo = q.info ∧ t.hmode = true
      ∧ t.a.pc = BitVec.ofNat 64 (l.rc.code + l.rc.handler) ∧ t.a.idx = 0 ∧ t.frm = s.cyc + 4
      ∧ t.a.stA = {} ∧ t.a.stV = {} ∧ t.a.stM = {} ∧ t.a.stT = {} ∧ t.a.lp0 = {} ∧ t.a.lp1 = {} ∧ t.a.queue = []
      ∧ t.flight = [] ∧ t.starts = [] ∧ t.seg = none
      ∧ (let b := if q.before then s.cyc else s.cyc + 1
        t.snap = c.flight.map (fun x => Snap.result (x.due - b) x.ord x.reg x.val) ++ c.starts.map (fun e => Snap.start (e.due - b) e)
          ++ q.replay.map Snap.replay)
      ∧ t.aside = some { stA := c.a.stA, stV := c.a.stV, stM := c.a.stM, stT := c.a.stT, lp0 := c.a.lp0, lp1 := c.a.lp1
                         queue := c.a.queue, answer := c.answer.filter (fun x => x.1 = 1), trapEnd := c.trapEnd, svc := c.svc
                         chkNext := c.chkNext }
      ∧ (∀ n, n < 28 ∨ 31 < n → t.a.sReg n = c.a.sReg n) ∧ (∀ n, 28 ≤ n → n ≤ 31 → t.a.sReg n = c.hs.get n 0)
      ∧ t.a.v = c.a.v ∧ t.a.m = c.a.m ∧ t.a.p = c.a.p ∧ t.a.h = c.a.h ∧ t.a.sh = c.a.sh ∧ t.a.th = c.a.th
      ∧ t.a.tagDone = c.a.tagDone ∧ t.a.tagPend = c.a.tagPend ∧ t.a.check = c.a.check ∧ t.a.lent = c.a.lent
      ∧ t.a.spill = c.a.spill ∧ t.a.slotTag = c.a.slotTag
      ∧ (takeTrap q s).dev = s.dev
      ∧ ∀ core n, core ≠ s.foc.core ∨ n ≠ s.foc.ctx → ((takeTrap q s).coreAt core).ctxAt n = (s.coreAt core).ctxAt n

/-- A trap taken and returned from at once, its record unchanged, gives the interrupted context back: registers, sticky
operations, loops, queue, CHECK to come, resume point, and what was in flight with the cycles it had left; of a held service's
answers one that would block is asked for again (R60, R303, R348, R350, R353). -/
def Obligations.TrapAndReturn : Prop :=
  ∀ (c : Ctx) (q : TrapReq) (snap : List Snap) (fwd : Bool) (f e : Nat) (entry : Word), c.a.idx < 64 →
    let t := (c.enterHandler q snap fwd f entry).returnFrom e
    (∀ n, t.a.sReg n = c.a.sReg n) ∧ (∀ n, 28 ≤ n → n ≤ 31 → t.hs.get n 0 = c.hs.get n 0)
      ∧ t.a.pc = c.a.pc ∧ t.a.idx = c.a.idx ∧ t.a.queue = c.a.queue ∧ t.a.lp0 = c.a.lp0 ∧ t.a.lp1 = c.a.lp1
      ∧ t.a.stA = c.a.stA ∧ t.a.stV = c.a.stV ∧ t.a.stM = c.a.stM ∧ t.a.stT = c.a.stT
      ∧ t.a.v = c.a.v ∧ t.a.m = c.a.m ∧ t.a.p = c.a.p ∧ t.a.h = c.a.h ∧ t.a.spill = c.a.spill
      ∧ t.hmode = false ∧ t.aside = none ∧ t.answer = c.answer.filter (fun x => x.1 = 1) ∧ t.trapEnd = c.trapEnd
      ∧ t.svc = c.svc ∧ t.chkNext = c.chkNext
      ∧ t.frm = e + 1 + q.owed % 32 ∧ t.noStall = true
      ∧ (∀ r ord reg val, Snap.result r ord reg val ∈ snap →
          ({ due := e + 1 + r, ord := ord, reg := reg, val := val } : Landing) ∈ t.flight)
      ∧ (∀ b, snap = c.snapshot b q.replay →
          (∀ x ∈ c.flight, ({ x with due := e + 1 + (x.due - b), hm := false } : Landing) ∈ t.flight)
          ∧ ∀ x ∈ c.starts, ({ x with due := e + 1 + (x.due - b), hm := false } : Start) ∈ t.starts)
      ∧ (∀ r op, Snap.start r op ∈ snap → ({ op with due := e + 1 + r, hm := false } : Start) ∈ t.starts)
      ∧ (q.replay ≠ [] → ∀ op, Snap.replay op ∈ snap → ({ op with due := e, hm := false } : Start) ∈ t.starts)

/-- TRAP, a service request, ERET and END (R85, R352, R353). Within a bundle's issue TRAP is noted and taken after it, and
alone it is taken at once; ERET outside handler mode traps 0x0A. -/
def Obligations.TrapInstructions : Prop := ∀ (f : CSlot) (s : State),
  let s' := s.modCtx Ctx.commit
  let q : TrapReq := { cause := 0x18, info := (f.imm.extractLsb' 0 16).zeroExtend 64, fslot := 0, before := false }
  (s.foc.pre = true → exec (.trap f) s = .next (s'.modCtx fun c => { c with trapEnd := some q }))
  ∧ (s.foc.pre = false → Accepted (.trap f) s →
      exec (.trap f) s = .next (takeTrap { q with owed := owedAfter (advanceHere s') } (advanceHere s')))
  ∧ (s.foc.pre = true → exec (.trapSys f) s =
      .next (s'.modCtx fun c => { c with svc := some (f.sd.toNat, (f.imm.extractLsb' 0 16).toNat) }))
  ∧ (s.foc.pre = false → Accepted (.trapSys f) s → exec (.trapSys f) s = .next (enterService (advanceHere
      (s'.modCtx fun c => { c with svc := some (f.sd.toNat, (f.imm.extractLsb' 0 16).toNat) }))))
  ∧ (Accepted (.eret f) s → exec (.eret f) s = .next (s.modCtx fun c => c.returnFrom s.cyc))
  ∧ (s.foc.pre = false → s.ctx.hmode = false → verdict5 (.eret f) s = .go → verdict6 (.eret f) s = .go →
      corruptOf (.eret f) s = none → exec (.eret f) s =
      .next (takeTrap { cause := 0x0A, info := BitVec.ofNat 64 (s.foc.idx % 64 * 2 ^ 23 + 0x63 * 2 ^ 8)
                        fslot := 0, r64 := true } s))
  ∧ (Accepted (.endInst f) s → exec (.endInst f) s = .next (s'.modCtx fun c => { c with ending := true }))

/-- An operation of a slot whose checks do not pass changes nothing but what its verdict says: it traps before the issue,
blocks its context, holds the core or rewinds (R63, R285, R287, R343, R369). An engine operation that pops an empty queue, or
consumes a corrupt value with no segment to rewind, faults in its start cycle and changes nothing else (R216, R343, R368). -/
def Obligations.ChecksAndStartFaults : Prop := ∀ (i : Instr) (s : State), i.slot?.isSome = true →
  let s' := checkedState i s
  (s.foc.pre = false → verdictOf i (ownOf i s) s' ≠ .go →
    exec i s = .next ((verdictOf i (ownOf i s) s').act (slotCode i) s'))
  ∧ (i.slot? ≠ some .c → i.slot? ≠ some .x → Accepted i s →
    (s'.ctx.a.queue.length < popCount i s' → exec i s = .next (startFault i 6 (opInfo i 0 0 0 s') s'))
    ∧ (∀ src pa, popCount i s' ≤ s'.ctx.a.queue.length → corruptOf i s' = some (src, pa) → s'.ctx.seg = none →
        exec i s = .next (startFault i 0x14 (info14 pa (slotCode i) i.opcode.toNat src s') s')))

/-- The explicit NOPs, and CHK and WAITALL when nothing is in their way, change nothing; BLEND and BRET change the lending
state alone (R31, R139, R212, R361). -/
def Obligations.QuietOperations : Prop :=
  (∀ f, Idle (.cnop f)) ∧ (∀ f, Idle (.anop f)) ∧ (∀ f, Idle (.vnop f)) ∧ (∀ f, Idle (.mnop f)) ∧ (∀ f, Idle (.tnop f))
  ∧ (∀ f, Idle (.xnop f)) ∧ (∀ f, Idle (.chk f))
  ∧ (∀ f s, Accepted (.waitall f) s → exec (.waitall f) s = .next (s.modCtx Ctx.commit))
  ∧ (∀ f s, Accepted (.blend f) s → exec (.blend f) s = .next (s.modArch fun a => { a with
      lent := a.lent ||| (1#4 <<< (f.fn.toNat % 4)) }))
  ∧ (∀ f s, Accepted (.bret f) s → exec (.bret f) s = .next (s.modArch fun a => { a with
      lent := a.lent &&& ~~~(1#4 <<< (f.fn.toNat % 4)) }))
  ∧ (∀ f s, s.foc.pre = false → Certain s → verdict5 (.chk f) s = .go → verdict6 (.chk f) s = .go →
      corruptOf (.chk f) s = none → narrowA f s ≠ (sourceB f s).truncate _ → exec (.chk f) s =
      .next (takeTrap { cause := 0x0D, info := BitVec.ofNat 64 ((if f.i = 1#1 then 0 else f.sb.toNat) * 2 ^ 37
        + f.sa.toNat * 2 ^ 32 + s.foc.idx % 64 * 2 ^ 23 + 0x64 * 2 ^ 8), fslot := 0 } s))

/-! ### Loads and stores (R110 to R121, R130) -/

/-- The loads: what each reads, where, and into which bytes of its queue entry (R110, R111, R113 to R115, R120, R130). -/
def Obligations.LoadInstructions : Prop := ∀ f : ASlot,
  let size := sizeW f
  let off (s : State) : Nat := (offsetOf f size s).toNat
  let offV (s : State) : Nat := (offsetOf f 512 s).toNat
  let gather (s : State) (n : Nat) : Word := offsetOf f size s + (lane (s.ctx.a.vReg f.dr.toNat).bits n).signExtend 64
  let strided (s : State) (n : Nat) : Word := offsetOf f size s + BitVec.ofNat 64 n * s.ctx.a.sReg f.dr.toNat
  let good (_ : State) : Bool := false
  Loads (.ldq f) f good off (fun s => [{ off := off s, size := size, align := size }]) (fun s => [(off s, size, 0)]) none
    ∧ Loads (.ldacq f) f good off (fun s => [{ off := off s, size := size, align := size }]) (fun s => [(off s, size, 0)])
      (some f.sc.toNat)
    ∧ Loads (.ldqv f) f good offV (fun s => [{ off := offV s, size := 512, align := 16 }]) (fun s => [(offV s, 512, 0)]) none
    ∧ Loads (.ldqg f) f good off
      (fun s => (List.range 128).map fun n => { off := (gather s n).toNat, size := size, align := size })
      (fun s => (List.range 128).map fun n => ((gather s n).toNat, size, 4 * n)) none
    ∧ Loads (.ldqs f) f good off
      (fun s => (List.range 128).map fun n => { off := (strided s n).toNat, size := size, align := size })
      (fun s => (List.range 128).map fun n => ((strided s n).toNat, size, 4 * n)) none
    ∧ Loads (.tld f) f (tensorBad f) (fun s => tensorBase (tensorEls f s)) (tensorCheck f)
      (fun s => (tensorEls f s).map fun x => (x.2.toNat, tensorSize f s, 4 * x.1)) none

/-- The elements of a shape record that TLD and TST touch: lane n at coordinate c(0) + n is in bounds when no coordinate is
outside its extent, and lies BASE + OFF plus its coordinates times their strides away, for a record of ranks 1 and 2 without
a permutation (R119, R120). -/
def Obligations.TensorElements : Prop := ∀ (f : ASlot) (s : State), Certain s →
  let r := (s.ctx.a.sh.get (f.off.toNat / 2 ^ 23 % 8) 0).toNat
  let c (j : Nat) : Int := (if f.xs.toNat = 0 then 0 else (s.ctx.a.sReg (f.xs.toNat + j)).toInt)
    + (if j = 0 then s.foc.k * f.step.toInt else 0)
  let base : Int := r % 2 ^ 32 + (f.off.extractLsb' 0 23).toInt
  let size := fmtSize (r / 2 ^ 32 % 8)
  let ext (j : Nat) : Int := ((r / 2 ^ (64 + 12 * j) % 2 ^ 12 : Nat) : Int)
  r / 2 ^ 38 % 4 = 0 →
    (r / 2 ^ 35 % 8 = 1 → ∀ n off, (n, off) ∈ tensorEls f s ↔
      n < 128 ∧ 0 ≤ c 0 + n ∧ c 0 + n ≤ ext 0 ∧ off = BitVec.ofInt 64 (base + size * (c 0 + n)))
    ∧ (r / 2 ^ 35 % 8 = 2 → ∀ n off, (n, off) ∈ tensorEls f s ↔
      n < 128 ∧ 0 ≤ c 0 + n ∧ c 0 + n ≤ ext 0 ∧ 0 ≤ c 1 ∧ c 1 ≤ ext 1
        ∧ off = BitVec.ofInt 64 (base + size * (c 0 + n + c 1 * ((r / 2 ^ 148 % 2 ^ 18 : Nat) : Int))))

/-- The stores: what each writes and where (R110, R113 to R115, R120). -/
def Obligations.StoreInstructions : Prop := ∀ f : ASlot,
  let size := sizeW f
  let off (s : State) : Nat := (offsetOf f size s).toNat
  let offV (s : State) : Nat := (offsetOf f 512 s).toNat
  let offP (s : State) : Nat := (offsetAlone f s).toNat
  let v (s : State) (n : Nat) : Nat := (lane (s.ctx.a.vReg f.dr.toNat).bits n).toNat
  let scatter (s : State) (n : Nat) : Nat :=
    (offsetOf f size s + (lane (s.ctx.a.vReg (f.dr.toNat + 1)).bits n).signExtend 64).toNat
  let good (_ : State) : Bool := false
  Stores (.sts f) f good off (fun s => [{ off := off s, size := size, align := size }])
      (fun s => [(off s, size, ((s.ctx.a.sReg f.dr.toNat).truncate (widthBits f.w)).toNat)])
    ∧ Stores (.stv f) f good offV (fun s => [{ off := offV s, size := 512, align := 16 }])
      (fun s => [(offV s, 512, (s.ctx.a.vReg f.dr.toNat).bits.toNat)])
    ∧ Stores (.stvp f) f good offP (fun s => [{ off := offP s, size := 512, align := 16 }])
      (fun s => ((List.range 128).filter fun n => (s.ctx.a.pReg (f.xs.toNat % 8)).getLsbD n).map fun n =>
        (offP s + 4 * n, 4, v s n))
    ∧ Stores (.stg f) f good off (fun s => (List.range 128).map fun n => { off := scatter s n, size := size, align := size })
      (fun s => (List.range 128).map fun n => (scatter s n, size, v s n % 2 ^ widthBits f.w))
    ∧ Stores (.tst f) f (tensorBad f) (fun s => tensorBase (tensorEls f s)) (tensorCheck f)
      (fun s => (tensorEls f s).map fun x => (x.2.toNat, tensorSize f s, v s x.1 % 2 ^ (8 * tensorSize f s)))

/-- STREL: a store that is a release, narrow at scopes CTX and CORE, held in an open segment (R130, R148, R149, R363). -/
def Obligations.ReleasingStore : Prop := ∀ (f : ASlot) (s : State), Ready (.strel f) s →
  let size := sizeW f
  let off := (offsetOf f size s).toNat
  let el : List AEl := [{ off := off, size := size, align := size }]
  let x := { storeAccess f [elemAt s f.h.toNat size off 0 ((s.ctx.a.sReg f.dr.toNat).truncate (widthBits f.w)).toNat] s with
    rel := some f.sc.toNat, narrow := decide (f.sc.toNat ≤ 1) }
  let t := { makeVersions f.h.toNat el s with uid := s.uid + 1 }
  (accessCheck s f.h.toNat .wr off el = none → shadowFault s f.h.toNat el = none → heldFull s = false →
    exec (.strel f) s = .next (if s.ctx.seg.isSome then submit (.access x) t else begin x t))
  ∧ (∀ c info, accessCheck s f.h.toNat .wr off el = some (c, info) →
    exec (.strel f) s = .next (startFault (.strel f) c info s))

/-- A storing operation that may act changes no byte of any scratchpad but those it stores to, no register, and nothing of
HBM or of the host's memory; through a handle other than h0 it changes no scratchpad byte when it starts. STREL through h0 is
apart in HBM and the caches, for it writes dirty lines back (R149, R155). No operation of the C, V, M or T slot changes a byte of
memory, a full/empty bit or a cached line, whatever it answers, where no segment is open to rewind (R18, R24). -/
def Obligations.MemoryFrames : Prop := ∀ (i : Instr) (s t : State), s.ctx.seg = none → exec i s = .next t →
  (∀ h : BitVec 4, storeHandle i = some h → Ready i s →
    (∀ c a, ¬isStored i h s c a → (t.coreAt c).sp.byte a = (s.coreAt c).sp.byte a)
    ∧ ((∀ f, i ≠ .ste f) → h ≠ 0#4 → ∀ c, (t.coreAt c).sp = (s.coreAt c).sp)
    ∧ SameRegisters s t
    ∧ (h ≠ 0#4 ∨ (∀ f, i ≠ .strel f) → t.dev.hbm = s.dev.hbm ∧ t.dev.blockKey = s.dev.blockKey
      ∧ t.dev.hostMem = s.dev.hostMem ∧ t.dev.l2 = s.dev.l2 ∧ t.dev.mere = s.dev.mere))
  ∧ (i.slot? = some .c ∨ i.slot? = some .v ∨ i.slot? = some .m ∨ i.slot? = some .t → SameMemory s t)

/-- The full/empty operations (R117, R118): each completes, acts on the word's state in one step, and takes the word's bank for
the cycle (R90); LDF on an EMPTY word and STE on a FULL one block. What they read and leave in pond storage is unpredictable
(R282). -/
def Obligations.FullEmpty : Prop := ∀ (f : ASlot) (s : State) (c a : Nat),
  let off := (offsetOf f 4 s).toNat
  let el : List AEl := [{ off := off, size := 4, align := 4 }]
  let due := (handleLat f.h.toNat).map (s.cyc + ·)
  let poison := if badSp s c a 4 then some (2, lineOf a) else none
  let s' := s.modCtx Ctx.commit
  let b' := takeBank false (c, lineOf a) s'
  (∀ i ∈ [Instr.ldf f, .ste f, .setf f, .sete f, .tstf f], Accepted i s → Startable i s → ∃ t, exec i s = .next t)
  ∧ (spPlace s s.foc.core s.lid f.h.toNat off 4 = some (c, a) → pondSpace s c a 4 = none →
    (Ready (.ldf f) s → accessCheck s f.h.toNat .rd off el = none → s.ctx.a.queue.length < 16 →
      let t := fillEntry s.foc.ctx (some s.uid) ((s.coreAt c).sp.read a 4) poison (b'.entered 1 due)
      exec (.ldf f) s = .next (if f.dr.getLsbD 0 then spSetFull c a false t else t))
    ∧ (Ready (.ste f) s → accessCheck s f.h.toNat .wr off el = none →
      exec (.ste f) s = .next (spSetFull c a true (spWrite c a 4 ((s.ctx.a.sReg f.dr.toNat).truncate 32 : BitVec 32).toNat
        (keepOld s.foc.ctx s.foc.ord b'))))
    ∧ (Ready (.setf f) s → accessCheck s f.h.toNat .wr off el = none → s.ctx.seg = none →
      exec (.setf f) s = .next (spSetFull c a true (takeBank false (c, lineOf a) (checkedState (.setf f) s))))
    ∧ (Ready (.sete f) s → accessCheck s f.h.toNat .wr off el = none → s.ctx.seg = none →
      exec (.sete f) s = .next (spSetFull c a false (takeBank false (c, lineOf a) (checkedState (.sete f) s))))
    ∧ (Ready (.tstf f) s → accessCheck s f.h.toNat .rd off el = none → s.ctx.a.queue.length < 16 →
      exec (.tstf f) s = .next (fillEntry s.foc.ctx (some s.uid)
        ((s.coreAt c).sp.read a 4 + if (s.coreAt c).full a then 2 ^ 64 else 0) poison
        ((takeBank false (c, lineOf a) (checkedState (.tstf f) s)).entered 1 due)))
    ∧ (∀ b x, ((spSetFull c a b s).coreAt c).full x = if x / 4 = a / 4 then b else (s.coreAt c).full x)
    ∧ (s.foc.pre = false → Certain s → off % 4 = 0 → feHeld f (c, a) s = false →
        verdict5 (.ldf f) s' = .go → verdict6 (.ldf f) s' = .go → (s.coreAt c).full a = false →
        exec (.ldf f) s = .next (blockOn (.word c a) s'))
    ∧ (s.foc.pre = false → Certain s → off % 4 = 0 → feHeld f (c, a) s = false →
        verdict5 (.ste f) s' = .go → verdict6 (.ste f) s' = .go → (s.coreAt c).full a = true →
        exec (.ste f) s = .next (blockOn (.word c a) s')))

/-- XLT, HDROP and HINFO (R123 to R125). -/
def Obligations.Handles : Prop := ∀ (f : ASlot) (s : State),
  let va := s.ctx.a.sReg f.xs.toNat + f.off.signExtend 64
  let walked := translateFor (xltUser s) s.foc.core s.asid va.toNat s
  (∀ w, walkFor (xltUser s) s.asid va.toNat s = some w → w.bad = false ∨ w.done = false →
    walked = translate s.foc.core s.asid va.toNat s)
  ∧ (walkFor (xltUser s) s.asid va.toNat s = none → walked = translate s.foc.core s.asid va.toNat s)
  ∧ (Ready (.xlt f) s → ∀ h, va.toNat < 2 ^ 52 → walked.1 = some h →
    let t := walked.2.modDev fun d => { d with walks := d.walks.filter fun w => w.user ≠ xltUser s }
    exec (.xlt f) s = .next (((t.lands ⟨.h, f.h.toNat⟩ 8 (.handle h)).landsS (f.dr.toNat % 32) 8
      (BitVec.ofNat 64 (va.toNat % pageBytes h.psz)))))
  ∧ (Ready (.xlt f) s → 2 ^ 52 ≤ va.toNat → exec (.xlt f) s = .next (startFault (.xlt f) 0x0B va s))
  ∧ (Ready (.xlt f) s → va.toNat < 2 ^ 52 → walked.1 = none →
    ∃ t, exec (.xlt f) s = .next t ∧ t.ctx.faults = s.ctx.faults ++ [(s.startOf (.xlt f), 0x0B, va)] ∧ t.ctx.a = s.ctx.a)
  ∧ (Ready (.hdrop f) s → ∃ t, exec (.hdrop f) s = .next t ∧ (t.ctx.a.h.get f.h.toNat {}).st = .empty
      ∧ ∀ n, n ≠ f.h.toNat → t.ctx.a.h.get n {} = s.ctx.a.h.get n {})
  ∧ (Ready (.hinfo f) s → ∃ x : Word, exec (.hinfo f) s = .next (s.landsS (f.dr.toNat % 32) 2 x)
      ∧ x.extractLsb' 62 2 = (match (handleOf s f.h.toNat).st with | .empty => 0#2 | .valid => 1#2 | .revoked => 2#2)
      ∧ x.extractLsb' 60 2 = BitVec.ofNat 2 (handleOf s f.h.toNat).psz
      ∧ x.getLsbD 59 = (handleOf s f.h.toNat).rd ∧ x.getLsbD 58 = (handleOf s f.h.toNat).wr
      ∧ x.getLsbD 57 = (handleOf s f.h.toNat).amo ∧ x.getLsbD 56 = (handleOf s f.h.toNat).ca
      ∧ x.extractLsb' 54 2 = BitVec.ofNat 2 (handleOf s f.h.toNat).lay
      ∧ x.extractLsb' 44 10 = BitVec.ofNat 10 (handleOf s f.h.toNat).key ∧ x.extractLsb' 0 44 = 0)

/-! ### Atomics, ordering, flags, barriers (R127 to R132, R296 to R304) -/

/-- Numbers (R170, R171, R175 to R177). An encoding has the value that its fields give; rounding picks the value of the format that
the mode names, RNE the nearest and of two the even one, and overflow gives an infinity, the largest finite value, or in FP8E4 a NaN;
a result keeps its sign, zeros too, and a NaN is the canonical one; sums and products are exact; the special cases of infinities and
zeros; a float rounded to an integer is clamped to the range of the integer format. -/
def Obligations.FloatNumbers : Prop :=
  (∀ f < 5, ∀ b < 2 ^ fmtBits f, let e := b / 2 ^ fmtM f % (fmtEmax f + 1)
    let m := b % 2 ^ fmtM f
    let neg := decide (signBit f ≤ b)
    let sgn : ℚ := if neg then -1 else 1
    (e = 0 → (decodeF f b).FiniteIs neg (sgn * 2 ^ (1 - (fmtBias f : ℤ)) * m / 2 ^ fmtM f))
    ∧ (0 < e → e < fmtEmax f ∨ (f = 3 ∧ m ≠ 7) →
      (decodeF f b).FiniteIs neg (sgn * 2 ^ ((e : ℤ) - fmtBias f) * (1 + m / 2 ^ fmtM f)))
    ∧ (f ≠ 3 → e = fmtEmax f → decodeF f b = if m = 0 then .inf neg else .nan) ∧ (f = 3 → e = 15 → m = 7 → decodeF f b = .nan))
  ∧ (∀ f < 5, ∀ rm < 4, ∀ sat : Bool,
    (roundFmt .nan f rm sat = canonNaN f ∧ decodeF f (canonNaN f) = .nan)
    ∧ (∀ neg, let r := decodeF f (roundFmt (.inf neg) f rm sat)
      (f ≠ 3 → r = .inf neg) ∧ (f = 3 → sat = true → r.FiniteIs neg (if neg then -448 else 448)) ∧ (f = 3 → sat = false → r = .nan))
    ∧ ∀ neg m e, let x := FVal.num neg m e false
      let r := decodeF f (roundFmt x f rm sat)
      let top := (decodeF f (maxFinite f)).real
      roundFmt x f rm sat < 2 ^ fmtBits f ∧ ∃ y, RoundsTo f rm x.real y ∧ (|y| ≤ top → r.FiniteIs neg y)
        ∧ (top < |y| → sat = true → r.FiniteIs neg (if neg then -top else top))
        ∧ (top < |y| → sat = false → r = if f = 3 then .nan else .inf neg))
  ∧ (∀ rm s m e b s' m' e' b', let x := FVal.num s m e b
    let y := FVal.num s' m' e' b'
    (∃ z, (fadd rm x y).FiniteIs z (x.real + y.real) ∧ (x.real + y.real < 0 → z = true) ∧ (0 < x.real + y.real → z = false)
      ∧ (x.real + y.real = 0 → z = if m = 0 ∧ m' = 0 ∧ s = s' then s else decide (rm = 2)))
    ∧ (fmul x y).FiniteIs (s ^^ s') (x.real * y.real)
    ∧ ∀ i, fadd rm (.inf i) y = .inf i ∧ fadd rm x (.inf i) = .inf i
      ∧ fmul (.inf i) y = (if m' = 0 then .nan else .inf (i ^^ s')) ∧ fmul x (.inf i) = if m = 0 then .nan else .inf (s ^^ i))
  ∧ (∀ rm i j, fadd rm (.inf i) (.inf j) = (if i = j then .inf i else .nan) ∧ fmul (.inf i) (.inf j) = .inf (i ^^ j))
  ∧ (∀ rm x, fadd rm .nan x = .nan ∧ fadd rm x .nan = .nan ∧ fmul .nan x = .nan ∧ fmul x .nan = .nan)
  ∧ (∀ rm < 4, ∀ w ∈ [8, 16, 32], let top : ℤ := 2 ^ (w - 1)
    fToInt rm w .nan = 0 ∧ (∀ neg, fToInt rm w (.inf neg) = (BitVec.ofInt w (if neg then -top else top - 1)).toNat)
    ∧ ∀ neg m e, ∃ n : ℤ, RoundsToInt rm (FVal.num neg m e false).real n
      ∧ fToInt rm w (.num neg m e false) = (BitVec.ofInt w (max (-top) (min (top - 1) n))).toNat)

/-- The atomics start: each makes its access on path ATOM, an acquire and release at its scope from CORE on, with a queue
entry that fills two cycles after a load's (R111, R112, R127, R148). The new value of each at width w, its flag, and whether it writes
at all (R128, R129): AMOFADD's is the FP32 sum rounded RNE. -/
def Obligations.AtomicValues : Prop :=
  (∀ f : ASlot,
    Atomically (.amoadd f) f false ∧ Atomically (.amomin f) f false ∧ Atomically (.amomax f) f false
      ∧ Atomically (.amominn f) f false ∧ Atomically (.amomaxn f) f false ∧ Atomically (.amoand f) f false
      ∧ Atomically (.amoor f) f false ∧ Atomically (.amoxor f) f false ∧ Atomically (.amoswp f) f false
      ∧ Atomically (.amocas f) f true ∧ Atomically (.amoincw f) f false ∧ Atomically (.amobfa f) f true
      ∧ Atomically (.amofadd f) f false)
  ∧ ∀ (w : Nat) (old a b : BitVec w) (f : ASlot), w = 32 ∨ w = 64 →
  let new (i : Instr) : Nat × Bool × Bool := amoNew i.opcode w old.toNat a.toNat b.toNat
  new (.amoadd f) = ((old + a).toNat, false, true)
    ∧ new (.amomin f) = ((if old.sle a then old else a).toNat, false, true)
    ∧ new (.amomax f) = ((if old.sle a then a else old).toNat, false, true)
    ∧ new (.amominn f) = ((if old ≤ a then old else a).toNat, false, true)
    ∧ new (.amomaxn f) = ((if old ≤ a then a else old).toNat, false, true)
    ∧ new (.amoand f) = ((old &&& a).toNat, false, true)
    ∧ new (.amoor f) = ((old ||| a).toNat, false, true)
    ∧ new (.amoxor f) = ((old ^^^ a).toNat, false, true)
    ∧ new (.amoswp f) = (a.toNat, false, true)
    ∧ new (.amocas f) = (if old = a then (b.toNat, true, true) else (old.toNat, false, false))
    ∧ new (.amoincw f) = (if a ≤ old then 0 else (old + 1).toNat, false, true)
    ∧ new (.amobfa f) = (if old.toNat + a.toNat ≤ b.toNat then ((old + a).toNat, true, true) else (old.toNat, false, false))
    ∧ (∀ (x y : BitVec 32) (z : Nat), amoNew (Instr.amofadd f).opcode 32 x.toNat y.toNat z =
      (roundFmt (fadd 0 (decodeF 0 x.toNat) (decodeF 0 y.toNat)) 0 0 false, false, true))
    ∧ (∀ x y : BitVec 32, decodeF 0 x.toNat = .nan ∨ decodeF 0 y.toNat = .nan →
      (amoNew (Instr.amofadd f).opcode 32 x.toNat y.toNat 0).1 = 0x7FC00000)

/-- PACQ and DRN (R131, R132, R152, R156, R163). PACQ asks every target once and reads its flag when all have answered; a DRN
that need hold no longer has seen every access of its earlier mask performed that started before this cycle, those of the host
window written back as well, every row read of the array's pushes and every load of it before the mark done where MXR is named, and has
nothing to wait for on LINK; and at COLUMN and wider it drops the clean bytes of the L1 for a later A path. -/
def Obligations.Ordering : Prop := ∀ (f : ASlot) (s : State),
  let off := (offsetOf f (sizeW f) s).toNat
  let el : List AEl := [{ off := off, size := sizeW f, align := sizeW f }]
  let p := (checkedState (.pacq f) s).modCtx fun c => { c with begun := false }
  let x := (s.ctx.a.sReg (f.dr.toNat % 32)).toNat
  let e := f.off.toNat % 256
  let l := f.off.toNat / 256 % 256
  let mine (a : Access) : Prop := a ∈ s.core.waiting ∧ a.ctx = s.foc.ctx ∧ a.id < s.core.mark
  (Ready (.pacq f) s → x < 256 → (f.dr.getLsbD 5 = true → (groupCores x s).isSome) →
    accessCheck s f.h.toNat .rd off el = none → s.ctx.a.queue.length < 16 →
    exec (.pacq f) s = .next (begin (loadAccess f [elemAt s f.h.toNat (sizeW f) off 0 0] (some f.sc.toNat) s)
      ((pacqClear p).entered 2 ((handleLat f.h.toNat).map (s.cyc + ·)))))
  ∧ (Ready (.pacq f) s → 256 ≤ x ∨ (f.dr.getLsbD 5 = true ∧ groupCores x s = none) →
    exec (.pacq f) s = .next (startFault (.pacq f) 6 (opInfo (.pacq f) 0 (f.dr.toNat % 32) 0 p) p))
  ∧ (f.dr.getLsbD 5 = false → Certain s → x < 256 →
    ((pacqBegin f s).coreAt x).pacq = (s.coreAt x).pacq ++ [{ id := s.uid, core := s.foc.core, target := x, vf := s.vfid }]
    ∧ ∀ c, c ≠ x → ((pacqBegin f s).coreAt c).pacq = (s.coreAt c).pacq)
  ∧ (Ready (.drn f) s → exec (.drn f) s = .next (if 2 ≤ f.sc.toNat ∧ (l.testBit 0 || l.testBit 4 || l.testBit 5) = true
      then l1Invalidate s.foc.core (checkedState (.drn f) s) else checkedState (.drn f) s))
  ∧ (∀ b, holdA (.drn f) b s = none → ∀ a, mine a →
      (e.testBit 0 = true → a.path ≠ .ctxls) ∧ (e.testBit 4 = true → a.path ≠ .atom) ∧ (e.testBit 5 = true → a.path ≠ .vert)
      ∧ (e.testBit 7 = true → a.toHost = false))
  ∧ (∀ b, holdA (.drn f) b s = none → e.testBit 0 = true → 2 ≤ f.sc.toNat → ∀ y ∈ s.core.l1, y.dirty = 0)
  ∧ (∀ b, holdA (.drn f) b s = none → e.testBit 1 = true → ∀ k ∈ s.cores, ∀ c ∈ k.2.copyq,
      ¬(s.ctx.inst = some c.inst ∧ c.id < s.core.mark))
  ∧ (∀ b, holdA (.drn f) b s = none → e.testBit 7 = true → ∀ y ∈ s.core.l1, inHost y.pa = true → y.dirty = 0)
  ∧ (∀ b, holdA (.drn f) b s = none → e.testBit 2 = true →
      (∀ p ∈ s.core.arr.pushes, p.ctx = s.foc.ctx → p.id < s.core.mark → p.sp = true → p.n ≤ p.k)
      ∧ ∀ p ∈ s.core.arr.loads, ¬(p.ctx = s.foc.ctx ∧ p.id < s.core.mark))
  ∧ (∀ b, s.core.portTo ≤ s.core.clk → e = 64 → holdA (.drn f) b s = none)
  ∧ (∀ b, holdA (.drn f) b s = none → e.testBit 3 = true → ∀ k ∈ s.cores, ∀ j ∈ k.2.jobq, j.live = true →
      ¬(s.ctx.inst = some j.inst ∧ j.id < s.core.mark))
  ∧ ∀ y ∈ ((l1Invalidate s.foc.core s).coreAt s.foc.core).l1, y.dirty ≠ 0 ∧ y.valid = y.dirty

/-- FLADD, FLSET and FLWAIT (R296 to R299). -/
def Obligations.FlagOperations : Prop := ∀ (f : ASlot) (s : State),
  let t := (s.ctx.a.sReg f.xs.toNat).toNat
  let v := (s.ctx.a.sReg f.dr.toNat).toNat
  let n := f.off.toNat % 64
  let w := f.off.toNat / 64 % 4
  let now := flagOf n s
  let x : BitVec 32 := BitVec.ofNat 32 v
  let s' := checkedState (.flwait f) s
  let taken := if f.off.getLsbD 8 then
      wake (fun y => y = .flag s.foc.core s.lid n) (s'.modCore fun k => { k with
        regions := k.regions.map fun r => if r.launch = s.lid then { r with flags := r.flags.set n (now - x) } else r })
    else s'
  (Ready (.fladd f) s → t < 256 → v < 2 ^ 32 → heldFull s = false →
    exec (.fladd f) s = .next (submit (.access (atomAccess s.uid
        (.flag (if f.xs.toNat = 0 then s.foc.core else t) n true x) f.sc.toNat s)) { s with uid := s.uid + 1 }))
  ∧ (Ready (.flset f) s → v < 2 ^ 32 → heldFull s = false → ∀ cores, flsetTargets f s = some cores →
    exec (.flset f) s = .next (submit (.accesses (cores.zipIdx.map fun c =>
        atomAccess (s.uid + c.2) (.flag c.1 n false x) f.sc.toNat s)) { s with uid := s.uid + cores.length }))
  ∧ (Certain s → f.off.getLsbD 6 = false → flsetTargets f s = some (((List.range 64).filter fun i =>
      (s.ctx.a.sReg f.xs.toNat).getLsbD i).map fun i => 64 * (f.off.toNat / 128 % 4) + i))
  ∧ (Ready (.flwait f) s → v < 2 ^ 32 → s.ctx.a.queue.length < 16 →
    exec (.flwait f) s = .next (acquire f.sc.toNat (fillEntry s.foc.ctx (some s.uid) now.toNat none
      (taken.entered 1 (some (s.cyc + 6))))))
  ∧ (s.foc.pre = false → Certain s → v < 2 ^ 32 → actsAfter s = false →
    ¬(if w = 0 then x ≤ now else if w = 1 then now = x else now ≠ x) →
    verdict5 (.flwait f) s' = .go → verdict6 (.flwait f) s' = .go →
      exec (.flwait f) s = .next (blockOn (.flag s.foc.core s.lid n) s'))
  ∧ (s.foc.pre = false → Certain s → v < 2 ^ 32 → actsAfter s = false →
    (if w = 0 then x ≤ now else if w = 1 then now = x else now ≠ x) →
    verdict5 (.flwait f) s' = .go → verdict6 (.flwait f) s' = .go → Accepted (.flwait f) s)

/-- BARV and BWAIT (R300 to R302): each completes; what an arrival makes of the object, the entry that holds it as it was, its
bank taken for the cycle (R90), and when a waiter blocks. An object in pond storage is unpredictable (R282). -/
def Obligations.Barriers : Prop := ∀ (f : ASlot) (s : State) (c a : Nat),
  let off := (offsetOf f 0 s).toNat
  let el : List AEl := [{ off := off, size := 16, align := 16 }]
  let o := (s.coreAt c).sp.read a 16
  let due (n : Nat) := (handleLat f.h.toNat).map (s.cyc + n + ·)
  let poison := if badSp s c a 16 then some (2, lineOf a) else none
  let v := (s.ctx.a.sReg f.dr.toNat).toNat
  let arrived := barArrive o v (4 * s.foc.core + s.foc.ctx)
  let wide := syncAccess (.barv f) (some (.sp c a)) 16 (amoScope f.sc) (amoScope f.sc) s
  let s' := checkedState (.bwait f) s
  let bank := takeBank false (c, lineOf a)
  (∀ i ∈ [Instr.barv f, .bwait f], Accepted i s → Startable i s → ∃ t, exec i s = .next t)
  ∧ (off % 16 = 0 → spPlace s s.foc.core s.lid f.h.toNat off 16 = some (c, a) → pondSpace s c a 16 = none →
    (Ready (.barv f) s → accessCheck s f.h.toNat .amo off el = none → v < 2 ^ 16 → s.ctx.a.queue.length < 16 →
      let t := beforePerform wide (bank (checkedState (.barv f) s))
      exec (.barv f) s = .next (acquire f.sc.toNat (fillEntry s.foc.ctx (some s.uid)
        (o % 2 ^ 64 + if arrived.2 then 2 ^ 64 else 0) poison
        ((spWrite c a 16 arrived.1 (keepOld s.foc.ctx s.foc.ord t)).entered 1 (due 2)))))
    ∧ (Ready (.bwait f) s → accessCheck s f.h.toNat .rd off el = none → v < 16 → s.ctx.a.queue.length < 16 →
      exec (.bwait f) s = .next (acquire f.sc.toNat (fillEntry s.foc.ctx (some s.uid)
        (o % 2 ^ 64 + if !barMalformed o && decide (((o / 2 ^ 32 % 16) + 16 - v) % 16 ≤ 7) then 2 ^ 64 else 0) poison
        ((bank s').entered 1 (due 2)))))
    ∧ (s.foc.pre = false → Certain s → verdict5 (.bwait f) s' = .go → verdict6 (.bwait f) s' = .go →
        eligible s.core (syncAccess (.bwait f) (some (.sp c a)) 16 (some f.sc.toNat) none s) = true → feHeld f (c, a) s = false →
        barMalformed o = false → v < 16 → o / 2 ^ 32 % 16 = v → exec (.bwait f) s = .next (blockOn (.word c a) s'))
    ∧ (∀ k issuer, let r := (barArrive o k issuer).1; let cnt := o / 2 ^ 16 % 2 ^ 16; let exp := o % 2 ^ 16
        (barMalformed o = true → barArrive o k issuer = (o, false))
        ∧ (barMalformed o = false → cnt + k < exp →
          barArrive o k issuer = (o - cnt * 2 ^ 16 + (cnt + k) * 2 ^ 16, false))
        ∧ (barMalformed o = false → exp ≤ cnt + k → (barArrive o k issuer).2 = true ∧ r % 2 ^ 16 = exp ∧ r / 2 ^ 16 % 2 ^ 16 = 0
          ∧ r / 2 ^ 32 % 16 = (o / 2 ^ 32 + 1) % 16 ∧ r / 2 ^ 64 % 2 ^ 32 = (o / 2 ^ 64 + 1) % 2 ^ 32
          ∧ (issuer < 1024 → r / 2 ^ 96 = issuer)
          ∧ r / 2 ^ 36 % 2 = (if exp < cnt + k then 1 else o / 2 ^ 36 % 2)
          ∧ r / 2 ^ 48 % 2 ^ 16 = (if exp < cnt + k then min 0xFFFF (o / 2 ^ 48 % 2 ^ 16 + cnt + k - exp)
            else o / 2 ^ 48 % 2 ^ 16))))

/-! ### Compressed tiles (R242 to R247) -/

/-- HST and HLD: the tile stored and the registers loaded, the access port taken for S cycles, and what a dense load makes of
a tile's rows (R243 to R247). -/
def Obligations.Tiles : Prop := ∀ (f : ASlot) (s : State),
  let th := s.ctx.a.th.get (f.off.toNat / 2 ^ 23 % 8) 0
  let size := 2 ^ thL th
  let srcs := (List.range size).map fun j => s.ctx.a.vReg (f.dr.toNat + j)
  let tile := buildTile th srcs
  let off := (tileOff f th s).toNat
  let el : List AEl := [{ off := off, size := tileMax th, align := 16 }]
  let written : List AEl := [{ off := off, size := tile.1, align := 1 }]
  let x := storeAccess f [elemAt s f.h.toNat tile.1 off 0 tile.2] s
  let port (t : State) : State := t.modCore fun k => { k with portTo := k.clk + size }
  let rb := rowBytes (thFmt th.toNat)
  (Ready (.hst f) s → tileRegs f s = none →
    hstClash th (srcs.zipIdx.map fun r => (f.dr.toNat + r.2, r.1.tag)) = none →
    accessCheck s f.h.toNat .wr off el = none → shadowFault s f.h.toNat written = none →
    (f.h.toNat = 0 → journalFull false (spLines x.els) s = none) → (f.h.toNat ≠ 0 → heldFull s = false) →
      exec (.hst f) s = .next (port (storing ((tile.1 + 127) / 128) f.h.toNat written x s)))
  ∧ (∀ a, Ready (.hld f) s → f.h = 0 → f.off.toNat / 2 ^ 21 % 4 ≠ 3 → tileRegs f s = none → spPlace s s.foc.core s.lid 0 off 16 = some (s.foc.core, a) →
      let hdr := s.core.sp.read a 16
      let len := 16 + tileRows hdr * rb
      let rows : List Row := (List.range (tileRows hdr)).map fun k => (List.range 128).map fun j =>
        s.core.sp.read (a + 16 + k * rb + j * fmtSize (thFmt th.toNat)) (fmtSize (thFmt th.toNat))
      accessCheck s 0 .rd off [{ off := off, size := 16, align := 16 }] = none → tileOk hdr = true →
      thMatches th (tileTag hdr) = true → accessCheck s 0 .rd off [{ off := off, size := len, align := 16 }] = none →
      badSp s s.foc.core a len = false →
        exec (.hld f) s = .next (port ((readTile (f.off.toNat / 2 ^ 21 % 4) hdr rows).zipIdx.foldl (fun s r =>
          s.lands ⟨.v, f.dr.toNat + r.2⟩ (8 + r.2)
            (.vec (BitVec.allOnes 4096) (BitVec.ofNat 4096 (packElems 32 r.1.1)) (some r.1.2))) s)))
  ∧ (∀ hdr rows p, p < 2 ^ tagL (tileTag hdr) → p < 64 →
      (readTile 1 hdr rows)[p]? = some (if (hdr / 2 ^ 32).testBit p then
        rows.getD ((List.range p).countP fun q => (hdr / 2 ^ 32).testBit q) (List.replicate 128 0)
        else List.replicate 128 0, tileTag hdr))
  ∧ (let pres := tile.2 / 2 ^ 32 % 2 ^ 64
     let nrow := (List.range 64).countP fun p => pres.testBit p
     thBad th = false → tile.1 = 16 + nrow * rb ∧ tile.2 / 2 ^ 96 % 2 ^ 32 = nrow ∧ tileOk (tile.2 % 2 ^ 128) = true)

/-! ### Vector operations (R214 to R233, R248 to R252) -/

/-- The floating-point lane operations: the exact value rounded into FD, with the tag of the operation's class (R218, R219,
R222, R223). -/
def Obligations.VectorFloat : Prop := ∀ f : VSlot,
  let rm := f.rm.toNat
  let fd := f.fd.toNat
  let rnd := vRnd f
  let ab (s : State) := [domA f s, domB f s]
  let abc (s : State) := [domA f s, domB f s, domC f s]
  let one (s : State) : Prop := ¬(tagHaar (domA f s) = true ∧ tagHaar (domB f s) = true)
  let lin (l : State → List (BitVec 32)) (s : State) := some (domainOf (l s) fd)
  let plain (_ : State) := some (plainTag fd)
  Lanes (.vfadd f) f 4 (fun s => Agree (ab s)) (lin ab) (fun s n => rnd (fadd rm (valA f s n) (valB f s n)))
    ∧ Lanes (.vfsub f) f 4 (fun s => Agree (ab s)) (lin ab) (fun s n => rnd (fadd rm (valA f s n) (valB f s n).neg))
    ∧ Lanes (.vfmul f) f 4 one (lin ab) (fun s n => rnd (fmul (valA f s n) (valB f s n)))
    ∧ Lanes (.vfma f) f 4 (fun s => one s ∧ Agree (abc s)) (lin abc)
      (fun s n => rnd (fadd rm (fmul (valA f s n) (valB f s n)) (valC f s n)))
    ∧ Lanes (.vfms f) f 4 (fun s => one s ∧ Agree (abc s)) (lin abc)
      (fun s n => rnd (fadd rm (fmul (valA f s n) (valB f s n)) (valC f s n).neg))
    ∧ Lanes (.vfnma f) f 4 (fun s => one s ∧ Agree (abc s)) (lin abc)
      (fun s n => rnd (fadd rm (fmul (valA f s n) (valB f s n)).neg (valC f s n)))
    ∧ Lanes (.vfabs f) f 4 (fun s => AllPlain [domA f s]) plain (fun s n => rnd (valA f s n).abs)
    ∧ Lanes (.vfneg f) f 4 (fun _ => True) (lin fun s => [domA f s]) (fun s n => rnd (valA f s n).neg)
    ∧ Lanes (.vfspec f) f 12 (fun s => AllPlain [domA f s]) plain
      (fun s n => rnd (specV (f.aux.toNat % 8) (valA f s n)))
    ∧ Lanes (.vfclass f) f 4 (fun s => AllPlain [domA f s]) (fun _ => some (plainTag 5)) (fun s n => BitVec.ofNat 32 (2 ^
      (match valA f s n with
        | .nan => 8
        | .inf neg => if neg then 0 else 7
        | .num neg m _ _ => if m = 0 then (if neg then 3 else 4) else if m < 2 ^ fmtM f.fa.toNat then (if neg then 2 else 5)
          else (if neg then 1 else 6))))

/-- VFMIN and VFMAX: −0 below +0, a NaN gives way to the other source, and two NaNs give the canonical NaN (R220). -/
def Obligations.VectorMinMax : Prop := ∀ (f : VSlot) (least : Bool), ∀ s,
  let i : Instr := if least then .vfmin f else .vfmax f
  Ready i s → AllPlain [domA f s, domB f s] → ∃ g t, exec i s = .next t ∧ LanesLand f 4 (some (plainTag f.fd.toNat)) g s t
    ∧ ∀ n, let a := valA f s n; let b := valB f s n
      (a = .nan → b = .nan → g n = laneOf f.fd.toNat false (canonNaN f.fd.toNat))
      ∧ (a = .nan → b ≠ .nan → g n = vRnd f b) ∧ (a ≠ .nan → b = .nan → g n = vRnd f a)
      ∧ (a.below b → g n = vRnd f (if least then a else b)) ∧ (b.below a → g n = vRnd f (if least then b else a))
      ∧ (g n = vRnd f a ∨ g n = vRnd f b)

/-- VFCMP and VICMP into a predicate, and the predicate operations (R221, R231). -/
def Obligations.VectorPredicates : Prop := ∀ f : VSlot,
  let cond := f.aux.toNat % 8
  let p (x : BitVec 6) (s : State) : Pred := s.ctx.a.pReg (x.toNat % 8)
  let u := f.aux.getLsbD 10
  Bits (.vfcmp f) f 4 (fun s => AllPlain [domA f s, domB f s]) (fun s n =>
      let a := valA f s n
      let b := valB f s n
      open Classical in decide (match cond with
        | 0 => a ≠ .nan ∧ b ≠ .nan ∧ ¬a.lt b ∧ ¬b.lt a
        | 1 => a = .nan ∨ b = .nan ∨ a.lt b ∨ b.lt a
        | 2 => a.lt b
        | 3 => a ≠ .nan ∧ b ≠ .nan ∧ ¬b.lt a
        | 4 => b.lt a
        | 5 => a ≠ .nan ∧ b ≠ .nan ∧ ¬a.lt b
        | 6 => a = .nan ∨ b = .nan
        | _ => False))
    ∧ (cond ≤ 5 → Bits (.vicmp f) f 4 (fun s => AllPlain [domA f s, domB f s]) (fun s n =>
      let a := intOf f u (vecA f s) n
      let b := intOf f u (vecB f s) n
      match cond with
        | 0 => decide (a = b) | 1 => decide (a ≠ b) | 2 => decide (a < b) | 3 => decide (a ≤ b) | 4 => decide (b < a)
        | _ => decide (b ≤ a)))
    ∧ (f.qa = 0#1 → Bits (.pset f) f 1 (fun _ => True) (fun s n =>
        decide (n < if f.aux.getLsbD 8 then min (s.ctx.a.sReg (f.va.toNat % 32)).toNat 128 else f.aux.toNat % 256))
      ∧ Bits (.pand f) f 1 (fun _ => True) (fun s n => (p f.va s).getLsbD n && (p f.vb s).getLsbD n)
      ∧ Bits (.por f) f 1 (fun _ => True) (fun s n => (p f.va s).getLsbD n || (p f.vb s).getLsbD n)
      ∧ Bits (.pxor f) f 1 (fun _ => True) (fun s n => (p f.va s).getLsbD n ^^ (p f.vb s).getLsbD n)
      ∧ Bits (.pnot f) f 1 (fun _ => True) (fun s n => !(p f.va s).getLsbD n))
    ∧ (∀ s, Ready (.pcnt f) s → exec (.pcnt f) s = .next (s.landsS (f.vd.toNat % 32) 4 (BitVec.ofNat 64
      ((List.range 128).countP fun n => (p f.va s).getLsbD n && isActive f s n))))
    ∧ (∀ s, Ready (.pfirst f) s → ∃ x : Nat, exec (.pfirst f) s = .next (s.landsS (f.vd.toNat % 32) 4 (BitVec.ofNat 64 x))
      ∧ x ≤ 128 ∧ (∀ n < x, (p f.va s).getLsbD n = false) ∧ (x < 128 → (p f.va s).getLsbD x = true))

/-- The integer lane operations at the width of FA, wrapped or clamped (R224). -/
def Obligations.VectorInteger : Prop := ∀ f : VSlot, 5 ≤ f.fa.toNat →
  let fa := f.fa.toNat
  let w := fmtBits fa
  let u := f.aux.getLsbD 10
  let res (x : Int) := widen fa u (settle fa u (f.aux.getLsbD 11) x)
  let a (s : State) (n : Nat) : Int := intOf f u (vecA f s) n
  let b (s : State) (n : Nat) : Int := intOf f u (vecB f s) n
  let x (s : State) (n : Nat) : BitVec w := (lane (vecA f s) n).truncate w
  let y (s : State) (n : Nat) : BitVec w := (lane (vecB f s) n).truncate w
  let two (s : State) : Prop := AllPlain [domA f s, domB f s]
  let tag (_ : State) := some (plainTag f.fd.toNat)
  Lanes (.viadd f) f 4 two tag (fun s n => res (a s n + b s n))
    ∧ Lanes (.visub f) f 4 two tag (fun s n => res (a s n - b s n))
    ∧ Lanes (.vimul f) f 4 two tag (fun s n => res (a s n * b s n))
    ∧ Lanes (.vimad f) f 4 (fun s => two s ∧ AllPlain [domC f s]) tag
      (fun s n => res (a s n * b s n + intOf f u (vecC f s) n))
    ∧ Lanes (.viand f) f 4 two tag (fun s n => (x s n &&& y s n).signExtend 32)
    ∧ Lanes (.vior f) f 4 two tag (fun s n => (x s n ||| y s n).signExtend 32)
    ∧ Lanes (.vixor f) f 4 two tag (fun s n => (x s n ^^^ y s n).signExtend 32)
    ∧ Lanes (.vishl f) f 4 two tag (fun s n => (x s n <<< ((y s n).toNat % w)).signExtend 32)
    ∧ Lanes (.vishr f) f 4 two tag (fun s n => widen fa u ((x s n >>> ((y s n).toNat % w)).toNat : Nat))
    ∧ Lanes (.visar f) f 4 two tag (fun s n => ((x s n).sshiftRight ((y s n).toNat % w)).signExtend 32)
    ∧ Lanes (.vimin f) f 4 two tag (fun s n => widen fa u (min (a s n) (b s n)))
    ∧ Lanes (.vimax f) f 4 two tag (fun s n => widen fa u (max (a s n) (b s n)))

/-- Conversions, packing and block scales (R225 to R227). -/
def Obligations.VectorConvert : Prop := ∀ f : VSlot,
  let fa := f.fa.toNat
  let fd := f.fd.toNat
  let w := fmtBits fd
  let part := f.aux.toNat % 4
  let cvt (x : Nat) : Nat := convertF fa fd f.rm.toNat (f.aux.getLsbD 11) x
  let linear := (isFloat fa && isFloat fd) || decide (fa = fd)
  let may (s : State) : Prop := linear = true ∨ AllPlain [domA f s]
  let tag (s : State) : BitVec 32 := if linear then domainOf [domA f s] fd else plainTag fd
  let scale (s : State) : FVal :=
    let x := (lane (vecB f s) (f.aux.toNat % 128)).toNat
    if f.aux.getLsbD 7 then (if x % 256 = 255 then .nan else .num false 1 (((x % 256 : Nat) : Int) - 127) false) else decodeF 0 x
  Lanes (.vcvt f) f 4 may (fun s => some (tag s)) (fun s n => laneOf fd false (cvt (lane (vecA f s) n).toNat))
    ∧ Lanes (.vunpk f) f 4 may (fun s => some (tag s)) (fun s n => laneOf fd false
      (cvt ((vecA f s).toNat / 2 ^ (fmtBits fa * (128 * part + n)) % 2 ^ fmtBits fa)))
    ∧ (∀ s, Ready (.vpack f) s → may s → (part + 1) * w ≤ 32 → ∃ mask data,
      exec (.vpack f) s = .next ((s.popped f).lands ⟨.v, vField f f.vd s.foc.k⟩ 4 (.vec mask data (some (tag s))))
      ∧ ∀ (r : VReg) (k : Nat), k < 4096 / w →
        (r.land (.vec mask data (some (tag s)))).bits.toNat / 2 ^ (w * k) % 2 ^ w =
          let n := k - 128 * part
          if 128 * part ≤ k ∧ n < 128 ∧ isActive f s n = true then cvt (lane (vecA f s) n).toNat % 2 ^ w
          else if 128 * part ≤ k ∧ n < 128 ∧ f.z = 1#1 then 0 else r.bits.toNat / 2 ^ (w * k) % 2 ^ w)
    ∧ Lanes (.vscal f) f 4 (fun s => Agree [domA f s, domB f s]) (fun s => some (domainOf [domA f s, domB f s] fd))
      (fun s n => vRnd f (fmul (valA f s n) (scale s)))
    ∧ Lanes (.vscacc f) f 4 (fun s => Agree [domA f s, domB f s, domC f s])
      (fun s => some (domainOf [domA f s, domB f s, domC f s] fd))
      (fun s n => vRnd f (fadd f.rm.toNat (fmul (valA f s n) (scale s)) (decodeF fd (lane (vecC f s) n).toNat)))

/-- Moves, broadcasts, permutations and constants (R228, R229). -/
def Obligations.VectorMoves : Prop := ∀ f : VSlot,
  let k := f.aux.toNat % 128
  let tagA (s : State) := some (domainOf [domA f s] (tagFmt (domA f s)))
  let x (s : State) : BitVec 32 := (s.ctx.a.sReg (f.va.toNat % 32)).truncate 32
  Lanes (.vmov f) f 4 (fun _ => True) tagA (fun s n => lane (vecA f s) n)
    ∧ Lanes (.vsel f) f 4 (fun s => Agree [domA f s, domB f s])
      (fun s => some (domainOf [domA f s, domB f s] (tagFmt (domA f s))))
      (fun s n => if (s.ctx.a.pReg (f.vc.toNat % 8)).getLsbD n then lane (vecA f s) n else lane (vecB f s) n)
    ∧ Lanes (.vperm f) f 4 (fun _ => True) tagA (fun s n => lane (vecA f s) ((lane (vecB f s) n).toNat % 128))
    ∧ Lanes (.vrot f) f 4 (fun _ => True) tagA (fun s n => lane (vecA f s) ((n + k) % 128))
    ∧ (f.aux.getLsbD 7 = false → Lanes (.vbcast f) f 4 (fun _ => True) tagA (fun s _ => lane (vecA f s) k))
    ∧ (f.aux.getLsbD 7 = true → f.qa = 0#1 →
      Lanes (.vbcast f) f 4 (fun _ => True) (fun _ => some (plainTag f.fd.toNat)) (fun s _ => x s))
    ∧ (f.qa = 0#1 → Lanes (.viota f) f 4 (fun _ => True) (fun _ => some (plainTag 5)) (fun _ n =>
      BitVec.ofNat 32 (f.aux.toNat + n)))
    ∧ (f.qa = 0#1 → Lanes (.vli f) f 4 (fun _ => True) (fun _ => some (plainTag f.fd.toNat)) (fun _ _ =>
      if f.fd.toNat < 5 then laneOf f.fd.toNat false (roundFmt (ofInt f.aux.toInt) f.fd.toNat 0 false)
      else widen f.fd.toNat false f.aux.toInt))
    ∧ (∀ s, Ready (.vins f) s → ∃ mask data,
      exec (.vins f) s = .next (s.lands ⟨.v, vField f f.vd s.foc.k⟩ 4 (.vec mask data none))
      ∧ ∀ (r : VReg), (r.land (.vec mask data none)).tag = r.tag ∧ ∀ n < 128, lane (r.land (.vec mask data none)).bits n =
          if n ≠ k then lane r.bits n else if isActive f s k then x s else if f.z = 1#1 then 0 else lane r.bits n)
    ∧ (∀ s, Ready (.vext f) s → f.aux.toNat / 2 ^ 10 = 0 → exec (.vext f) s =
      .next ((s.popped f).landsS (f.vd.toNat % 32) 4 ((lane (vecA f s) k).signExtend 64)))
    ∧ (∀ s, Ready (.vext f) s → f.aux.toNat / 2 ^ 10 = 1 → k < 16 → ∃ r : BitVec 256, exec (.vext f) s =
      .next ((s.popped f).lands ⟨.sh, f.vd.toNat % 8⟩ 4 (.shape r)) ∧ ∀ q < 8, r.extractLsb' (32 * q) 32 = lane (vecA f s) (8 * k + q))
    ∧ (∀ s, Ready (.vext f) s → f.aux.toNat / 2 ^ 10 = 2 → k < 32 → ∃ r : BitVec 128, exec (.vext f) s =
      .next ((s.popped f).lands ⟨.th, f.vd.toNat % 8⟩ 4 (.thr r)) ∧ ∀ q < 4, r.extractLsb' (32 * q) 32 = lane (vecA f s) (4 * k + q))

/-- Reductions in the fixed order of R230, into every lane. -/
def Obligations.VectorReductions : Prop := ∀ f : VSlot,
  let u := f.aux.getLsbD 10
  let int := f.aux.getLsbD 8
  let fleaf (s : State) (n : Nat) : Option Nat := if isActive f s n then some (roundFmt (valA f s n) 0 0 false) else none
  let ileaf (s : State) (n : Nat) : Option Int := if isActive f s n then some (intOf f u (vecA f s) n) else none
  let float (comb : FVal → FVal → FVal) (empty : FVal) (s : State) : BitVec 32 := vRnd f
    (match treeNode (fun x y => roundFmt (comb (decodeF 0 x) (decodeF 0 y)) 0 0 false) (fleaf s) 7 0 with
      | some x => decodeF 0 x | none => empty)
  let whole (comb : Int → Int → Int) (empty : Int) (s : State) : BitVec 32 :=
    BitVec.ofInt 32 ((treeNode comb (ileaf s) 7 0).getD empty)
  let all (i : Instr) (linear : Bool) (x : State → BitVec 32) : Prop := ∀ s, Ready i s →
    (linear = true ∨ AllPlain [domA f s]) → exec i s = .next ((s.popped f).lands ⟨.v, vField f f.vd s.foc.k⟩ 8
      (.vec (BitVec.allOnes 4096) (mkVec fun _ => x s)
        (some (if linear then domainOf [domA f s] f.fd.toNat else plainTag f.fd.toNat))))
  (∀ v : BitVec 32, ∀ n < 128, lane (mkVec fun _ => v) n = v)
    ∧ (int = false → all (.vrsum f) true (float (fadd 0) (.num false 0 0 false)))
    ∧ (int = true → all (.vrsum f) false (whole (fun a b => a + b) 0))
    ∧ (int = false → all (.vrmax f) false (float fmaxV .nan) ∧ all (.vrmin f) false (float fminV .nan))
    ∧ (int = true → all (.vrmax f) false (whole max (if u then 0 else -2 ^ 31))
      ∧ all (.vrmin f) false (whole min (if u then 2 ^ 32 - 1 else 2 ^ 31 - 1)))

/-- The Haar operations of the V slot, with their tags (R236, R241, R249 to R252). -/
def Obligations.HaarOperations : Prop := ∀ f : VSlot,
  let fa := f.fa.toNat
  let tl := f.aux.toNat / 2 % 8
  let lay := f.aux.toNat / 16 % 2
  let exact (s : State) := tagExact (domA f s) && tagExact (domB f s)
  let sum (s : State) (n : Nat) : FVal :=
    fadd f.rm.toNat (valA f s n) (if f.aux.getLsbD 0 then (valB f s n).neg else valB f s n)
  let fits (t : BitVec 32) : Prop := tagHaar t = true → tagL t = tl ∧ tagLay t = lay
  let k := f.vb.toNat % 8
  let th (s : State) : BitVec 128 := s.ctx.a.th.get k 0
  let lvl := f.aux.toNat % 8
  let gone (s : State) (n : Nat) : Prop := (valA f s n).abs.lt (decodeF 1 ((th s).toNat / 2 ^ (16 * (lvl - 1)) % 2 ^ 16))
  let zero (v : FVal) : Prop := ∃ neg e more, v = .num neg 0 e more
  Lanes (.hfwd f) f 4 (fun s => tl ≠ 0 ∧ tl ≠ 7 ∧ fits (domA f s) ∧ fits (domB f s))
      (fun s => some (mkTag true tl lay f.fd.toNat (exact s))) (fun s n => vRnd f (sum s n).half)
    ∧ Lanes (.hinv f) f 4 (fun s => tl ≠ 7 ∧ Agree [domA f s, domB f s])
      (fun s => some (if tl = 0 then mkTag false 0 0 f.fd.toNat (exact s) else mkTag true tl lay f.fd.toNat (exact s)))
      (fun s n => vRnd f (sum s n))
    ∧ (open Classical in Lanes (.hthr f) f 4 (fun s => thBad (th s) = false)
      (fun s => some (clearExact (domA f s) (decide (∃ n < 128, isActive f s n = true ∧ gone s n ∧ ¬zero (valA f s n)))))
      (fun s n => if valA f s n = .nan then BitVec.ofNat 32 (canonNaN fa) else if gone s n then 0
        else BitVec.ofNat 32 ((lane (vecA f s) n).toNat % 2 ^ fmtBits fa)))
    ∧ (open Classical in ∀ s, Ready (.hcmp f) s → fa < 5 → exec (.hcmp f) s = .next ((s.popped f).landsS (f.vd.toNat % 32) 4
      (if ∃ n < 128, isActive f s n = true ∧ ¬zero (valA f s n) then 1#64 <<< (f.aux.toNat % 64) else 0)))
    ∧ (∀ s, Ready (.htagSet f) s → exec (.htagSet f) s = .next (s.lands ⟨.v, vField f f.vd s.foc.k⟩ 1
      (.vec 0 0 (some ((f.aux.truncate 9).zeroExtend 32)))))
    ∧ (∀ s, Ready (.htagRead f) s → exec (.htagRead f) s = .next (s.landsS (f.vd.toNat % 32) 1
      ((s.ctx.a.vReg (vField f f.va s.foc.k)).tag.zeroExtend 64)))
    ∧ (∀ (r : VReg) (t : BitVec 32), r.land (.vec 0 0 (some t)) = { r with tag := t })

/-- Domain faults and the result tag of the linear class (R218, R237): a linear operation whose two HAAR sources differ in L
or layout, and a non-linear one with a HAAR source, fault in the start cycle and pop nothing. -/
def Obligations.DomainFaults : Prop := ∀ (f : VSlot) (s : State), f.qa = 0#1 →
  let a := vField f f.va s.foc.k
  let b := vField f f.vb s.foc.k
  let fault (i : Instr) (r : Nat) : Prop := exec i s = .next (startFault i 7 (opInfo i 1 r 0 s) s)
  (∀ i ∈ [Instr.vfadd f, .vfsub f, .vsel f, .vscal f], Ready i s → tagHaar (domA f s) = true → tagHaar (domB f s) = true →
    ¬Agree [domA f s, domB f s] → fault i b)
  ∧ (∀ i ∈ [Instr.vfmin f, .vfmax f, .vfcmp f, .vicmp f, .viadd f, .visub f, .vimul f, .viand f, .vior f, .vixor f, .vishl f,
      .vishr f, .visar f, .vimin f, .vimax f], Ready i s →
    (tagHaar (domA f s) = true → fault i a)
    ∧ (tagHaar (domA f s) = false → tagHaar (domB f s) = true → fault i b))
  ∧ (∀ i ∈ [Instr.vfabs f, .vfspec f, .vfclass f, .vrmax f, .vrmin f], Ready i s → tagHaar (domA f s) = true → fault i a)
  ∧ (∀ i ∈ [Instr.vfmul f, .vfma f, .vfms f, .vfnma f], Ready i s → tagHaar (domA f s) = true → tagHaar (domB f s) = true →
    fault i a)
  ∧ (∀ l fd, AllPlain l → domainOf l fd = plainTag fd)
  ∧ (∀ l fd, ∀ t ∈ l, fd < 8 → tagHaar t = true → Agree l → let r := domainOf l fd
    tagHaar r = true ∧ tagL r = tagL t ∧ tagLay r = tagLay t ∧ tagFmt r = fd
      ∧ (tagExact r = true ↔ ∀ x ∈ l, tagHaar x = true → tagExact x = true))

/-! ### The function array and the transposer (R184 to R209, R235) -/

/-- The streaming operations start: FMX and FMXD from registers, queue or scratchpad, FMX of a compressed tile, FMXC into the
other buffer's gradients, each with its results on their way (R194 to R202). -/
def Obligations.ArrayPushes : Prop := ∀ (f : MSlot) (s : State), s.core.arr.portTo ≤ s.cyc →
  let a := s.core.arr
  let inp := f.inf.toNat
  let af := f.af.toNat
  let d := (a.buf f.b).desc
  let n := mCount f
  let c := rowCycles d inp af
  let ready (cf : Nat) : Prop := d = .coef f.mode.toNat cf f.spn.toNat ∧ (f.mode.toNat ≠ 0 → a.unmapped f.b = false)
  let fits (l : List VReg) : Prop :=
    if f.mode.toNat = 0 then ∀ x ∈ l, ∀ y ∈ l, x.tag = y.tag else ∀ x ∈ l, tagHaar x.tag = false
  let taken (r : Nat) : Nat := if f.q = 1#1 then r else 0
  let tile (p : Push) (t : SpTile) : Push := { p with sp := true, base := t.base, pitch := t.pitch, rot := t.rot }
  let held (p : Push) (l : List VReg) (brow : Nat) : Push := { p with rows := rowsFrom (l.map fun x => x.bits.toNat) brow n }
  (∀ cf len, Ready (.fmx f) s → ready cf → inputLen d inp = some len →
    let i : Instr := .fmx f
    let brow := len * fmtSize inp
    let src := pushSources f (rowRegs brow n) s
    (f.src = 1#1 → ∀ t, spTile i f (fmtSize inp) (fmtSize inp) 0 n (fun _ => brow) s = .ok t →
      Enters i f 0 (tile (startedPush i f c s) t) (pushLandings i f c 128 (f.aux.getLsbD 0) (plainTag af) s) s)
    ∧ (f.src = 0#1 → fits src → Enters i f (taken (rowRegs brow n)) (held (startedPush i f c s) src brow)
      (pushLandings i f c 128 (f.aux.getLsbD 0) (pushDomain f src) s) s))
  ∧ (∀ cf h t, Ready (.fmxHaar f) s → ready cf → inputLen d inp = some 128 →
    let i : Instr := .fmxHaar f
    let hdr := mxrRead s s.foc.ctx (s.foc.ord / 8) h.base 16
    spTile i f (fmtSize inp) (fmtSize inp) 0 1 (fun _ => 16) s = .ok h → badSp s s.foc.core h.base 16 = false → tileOk hdr = true →
    tileRows hdr = n → h.pitch = rowBytes inp → tagFmt (tileTag hdr) = inp →
    spTile i f (fmtSize inp) (fmtSize inp) 16 n (fun _ => rowBytes inp) s = .ok t →
      Enters i f 0 (tile (startedPush i f c s) t)
        (pushLandings i f c 128 (f.aux.getLsbD 0) (setFmt (tileTag hdr) af) s) s)
  ∧ (∀ cf, Ready (.fmxd f) s → ready cf →
    let i : Instr := .fmxd f
    let brow := 128 * fmtSize inp
    let src := pushSources f (rowRegs brow n) s
    let x := f.aux.toNat % 8
    (f.mode.toNat = 0 → f.src = 1#1 → ∀ t, spTile i f (fmtSize inp) (fmtSize inp) 0 n (fun _ => brow) s = .ok t →
      Enters i f 0 (tile (startedPush i f c s) t) (pushLandings i f c (backLen d) false (plainTag af) s) s)
    ∧ (f.mode.toNat = 0 → f.src = 0#1 → ∃ tag, (fits src → tag = gradDomain f src)
      ∧ Enters i f (taken (rowRegs brow n)) (held (startedPush i f c s) src brow) (pushLandings i f c (backLen d) false tag s) s)
    ∧ (f.mode.toNat ≠ 0 → fits src → ∀ t, spTile i f (fmtSize x) (fmtSize x) 0 n (fun _ => 128 * fmtSize x) s = .ok t →
      Enters i f (taken (rowRegs brow n)) (tile (held (startedPush i f c s) src brow) t)
        (pushLandings i f c (backLen d) false (plainTag af) s) s))
  ∧ (∀ m cf sp qs len, Ready (.fmxc f) s → d = .coef m cf sp → (a.buf (~~~f.b)).desc = .grad qs →
    (2 ≤ qs → isFP8 cf = true) → (m ≠ 0 → a.unmapped f.b = false) → inputLen d inp = some len →
    let i : Instr := .fmxc f
    let brow := len * fmtSize inp
    let gr := rowRegs (128 * fmtSize af) n
    let g := (List.range gr).map fun j => s.ctx.a.mReg (f.md.toNat + s.foc.k * gr + j)
    let src := pushSources f (rowRegs brow n) s
    let with' (p : Push) : Push := { p with gs := rowsFrom (g.map fun x => x.bits.toNat) (128 * fmtSize af) n }
    (∀ x ∈ g, tagHaar x.tag = false) →
    (f.src = 1#1 → ∀ t, spTile i f (fmtSize inp) (fmtSize inp) 0 n (fun _ => brow) s = .ok t →
      Enters i f 0 (tile (with' (startedPush i f c s)) t) [] s)
    ∧ (f.src = 0#1 → (∀ x ∈ src, tagHaar x.tag = false) →
      Enters i f (taken (rowRegs brow n)) (held (with' (startedPush i f c s)) src brow) [] s))

/-- FGRID, FSEL, FCLR, FLOAD and FKNOT: what they make of the array state, and when (R184, R187, R190, R191, R204, R207); an FKNOT
that reads an uncorrectable error changes none of it (R211). -/
def Obligations.ArrayChanges : Prop := ∀ (f : MSlot) (s : State),
  let a := s.core.arr
  let sa := s.ctx.a.sReg f.sa.toNat
  let sb := s.ctx.a.sReg f.sb.toNat
  let n := mCount f
  let first := 64 * (f.aux.toNat % 2) + f.vs.toNat
  let ks := (List.range n).map fun r => floadK f a (first + r)
  let es := fmtSize f.inf.toNat
  (∀ c p g, Ready (.fgrid f) s → sb.toNat < 2 ^ 34 → sa.toNat % 4 = 0 →
    spPlace s s.foc.core s.lid 0 (sa.toNat % 2 ^ 32) 136 = some (c, p) → badSp s c p 136 = false → pondSpace s c p 136 = none →
    let x := mxrRead s s.foc.ctx (s.foc.ord / 8) p 136
    parseGrid x = some g → exec (.fgrid f) s = .next (s.changes 20 [8 + x % 16] (.grid (x % 16) g)))
  ∧ (∀ x g, parseGrid x = some g → 2 ≤ g.knots.length ∧ g.knots.length ≤ 17 ∧ g.widths.length = g.knots.length - 1
      ∧ g.rule < 3 ∧ (∀ j, j + 1 < g.knots.length → (g.knot j).lt (g.knot (j + 1)))
      ∧ ∀ j < g.widths.length, 0 < (g.width j).real)
  ∧ (Ready (.fsel f) s →
    let v := if f.q = 1#1 then (match s.ctx.a.queue with | e :: _ => e.data | [] => 0) else (s.ctx.a.vReg f.vs.toNat).bits
    (∀ j < 128, (lane v j).toNat ≤ 15) → exec (.fsel f) s = .next ((if f.q = 1#1 then s.pops 1 else s).changes 2
      [2 + f.b.toNat] (.rowMap f.b ((List.range 128).map fun j => (j, (lane v j).toNat)))))
  ∧ (Ready (.fclrBuffer f) s → exec (.fclrBuffer f) s =
    .next ((checkedState (.fclrBuffer f) s).changes 8 [f.b.toNat, 2 + f.b.toNat] (.buffer f.b .empty false)))
  ∧ (Ready (.fclrCounters f) s → exec (.fclrCounters f) s =
    .next ((checkedState (.fclrCounters f) s).changes 8 [4] .counters))
  ∧ (Ready (.fclrGrid f) s → exec (.fclrGrid f) s =
    .next ((checkedState (.fclrGrid f) s).changes 8 ((List.range 16).map (8 + ·)) .grids))
  ∧ (Ready (.fclrGrad f) s → exec (.fclrGrad f) s =
    .next ((checkedState (.fclrGrad f) s).changes 8 [f.b.toNat] (.buffer f.b (.grad (f.aux.toNat - 4)) true)))
  ∧ (∀ t, Ready (.fload f) s → (∀ qs, (a.buf f.b).desc ≠ .grad qs) →
    (f.mode.toNat ≠ 0 → ∀ r < n, (a.slotOf f.b (first + r)).isSome = true) → floadBooks f ks (sa.toNat / 2 ^ 32) = true →
    spTile (.fload f) f (if f.cbf.toNat = 0 then es else 4) es 0 n (fun r => floadRowBytes f (ks.getD r 0)) s = .ok t →
    (f.cbf.toNat ≠ 0 → (spPlace s s.foc.core s.lid 0
      (BitVec.ofInt 64 (((sa.toNat % 2 ^ 32 : Nat) : Int) + s.foc.k * (sb.truncate 32).toInt)
        + BitVec.ofNat 64 (n * (sa.toNat / 2 ^ 32))).toNat (2 * 2 ^ cbBits f * ks.sum)).isSome = true) →
      let l : FLoad := { id := s.uid, op := .fload f, ctx := s.foc.ctx, ord := s.foc.ord, idx := s.foc.idx, inst := s.ctx.inst
                         base := t.base, pitch := t.pitch, rot := t.rot, ks := ks }
      let s' := ({ s with uid := s.uid + 1 } : State).modCore fun k => { k with arr := { k.arr with loads := k.arr.loads ++ [l] } }
      exec (.fload f) s = .next (if a.loads = [] ∧ a.wpFree ≤ s.cyc then beginLoad l s' else s'))
  ∧ (Ready (.fknot f) s → sa.toNat < 2 ^ 36 → s.ctx.a.queue.length < 16 →
    let slot := sa.toNat / 2 ^ 32
    let u := checkedState (.fknot f) s
    let rows := (List.range 128).filter fun r => (a.buf f.b).rowMap.get r 0 = slot
    (∀ e, knotCheck f slot (sa.truncate 32) a = .error e → ∃ t, exec (.fknot f) s = .next t
      ∧ t.ctx.a.queue = fillIn s.uid (BitVec.ofNat 4096 e) none (s.ctx.a.queue ++ [{ id := s.uid, due := some (s.cyc + 32) }])
      ∧ t.core.arr = { a with uses := t.core.arr.uses } ∧ t.dev = u.dev)
    ∧ (∀ x, knotCheck f slot (sa.truncate 32) a = .ok x → a.badFor (.fknot f) rows = true → ∃ y t, exec (.fknot f) s = .next t
      ∧ t.ctx.a.queue = fillIn s.uid y none (s.ctx.a.queue ++ [{ id := s.uid, due := some (s.cyc + 32 + 4 * rows.length) }])
      ∧ t.core.arr = a
      ∧ ∃ e ∈ t.ctx.flight, e.due = s.cyc + 32 + 4 * rows.length ∧ e.val = .corrupt (arrayInfo (.fknot f) u))
    ∧ (∀ g iv wl wr, knotCheck f slot (sa.truncate 32) a = .ok (g, iv, wl, wr) → a.badFor (.fknot f) rows = false →
      ∃ t, exec (.fknot f) s = .next t
      ∧ t.ctx.a.queue = fillIn s.uid (BitVec.ofNat 4096 (2 ^ 64)) none
        (s.ctx.a.queue ++ [{ id := s.uid, due := some (s.cyc + 32 + 4 * rows.length) }])
      ∧ t.core.arr.grid.find? slot = some (g.insert iv (sa.truncate 32) wl wr)
      ∧ (∀ o, o ≠ slot → t.core.arr.grid.find? o = a.grid.find? o)
      ∧ (∀ r < 128, (t.core.arr.buf f.b).rows.get r 0 = if (a.buf f.b).rowMap.get r 0 = slot
        then splitRow (a.buf f.b).desc.cf (a.buf f.b).desc.mode g iv (decodeF 0 (sa.toNat % 2 ^ 32)) (decodeF 0 wr.toNat)
          ((a.buf f.b).row r) else (a.buf f.b).rows.get r 0)
      ∧ t.core.arr.buf (~~~f.b) = a.buf (~~~f.b)))

/-- FGOUT, FRDC and FOOG: the rows, registers and cycles of what they read out, an uncorrectable row landing as a fault (R203,
R205, R206, R208, R211). The transposer (R235):
TXI's row is written at the end of cycle start + 15, TXO reads a column, TXC clears, and of the rows written in one cycle
the later-started stays. -/
def Obligations.ArrayReadsAndTransposer : Prop :=
  (∀ (f : MSlot) (s : State),
   let b := s.core.arr.buf f.b
   let x := (s.ctx.a.sReg f.sa.toNat).toNat
   let n := mCount f
   let at' (s : State) : State := s.keeps [(f.b.toNat, false)] (s.cyc + n - 1)
   (∀ qs, Ready (.fgout f) s → b.desc = .grad qs → x < 128 → x + n ≤ 128 → exec (.fgout f) s = .next
     ((List.range n).foldl (fun t r => t.lands ⟨.m, f.md.toNat + s.foc.k * n + r⟩ (8 + r)
       (if b.bad.contains (x + r) then .corrupt (arrayInfo (.fgout f) s) else .vec (BitVec.allOnes 4096)
         (mkVec fun j => ((b.rows.get (x + r) 0).extractLsb' (32 * (16 * j + f.aux.toNat)) 32)) (some (plainTag 0)))) (at' s)))
   ∧ (Ready (.frdc f) s → (∀ qs, b.desc ≠ .grad qs) → x < 2 ^ 13 → x / 128 % 2 = 0 → x % 128 + n ≤ 128 → exec (.frdc f) s = .next
     ((List.range n).foldl (fun t r => t.lands ⟨.m, f.md.toNat + s.foc.k * rowRegs 256 n + r / 2⟩ (8 + r)
       (if b.bad.contains (x % 128 + r) then .corrupt (arrayInfo (.frdc f) s) else .vec (byteMask (r % 2 * 256) 256) (BitVec.ofNat 4096 (packElems 16 ((List.range 128).map fun j =>
           ((b.rows.get (x % 128 + r) 0).extractLsb' (16 * (32 * j + x / 256 % 32)) 16).toNat) * 2 ^ (8 * (r % 2 * 256))))
         (some (plainTag (match b.desc with | .coef _ cf _ => cf | _ => 7))))) (at' s)))
   ∧ (Ready (.foog f) s →
     let u := (checkedState (.foog f) s).lands ⟨if f.aux.getLsbD 3 then .v else .m,
         if f.aux.getLsbD 3 then f.md.toNat % 64 else f.md.toNat⟩ 4 (.vec (BitVec.allOnes 4096)
       (mkVec fun j => s.core.arr.above.get j 0 ++ s.core.arr.below.get j 0) (some (plainTag 5)))
     exec (.foog f) s = .next (if f.aux.getLsbD 0 then u.modCore fun k => { k with arr := { k.arr with below := [], above := [] } }
       else u)))
  ∧ (∀ (f : TSlot) (s : State),
   let reg := (f.v.toNat + s.foc.k * f.step.toNat) % 64
   let idx := (f.idx.toNat + s.foc.k * f.step.toNat) % 128
   (Ready (.txi f) s → tagHaar (s.ctx.a.vReg reg).tag = false → exec (.txi f) s =
     .next (s.modCore fun k => { k with xposeW := k.xposeW ++ [(s.cyc + 15, idx, (s.ctx.a.vReg reg).bits)] }))
   ∧ (Ready (.txi f) s → tagHaar (s.ctx.a.vReg reg).tag = true →
     exec (.txi f) s = .next (startFault (.txi f) 7 (opInfo (.txi f) 1 reg 0 s) s))
   ∧ (Ready (.txo f) s → exec (.txo f) s = .next (s.lands ⟨.v, reg⟩ 4 (.vec (BitVec.allOnes 4096)
     (mkVec fun i => lane (s.core.xpose.get i 0) idx) (some (plainTag f.fmt.toNat)))))
   ∧ (Ready (.txc f) s → exec (.txc f) s = .next (s.modCore fun k => { k with xclear := true }))
   ∧ (∃ t, exec .txiRowWrite s = .next t ∧ t.core.xposeW = s.core.xposeW.filter (fun w => decide (s.cyc < w.1))
     ∧ ∀ n, t.core.xpose.get n 0 = ((s.core.xposeW.reverse.find? fun w => decide (w.1 ≤ s.cyc) && decide (w.2.1 = n)).map
       fun w => w.2.2).getD (s.core.xpose.get n 0))
   ∧ (s.core.xclear = true → ∀ n, (applyClear s).core.xpose.get n 0 = 0))

/-! ### The X slot (R103, R104, R133 to R141, R264 to R266, R303 to R318) -/

/-- COPY, COPY2D and COPYT: the command, its elements' places, and what equal formats move (R134 to R138). -/
def Obligations.Copies : Prop := ∀ f : XSlot,
  let n (s : State) : Word := s.ctx.a.sReg f.scc.toNat
  let p (s : State) : Word := s.ctx.a.sReg (f.imm.toNat / 8 % 32)
  let area (s : State) : Nat × Nat := ((n s).toNat / 2 ^ 32, (n s).toNat % 2 ^ 32)
  let pitch (s : State) : Int × Int := (((p s).truncate 32).toInt, ((p s).extractLsb' 32 32).toInt)
  Sys2Proof.Machine.Copies (.copy f) f (fun s => (1, (n s).toNat)) (fun _ => (0, 0))
    ∧ Sys2Proof.Machine.Copies (.copy2d f) f area pitch ∧ Sys2Proof.Machine.Copies (.copyt f) f area pitch
    ∧ (∀ c : CopyCmd, ∀ r < c.rows, ∀ k < c.cols, let i := r * c.cols + k
      c.srcOff i = c.so + BitVec.ofInt 64 (r * c.spitch + k * fmtSize c.fs)
      ∧ (c.op ≠ (Instr.copyt f).opcode.toNat → c.dstOff i = c.dofs + BitVec.ofInt 64 (r * c.dpitch + k * fmtSize c.fd))
      ∧ (c.op = (Instr.copyt f).opcode.toNat → c.dstOff i = c.dofs + BitVec.ofInt 64 (k * c.dpitch + r * fmtSize c.fd)))
    ∧ (∀ c : CopyCmd, c.fs = c.fd → ∀ x, c.convert x = x)

/-- TAGCLR: every DONE tag of its mask becomes IDLE, but for one that completes in the same cycle (R133), and nothing else changes;
every field but SA is reserved (R141). -/
def Obligations.TagClear : Prop := ∀ (f : XSlot) (s : State),
  (Instr.tagclr f).opcode = 0x0B#8
  ∧ ((Instr.tagclr f).reservedBit = none ↔ f.sb = 0 ∧ f.scc = 0 ∧ f.tag = 0 ∧ f.sc = 0 ∧ f.h = 0 ∧ f.h2 = 0 ∧ f.fs = 0
    ∧ f.fd2 = 0 ∧ f.imm = 0)
  ∧ (Accepted (.tagclr f) s → Certain s → ∃ done : Word, exec (.tagclr f) s = .next (s.modArch fun a => { a with tagDone := done })
    ∧ ∀ t < 64, done.getLsbD t = (s.ctx.a.tagDone.getLsbD t
      && (!(s.ctx.a.sReg f.sa.toNat).getLsbD t || s.ctx.tagNew.getLsbD t)))

/-- WAITANY, WAITALL and FFRDY, and a completion: the tag is DONE wherever it runs (R133, R138 to R140); EVSIG and
EVWAIT (R308 to R310). -/
def Obligations.TagsAndEvents : Prop :=
  (∀ (f : XSlot) (s : State),
   let m := s.ctx.a.sReg f.sa.toNat
   let done := s.ctx.a.tagDone
   let known := done ||| s.ctx.a.tagPend
   let alone (i : Instr) : Prop := s.foc.pre = false ∧ Certain s ∧ verdict5 i (checkedState i s) = .go
     ∧ verdict6 i (checkedState i s) = .go ∧ corruptOf i (checkedState i s) = none
   (Accepted (.waitany f) s → Certain s →
     exec (.waitany f) s = .next ((checkedState (.waitany f) s).landsS f.sb.toNat 1 (done &&& m)))
   ∧ (alone (.waitany f) → (Accepted (.waitany f) s ↔ m &&& done ≠ 0))
   ∧ (alone (.waitany f) → m &&& done = 0 → m &&& known ≠ 0 →
     exec (.waitany f) s = .next (blockOn .tags (checkedState (.waitany f) s)))
   ∧ (alone (.waitall f) → (Accepted (.waitall f) s ↔ m &&& ~~~done = 0))
   ∧ (alone (.waitall f) → m &&& ~~~done ≠ 0 → m &&& ~~~known = 0 →
     exec (.waitall f) s = .next (blockOn .tags (checkedState (.waitall f) s)))
   ∧ (∀ c a, Accepted (.ffrdy f) s → Certain s →
     spPlace s s.foc.core s.lid f.h.toNat (s.ctx.a.sReg f.sb.toNat).toNat 4 = some (c, a) →
     exec (.ffrdy f) s = .next (fireWatches s.instHere ((checkedState (.ffrdy f) s).modCtx fun x => { x with
       watches := x.watches ++ [{ mask := m, core := c, addr := a, sc := f.sc.toNat }] })))
   ∧ (∀ i t, t < 64 → ∀ k ∈ (tagComplete i t s).cores, ∀ c ∈ k.2.ctxs, c.2.inst = some i →
     c.2.a.tagDone.getLsbD t = true ∧ c.2.a.tagPend.getLsbD t = false))
  ∧ (∀ (f : XSlot) (s : State),
   let t := (s.ctx.a.sReg f.sa.toNat).toNat
   let m := (s.ctx.a.sReg f.sa.toNat).truncate 32
   let hit := eventsHere s &&& m
   let i := s.instHere
   let s' := checkedState (.evwait f) s
   (Accepted (.evsig f) s → Certain s → exec (.evsig f) s = .next (submit (.access (atomAccess s.uid
     (.event (t / 2 ^ 16 % 16) (t % 1024) ((s.ctx.a.sReg f.sb.toNat).truncate 32)) f.sc.toNat s)) { s with uid := s.uid + 1 }))
   ∧ (Accepted (.evwait f) s → Certain s → exec (.evwait f) s = .next (acquire f.sc.toNat
     ((s'.modLaunch s.lid fun l => { l with insts := l.insts.map fun r =>
       if r.stage = i.stage ∧ r.num = i.num then { r with events := r.events &&& ~~~hit } else r }).landsS f.sb.toNat 1
       (hit.zeroExtend 64))))
   ∧ (s.foc.pre = false → Certain s → verdict5 (.evwait f) s' = .go → verdict6 (.evwait f) s' = .go →
     corruptOf (.evwait f) s' = none → t < 2 ^ 32 → t ≠ 0 → actsAfter s = false →
     (hit = 0 → exec (.evwait f) s = .next (blockOn .event s')) ∧ (hit ≠ 0 → Accepted (.evwait f) s)))

/-- PPUT, PGET, GRPBAR and LWAIT: what the answer brings, the hold until there is one, and what the serving point does to a
pond (R303 to R307, R314). -/
def Obligations.HeldServices : Prop := ∀ (f : XSlot) (s : State),
  let done (i : Instr) : State := (checkedState i s).answered
  let ask (i : Instr) : Host.Outcome State Fault Refusal := .next (((checkedState i s).modCore fun k => { k with
    hold := some 11
    holdIss := true }).modCtx fun c => { c with asked := some i })
  let alone (i : Instr) : Prop := s.foc.pre = false ∧ Certain s ∧ verdict5 i (checkedState i s) = .go
    ∧ verdict6 i (checkedState i s) = .go ∧ corruptOf i (checkedState i s) = none ∧ s.ctx.answer = none
  let q := f.imm.toNat % 32
  let n := if f.imm.getLsbD 5 then 2 else 1
  let v := s.ctx.a.sReg f.sa.toNat
  let pond (s : State) : List (BitVec 32) := match s.launchAt s.lid with | some l => (l.ponds.get q {}).words | none => []
  let asked (i : Instr) : Prop := s.ctx.asked = some i ∧ s.ctx.answer = none ∧ Certain s ∧ servable i s
  (∀ b x, s.ctx.answer = some (b, x) →
    (Accepted (.pput f) s → exec (.pput f) s = .next (done (.pput f)))
    ∧ (Accepted (.grpbar f) s → exec (.grpbar f) s = .next ((done (.grpbar f)).modArch fun a => { a with grp := none }))
    ∧ (Accepted (.pget f) s → Certain s →
      exec (.pget f) s = .next ((done (.pget f)).landsS f.sb.toNat 1 (BitVec.ofNat 64 x)))
    ∧ (Accepted (.lwait f) s → Certain s →
      exec (.lwait f) s = .next ((done (.lwait f)).landsS f.sb.toNat 1 (BitVec.ofNat 64 x))))
  ∧ (alone (.pput f) → pondMisuse q (f.imm.getLsbD 5) true s = false → exec (.pput f) s = ask (.pput f))
  ∧ (alone (.pget f) → pondMisuse q (f.imm.getLsbD 5) false s = false → exec (.pget f) s = ask (.pget f))
  ∧ (∀ l d, s.launchAt s.lid = some l → pondDesc q s = some d →
    (asked (.pput f) → ∃ t, exec .heldServiceAnswer s = .next t ∧ pond t =
      (if (pond s).length + n ≤ d.2.2.1 + 1 then pond s ++ ([v.truncate 32, (v >>> 32).truncate 32] : List (BitVec 32)).take n
        else pond s)
      ∧ t.ctx.answer = some (if (pond s).length + n ≤ d.2.2.1 + 1 then 1 else 0, 0))
    ∧ (asked (.pget f) → badPond (l.ponds.get q {}).home s = none → ∃ t, exec .heldServiceAnswer s = .next t
      ∧ pond t = (if n ≤ (pond s).length then (pond s).drop n else pond s)
      ∧ ∀ x y, (pond s).take n = x :: y → n ≤ (pond s).length →
        t.ctx.answer = some (1, x.toNat + 2 ^ 32 * (match y with | z :: _ => z.toNat | [] => 0))))

/-- LAUNCH, DEFER, DEFRUN, MFLUSH and CNTRD (R103, R104, R311, R315 to R317); XDT, XDS and XDQ (R264 to R266), and the check
of a coded block (R262). -/
def Obligations.WorkAndJobs : Prop :=
  (∀ (f : XSlot) (s : State),
   let sa := s.ctx.a.sReg f.sa.toNat
   let imm := f.imm.toNat
   let vs := imm % 64
   let regs := (List.range (imm / 64 % 4 + 1)).map fun j => (s.ctx.a.vReg (vs + j)).bits
   let lanes := (List.range 128).filter fun n => (s.ctx.a.pReg (imm / 2 ^ 8 % 8)).getLsbD n
   let path := imm % 128
   let i := s.instHere
   let mine := s.core.defq.filter fun e => decide (e.inst = i) && decide (e.path = path)
   let n := if 128 ≤ mine.length ∨ f.imm.getLsbD 7 = true then min mine.length 128 else 0
   let d := checkedState (.defrun f) s
   (Accepted (.launch f) s → Certain s → exec (.launch f) s = .next (submit (.launch {
       id := s.uid, core := s.foc.core, ctx := s.foc.ctx, inst := i, ord := s.foc.ord, tag := f.tag.toNat
       loc := handleOf s f.h.toNat, hn := f.h.toNat, read := recordAccess f s })
       { s.opens f.tag.toNat with uid := s.uid + 1 }))
   ∧ (Accepted (.defer f) s → Certain s → exec (.defer f) s = .next ((checkedState (.defer f) s).modCore fun k => { k with
       defq := k.defq ++ lanes.map fun n => { inst := i, path := imm / 2 ^ 11 % 128
                                              lane := BitVec.ofNat 32 (sa.toNat + n), vals := regs.map fun v => lane v n } }))
   ∧ (Accepted (.defrun f) s → Certain s → n = 0 → exec (.defrun f) s = .next (d.landsS f.sb.toNat 1 0))
   ∧ (Accepted (.defrun f) s → Certain s → 0 < n → ∃ t, exec (.defrun f) s = .next t
     ∧ t.core.batches = s.core.batches ++ [{ ctx := s.foc.ctx, inst := i, mark := s.core.mark, path := path
                                             entry := pathWord s.ctx.a path % 2 ^ 22, ents := mine.take n }]
     ∧ (t.core.defq.filter fun e => decide (e.inst = i) && decide (e.path = path)) = mine.drop n
     ∧ (t.core.defq.filter fun e => !(decide (e.inst = i) && decide (e.path = path)))
       = (s.core.defq.filter fun e => !(decide (e.inst = i) && decide (e.path = path)))
     ∧ t.ctx.flight = (d.landsS f.sb.toNat 1 (BitVec.ofNat 64 n)).ctx.flight ∧ t.ctx.a = s.ctx.a)
   ∧ (Accepted (.mflush f) s → Certain s → exec (.mflush f) s = .next (submit (.flush {
       id := s.uid, hn := f.h.toNat, tag := f.tag.toNat, inst := some s.instHere, vf := s.vfid, pa := (handleOf s f.h.toNat).pa + sa.toNat
       len := (s.ctx.a.sReg f.sb.toNat).toNat, key := (handleOf s f.h.toNat).key, op := imm % 4 })
       { s.opens f.tag.toNat with uid := s.uid + 1 }))
   ∧ (Accepted (.cntrd f) s → Certain s → exec (.cntrd f) s = .next (s.awaits.landsS f.sa.toNat 24
       (counterOf (if f.imm.getLsbD 5 then 1 else 0) (imm % 32) (if f.imm.getLsbD 6 then none else some s.vfid) s.dev))))
  ∧ (∀ (f : XSlot) (s : State),
   let t := f.tag.toNat
   let u : State := { s.opens t with uid := s.uid + 1 }
   let x := (s.ctx.a.sReg f.scc.toNat).toNat
   (Accepted (.xdt f) s → Certain s → exec (.xdt f) s = .next (submit (.job { jobMade f s with
       isXdt := true, slot := f.imm.toNat % 16, st := .running, free := 8 * s.dev.base }) u))
   ∧ (Accepted (.xds f) s → Certain s → exec (.xds f) s = .next (submit (.job { jobMade f s with
       dstH := f.h2.toNat, io := (s.ctx.a.sReg f.sb.toNat).toNat, tabo := x % 2 ^ 32, chunk := x / 2 ^ 32
       nblk := f.imm.toNat % 1024 + 1, sc := f.sc.toNat }) u))
   ∧ (Accepted (.xdq f) s → Certain s → exec (.xdq f) s = .next (s.awaits.landsS f.sa.toNat 24 (jobWordOf (latestJob t s))))
   ∧ (∀ j, latestJob t s = some j → j.inst = s.instHere ∧ j.tag = t
     ∧ ∀ e ∈ s.cores, ∀ y ∈ e.2.jobq, y.inst = s.instHere → y.tag = t → y.id ≤ j.id)
   ∧ (∀ j : Job, ∀ y ∈ (enterPath (.job j) u).dev.jobs, y ≠ j → y.inst = j.inst → y.tag = j.tag → y.live = true)
   ∧ crc32c [0x31, 0x32, 0x33, 0x34, 0x35, 0x36, 0x37, 0x38, 0x39] = 0xE3069283
   ∧ (∀ l b c, c < 256 → b < 256 → b ≠ c → crc32c (l ++ [b]) ≠ crc32c (l ++ [c])))


/-! ### Events of a cycle (R48 to R57, R285 to R287, R356) -/

/-- The parts of a compute cycle: an issue, starts, the cycle of a lost full-rate turn, landings, the choice of a context, a
context that becomes READY, and the freeze watchdog (R49, R53, R56, R57, R63, R285, R286, R288, R352, R355, R356). -/
def Obligations.CycleEvents : Prop := ∀ s : State,
  (∀ l, mayIssue s = true → s.launch? = some l → s.ctx.saveFor = none → s.ctx.pend = [] →
    (s.ctx.a.pc.toNat % 4 ≠ 0 → exec .bundleIssue s = .next (takeTrap { cause := 0x0C, info := s.ctx.a.pc } s))
    ∧ (s.ctx.a.pc.toNat % 4 = 0 → headerAt s l s.ctx.a.pc.toNat = none → exec .bundleIssue s =
      .next (takeTrap { cause := 0x0B, info := BitVec.ofNat 64 (codeFault s l s.ctx.a.pc.toNat 4) } s))
    ∧ ∀ b ops, fetchBundle s l s.ctx.a.pc = .ok b →
      let s1 := s.modCtx fun c => { c with blen := b.hdr.length, brep := b.hdr.rep.toNat }
      (∀ x, encodedChecks b s.ctx.a.idx = .error x →
        exec .bundleIssue s = .next (takeTrap { cause := x.1, info := x.2.1, fslot := x.2.2 } s1))
      ∧ (encodedChecks b s.ctx.a.idx = .ok ops → l.rc.segprot = false → s.ctx.seg = none →
        let es := entriesOf s.ctx.a ops
        let close := closesFirst b.hdr (decide (s.ctx.a.idx = 0)) es
        let s2 := if close then s1.modCtx Ctx.commit else s1
        let now (e : Entry) : Bool := decide (e.slot = .c) || decide (e.slot = .x)
        (∀ v slot, issueVerdict es false s2 = (v, slot) → v ≠ .go → exec .bundleIssue s = .next (v.act slot s2))
        ∧ (∀ slot, issueVerdict es false s2 = (.go, slot) → Answers .bundleIssue s fun t =>
          t.core.midIss = true ∧ t.ctx.seq = s.ctx.seq + 1 ∧ t.ctx.a = s.ctx.a.takeSticky ops
          ∧ (t.ctx.starts.map fun x => (x.op, x.k)) = (s.ctx.starts.map fun x => (x.op, x.k))
            ++ ((es.filter fun e => !now e).map fun e => (e.op, e.k))
          ∧ (t.core.todo.map fun x => (x.1, x.2.op)) = (s.core.todo.map fun x => (x.1, x.2.op))
            ++ (((es.filter fun e => decide (e.slot = .x)) ++ (es.filter fun e => decide (e.slot = .c))).map fun e =>
              (s.foc.ctx, e.op)))))
  ∧ (let l := dueNow s.core
    let u := closeDue l s
    ((∀ x ∈ dueStarts s.core, ∀ y ∈ dueStarts s.core, slotCode x.2.op = 3 → slotCode y.2.op = 3 → x.1 = y.1) →
      l = dueStarts s.core)
    ∧ (firstHold u [] l = none → turnLost l s = false → Answers .operationStart s fun t =>
      t.core.todo = s.core.todo ++ startOrder l
      ∧ ∀ n, (t.core.ctxAt n).starts = (s.core.ctxAt n).starts.filter fun x => !l.contains (n, x))
    ∧ (firstHold u [] l = none → turnLost l s = true → Answers .operationStart s fun t =>
      t.core.hold = some 7 ∧ t.core.holdIss = false ∧ t.core.turnOwed = true
      ∧ t.core.todo = s.core.todo ++ startOrder (l.filter fun x => testsAtIssue x.2.op))
    ∧ (∀ c e k, firstHold u [] l = some (c, e, k) → Answers .operationStart s fun t =>
      t.core.hold = some k ∧ t.core.holdIss = false
      ∧ t.core.todo = s.core.todo ++ startOrder (l.filter fun x => testsAtIssue x.2.op && decide (x ≠ (c, e)))))
  ∧ Answers .resultLanding s (fun t => let f := (s.ctx.inTurn s.cyc).flight
    let due := f.filter fun l => decide (l.due ≤ s.cyc)
    (∀ l ∈ t.ctx.flight, l ∈ f ∧ s.cyc < l.due)
    ∧ (due = [] → t.ctx.a = s.ctx.a)
    ∧ (∀ l, due = [l] → t.ctx.a = (s.ctx.a.write l.reg l.val).cleanse l.reg)
    ∧ ∀ l m, due = [l, m] ∨ due = [m, l] → l.ord < m.ord →
      t.ctx.a = ((((s.ctx.a.write l.reg l.val).cleanse l.reg).write m.reg m.val).cleanse m.reg))
  ∧ (∀ l ∈ s.ctx.flight, (∀ x ∈ s.ctx.flight, x.ord < l.ord → x.meets l = false) → l ∈ (s.ctx.inTurn s.cyc).flight)
  ∧ (∀ l x, s.ctx.flight = [l, x] → l.due ≤ s.cyc → x.meets l = true → x.ord < l.ord →
    (s.ctx.inTurn s.cyc).flight = [{ l with due := max l.due x.due }, x])
  ∧ (∀ p j, s.core.pickAt = some p → p ≤ s.cyc → s.core.issuing = none → 1 ≤ j → j ≤ 4 →
    (∀ i, 1 ≤ i → i < j → (s.core.ctxAt ((s.core.last + i) % 4)).st ≠ .ready) →
    (s.core.ctxAt ((s.core.last + j) % 4)).st = .ready →
    let n := (s.core.last + j) % 4
    Answers .contextSwitch s fun t => t.core.issuing = some n ∧ t.core.pickAt = none ∧ (t.core.ctxAt n).st = .issuing
      ∧ (∀ i, i ≠ n → t.core.ctxAt i = s.core.ctxAt i)
      ∧ ((s.core.ctxAt n).resume = none → (t.core.ctxAt n).a = (s.core.ctxAt n).a)
      ∧ (∀ owed d x, (s.core.ctxAt n).resume = some (owed, some (d, x)) → d ≠ 0 → ∃ l ∈ (t.core.ctxAt n).flight,
        l.due = s.cyc + 1 + owed ∧ l.reg = ⟨.s, d⟩ ∧ l.val = .scalar x ∧ (t.core.ctxAt n).frm = s.cyc + 1 + owed))
  ∧ (s.ctx.st = .blocked → s.ctx.woken = true → Answers .waiterReady s fun t => t.ctx.st = .ready ∧ t.ctx.wait = none
    ∧ t.ctx.a = s.ctx.a ∧ (s.core.issuing = none → s.core.pickAt = none → t.core.pickAt = some (s.cyc + 3)))
  ∧ (∀ kind n, s.core.hold = some kind → kind ≠ 9 → freezeLimit s ≤ s.core.holdRun → s.core.issuing = some n →
    s.core.holdIss = true → exec .freezeWatchdogExpiry s =
      .next (takeTrap { cause := 0x0F, info := BitVec.ofNat 64 (kind * 2 ^ 32 + freezeLimit s) }
        (((letEntries kind s).modCore fun k => { k with
          hold := none, holdIss := false, holdRun := 0, midIss := false }).focusOn s.foc.core n)))
  ∧ (s.core.holdRun < freezeLimit s → exec .freezeWatchdogExpiry s = .next s)

/-- The array in a cycle: a push row's result and its place in line, an FLOAD's beginning, codebook reads and end, and FGRID's
slot (R187, R190, R194, R269). -/
def Obligations.ArrayEvents : Prop := ∀ s : State,
  let a := s.core.arr
  (∀ p, a.pushes.find? (fun p => p.id = s.foc.id) = some p → p.due s.cyc = true → p.poison s = none →
    a.badFor p.op [] = false → Answers .arrayPushRow s fun t =>
      t.core.arr.pushes = (a.pushes.map fun x => if x.id = p.id then { x with k := x.k + 1 } else x).filter (fun x => x.k < x.n)
      ∧ (∀ f, p.op = .fmx f ∨ p.op = .fmxHaar f → (t.core.ctxAt p.ctx).flight =
        (s.core.ctxAt p.ctx).flight.map fun x => { x with
          val := fillPayload p.id p.k (columnSums a f.b f.inf.toNat f.af.toNat (p.operands s).1) x.val })
      ∧ (∀ f, p.op = .fmxd f → (t.core.ctxAt p.ctx).flight =
        (s.core.ctxAt p.ctx).flight.map fun x => { x with
          val := fillPayload p.id p.k (gradRow a f.b f.inf.toNat f.af.toNat (f.aux.toNat % 8) (p.operands s).2 (p.operands s).1)
            x.val })
      ∧ (∀ f, p.op = .fmxc f → p.bad = false → (t.core.arr.buf (~~~f.b)).rows
        = (gradAccumulate a f.b f.inf.toNat f.af.toNat (p.operands s).1 (p.operands s).2).rows))
  ∧ (∀ l rest f, a.loads = l :: rest → l.op = .fload f →
    let first := 64 * (f.aux.toNat % 2) + f.vs.toNat
    let mine (r : Nat) : Prop := first ≤ r ∧ r < first + l.ks.length
    (l.g = none → a.wpFree ≤ s.cyc → Answers .floadBegin s fun t =>
      let b := t.core.arr.buf f.b
      b.desc = .coef f.mode.toNat f.inf.toNat f.spn.toNat ∧ t.core.arr.buf (~~~f.b) = a.buf (~~~f.b)
      ∧ (∀ r, mine r → b.rows.get r 0 = (a.buf f.b).rows.get r 0)
      ∧ (b.desc = (a.buf f.b).desc → b.rows = (a.buf f.b).rows)
      ∧ (b.desc ≠ (a.buf f.b).desc → ∀ r, ¬mine r → b.rows.get r 0 = 0)
      ∧ (s.dev.badLines = [] → t.core.arr.loads.head?.bind (fun x => x.g) = some (s.cyc : Int)))
    ∧ (l.readDue s.cyc = true → s.dev.badLines = [] → Answers .codebookTableRead s fun t => ∃ x, t.core.arr.loads = x :: rest
      ∧ x.reads = l.reads + 1
      ∧ (l.reads % 2 = 0 → x.idxs = l.idxs ∧ x.tabs = l.tabs ++ [rotRead s l.ctx (l.ord / 8) 0
        (l.base + l.ks.length * l.pitch + 2 * 2 ^ (f.cbf.toNat + 1) * (l.reads / 2)) (2 * 2 ^ (f.cbf.toNat + 1))]))
    ∧ (l.readDue s.cyc = true → l.reads = 0 →
      (badLine s 0 (l.base + l.ks.length * l.pitch) (2 * 2 ^ (f.cbf.toNat + 1))).isSome = true →
      Answers .codebookTableRead s fun t => t.core.arr.loads = rest
        ∧ ((s.core.ctxAt l.ctx).inst = l.inst → (t.core.ctxAt l.ctx).lfault.isSome = true)
        ∧ (t.core.arr.buf f.b).desc = (a.buf f.b).desc)
    ∧ (l.complete s.cyc = true → f.spn = 0 → l.bad = false → Answers .floadComplete s fun t =>
      t.core.arr.loads = rest ∧ t.core.arr.wpFree = s.cyc + 1 ∧ t.core.arr.buf (~~~f.b) = a.buf (~~~f.b)
      ∧ (t.core.arr.buf f.b).desc = (a.buf f.b).desc
      ∧ (∀ r < l.ks.length, (t.core.arr.buf f.b).rows.get (first + r) 0 = l.rowOf f r)
      ∧ ∀ r, ¬mine r → (t.core.arr.buf f.b).rows.get r 0 = (a.buf f.b).rows.get r 0))
  ∧ (∀ due slot g, a.changes = [(due, .grid slot g)] → Answers .fgridSlotWrite s fun t =>
    (due ≤ s.cyc → t.core.arr.changes = [] ∧ t.core.arr.grid.find? slot = some g
      ∧ ∀ o, o ≠ slot → t.core.arr.grid.find? o = a.grid.find? o)
    ∧ (s.cyc < due → t.core.arr.changes = a.changes ∧ t.core.arr.grid = a.grid))

/-! ### Accesses and the L1 (R90, R112, R144 to R159) -/

/-- Accesses perform: a load, a store, an atomic, a narrow and a wide release, a flag operation, a signal; and what comes
after: data that arrives, a held action that enters its path, a DRN whose conditions hold (R90, R112, R144, R149, R152,
R153, R296, R308, R366). -/
def Obligations.AccessEvents : Prop := ∀ (s : State) (a : Access) (e : Elem),
  (∀ c x n, Arrives .bank a s → OneWord a e c x n s → a.plain →
    let old := (s.coreAt c).sp.read x n
    (a.kind = .load → a.unheld s → exec .bankService s = .next (fillEntry a.ctx a.entry old none (s.serving a)))
    ∧ (∀ b w, a.kind = .load → (s.core.ctxAt a.ctx).heldAccs = [b] → b.before a = true → b.path = a.path → b.kind = .store →
      b.els = [w] → w.loc = e.loc → w.size = n →
      exec .bankService s = .next (fillEntry a.ctx a.entry (w.data % 256 ^ n) none (s.serving a)))
    ∧ (a.kind = .store → Answers .bankService s fun t => (t.coreAt c).sp.read x n = e.data % 256 ^ n
      ∧ (∀ d y, d ≠ c ∨ y < x ∨ x + n ≤ y → (t.coreAt d).sp.byte y = (s.coreAt d).sp.byte y)
      ∧ (∀ d, (t.coreAt d).empt = (s.coreAt d).empt) ∧ t.dev = s.dev)
    ∧ (∀ op p q, a.kind = .amo op p q →
      let r := amoNew op (8 * n) old p q
      Answers .bankService s fun t => (t.coreAt c).sp.read x n = (if r.2.2 then r.1 % 256 ^ n else old)
        ∧ ((t.core.ctxAt a.ctx).a.queue = match a.entry with
          | none => (s.core.ctxAt a.ctx).a.queue
          | some id => fillIn id (BitVec.ofNat 4096 (old + if a.status && r.2.1 then 2 ^ 64 else 0)) none
            (s.core.ctxAt a.ctx).a.queue)))
  ∧ (∀ pa n, Arrives .perform a s → OneGlobal a e pa n s → a.plain →
    let base := beforePerform a (s.serving a)
    let home := base.modDev (touchAll pa n a.key a.vf)
    (a.kind = .load → a.unheld s → exec .accessPerform s = .next (fillEntry a.ctx a.entry (homePeek home.dev a.key pa n) none home))
    ∧ (a.kind = .store → exec .accessPerform s = .next (homeWrite pa n (e.data % 2 ^ (8 * n)) a.key a.vf base)))
  ∧ (∀ c x n r, Arrives .release a s → OneWord a e c x n s → a.acq = none → a.bad = false → a.rel = some r →
    (r ≤ 1 → a.narrow = true → Answers .releasePerform s fun t => (t.coreAt c).sp.read x n = e.data % 256 ^ n
      ∧ t.core.plnum = s.core.plnum + 1 ∧ t.core.gen = s.core.gen + 1
      ∧ (∀ y ∈ t.core.l1, y.dirty = 0)
      ∧ ∃ q, t.core.plog = q ++ [{ num := s.core.plnum + 1, gen := s.core.gen, core := decide (r = 1), ctx := a.ctx, ord := a.id }]
        ∧ (∀ y ∈ q, y ∈ s.core.plog) ∧ ((∀ y ∈ s.core.l1, y.dirty = 0) → q = s.core.plog))
    ∧ (2 ≤ r → a.narrow = false → Answers .releasePerform s fun t => (t.coreAt c).sp.read x n = e.data % 256 ^ n
      ∧ ∀ y ∈ t.core.l1, y.dirty = 0))
  ∧ (∀ target f add val, Arrives .flag a s → a.kind = .flag target f add val → Answers .flagOperationArrival s fun t =>
    (∀ r, (s.coreAt target).region? a.launch = some r → ∃ q, (t.coreAt target).region? a.launch = some q
      ∧ q.flags.get f 0 = (if add then r.flags.get f 0 + val else val)
      ∧ ∀ g, g ≠ f → q.flags.get g 0 = r.flags.get g 0)
    ∧ ((s.coreAt target).region? a.launch = none → (t.coreAt target).regions = (s.coreAt target).regions))
  ∧ (∀ stage num mask l, Arrives .event a s → a.kind = .event stage num mask → s.launchAt a.launch = some l →
    Answers .eventSignalArrival s fun t => ∃ m, t.launchAt a.launch = some m
      ∧ m.insts = l.insts.map fun r => if r.stage = stage ∧ r.num = num ∧ r.st ≠ .ended
        then { r with events := r.events ||| mask } else r)
  ∧ Answers .loadDataFill s (fun t => t.ctx.a.queue = s.ctx.a.queue.map fun q =>
    if q.id = s.foc.id ∧ q.filled = true then { q with arrived := true } else q)
  ∧ (∀ x r, s.ctx.entering = x :: r → mayEnter x s = true → Answers .heldEntryCommit s fun t => t.ctx.entering = r
    ∧ (∀ y, x = .access y → t.core.acc = s.core.acc ++ [y]) ∧ (∀ y, x = .copy y → t.core.copyq = s.core.copyq ++ [{ y with since := s.dev.base }])
    ∧ (∀ y, x = .flush y → t.core.flushq = s.core.flushq ++ [y])
    ∧ (∀ y, x = .launch y → t.core.acc = s.core.acc ++ [y.read] ∧ t.dev.lreqs = s.dev.lreqs ++ [y]))
  ∧ (∀ x f, s.ctx.starts = [x] → x.op = .drn f → x.due ≤ s.cyc → s.core.hold = some 5 →
    drained (f.off.toNat % 256) f.sc.toNat { s with foc := { s.foc with ord := x.ord, k := x.k, idx := x.idx } } = true →
    Answers .drnComplete s fun t => t.ctx.starts = [] ∧ t.ctx.seg = none
      ∧ (2 ≤ f.sc.toNat → f.off.getLsbD 8 = true → ∀ y ∈ t.core.l1, y.dirty ≠ 0 ∧ y.valid = y.dirty))

/-- The promotion log and the L1's write-back, PACQ's requests, translations that end and walkers that are taken; and the error
that nothing consumes, which answers a next state whatever the state and its operands, and is counted for its bank (R155 to R157, R211,
R328, R329, R368, R375). -/
def Obligations.PromotionEvents : Prop := ∀ s : State,
  (∀ x r, s.core.plog = x :: r → promotionAsked s.core = true → promotable s.core x.gen = true →
    Answers .logPromotion s fun t => t.core.plog = r ∧ ∀ y ∈ t.core.l1, genLe y.gen x.gen = true → y.dirty = 0)
  ∧ (∀ x, s.core.l1.find? (fun y => y.pa = lineOf s.foc.id) = some x → x.dirty ≠ 0 → promotable s.core x.gen = true →
    Answers .l1WriteBack s fun t => ∀ y ∈ t.core.l1, y.pa = x.pa → y.ver = x.ver → y.dirty = 0 ∧ s.foc.aux ≠ 1)
  ∧ (∀ r ∈ s.core.pacq, r.id = s.foc.id →
    (r.cut = none → s.core.plog = [] ∨ s.core.lastVF = some r.vf →
      Answers .pacqRequestArrival s fun t => ({ r with cut := some s.core.plnum } : PacqReq) ∈ t.core.pacq)
    ∧ (r.cut = none → s.core.plog ≠ [] → s.core.lastVF ≠ some r.vf →
      Answers .pacqRequestArrival s fun t => ({ r with cut := some s.core.plnum, done := true } : PacqReq) ∈ t.core.pacq)
    ∧ (∀ c, r.cut = some c → (∀ x ∈ s.core.plog, 2 ^ 31 ≤ (c - x.num).toNat) →
      Answers .pacqReply s fun t => ({ r with done := true } : PacqReq) ∈ t.core.pacq)
    ∧ (∀ c, r.cut = some c → (∃ x ∈ s.core.plog, (c - x.num).toNat < 2 ^ 31) →
      Answers .pacqReply s fun t => r ∈ t.core.pacq))
  ∧ (∀ w, s.dev.walks.find? (fun w => w.id = s.foc.id) = some w →
    (w.hit s = true → Answers .pageWalk s fun t => (∀ x ∈ t.dev.walks, x.id = w.id → x.done = true)
      ∧ ∀ h, (translate w.core w.asid w.va s).1 = some h → h ∈ (t.coreAt w.core).tlb)
    ∧ (w.begun = true → w.missed s = true → Answers .pageWalk s fun t =>
      (∀ m ∈ w.mates s, ∀ x ∈ t.dev.walks, x.id = m.id → x.done = true)
      ∧ ∀ m, w.mates s = [m] → ∀ h, (translate m.core m.asid m.va s).1 = some h → h ∈ (t.coreAt m.core).tlb)
    ∧ (w.begun = false → w.hit s = false → w.mayBegin s = true → (walkersOf (coreTower w.core) s).length < 192
      ∧ ((walkersOf (coreTower w.core) s).filter fun x => x.vf = w.vf).length < s.limit w.vf 1
      ∧ Answers .pageWalk s fun t => { w with begun := true } ∈ t.dev.walks))
  ∧ (∀ line, Answers (.errorNotConsumed line) s fun t =>
    t.dev.hbm = s.dev.hbm ∧ t.dev.hostMem = s.dev.hostMem ∧ ∀ x ∈ s.dev.badLines, x ∈ t.dev.badLines)
  ∧ (∀ line, s.foc.aux = 0 → s.foc.id = 0 → Answers (.errorNotConsumed line) s fun t =>
    Loc.gm (line / 128 * 128) ∈ t.dev.badLines ∧ t.dev.hbm = s.dev.hbm)
  ∧ (∀ line, s.foc.aux = 1 → s.foc.id = 0 → Answers (.errorNotConsumed line) s fun t =>
    Loc.sp s.foc.core (line / 128 * 128) ∈ t.dev.badLines)
  ∧ (∀ n < 32, s.foc.aux = 2 → Answers (.errorNotConsumed n) s fun t => (⟨.s, n⟩ : RegId) ∈ t.ctx.a.bad)
  ∧ (∀ n, s.foc.aux = 3 → Answers (.errorNotConsumed n) s fun t => n ∈ t.ctx.a.badSpill)
  ∧ (∀ n, s.foc.aux = 7 → ∀ g, s.ctx.seg = some g → Answers (.errorNotConsumed n) s fun t =>
    t.ctx.seg = some { g with bad := true })
  ∧ (∀ n, s.foc.aux = 8 → Answers (.errorNotConsumed n) s fun t => n % 128 ∈ (t.core.arr.buf (BitVec.ofNat 1 (n / 128))).bad)
  ∧ (∀ n, s.foc.aux = 9 → Answers (.errorNotConsumed n) s fun t =>
    (t.core.arr.grid.find? n).map (fun g => g.bad) = (s.core.arr.grid.find? n).map fun _ => true)
  ∧ (∀ n, let kind := bankKind false n
    s.foc.aux = 10 → n ∈ banksOf kind → Answers (.errorNotConsumed n) s fun t =>
      let w (s : State) : Nat := (bankWord (bankTable false s.foc.core s) kind n).toNat
      w t / 2 ^ 48 = min 0xFFFF (w s / 2 ^ 48 + 1) ∧ w t % 2 ^ 48 = w s % 2 ^ 48)

/-! ### Engines (R103, R137, R138, R257, R261 to R265) -/

/-- The copy engine, MFLUSH and the transducer lanes: a copied element, a finished command, a dispatched job, a block
decoded, a word written, and a job's end, suspension and table load. -/
def Obligations.EngineEvents : Prop := ∀ s : State,
  (∀ c, s.core.copyq.find? (fun c => c.id = s.foc.id) = some c →
    (∀ p q n x y, c.rows * c.cols = 1 → c.done = 0 → c.olds = [] → c.fs = c.fd → n = fmtSize c.fs → c.src.st ≠ .revoked →
      c.srcH < 3 → c.dstH < 3 → spPlace s s.foc.core c.inst.launch c.srcH (c.srcOff 0).toNat n = some (p, x) →
      spPlace s s.foc.core c.inst.launch c.dstH (c.dstOff 0).toNat n = some (q, y) → (p ≠ q ∨ x + n ≤ y ∨ y + n ≤ x) →
      badSp s p x n = false → pondSpace s p x n = none → pondSpace s q y n = none →
      readsLeft c.ctx c.inst c.ord s = false → (∀ b ∈ spBanks p x n ++ spBanks q y n, bankFree true b s = true) →
      Answers .copyChunk s fun t => (t.coreAt q).sp.read y n = (s.coreAt p).sp.read x n
        ∧ (∀ d z, d ≠ q ∨ z < y ∨ y + n ≤ z → (t.coreAt d).sp.byte z = (s.coreAt d).sp.byte z)
        ∧ (t.core.copyq.find? fun x => x.id = c.id).map (fun x => x.done) = some 1)
    ∧ (c.done < c.rows * c.cols → c.src.st = .revoked → exec .copyChunk s = .next (copyFault c 4 s))
    ∧ (c.done = c.rows * c.cols → c.tag < 64 → Answers .copyComplete s fun t => (∀ x ∈ t.core.copyq, x.id ≠ c.id)
      ∧ ∀ k n, ((s.coreAt k).ctxAt n).inst = some c.inst → ((t.coreAt k).ctxAt n).a.tagDone.getLsbD c.tag = true))
  ∧ (∀ c i, s.core.flushq.find? (fun c => c.id = s.foc.id) = some c → c.inst = some i →
    (128 < c.len → Answers .mflushComplete s fun t => t.core.flushq = s.core.flushq.map fun x =>
      if x.id = c.id then { x with pa := x.pa + 128, len := x.len - 128 } else x)
    ∧ (c.len ≤ 128 → c.tag < 64 → Answers .mflushComplete s fun t => (∀ x ∈ t.core.flushq, x.id ≠ c.id)
      ∧ ∀ k n, ((s.coreAt k).ctxAt n).inst = some i → ((t.coreAt k).ctxAt n).a.tagDone.getLsbD c.tag = true))
  ∧ (∀ j r, s.core.jobq = j :: r → Answers .jobDispatch s fun t => t.core.jobq = r ∧ ∃ n < 1024,
    t.dev.jobs = s.dev.jobs ++ [{ j with lane := n, st := .queued, free := 8 * s.dev.base }])
  ∧ (∀ j, s.job? = some j →
    (∀ h s2, j.isXdt = false → j.st = .queued ∨ j.st = .running → j.out = [] → j.blk < j.nblk →
      laneBusy j s.dev.jobs = false → j.mayGo s = true → mayDecode j s = true →
      let u := setJob j.id Job.run (s.focusOn j.core j.ctx)
      Reads j.run j.pos 8 u → jobWords j.run j.pos 8 u = (.ok h, s2) →
      (headOk h = false → exec .blockDecode s = .next (jobFault j.run 3 s2))
      ∧ ∀ l tab w s3 out sub nch ob,
        let id := h.getD 3 0 % 16
        let sw := h.getD 3 0 / 2 ^ 5 % 8
        let nc := (h.getD 1 0 + 31) / 32
        let nt := if (h.getD 3 0).testBit 4 then h.getD 3 0 / 2 ^ 16 % 2 ^ 16 * 2 ^ sw / 2 else 0
        headOk h = true → slotWaits j.inst.launch id s2 = false → s2.launchAt j.inst.launch = some l →
        l.dtabs.find? id = some tab → tab.sw = sw → Reads j.run (j.pos + 32) (nc + nt) s2 →
        jobWords j.run (j.pos + 32) (nc + nt) s2 = (.ok w, s3) →
        blockUpTo none j.run h tab (packElems 32 (w.take nc)) (w.drop nc) = (out, sub, nch, ob) → out ≠ [] →
        (s3.dev.jobs.find? fun y => y.id = j.id) = some j.run →
        Answers .blockDecode s fun t => ∃ x, (t.dev.jobs.find? fun y => y.id = j.id) = some x ∧ x.out = out ∧ x.sub = sub
          ∧ x.tid = some id)
    ∧ (∀ c off w r d a, j.st = .running ∨ j.st = .waiting → j.out = (c, off, w) :: r → j.mayGo s = true →
      mayWrite j s = true → readsLeft j.ctx j.inst j.ord (s.focusOn j.core j.ctx) = false →
      spPlace s j.core j.inst.launch j.dstH (BitVec.ofNat 64 off).toNat 4 = some (d, a) → bankFree true (d, lineOf a) s = true →
      ((s.coreAt d).full a = false → Answers .chunkWrite s fun t => (t.coreAt d).sp.read a 4 = w.toNat
        ∧ (t.coreAt d).full a = true)
      ∧ ((s.coreAt d).full a = true → Answers .chunkWrite s fun t => t.job?.map (fun x => x.st) = some .waiting
        ∧ ∀ d, (t.coreAt d).sp = (s.coreAt d).sp))
    ∧ (j.isXdt = false → j.st = .running → j.out = [] → j.nblk ≤ j.blk → j.tag < 64 → Answers .jobComplete s fun t =>
      t.job?.map (fun x => x.st) = some .done
      ∧ ∀ k n, ((s.coreAt k).ctxAt n).inst = some j.inst → ((t.coreAt k).ctxAt n).a.tagDone.getLsbD j.tag = true)
    ∧ (j.isXdt = false → jobParked j s = true → j.mid = false → j.live = true → j.begun = true → j.st ≠ .suspended →
      Answers .jobSuspend s fun t => t.job?.map (fun x => (x.st, x.out, x.chunk)) = some (.suspended, [], j.chunk))
    ∧ (j.st = .suspended → jobParked j s = false → laneBusy j s.dev.jobs = false → Answers .jobResumption s fun t =>
      t.job?.map (fun x => (x.st, x.chunk)) = some (.running, j.chunk))
    ∧ (∀ h w s2 s3 l, j.isXdt = true → j.live = true →
      (s.dev.jobs.any fun x => decide (x.inst.launch = j.inst.launch) && decide (x.tid = some j.slot)) = false →
      Reads j 0 4 (s.focusOn j.core j.ctx) → jobWords j 0 4 (s.focusOn j.core j.ctx) = (.ok h, s2) → tableHeadOk h = true →
      let n := h.headD 0 % 2 ^ 11
      let sw := h.headD 0 / 2 ^ 11 % 8
      Reads j 16 (16 * n) s2 → jobWords j 16 (16 * n) s2 = (.ok w, s3) → s3.launchAt j.inst.launch = some l → j.tag < 64 → w.all (entryOk sw n) = true →
        Answers .xdtComplete s fun t =>
          (∃ m, t.launchAt j.inst.launch = some m ∧ m.dtabs.find? j.slot = some { sw := sw, entries := w })
          ∧ ∀ k n, ((s3.coreAt k).ctxAt n).inst = some j.inst → ((t.coreAt k).ctxAt n).a.tagDone.getLsbD j.tag = true))

/-! ### The scheduler (R280 to R294, R311, R318, R360, R372) -/

/-- Work reaches contexts: a LAUNCH's record enters its queue or is refused, a head is selected, an instance binds in the
state of R283, a context is marked, saved and resumed, the rebalancer parks one, a batch starts (R280 to R283, R289 to R291,
R311, R312, R318). -/
def Obligations.BindingEvents : Prop := ∀ s : State,
  let id := s.foc.id
  (∀ r, s.dev.lreqs.find? (fun r => r.id = id) = some r →
    (s.launchAt r.inst.launch = none → Answers .launchEnqueue s fun t => ∀ x ∈ t.dev.lreqs, x.id ≠ r.id)
    ∧ ∀ l, s.launchAt r.inst.launch = some l →
      let u := s.focusOn r.core r.ctx
      (∀ x, r.got = none → u.core.acc.find? (fun a => a.id = r.id) = some x → x.kind = .record → x.shadow = false →
        eligible u.core x = true → banksFree x u = true →
        Answers .launchEnqueue s fun t => ∀ q ∈ t.dev.lreqs, q.id = r.id → q.got.isSome = true)
      ∧ ∀ v bad, r.got = some (v, bad) → launchMay r u = true →
        (r.loc.st = .revoked ∨ bad.isSome = true → exec .launchEnqueue s = .next (launchFault r 5 u))
        ∧ (r.loc.st ≠ .revoked → bad = none → l.rc.shadow = false → u.resetting l.vf = false →
          (∀ sub, checkRecord u v l.vf l.asid none false = .error sub →
            exec .launchEnqueue s = .next (launchFault r sub (recordTouch v l.vf l.asid false u)))
          ∧ ∀ rc, checkRecord u v l.vf l.asid none false = .ok rc → (springOf u rc.queue).length < 256 →
            Answers .launchEnqueue s fun t => (∀ x ∈ t.dev.lreqs, x.id ≠ r.id) ∧ ∃ q : QRec,
              springOf t rc.queue = springOf u rc.queue ++ [q] ∧ q.rc = { rc with prio := min rc.prio l.rc.prio }
              ∧ q.vf = l.vf ∧ q.asid = l.asid ∧ q.parent = some r.inst.launch ∧ q.replays = 0))
  ∧ (∀ q h rest, s.foc.core < 256 → s.foc.ctx < 4 → s.ctx.st = .free →
    (s.dev.launches.any fun e => e.2.wants && fits e.1 s.foc.core s.foc.ctx s) = false → bestQueue s = some q →
    springOf s q = h :: rest → Answers .launchSelection s fun t => (springOf t q).map (fun r => r.rc) = rest.map (fun r => r.rc)
      ∧ ∃ l, t.launchAt s.uid = some l ∧ l.rc = h.rc ∧ l.vf = h.vf ∧ l.asid = h.asid ∧ l.parent = h.parent
        ∧ l.insts = h.rc.stages.zipIdx.flatMap fun (n, k) => (List.range n.1).map fun i => { stage := k, num := i })
  ∧ (∀ q h rest, bestQueue s = some q → springOf s q = h :: rest → q < 64 ∧ s.resetting h.vf = false
    ∧ ∀ p < 64, ∀ o more, springOf s p = o :: more → s.resetting o.vf = false → effPrio s o ≤ effPrio s h
      ∧ (effPrio s o = effPrio s h → h.headAt ≤ o.headAt ∧ (h.headAt = o.headAt → q ≤ p)))
  ∧ (∀ l r, s.launchAt id = some l → l.nextNew = some r → fits id s.foc.core s.foc.ctx s = true →
    batchWaits s.foc.core s = false → Answers .instanceBind s fun t => let a := t.ctx.a
      t.ctx.inst = some { launch := id, stage := r.stage, num := r.num } ∧ t.ctx.st = .ready ∧ t.ctx.hmode = false
      ∧ a.pc = BitVec.ofNat 64 (l.rc.code + 4 * (l.rc.stages.getD r.stage (1, 0)).2) ∧ a.idx = 0
      ∧ (∀ n, a.sReg n = 0) ∧ (∀ n, a.vReg n = {}) ∧ (∀ n, n < 32 → a.mReg n = {}) ∧ (∀ n, n ≠ 0 → a.pReg n = 0)
      ∧ (∀ n, (a.h.get n {}).st = .empty) ∧ a.lp0 = {} ∧ a.lp1 = {} ∧ a.tagDone = 0 ∧ a.tagPend = 0 ∧ a.queue = []
      ∧ a.check = true ∧ a.lent = 0 ∧ a.spill.read 0x1000 8 = r.num % 1024 + r.stage % 16 * 65536
      ∧ (l.rc.plen ≤ 4096 → a.spill.read 0 l.rc.plen = l.rc.pblock % 256 ^ l.rc.plen)
      ∧ (t.core.region? id).isSome = true
      ∧ InstIs t { launch := id, stage := r.stage, num := r.num } fun x => x.st = .bound s.foc.core s.foc.ctx)
  ∧ (∀ l o i r, s.launchAt id = some l → s.ctx.inst = some i → l.nextWant = some r → s.launchAt i.launch = some o →
    (∀ k < 256, ∀ n < 4, fits id k n s = false) → fitsOn id s.foc.core s.foc.ctx (some s.foc.ctx) s = true →
    (∀ e ∈ s.cores, ∀ x ∈ e.2.ctxs, x.2.saveFor ≠ some (.preempt id r.stage r.num)) → o.rc.prio < l.rc.prio →
    s.ctx.saveFor = none → i.batch = none → s.ctx.st = .issuing → Answers .preemption s fun t =>
      t.ctx.saveFor = some (.preempt id r.stage r.num) ∧ t.ctx.a = s.ctx.a)
  ∧ (∀ i b, s.ctx.inst = some i → s.ctx.st ≠ .saving → s.ctx.saveFor = some (.move b) → atDrain s = true →
    Answers .contextSave s fun t => t.ctx.st = .saving ∧ t.ctx.seg = none)
  ∧ (∀ i, s.ctx.inst = some i → s.ctx.st = .saving → s.ctx.saveFor = none → settled s = true →
    (∀ e ∈ s.ctx.a.queue, e.ready s.cyc = true) → promotableAll s.core = true → InstIs s i (fun _ => True) → Answers .contextSave s fun t =>
      t.ctx.st = .free ∧ t.ctx.inst = none ∧ InstIs t i fun r => r.st = .saved ∧ r.hs = s.ctx.hs
        ∧ r.saved = some { s.ctx.a with queue := s.ctx.a.queue.map fun e => { e with due := none, arrived := true } })
  ∧ (∀ l r a, s.launchAt id = some l → l.insts.find? (fun r => r.st = .saved) = some r → r.saved = some a →
    fits id s.foc.core s.foc.ctx s = true → batchWaits s.foc.core s = false → Answers .contextResume s fun t =>
      t.ctx.a = a ∧ t.ctx.st = .ready ∧ t.ctx.inst = some { launch := id, stage := r.stage, num := r.num } ∧ t.ctx.hs = r.hs
      ∧ t.ctx.noStall = r.sNoStall ∧ t.ctx.watches = r.watches)
  ∧ (s.core.clk % 4096 ≠ 0 → exec .rebalanceCheck s = .next s)
  ∧ (∀ n b, s.core.clk % 4096 = 0 → rebalanceFind s = some (n, b) → Answers .rebalanceCheck s fun t =>
    (t.core.ctxAt n).st = .saving ∧ (t.core.ctxAt n).saveFor = some (.move b) ∧ ∀ m, m ≠ n → t.core.ctxAt m = s.core.ctxAt m)
  ∧ (∀ b l, s.ctx.st = .free → nextBatch s = some b → s.launchAt b.inst.launch = some l →
    (∀ a ∈ s.core.waiting, a.ctx = b.ctx → b.mark ≤ a.id) → Answers .deferralBatchStart s fun t => let a := t.ctx.a
      t.ctx.st = .ready ∧ t.ctx.inst = some { b.inst with batch := some (b.path, b.ctx) }
      ∧ t.core.batches = s.core.batches.erase b
      ∧ a.pc = BitVec.ofNat 64 (l.rc.code + 4 * b.entry) ∧ a.sReg 1 = BitVec.ofNat 64 b.ents.length
      ∧ a.sReg 2 = BitVec.ofNat 64 b.path ∧ (∀ n < 128, (a.pReg 1).getLsbD n = decide (n < b.ents.length))
      ∧ ∀ n < 128, ∀ e, b.ents[n]? = some e → lane (a.vReg 4).bits n = e.lane
        ∧ ∀ r < 4, lane (a.vReg r).bits n = e.vals.getD r 0)

/-- Work ends: an instance and a batch, a launch, its completion word, its watchdog, a replay, and a change of priority (R85,
R281, R293, R294, R318, R360, R372). -/
def Obligations.LaunchEnds : Prop := ∀ s : State,
  let id := s.foc.id
  (∀ i, s.ctx.st = .ended → s.ctx.inst = some i → through s = true →
    (i.batch = none → (∀ e ∈ s.cores, ∀ d ∈ e.2.defq, d.inst ≠ i) → batchLive i s = false → InstIs s i (fun _ => True) →
      Answers .stageInstanceEnd s fun t =>
        t.ctx.st = .free ∧ t.ctx.inst = none ∧ InstIs t i fun r => r.st = .ended ∧ r.events = 0)
    ∧ (∀ p o, i.batch = some (p, o) → (∀ a ∈ s.core.acc, a.ctx = s.foc.ctx → a.onPathA = false) →
      let own := o = s.foc.ctx ∧ InstIs s i fun r => r.st = .bound s.foc.core s.foc.ctx
      Answers .stageInstanceEnd s fun t => (own → t.ctx.st = .ended ∧ t.ctx.inst = some { i with batch := none })
        ∧ (¬own → t.ctx.st = .free ∧ t.ctx.inst = none)))
  ∧ (∀ l, s.launchAt id = some l → l.complete = false → launchThrough id l s = true → l.killed = false →
    l.rc.shadow = false → l.later = [] → Answers .launchComplete s fun t => (∀ c, (t.coreAt c).region? id = none)
      ∧ t.dev.hbm = s.dev.hbm ∧ ∃ m, t.launchAt id = some m ∧ m.complete = true ∧ m.wordDue = true ∧ m.insts = l.insts)
  ∧ (∀ l, s.launchAt id = some l → l.wordDue = true →
    let v := if l.killed then 2 else 1
    let w := l.rc.compl
    (∀ h, w.testBit 63 = false → walkPage s.dev l.asid (w % 2 ^ 52) = some h → h.wr = true → Answers .completionWordWrite s
      fun t => t = forgetLaunch id (homeWrite (h.pa + w % 2 ^ 52 % pageBytes h.psz) 4 v h.key l.vf s) ∧ t.launchAt id = none)
    ∧ (∀ p r, w.testBit 63 = true → l.parent = some p → (s.coreAt (w / 2 ^ 22 % 2 ^ 8)).region? p = some r →
      w % 2 ^ 22 + 4 ≤ r.size →
      let c := w / 2 ^ 22 % 2 ^ 8
      let a := r.base + w % 2 ^ 22
      pondSpace s c a 4 = none →
      ((s.coreAt c).full a = false → Answers .completionWordWrite s fun t => (t.coreAt c).sp.read a 4 = v
        ∧ (t.coreAt c).full a = true ∧ t.launchAt id = none)
      ∧ ((s.coreAt c).full a = true → exec .completionWordWrite s = .next s)))
  ∧ (∀ l, s.launchAt id = some l → watchdogDue l s = true → l.rc.shadow = false → Answers .launchWatchdogExpiry s fun t =>
    Evicted t id ∧ (∀ c, regionBusy id c t = false → (t.coreAt c).region? id = none)
    ∧ ∃ m, t.launchAt id = some m ∧ m.killed = true ∧ ∀ r ∈ m.insts, r.st = .ended)
  ∧ (∀ l, s.launchAt id = some l → s.foc.aux ≠ 1 → l.complete = false → l.rc.shadow = true →
    l.replays + 1 ≤ s.limit l.vf 3 → (springOf s l.rc.queue).length < 256 → Answers .launchReplay s fun t =>
      Evicted t id ∧ t.launchAt id = none ∧ ∃ q : QRec, springOf t l.rc.queue = springOf s l.rc.queue ++ [q] ∧ q.rc = l.rc
        ∧ q.vf = l.vf ∧ q.asid = l.asid ∧ q.parent = l.parent ∧ q.replays = l.replays + 1)
  ∧ (∀ l, s.launchAt id = some l → s.foc.aux ≠ 1 → l.complete = false → l.rc.shadow = true →
    s.limit l.vf 3 < l.replays + 1 → Answers .launchReplay s fun t =>
      Evicted t id ∧ ∃ m, t.launchAt id = some m ∧ m.killed = true)
  ∧ (∀ q pos prio r, id = 0 → (springOf s q)[pos]? = some r → Answers (.recordPrioChange q pos prio) s fun t =>
    (springOf t q)[pos]? = some { r with rc := { r.rc with prio := prio % 8 } }
    ∧ ∀ n, n ≠ pos → (springOf t q)[n]? = (springOf s q)[n]?)
  ∧ (∀ q pos prio l, id ≠ 0 → s.launchAt id = some l → Answers (.recordPrioChange q pos prio) s fun t =>
    t.launchAt id = some { l with rc := { l.rc with prio := prio % 8 } })

/-! ### Firmware (R324, R330, R334 to R340, R352 to R357, R375, R376, R388 to R390) -/

/-- What firmware writes through KDDATA: address-space and key-slot descriptors, the key port, limits, grants, the flush
command, whose range must end in HBM; a key's unloading, which waits until every line under the key may leave its core; shoot-downs
(R155, R324, R330, R337, R340, R388). What is out of range sets ERR and writes nothing. -/
def Obligations.FirmwareWrites : Prop := ∀ (s : State) (n w : Nat),
  (n < 4096 → Answers (.addressSpaceDescriptorWrite n w) s fun t =>
    kdRead t 1 n = BitVec.ofNat 64 (w / 2 ^ 63 % 2 * 2 ^ 63 + w / 2 ^ 16 % 2 ^ 35 * 2 ^ 16)
    ∧ ∀ m, m ≠ n → t.dev.asd.get m 0 = s.dev.asd.get m 0)
  ∧ (4096 ≤ n → Refused (.addressSpaceDescriptorWrite n w) s)
  ∧ (0 < n → n < 1024 → Answers (.keySlotDescriptorWrite n w) s fun t => let k := t.dev.keys.get n {}
    k.glob = w.testBit 6 ∧ k.owner = w % 32 ∧ k.loaded = (s.dev.keys.get n {}).loaded ∧ k.key = (s.dev.keys.get n {}).key)
  ∧ exec (.keySlotDescriptorWrite 0 w) s = .next s
  ∧ (1024 ≤ n → Refused (.keySlotDescriptorWrite n w) s ∧ Refused (.keyPortWrite n w) s)
  ∧ (n < 1024 → (s.dev.keys.get n {}).loaded = true → Refused (.keyPortWrite n w) s)
  ∧ (n < 1024 → (s.dev.keys.get n {}).loaded = false → let l := s.dev.keyPort.get n []
    Answers (.keyPortWrite n w) s fun t => let k := t.dev.keys.get n {}
      (l.length < 7 → k = s.dev.keys.get n {} ∧ t.dev.keyPort.get n [] = l ++ [BitVec.ofNat 64 w])
      ∧ (7 ≤ l.length → k.loaded = true ∧ k.key = l ++ [BitVec.ofNat 64 w] ∧ t.dev.keyPort.get n [] = []))
  ∧ (0 < n → n < 1024 → (s.dev.keys.get n {}).loaded = true →
    (unloadReady n s = true → Answers (.keySlotUnload n) s fun t => let k := t.dev.keys.get n {}
      k.loaded = false ∧ k.key = [] ∧ (∀ e ∈ t.dev.blockKey, e.2 ≠ n)
      ∧ ∀ l ∈ t.dev.launches, ∀ u ∈ l.2.shadow, ∀ e ∈ u.2.keys, e.2 ≠ n)
    ∧ (unloadReady n s = false → Answers (.keySlotUnload n) s fun t => t.dev.keys = s.dev.keys ∧ n ∈ t.dev.unloads))
  ∧ (exec (.keySlotUnload 0) s = .next s)
  ∧ (n < 256 → limitOk (n % 8) w = true → Answers (.functionLimitsWrite n w) s fun t => t.limit (n / 8) (n % 8) = w
    ∧ ∀ m, m ≠ n → t.limit (m / 8) (m % 8) = s.limit (m / 8) (m % 8))
  ∧ (256 ≤ n ∨ limitOk (n % 8) w = false → Refused (.functionLimitsWrite n w) s)
  ∧ (n < 256 → w < 64 → Answers (.hostQueueGrantWrite n w) s fun t =>
    (queueAt t n).grant = if w.testBit 5 then some (w % 32) else none)
  ∧ (256 ≤ n ∨ 64 ≤ w → Refused (.hostQueueGrantWrite n w) s)
  ∧ (let pa := s.dev.flushA.toNat
    let op := s.dev.flushK.toNat / 2 ^ 16 % 4
    (w ≠ 0 → w % 128 = 0 → op ≠ 0 → s.dev.flush = none → pa + w ≤ 0x6000000000 → Answers (.flushCommand w) s fun t =>
      kdRead t 10 2 = 1 ∧ ∃ c, t.dev.flush = some c ∧ c.pa = pa ∧ c.len = w ∧ c.op = op ∧ c.key = s.dev.flushK.toNat % 1024)
    ∧ (w = 0 ∨ w % 128 ≠ 0 ∨ op = 0 ∨ s.dev.flush.isSome = true ∨ 0x6000000000 < pa + w → Refused (.flushCommand w) s))
  ∧ (∀ c, s.dev.flush = some c → Answers .flushCommandComplete s fun t =>
    (c.len ≤ 128 → kdRead t 10 2 = 0)
    ∧ (128 < c.len → t.dev.flush = some { c with pa := c.pa + 128, len := c.len - 128 }))
  ∧ (∀ asid wb va count, asid < 4096 → Answers (.shootDownCommand asid 1 wb va count) s fun t =>
    (∀ c, ∀ h ∈ (t.coreAt c).tlb, h.asid ≠ asid)
    ∧ (∀ c n m, let h := ((t.coreAt c).ctxAt n).a.h.get m {}; h.st = .valid → h.asid ≠ asid)
    ∧ t.dev.shoot.length = s.dev.shoot.length + 1 ∧ kdRead t 4 0 = 1)
  ∧ (∀ asid wb va count, asid < 4096 → 0 < count → count < 2 ^ 20 → va < 2 ^ 36 →
    Answers (.shootDownCommand asid 0 wb va count) s fun t => ∀ c n m, let h := ((t.coreAt c).ctxAt n).a.h.get m {}
      h = (((s.coreAt c).ctxAt n).a.h.get m {}) ∨ h = { ((s.coreAt c).ctxAt n).a.h.get m {} with st := .revoked }
        ∧ h.asid = asid ∧ 65536 * va < h.va + pageBytes h.psz ∧ h.va < 65536 * (va + count))
  ∧ (∀ c, s.dev.shoot = [c] → shootDone c s = true → Answers .shootDownAcknowledge s fun t => kdRead t 4 0 = 0)

/-- A function-level reset, the answers to traps and services, the firmware's own swap and restart, and the retirement of
banks: into a spare line by line, each locked while it moves, and without a spare after over-capacity is raised where the bank is in use
(R334, R335, R352, R355, R357, R360, R375 to R377, R390). A page fault adds to the pool what the function's grant has left, and is the
only trap of handler mode that is resumed (log 87). -/
def Obligations.FirmwareCommands : Prop := ∀ (s : State) (n w : Nat),
  (0 < n → n < 32 → s.resetting n = false → Answers (.functionLevelReset n) s fun t => t.resetting n = true
    ∧ ∀ id l, s.launchAt id = some l → l.vf = n → Evicted t id ∧ ∃ m, t.launchAt id = some m ∧ ∀ r ∈ m.insts, r.st = .ended)
  ∧ (0 < n → n < 32 → s.resetting n = true → flrQuiet n s = true → Answers (.functionLevelReset n) s fun t =>
    t.resetting n = false ∧ (∀ q, ∀ r ∈ springOf t q, r.vf ≠ n)
    ∧ ∀ q, (queueAt s q).grant = some n → (queueAt t q).en = false ∧ (queueAt t q).rc = 0 ∧ (queueAt t q).wc = 0)
  ∧ (∀ f ∈ s.dev.flr, f.since + 2 ^ 21 ≤ s.dev.base → Answers (.functionResetTimeout f.vf) s fun t =>
    t.dev.fwDown = true ∧ 4 ≤ t.dev.ladder ∧ t.cores = s.cores)
  ∧ (asyncCause n = false → exec (.pendingTrap n w) s = .next s)
  ∧ (s.ctx.inst.isSome = true → asyncCause n = true → Answers (.pendingTrap n w) s fun t => ∃ q, t.ctx.pend = s.ctx.pend ++ [q]
    ∧ q.cause = n ∧ q.info = BitVec.ofNat 64 w ∧ q.defer = decide (s.ctx.st ≠ .issuing) ∧ q.before = true
    ∧ t.ctx.a = s.ctx.a)
  ∧ (firmwareUp s = true → ∀ q, s.ctx.fwHeld = some q →
    (∀ sd code, s.ctx.wait = some .service → s.ctx.svc = some (sd, code) → Answers (.serviceAnswer w) s fun t =>
      t.ctx.st = .ready ∧ t.ctx.resume = some (q.owed, some (sd, BitVec.ofNat 64 w)) ∧ t.ctx.a = s.ctx.a)
    ∧ (s.ctx.wait = some .firmware → q.cause ≠ 0x12 → ¬(q.cause = 0x14 ∧ q.info.toNat % 256 = 7) →
      (s.ctx.hmode = true ∨ q.hm = true → q.cause ≠ 0x0B → exec .firmwareTrapResume s = .next s)
      ∧ ((s.ctx.hmode = true ∨ q.hm = true → q.cause = 0x0B) → Answers .firmwareTrapResume s fun t =>
        t.ctx.st = .ready ∧ t.ctx.resume = some (q.owed, none) ∧ t.ctx.a = s.ctx.a
        ∧ let n := min s.foc.aux (s.grantOf s.vfid)
          t.poolOf s.vfid = s.poolOf s.vfid + n ∧ t.grantOf s.vfid = s.grantOf s.vfid - n)
      ∧ ∀ l, s.launch? = some l →
        (l.rc.hnd = true → s.ctx.hmode = false → Answers .firmwareTrapForward s fun t => t.ctx.st = .ready ∧ t.ctx.hmode = true
          ∧ t.ctx.a.pc = BitVec.ofNat 64 (l.rc.code + l.rc.handler) ∧ t.ctx.tpc = s.ctx.a.pc ∧ t.ctx.tinfo = q.info
          ∧ t.ctx.cause.toNat % 256 = q.cause % 256 ∧ t.ctx.cause.getLsbD 14 = true ∧ t.ctx.fwHeld = none)
        ∧ (l.rc.hnd = false ∨ s.ctx.hmode = true → Answers .firmwareTrapForward s fun t => ∃ m, t.launch? = some m
          ∧ m.killed = true)))
  ∧ (s.foc.aux = 0 → s.dev.fwStatus ≠ 2 → s.dev.fwStatus ≠ 3 → s.dev.fwDown = false → Answers .firmwareSwapGo s fun t =>
    t.dev.fwStatus = 2 ∧ t.dev.fwSince = s.dev.base)
  ∧ (s.foc.aux = 1 → s.dev.fwStatus = 2 → s.dev.base < s.dev.fwSince + 2 ^ 24 → Answers .firmwareSwapGo s fun t =>
    t.dev.fwRun = s.dev.fwRun
    ∧ (imageOk s s.dev.fwStage.toNat = true → t.dev.fwStatus = 3 ∧ t.dev.fwImage = some t.dev.fwStaged
      ∧ t.dev.fwStaged.toNat = s.dev.hostMem.read (hostAddr s.dev.fwStage.toNat + 4) 4 % 2 ^ 32)
    ∧ (imageOk s s.dev.fwStage.toNat = false → t.dev.fwStatus = 1 ∧ t.dev.fwImage = s.dev.fwImage))
  ∧ (∀ v, s.foc.aux = 2 → s.dev.fwStatus = 3 → s.dev.base < s.dev.fwSince + 2 ^ 24 → s.dev.fwImage = some v →
    Answers .firmwareSwapGo s fun t => t.dev.fwStatus = 4 ∧ t.dev.fwRun = v)
  ∧ (s.dev.fwStatus = 2 ∨ s.dev.fwStatus = 3 → s.dev.fwSince + 2 ^ 24 ≤ s.dev.base →
    ∀ i, i = .firmwareSwapTimeout ∨ (i = .firmwareSwapGo ∧ s.foc.aux ≠ 0) → Answers i s fun t =>
      t.dev.fwStatus = 5 ∧ t.dev.fwDown = true ∧ t.dev.fwRun = s.dev.fwRun)
  ∧ (s.dev.fwDown = false → Answers .wellheadRestart s fun t => t.dev.fwDown = true ∧ t.cores = s.cores)
  ∧ (s.dev.fwDown = true → Answers .wellheadRestart s fun t => t.dev.fwDown = false ∧ t.dev.ladder = 0 ∧ t.cores = s.cores
    ∧ t.dev.fwRun = s.dev.fwImage.getD s.dev.fwRun)
  ∧ (let i := n / 2 ^ 32 % 2 ^ 8
    let kind := n / 2 ^ 24 % 2 ^ 8
    let p := n % 2 ^ 8
    let slice := decide (kind = 2)
    (kind ≤ 2 → (kind = 2 → i < 128) → p ∈ banksOf kind → Answers (.bankStatusWrite n w) s fun t =>
      kdRead t 5 n = BitVec.ofNat 64 (w / 2 ^ 48 % 2 ^ 16 * 2 ^ 48 + (kdRead s 5 n).toNat % 2 ^ 48))
    ∧ (2 < kind ∨ (kind = 2 ∧ 128 ≤ i) ∨ p ∉ banksOf kind → Refused (.bankStatusWrite n w) s)
    ∧ (2 < kind ∨ (kind = 2 ∧ 128 ≤ i) → Refused (.retirementCommand n w) s)
    ∧ (kind ≤ 2 → (kind = 2 → i < 128) → (retireOf slice i s).isSome = true ∨ w.testBit 63 = false →
      Answers (.retirementCommand n w) s fun t => (kdRead t 6 n).toNat % 256 = w % 256 ∧ retireOf slice i t = retireOf slice i s)
    ∧ (kind ≤ 2 → (kind = 2 → i < 128) → retireOf slice i s = none → w.testBit 63 = true →
      let b := w % 2 ^ 8
      let k := bankKind slice b
      b ∈ banksOf k → bankState (bankWord (bankTable slice i s) k b) = 1 →
      (∃ q ∈ banksOf k, bankState (bankWord (bankTable slice i s) k q) = 0) → Answers (.retirementCommand n w) s fun t =>
        (kdRead t 6 n).getLsbD 63 = true ∧ bankState (bankWord (bankTable slice i t) k b) = 2)
    ∧ (kind ≤ 1 → retireOf slice i s = none → w.testBit 63 = true →
      let b := w % 2 ^ 8
      let k := bankKind slice b
      b ∈ banksOf k → bankState (bankWord (bankTable slice i s) k b) = 1 →
      (∀ q ∈ banksOf k, bankState (bankWord (bankTable slice i s) k q) ≠ 0) → Answers (.retirementCommand n w) s fun t =>
        (∃ r, (t.coreAt i).retire = some r ∧ r.wait = true ∧ r.src = b ∧ r.kind = k)
        ∧ ∀ m x, ((s.coreAt i).ctxAt m).inst = some x → ((s.coreAt i).ctxAt m).st ≠ .free →
          (k = 0 ∧ x.launch ∈ topLaunches (s.coreAt i)) ∨ (k = 1 ∧ (s.coreAt i).loser.1 = m) →
          ∃ o ∈ ((t.coreAt i).ctxAt m).pend, o.cause = 0x12))
  ∧ (∀ r, s.foc.aux = 0 → s.core.retire = some r →
    (r.wait = true → s.core.vacated = false → exec .bankLineMove s = .next s)
    ∧ (r.wait = true → s.core.vacated = true → r.kind = 0 → Answers .bankLineMove s fun t =>
      t.core.spLog = s.core.spLog - 4 ∧ t.core.l1 = [] ∧ t.core.plog = [])
    ∧ (r.wait = false → r.locked = false → Answers .bankLineMove s fun t => t.core.sp = s.core.sp
      ∧ t.core.retire = some { r with locked := true, age := 0 })
    ∧ (r.wait = false → r.locked = true → Answers .bankLineMove s fun t => t.core.sp = s.core.sp
      ∧ (r.moved + 1 < r.lines → t.core.retire = some { r with moved := r.moved + 1, locked := false, age := 0 })
      ∧ (r.lines ≤ r.moved + 1 → t.core.retire = none ∧ bankState (t.core.banks.get r.src 0) = 3
        ∧ bankLogical (t.core.banks.get r.src 0) = 0xFF
        ∧ t.dev.record = s.dev.record ++ [(bankKind false r.src, s.foc.core, r.src)])))

/-! ### The host, the links and the package (R373, R374, R382 to R387, R394, R395) -/

/-- Host queues, their registers by number and by offset in BAR 0, the registers that the host and the wellheads write, CXL.mem through a
port that carries it, a completion timeout, tarn ports and collective channels (R373, R374, R382 to R388, R392). -/
def Obligations.HostEvents : Prop := ∀ (s : State) (q n w : Nat),
  let vf := s.foc.aux
  let h := queueAt s q
  (reaches vf q s = true →
    (h.st ≠ 2 → s.resetting vf = false → Answers (.qwcDoorbell q n) s fun t =>
      ((BitVec.ofNat 32 n - h.rc).toNat ≤ 2 ^ h.lsz → queueAt t q =
        { h with wc := BitVec.ofNat 32 n, since := if h.rc = h.wc then s.dev.base else h.since })
      ∧ (2 ^ h.lsz < (BitVec.ofNat 32 n - h.rc).toNat → queueAt t q = { h with st := 2 }))
    ∧ (h.st = 2 → exec (.qwcDoorbell q n) s = .next s)
    ∧ (Answers (.qctlRst q) s fun t => queueAt t q = { h with rc := 0, wc := 0, st := 0, en := false, nref := 0, lastref := 0 })
    ∧ (Answers (.registerWrite 1 q w) s fun t => queueAt t q = { h with base := BitVec.ofNat 64 (w % 2 ^ 64 / 4096 * 4096) })
    ∧ (w < 2 ^ 32 → Answers (.registerWrite 2 q w) s fun t => (queueAt t q).lsz = w / 2 ^ 24 % 32
      ∧ (queueAt t q).asid = w % 4096
      ∧ ((queueAt t q).en = true ↔ w.testBit 31 = true ∧ 3 ≤ w / 2 ^ 24 % 32 ∧ w / 2 ^ 24 % 32 ≤ 16))
    ∧ (w.testBit 32 = true → exec (.registerWrite 2 q w) s = exec (.qctlRst q) s))
  ∧ (q < 256 → exec (.registerWrite 9 (0x1000 + 32 * q) w) s = exec (.registerWrite 1 q w) s
    ∧ exec (.registerWrite 9 (0x1000 + 32 * q + 8) w) s = exec (.registerWrite 2 q w) s
    ∧ exec (.registerWrite 9 (0x1000 + 32 * q + 16) w) s = exec (.qwcDoorbell q w) s)
  ∧ (reaches vf q s = false → exec (.qwcDoorbell q n) s = .next s ∧ exec (.qctlRst q) s = .next s
    ∧ exec (.registerWrite 1 q w) s = .next s ∧ exec (.registerWrite 2 q w) s = .next s)
  ∧ (n < 8 → (s.hart n).mode = 3 → Answers (.registerWrite 0 n w) s fun t => (t.dev.kdsel.get n 0).toNat / 2 ^ 56 = w / 2 ^ 56 % 256
    ∧ (t.dev.kdsel.get n 0).toNat % 2 ^ 40 = w % 2 ^ 40
    ∧ ((t.dev.kdsel.get n 0).getLsbD 55 = true ↔ (s.dev.kdsel.get n 0).getLsbD 55 = true ∧ w.testBit 55 = false))
  ∧ (560 ≤ w → w ≤ 840 → Answers (.registerWrite 4 n w) s fun t => t.dev.throt = w)
  ∧ (w < 560 ∨ 840 < w → Refused (.registerWrite 4 n w) s)
  ∧ (Answers (.registerWrite 3 n w) s fun t => t.dev.fwStage.toNat = w % 2 ^ 64 / 4096 * 4096 ∧ capWord t 4 2 = t.dev.fwStage)
  ∧ (w < 0x6000000000 → w % 128 = 0 → Answers (.registerWrite 5 n w) s fun t => kdRead t 10 0 = BitVec.ofNat 64 w)
  ∧ (0x6000000000 ≤ w ∨ w % 128 ≠ 0 → Refused (.registerWrite 5 n w) s)
  ∧ (let ok := w < 2 ^ 18 ∧ w / 2 ^ 10 % 64 = 0 ∧ w / 2 ^ 16 % 4 ≠ 0
    (ok → Answers (.registerWrite 6 n w) s fun t => kdRead t 10 1 = BitVec.ofNat 64 w)
    ∧ (¬ok → Refused (.registerWrite 6 n w) s))
  ∧ (n < 8 → let sel := (s.dev.kdsel.get n 0).toNat
    (s.hart n).mode = 3 → sel / 2 ^ 56 = 1 → sel % 2 ^ 40 < 4096 → Answers (.registerWrite 7 n w) s fun t =>
      kdData t n = BitVec.ofNat 64 (w / 2 ^ 63 % 2 * 2 ^ 63 + w / 2 ^ 16 % 2 ^ 35 * 2 ^ 16))
  ∧ (n < 8 → (s.hart n).mode ≠ 3 → let x := s.modDev fun d =>
      { d with harts := d.harts.set n { mode := 3, before := (s.hart n).mode, cause := 2 } }
    exec (.registerWrite 0 n w) s = .next x ∧ exec (.registerWrite 7 n w) s = .next x)
  ∧ (n < 8 → w = 0 ∨ w = 1 ∨ w = 3 → Answers (.registerWrite 12 n w) s fun t => (t.hart n).mode = w ∧ t.dev.kdsel = s.dev.kdsel)
  ∧ (12 < n → exec (.registerWrite n q w) s = .next s)
  ∧ (q = s.foc.id → s.hostUp = false → exec .queueEntryConsume s = .next s)
  ∧ (q = s.foc.id → vf = 1 → queueLate q s = true → Answers .hostCompletionTimeout s fun t => t.dev.springs = s.dev.springs
    ∧ queueAt t q = { h with rc := h.rc + 1, nref := min 0xFFFF (h.nref + 1), lastref := 5, since := s.dev.base })
  ∧ (∀ x g, q = s.foc.id → mayConsume q s = true → s.hostUp = true → h.grant = some g →
    let a := hostAddr (h.base.toNat + 128 * (h.rc.toNat % 2 ^ h.lsz))
    s.dev.hostMem.read a 128 = x →
    (badGlobal s a 128 = true → Answers .queueEntryConsume s fun t =>
      queueAt t q = { h with rc := h.rc + 1, nref := min 0xFFFF (h.nref + 1), lastref := 5, since := s.dev.base } ∧ t.dev.springs = s.dev.springs)
    ∧ (badGlobal s a 128 = false → ∀ sub, checkRecord s x g h.asid none true = .error sub → Answers .queueEntryConsume s fun t =>
      queueAt t q = { h with rc := h.rc + 1, nref := min 0xFFFF (h.nref + 1), lastref := sub, since := s.dev.base } ∧ t.dev.springs = s.dev.springs)
    ∧ (badGlobal s a 128 = false → ∀ rc, checkRecord s x g h.asid none true = .ok rc → (springOf s rc.queue).length < 256 →
      Answers .queueEntryConsume s fun t => queueAt t q = { h with rc := h.rc + 1, since := s.dev.base } ∧ ∃ r : QRec,
        springOf t rc.queue = springOf s rc.queue ++ [r] ∧ r.rc = rc ∧ r.vf = g ∧ r.asid = h.asid ∧ r.parent = none))
  ∧ (∀ addr, let k := if vf = 0 then 64 else vf
    (s.hostUp = false → exec (.hostMemoryAccess w addr n) s = .next s)
    ∧ (s.hostUp = true → addr + k ≤ 0x6000000000 →
      exec (.hostMemoryAccess 0 addr n) s = .next (s.modDev (touchAll addr k 0 0))
      ∧ exec (.hostMemoryAccess 1 addr n) s = .next (homeWrite addr k n 0 0 s))
    ∧ (s.hostUp = true → 0x6000000000 < addr + k → exec (.hostMemoryAccess w addr n) s = .fault (.unbackedPhysical addr)))
  ∧ (∀ vf since, s.hostLate vf since = true ↔ since + 1600000 * s.limit vf 6 ≤ s.dev.base)
  ∧ (∀ a, vf ≠ 1 → s.core.acc.find? (fun a => a.id = s.foc.id) = some a → a.toHost = true →
    let line := (a.lines.filter inHost).headD 0
    (s.hostLate a.vf a.since = false → exec .hostCompletionTimeout s = .next s)
    ∧ (s.hostLate a.vf a.since = true →
    (a.kind = .load → exec .hostCompletionTimeout s = .next (fillEntry a.ctx a.entry 0 (some (3, line)) (dropAccess a s)))
    ∧ (a.kind = .record → Answers .hostCompletionTimeout s fun t => a ∉ t.core.acc
      ∧ ∀ r ∈ t.dev.lreqs, r.id = a.id → r.got = some (0, some (3, line)))
    ∧ (a.kind = .store → Answers .hostCompletionTimeout s fun t => a ∉ t.core.acc ∧ t.dev.hostMem = s.dev.hostMem
      ∧ t.dev.linkErr = s.dev.linkErr + 1)))
  ∧ (n < 16 → portSt s n = 2 → let p := portOf s n
    exec (.linkFlitReceive n 1) s = .next s
    ∧ (Answers (.linkFlitReceive n 0) s fun t => portOf t n / 2 ^ 48 = min (p / 2 ^ 48 + 1) 0xFFFF
      ∧ ((recentRetries s n).length < 1024 → portSt t n = 2)
      ∧ (1024 ≤ (recentRetries s n).length → portSt t n = 3 ∧ ∀ x ∈ t.dev.tokens, x.1 ≠ n)
      ∧ portOf t n / 2 ^ 32 % 2 ^ 16 = p / 2 ^ 32 % 2 ^ 16 ∧ recentRetries t n = s.dev.base :: recentRetries s n)
    ∧ (1024 < (recentRetries s n).length → Answers (.linkPortFail n) s fun t => portSt t n = 3
      ∧ ∀ x ∈ t.dev.tokens, x.1 ≠ n)
    ∧ ((recentRetries s n).length ≤ 1024 → exec (.linkPortFail n) s = .next s))
  ∧ (∀ st peer degr, n < 16 → st ≤ 2 → Answers (.tarnLinkTraining n st peer degr) s fun t => portSt t n = st
    ∧ portOf t n / 2 ^ 32 % 2 ^ 16 = peer % 2 ^ 16 ∧ portOf t n / 2 ^ 4 % 2 = degr % 2)
  ∧ (n < 256 → Answers (.collectiveChannelWrite n w) s fun t =>
    kdRead t 7 n = BitVec.ofNat 64 (w / 2 ^ 32 % 2 ^ 32 * 2 ^ 32 + w % 2 ^ 17)
    ∧ (s.foc.id ≠ 0 → t.dev.chanUse.get n 0 = s.foc.id)
    ∧ ∀ x ∈ t.dev.chanBuf, x.1 = n → newerAttempt (w / 2 ^ 48 % 2 ^ 16) x.2.1 = false)
  ∧ (256 ≤ n → Refused (.collectiveChannelWrite n w) s)
  ∧ (∀ a, let cur := chanOf s n / 2 ^ 48
    a < 65536 → (portSt s s.foc.id ≠ 2 ∨ (chanOf s n).testBit 16 = false ∨ s.resetting vf = true →
      exec (.collectivePacketReceive n a w) s = .next s) ∧
    (portSt s s.foc.id = 2 → (chanOf s n).testBit 16 = true → s.resetting vf = false →
    (a = cur → Answers (.collectivePacketReceive n a w) s fun t => t.dev.chanBuf = s.dev.chanBuf ++ [(n, a, w, vf)]
      ∧ t.dev.chans = s.dev.chans)
    ∧ (newerAttempt a cur = true → Answers (.collectivePacketReceive n a w) s fun t => chanOf t n / 2 ^ 48 = a
      ∧ (n, a, w, vf) ∈ t.dev.chanBuf ∧ ∀ p < 16, (chanOf s n).testBit p = true → p ≠ s.foc.id → portSt s p ≠ 3 →
        (p, n, a) ∈ t.dev.tokens)
    ∧ (a ≠ cur → newerAttempt a cur = false → Answers (.collectivePacketReceive n a w) s fun t =>
      t.dev.chanBuf = s.dev.chanBuf ∧ chanOf t n / 2 ^ 48 = cur
      ∧ chanOf t n / 2 ^ 32 % 2 ^ 16 = min 0xFFFF (chanOf s n / 2 ^ 32 % 2 ^ 16 + 1))))
  ∧ (n < 256 → let a := (chanOf s n / 2 ^ 48 + 1) % 65536
    Answers (.abortTokenStart n) s fun t => chanOf t n / 2 ^ 48 = a
      ∧ ∀ p < 16, (chanOf s n).testBit p = true → portSt s p ≠ 3 → (p, n, a) ∈ t.dev.tokens)
  ∧ (∀ a port, portSt s port = 2 → (chanOf s n).testBit 16 = true → a < 65536 →
    (newerAttempt a (chanOf s n / 2 ^ 48) = true → Answers (.abortTokenReceive n a port) s fun t => chanOf t n / 2 ^ 48 = a
      ∧ ∀ p < 16, (chanOf s n).testBit p = true → p ≠ port → portSt s p ≠ 3 → (p, n, a) ∈ t.dev.tokens)
    ∧ (newerAttempt a (chanOf s n / 2 ^ 48) = false → exec (.abortTokenReceive n a port) s = .next s))

/-- Throttling and the resets: a tower slows by one step for a cause, recovers a step in a millisecond without one and stops where it is
critical; a cold reset leaves State.reset and what is outside the device, with the banks of the repair record out of service; and a warm
reset keeps HBM, what was dirty in the Mere with it, slot 0's key and the clocks, reloads the soft-repair registers, and ends every
context (R108, R337, R393 to R395; the record and what is outside the device are the model's, logs 35 and 38). -/
def Obligations.Resets : Prop := ∀ (s : State) (n : Nat),
  (n < 2 → let k := s.dev.thr.get n 0
    let site := s.foc.id
    (siteOf site n = false → exec (.throttle n) s = .next s ∧ exec (.criticalTemperature n) s = .next s)
    ∧ (siteOf site n = true → Answers (.throttle n) s fun t => t.cores = s.cores
      ∧ t.dev.thr.get n 0 = min 9 (k + if tooHot site s.foc.aux s then 1 else 0)
      ∧ (site < 10 → s.foc.aux < 2 ^ 16 → (capWord t 2 (2 + site)).toNat % 2 ^ 16 = s.foc.aux
        ∧ (capWord t 2 (2 + site)).getLsbD 40 = decide (s.dev.throt ≤ s.foc.aux)))
    ∧ (mayRecover n s = true → Answers (.clockRecoveryStep n) s fun t => t.dev.thr.get n 0 = k - 1 ∧ t.cores = s.cores)
    ∧ (mayRecover n s = false → exec (.clockRecoveryStep n) s = .next s)
    ∧ (siteOf site n = true → site < 10 → 880 ≤ s.foc.aux → Answers (.criticalTemperature n) s fun t =>
      t.dev.stopped.get n false = true ∧ 5 ≤ t.dev.ladder)
    ∧ (s.foc.aux < 880 → exec (.criticalTemperature n) s = .next s))
  ∧ Answers .coldReset s (fun t => t = applyRecord { State.reset with
    inputs := s.inputs, nfree := s.nfree, dev := { State.reset.dev with
      hostMem := s.dev.hostMem, record := s.dev.record, softRec := s.dev.softRec, temps := s.dev.temps, stages := s.dev.stages
      cxl := s.dev.cxl } })
  ∧ (∀ i ∈ [Instr.warmReset, .hostCxlReset], Answers i s fun t => (s.dev.record = [] → t.cores = [])
    ∧ (∀ c, (t.coreAt c).ctxs = [] ∧ (t.coreAt c).regions = [] ∧ (t.coreAt c).sp = [] ∧ (t.coreAt c).acc = [])
    ∧ t.dev.launches = [] ∧ t.dev.springs = []
    ∧ t.dev.asd = [] ∧ t.dev.tlb2 = [] ∧ t.dev.l2 = [] ∧ t.dev.mere = [] ∧ t.dev.hostMem = s.dev.hostMem
    ∧ t.dev.keys = [(0, s.dev.keys.get 0 {})] ∧ t.dev.fwRun = s.dev.fwRun ∧ t.dev.thr = [] ∧ t.dev.base = s.dev.base
    ∧ t.dev.record = s.dev.record ∧ (s.dev.mere = [] → t.dev.hbm = s.dev.hbm)
    ∧ t.dev.soft = if Config.recordOk s.dev.record s.dev.softRec then s.dev.softRec else [])
  ∧ (∀ c : CLine, s.dev.mere = [c] → c.pa % 128 = 0 → ∀ b < 8, c.dirty.getLsbD b = true → Answers .warmReset s fun t =>
    t.dev.hbm.read (c.pa + 16 * b) 16 = c.data.toNat / 2 ^ (128 * b) % 2 ^ 128)

/-! ### The whole machine -/

/-- No instruction and no event stops the machine, but for a host access (R101, R382), which answers a next state or the
fault that names its address. -/
def Obligations.EveryInstructionAnswers : Prop :=
  (∀ (i : Instr) (s : State), (∀ w a d, i ≠ .hostMemoryAccess w a d) → ∃ t, exec i s = .next t)
  ∧ ∀ (s : State) (w a d : Nat), (∃ t, exec (.hostMemoryAccess w a d) s = .next t)
    ∨ exec (.hostMemoryAccess w a d) s = .fault (.unbackedPhysical a)

/-- What a step runs (R48, R49, R56; logs 2 and 5): an event from outside, an event of the device, or a core's cycle, in
which the bundle at the PC issues, unless an operation issued before it holds the core. A C- or X-slot operation that the bundle's bytes decode to is executed with the
registers and memory that the issue found, after which the context is advanced; an A, V, M or T operation is put among the
starts, SDLY cycles from the issue; and an operation due to start is executed. A cycle in which an access or late data holds
the core does no more than hold. -/
def Obligations.StepRunsDecoded : Prop := ∀ s : State,
  (∀ e r, s.inputs = e :: r → e.row.slot? = none →
    step s = exec e.row (e.focus { s with inputs := r, nfree := s.nfree + 1 }))
  ∧ (∀ e, s.inputs = [] → chooseEvent s = some e → step s = exec e.row (e.focus { s with nfree := s.nfree + 1 }))
  ∧ (∀ c u, CycleNext c s → performDue exec c (cycleState c s) = .next u → earlyHold c u = none → step s =
    andThen (landAll exec c (u.modCoreAt c fun k => { k with hold := none })) fun s =>
      andThen (arrayBegin exec c s) fun s =>
        andThen (if heldBefore c s then exec .operationStart (s.focusOn c 0) else issuePhase exec c s) (restOfCycle c))
  ∧ (∀ c, (dueStarts (s.coreAt c)) = [] → heldBefore c s = false)
  ∧ (∀ c u k, CycleNext c s → performDue exec c (cycleState c s) = .next u → earlyHold c u = some k →
    step s = heldPhase exec c (u.modCoreAt c fun x => { x with hold := some k, holdIss := false }))
  ∧ (∀ c n l h sl i, let u := s.focusOn c n
    IssuesNow c n l s → BundleIs l h sl i u → IssuePasses h sl i u →
    (sl = .c ∨ sl = .x → ∃ F : State,
      issuePhase exec c s = andThen (exec i F) (fun t => .next (finishIssue (t.focusOn c n)))
      ∧ F.foc = { core := c, ctx := n, idx := u.ctx.a.idx, ord := 8 * u.ctx.seq + sl.code, pre := true }
      ∧ F.ctx.a = u.ctx.a ∧ F.ctx.flight = u.ctx.flight ∧ F.core.sp = u.core.sp ∧ F.dev = u.dev)
    ∧ (sl ≠ .c → sl ≠ .x → isNop i = false → u.ctx.a.idx = 0 → ∃ t : State, issuePhase exec c s = .next t
      ∧ ∃ x ∈ ((t.coreAt c).ctxAt n).starts, x.op = i ∧ x.k = 0 ∧ x.idx = 0 ∧ x.due = u.cyc + i.sdly
        ∧ x.ord = 8 * u.ctx.seq + sl.code))
  ∧ (∀ c n e, dueStarts (s.coreAt c) = [(n, e)] → firstHold (closeDue [(n, e)] (s.focusOn c 0)) [] [(n, e)] = none →
    turnLost [(n, e)] (s.focusOn c 0) = false → (s.coreAt c).todo = [] →
    ∃ F : State, startPhase exec c s = andThen (exec e.op F) (afterStarts c)
      ∧ F.foc = { core := c, ctx := n, k := e.k, idx := e.idx, ord := e.ord, bad := e.bad, pre := true }
      ∧ F.ctx.a = (s.focusOn c n).ctx.a ∧ F.ctx.flight = (s.focusOn c n).ctx.flight ∧ F.core.sp = (s.coreAt c).sp
      ∧ F.dev = s.dev)

/-- Words written out from the encodings of R43, R46 and R62 decode to the operations they stand for: one of each slot, the
fields of each in their places, and an opcode that R62 does not assign is refused. -/
def Obligations.DecodeWords : Prop :=
  decodeSlot .c 0x000000010380A510 = some (.add
      { imm := 1, fn := 0, mir := 0, w := 3, i := 1, sb := 0, sa := 5, sd := 5 })
  ∧ decodeSlot .c 0x000000180300204C = some (.loop
      { imm := 24, fn := 0, mir := 0, w := 3, i := 0, sb := 0, sa := 1, sd := 0 })
  ∧ decodeSlot .a 0x00000400BA88603B = some (.amobfa
      { off := 16, step := 0, sc := 5, w := 3, h := 5, xs := 2, dr := 6, mir := 0, sdly := 0 })
  ∧ decodeSlot .a 0x0000804030000043 = some (.drn
      { off := 0x201, step := 0, sc := 1, w := 2, h := 0, xs := 0, dr := 0, mir := 0, sdly := 0 })
  ∧ decodeSlot .v 0x004000000004101A = some (.vfcmp
      { aux := 4, rm := 0, qa := 0, step := 0, fd := 0, fa := 0, z := 0, p := 0, vc := 0, vb := 0, va := 1, vd := 1, mir := 0, sdly := 0 })
  ∧ decodeSlot .v 0x0000011000083044 = some (.vrsum
      { aux := 0, rm := 0, qa := 0, step := 0, fd := 0, fa := 1, z := 0, p := 1, vc := 0, vb := 0, va := 2, vd := 3, mir := 0, sdly := 0 })
  ∧ decodeSlot .m 0x1000880000822004 = some (.fmx
      { aux := 1, h := 0, spn := 0, cbf := 0, n := 2, vs := 8, q := 0, src := 0, sb := 0, sa := 0, md := 4, af := 0, inf := 2, mode := 1, b := 0, rsv := 0, sdly := 0 })
  ∧ decodeSlot .t 0x00020002 = some (.txo { rsv := 0, step := 0, fmt := 0, idx := 1, v := 0, sdly := 0 })
  ∧ decodeSlot .x 0x0000080624906201 = some (.copy
      { imm := 0, fd2 := 1, fs := 0, h2 := 0, h := 6, sc := 1, tag := 9, scc := 4, sb := 3, sa := 2 })
  ∧ decodeSlot .x 0x00008000A0000528 = some (.pput
      { imm := 2, fd2 := 0, fs := 0, h2 := 0, h := 0, sc := 5, tag := 0, scc := 0, sb := 0, sa := 5 })
  ∧ decodeSlot .c 0x7F = none ∧ decodeSlot .t 0x04 = none

/-- Encoding and decoding agree: the word of every well-formed slot operation decodes to that operation, whatever its
fields hold, and whatever a word decodes to encodes to that word and has the form its constructor names; exactly the slot
operations have a word, and a header unpacks to what was packed and back (R43, R46, R62). -/
def Obligations.EncodeDecode : Prop :=
  (∀ (i : Instr) (sl : Slot) (w : BitVec 64), i.WellFormed = true → encode i = some (sl, w) → decodeSlot sl w = some i)
  ∧ (∀ (i : Instr) (sl : Slot) (w : BitVec 64), (sl = .t → w.toNat < 2 ^ 32) → decodeSlot sl w = some i →
    encode i = some (sl, w) ∧ i.formOk = true)
  ∧ (∀ i : Instr, (encode i).map Prod.fst = i.slot?)
  ∧ (∀ h : Header, Header.unpack h.pack = h) ∧ (∀ w : BitVec 32, (Header.unpack w).pack = w)

/-- Every step keeps HBM, the host's memory and the SRAM of every core in canonical form, so that equal memories are equal
data. -/
def Obligations.MemoriesKept : Prop := Kept MemoriesOk

/-- The machine after reset: memories in canonical form; the array state of R185, a transposer buffer of 0 (R235), G 0 (R153)
on every core; key slot 0 LOADED and no other (R337); FWL 4,096 (R287), WQ 192 (R329), RWLIM 3 (R369), RPLIM 2 (R372), CTO
4 ms (R383) of every function, a default LWDOG of 16,384 (R388); THROT 95 degrees, in steps of 0.125 (R394). -/
def Obligations.ResetState : Prop :=
  let s := State.reset
  MemoriesOk s
  ∧ (∀ c, let k := s.coreAt c
    k.arr.b0.desc = .empty ∧ k.arr.b1.desc = .empty ∧ k.gen = 0
    ∧ ∀ r, k.arr.b0.rows.get r 0 = 0 ∧ k.arr.b1.rows.get r 0 = 0 ∧ k.arr.b0.rowMap.get r 0 = 0
      ∧ k.arr.b1.rowMap.get r 0 = 0 ∧ k.arr.grid.find? r = none ∧ k.arr.below.get r 0 = 0 ∧ k.arr.above.get r 0 = 0
      ∧ k.xpose.get r 0 = 0)
  ∧ (∀ n, (s.dev.keys.get n {}).loaded = decide (n = 0))
  ∧ (∀ f, s.limit f 0 = 4096 ∧ s.limit f 1 = 192 ∧ s.limit f 2 = 3 ∧ s.limit f 3 = 2 ∧ s.limit f 4 = 16384 ∧ s.limit f 6 = 4)
  ∧ s.dev.throt = 8 * 95
end

