-- ==== Sys2Proof/Laws/State.lean ====
section
/-! SUPPORT. What each update of State leaves and changes: one lemma per field per update; reading a table, a core or a
context after an update. -/

namespace Sys2Proof.Machine

/-! ### Tables -/

@[simp] theorem Map.find?_set_self {α : Type} (m : Map α) (k : Nat) (x : α) : (m.set k x).find? k = some x := by
  induction m with
  | nil => simp [Map.set, Map.find?]
  | cons e r ih =>
    obtain ⟨j, y⟩ := e
    unfold Map.set
    split
    · simp [Map.find?]
    · split
      · simp [Map.find?]
      · simp [Map.find?, *]

theorem Map.find?_set_ne {α : Type} (m : Map α) (k j : Nat) (x : α) (h : j ≠ k) :
    (m.set k x).find? j = m.find? j := by
  induction m with
  | nil => simp [Map.set, Map.find?, Ne.symm h]
  | cons e r ih =>
    obtain ⟨i, y⟩ := e
    unfold Map.set
    split
    · subst_vars; simp [Map.find?, Ne.symm h]
    · split
      · simp [Map.find?, Ne.symm h]
      · simp [Map.find?, ih]

@[simp] theorem Map.get_set_self {α : Type} (m : Map α) (k : Nat) (x d : α) : (m.set k x).get k d = x := by
  simp [Map.get]

theorem Map.get_set_ne {α : Type} (m : Map α) (k j : Nat) (x d : α) (h : j ≠ k) :
    (m.set k x).get j d = m.get j d := by
  simp [Map.get, Map.find?_set_ne m k j x h]

/-! ### Fields under updates -/

@[simp] theorem State.dev_modCoreAt (s : State) (n : Nat) (g : Core → Core) : (s.modCoreAt n g).dev = s.dev := rfl
@[simp] theorem State.foc_modCoreAt (s : State) (n : Nat) (g : Core → Core) : (s.modCoreAt n g).foc = s.foc := rfl
@[simp] theorem State.inputs_modCoreAt (s : State) (n : Nat) (g : Core → Core) : (s.modCoreAt n g).inputs = s.inputs := rfl
@[simp] theorem State.cur_modCoreAt (s : State) (n : Nat) (g : Core → Core) : (s.modCoreAt n g).cur = s.cur := rfl
@[simp] theorem State.plan_modCoreAt (s : State) (n : Nat) (g : Core → Core) : (s.modCoreAt n g).plan = s.plan := rfl
@[simp] theorem State.nfree_modCoreAt (s : State) (n : Nat) (g : Core → Core) : (s.modCoreAt n g).nfree = s.nfree := rfl
@[simp] theorem State.uid_modCoreAt (s : State) (n : Nat) (g : Core → Core) : (s.modCoreAt n g).uid = s.uid := rfl
@[simp] theorem State.dev_modCtxAt (s : State) (c n : Nat) (g : Ctx → Ctx) : (s.modCtxAt c n g).dev = s.dev := rfl
@[simp] theorem State.foc_modCtxAt (s : State) (c n : Nat) (g : Ctx → Ctx) : (s.modCtxAt c n g).foc = s.foc := rfl
@[simp] theorem State.inputs_modCtxAt (s : State) (c n : Nat) (g : Ctx → Ctx) : (s.modCtxAt c n g).inputs = s.inputs := rfl
@[simp] theorem State.cur_modCtxAt (s : State) (c n : Nat) (g : Ctx → Ctx) : (s.modCtxAt c n g).cur = s.cur := rfl
@[simp] theorem State.plan_modCtxAt (s : State) (c n : Nat) (g : Ctx → Ctx) : (s.modCtxAt c n g).plan = s.plan := rfl
@[simp] theorem State.nfree_modCtxAt (s : State) (c n : Nat) (g : Ctx → Ctx) : (s.modCtxAt c n g).nfree = s.nfree := rfl
@[simp] theorem State.uid_modCtxAt (s : State) (c n : Nat) (g : Ctx → Ctx) : (s.modCtxAt c n g).uid = s.uid := rfl
@[simp] theorem State.dev_modCore (s : State) (g : Core → Core) : (s.modCore g).dev = s.dev := rfl
@[simp] theorem State.foc_modCore (s : State) (g : Core → Core) : (s.modCore g).foc = s.foc := rfl
@[simp] theorem State.inputs_modCore (s : State) (g : Core → Core) : (s.modCore g).inputs = s.inputs := rfl
@[simp] theorem State.cur_modCore (s : State) (g : Core → Core) : (s.modCore g).cur = s.cur := rfl
@[simp] theorem State.plan_modCore (s : State) (g : Core → Core) : (s.modCore g).plan = s.plan := rfl
@[simp] theorem State.nfree_modCore (s : State) (g : Core → Core) : (s.modCore g).nfree = s.nfree := rfl
@[simp] theorem State.uid_modCore (s : State) (g : Core → Core) : (s.modCore g).uid = s.uid := rfl
@[simp] theorem State.dev_modCtx (s : State) (g : Ctx → Ctx) : (s.modCtx g).dev = s.dev := rfl
@[simp] theorem State.foc_modCtx (s : State) (g : Ctx → Ctx) : (s.modCtx g).foc = s.foc := rfl
@[simp] theorem State.inputs_modCtx (s : State) (g : Ctx → Ctx) : (s.modCtx g).inputs = s.inputs := rfl
@[simp] theorem State.cur_modCtx (s : State) (g : Ctx → Ctx) : (s.modCtx g).cur = s.cur := rfl
@[simp] theorem State.plan_modCtx (s : State) (g : Ctx → Ctx) : (s.modCtx g).plan = s.plan := rfl
@[simp] theorem State.nfree_modCtx (s : State) (g : Ctx → Ctx) : (s.modCtx g).nfree = s.nfree := rfl
@[simp] theorem State.uid_modCtx (s : State) (g : Ctx → Ctx) : (s.modCtx g).uid = s.uid := rfl
@[simp] theorem State.dev_modArch (s : State) (g : Arch → Arch) : (s.modArch g).dev = s.dev := rfl
@[simp] theorem State.foc_modArch (s : State) (g : Arch → Arch) : (s.modArch g).foc = s.foc := rfl
@[simp] theorem State.inputs_modArch (s : State) (g : Arch → Arch) : (s.modArch g).inputs = s.inputs := rfl
@[simp] theorem State.cur_modArch (s : State) (g : Arch → Arch) : (s.modArch g).cur = s.cur := rfl
@[simp] theorem State.plan_modArch (s : State) (g : Arch → Arch) : (s.modArch g).plan = s.plan := rfl
@[simp] theorem State.nfree_modArch (s : State) (g : Arch → Arch) : (s.modArch g).nfree = s.nfree := rfl
@[simp] theorem State.uid_modArch (s : State) (g : Arch → Arch) : (s.modArch g).uid = s.uid := rfl
@[simp] theorem State.cores_modDev (s : State) (g : Dev → Dev) : (s.modDev g).cores = s.cores := rfl
@[simp] theorem State.foc_modDev (s : State) (g : Dev → Dev) : (s.modDev g).foc = s.foc := rfl
@[simp] theorem State.inputs_modDev (s : State) (g : Dev → Dev) : (s.modDev g).inputs = s.inputs := rfl
@[simp] theorem State.cur_modDev (s : State) (g : Dev → Dev) : (s.modDev g).cur = s.cur := rfl
@[simp] theorem State.plan_modDev (s : State) (g : Dev → Dev) : (s.modDev g).plan = s.plan := rfl
@[simp] theorem State.nfree_modDev (s : State) (g : Dev → Dev) : (s.modDev g).nfree = s.nfree := rfl
@[simp] theorem State.uid_modDev (s : State) (g : Dev → Dev) : (s.modDev g).uid = s.uid := rfl
@[simp] theorem State.cores_focusOn (s : State) (c n : Nat) : (s.focusOn c n).cores = s.cores := rfl
@[simp] theorem State.dev_focusOn (s : State) (c n : Nat) : (s.focusOn c n).dev = s.dev := rfl
@[simp] theorem State.inputs_focusOn (s : State) (c n : Nat) : (s.focusOn c n).inputs = s.inputs := rfl
@[simp] theorem State.cur_focusOn (s : State) (c n : Nat) : (s.focusOn c n).cur = s.cur := rfl
@[simp] theorem State.plan_focusOn (s : State) (c n : Nat) : (s.focusOn c n).plan = s.plan := rfl
@[simp] theorem State.nfree_focusOn (s : State) (c n : Nat) : (s.focusOn c n).nfree = s.nfree := rfl
@[simp] theorem State.uid_focusOn (s : State) (c n : Nat) : (s.focusOn c n).uid = s.uid := rfl
@[simp] theorem State.dev_mapCtxs (s : State) (g : Ctx → Ctx) : (s.mapCtxs g).dev = s.dev := rfl
@[simp] theorem State.foc_mapCtxs (s : State) (g : Ctx → Ctx) : (s.mapCtxs g).foc = s.foc := rfl
@[simp] theorem State.inputs_mapCtxs (s : State) (g : Ctx → Ctx) : (s.mapCtxs g).inputs = s.inputs := rfl
@[simp] theorem State.cur_mapCtxs (s : State) (g : Ctx → Ctx) : (s.mapCtxs g).cur = s.cur := rfl
@[simp] theorem State.plan_mapCtxs (s : State) (g : Ctx → Ctx) : (s.mapCtxs g).plan = s.plan := rfl
@[simp] theorem State.nfree_mapCtxs (s : State) (g : Ctx → Ctx) : (s.mapCtxs g).nfree = s.nfree := rfl
@[simp] theorem State.uid_mapCtxs (s : State) (g : Ctx → Ctx) : (s.mapCtxs g).uid = s.uid := rfl
@[simp] theorem State.dev_modDev_eq (s : State) (g : Dev → Dev) : (s.modDev g).dev = g s.dev := rfl
@[simp] theorem State.cores_fresh (s : State) : s.fresh.2.cores = s.cores := rfl
@[simp] theorem State.cores_newId (s : State) : s.newId.2.cores = s.cores := rfl
@[simp] theorem State.dev_fresh (s : State) : s.fresh.2.dev = s.dev := rfl
@[simp] theorem State.dev_newId (s : State) : s.newId.2.dev = s.dev := rfl
@[simp] theorem State.foc_fresh (s : State) : s.fresh.2.foc = s.foc := rfl
@[simp] theorem State.foc_newId (s : State) : s.newId.2.foc = s.foc := rfl
@[simp] theorem State.inputs_fresh (s : State) : s.fresh.2.inputs = s.inputs := rfl
@[simp] theorem State.inputs_newId (s : State) : s.newId.2.inputs = s.inputs := rfl
@[simp] theorem State.cur_fresh (s : State) : s.fresh.2.cur = s.cur := rfl
@[simp] theorem State.plan_fresh (s : State) : s.fresh.2.plan = s.plan := rfl
@[simp] theorem State.cur_newId (s : State) : s.newId.2.cur = s.cur := rfl
@[simp] theorem State.plan_newId (s : State) : s.newId.2.plan = s.plan := rfl
@[simp] theorem State.nfree_newId (s : State) : s.newId.2.nfree = s.nfree := rfl
@[simp] theorem State.uid_fresh (s : State) : s.fresh.2.uid = s.uid := rfl
@[simp] theorem State.nfree_fresh (s : State) : s.fresh.2.nfree = s.nfree + 1 := rfl
@[simp] theorem State.uid_newId (s : State) : s.newId.2.uid = s.uid + 1 := rfl
/-! ### Reading a core or a context after an update -/

@[simp] theorem State.coreAt_modCoreAt_self (s : State) (n : Nat) (g : Core → Core) :
    (s.modCoreAt n g).coreAt n = g (s.coreAt n) := by
  simp [State.modCoreAt, State.coreAt]

theorem State.coreAt_modCoreAt_ne (s : State) (n m : Nat) (g : Core → Core) (h : m ≠ n) :
    (s.modCoreAt n g).coreAt m = s.coreAt m := by
  simp [State.modCoreAt, State.coreAt, Map.get_set_ne _ _ _ _ _ h]

@[simp] theorem State.coreAt_modDev (s : State) (n : Nat) (g : Dev → Dev) : (s.modDev g).coreAt n = s.coreAt n := rfl

@[simp] theorem State.core_modCore (s : State) (g : Core → Core) : (s.modCore g).core = g s.core := by
  simp [State.modCore, State.core]

@[simp] theorem State.core_modDev (s : State) (g : Dev → Dev) : (s.modDev g).core = s.core := rfl

@[simp] theorem State.ctx_modDev (s : State) (g : Dev → Dev) : (s.modDev g).ctx = s.ctx := rfl

@[simp] theorem Core.ctxAt_set_self (k : Core) (n : Nat) (x : Ctx) :
    ({ k with ctxs := k.ctxs.set n x } : Core).ctxAt n = x := by
  simp [Core.ctxAt]

theorem Core.ctxAt_set_ne (k : Core) (n m : Nat) (x : Ctx) (h : m ≠ n) :
    ({ k with ctxs := k.ctxs.set n x } : Core).ctxAt m = k.ctxAt m := by
  simp [Core.ctxAt, Map.get_set_ne _ _ _ _ _ h]

@[simp] theorem State.ctx_modCtx (s : State) (g : Ctx → Ctx) : (s.modCtx g).ctx = g s.ctx := by
  simp [State.modCtx, State.modCtxAt, State.ctx, State.core]

@[simp] theorem State.ctx_modArch (s : State) (g : Arch → Arch) : (s.modArch g).ctx = { s.ctx with a := g s.ctx.a } := by
  simp [State.modArch]

@[simp] theorem State.core_modCtx (s : State) (g : Ctx → Ctx) :
    (s.modCtx g).core = { s.core with ctxs := s.core.ctxs.set s.foc.ctx (g s.ctx) } := by
  simp [State.modCtx, State.modCtxAt, State.core, State.ctx]

@[simp] theorem State.core_modArch (s : State) (g : Arch → Arch) :
    (s.modArch g).core = { s.core with ctxs := s.core.ctxs.set s.foc.ctx { s.ctx with a := g s.ctx.a } } := by
  simp [State.modArch]

@[simp] theorem State.cyc_modCtx (s : State) (g : Ctx → Ctx) : (s.modCtx g).cyc = s.cyc := by simp [State.cyc]

@[simp] theorem State.cyc_modArch (s : State) (g : Arch → Arch) : (s.modArch g).cyc = s.cyc := by simp [State.cyc]

@[simp] theorem State.cyc_modDev (s : State) (g : Dev → Dev) : (s.modDev g).cyc = s.cyc := rfl

/-- Another core, or another context of the core, is as before a change of the context in focus. -/
theorem State.ctxAt_modCtx_ne (s : State) (g : Ctx → Ctx) (c n : Nat) (h : c ≠ s.foc.core ∨ n ≠ s.foc.ctx) :
    ((s.modCtx g).coreAt c).ctxAt n = (s.coreAt c).ctxAt n := by
  by_cases hc : c = s.foc.core
  · subst hc
    have hn : n ≠ s.foc.ctx := h.resolve_left (fun f => f rfl)
    simp [State.modCtx, State.modCtxAt, Core.ctxAt_set_ne _ _ _ _ hn]
  · simp [State.modCtx, State.modCtxAt, State.coreAt_modCoreAt_ne _ _ _ _ hc]

end Sys2Proof.Machine
end

