-- ==== Sys2Proof/Laws/Gate.lean ====
section
/-! SUPPORT. What the gate answers when the checks pass, what a register reads as and where a result goes, and what a
fetch leaves. -/

namespace Sys2Proof.Machine

/-- The gate, in the state that the checks are made in. -/
theorem gated_eq (i : Instr) (own : Verdict) (eff : State → State) (s : State) : gated i own eff s =
    if s.foc.pre then .next (perform i eff (checkedState i s))
    else match verdictOf i own (checkedState i s) with
      | .go => .next (perform i eff (checkedState i s))
      | v => .next (v.act (slotCode i) (checkedState i s)) := by
  have hf : (checkedState i s).foc = s.foc := by unfold checkedState; split <;> rfl
  rw [← hf]
  rfl

/-- A gated operation whose checks pass acts, in the state that its checks were made in. -/
theorem gated_accepted {i : Instr} {own : Verdict} {eff : State → State} {s : State} (h : Accepted i s)
    (ho : own = ownOf i s) : gated i own eff s = .next (perform i eff (checkedState i s)) := by
  subst ho
  rw [gated_eq]
  rcases h with h | h <;> simp [h]

/-- A gated operation always answers a next state. -/
theorem gated_next (i : Instr) (own : Verdict) (eff : State → State) (s : State) : ∃ t, gated i own eff s = .next t := by
  rw [gated_eq]
  by_cases h : s.foc.pre = true
  · exact ⟨_, if_pos h⟩
  · rw [if_neg h]
    cases verdictOf i own (checkedState i s) <;> exact ⟨_, rfl⟩

/-- A C-slot operation acts at once. -/
theorem perform_c {i : Instr} {eff : State → State} {s : State} (h : i.slot? = some .c) : perform i eff s = eff s := by
  simp [perform, h]

/-- An X-slot operation acts at once. -/
theorem perform_x {i : Instr} {eff : State → State} {s : State} (h : i.slot? = some .x) : perform i eff s = eff s := by
  simp [perform, h]

/-- An engine operation that may start has its effect. -/
theorem perform_startable {i : Instr} {eff : State → State} {s : State} (h : Startable i s) :
    perform i eff (checkedState i s) = eff (checkedState i s) := by
  unfold perform
  split
  · rfl
  · rw [if_neg (Nat.not_lt.2 h.1), h.2]

/-- An operation that closes no segment is checked in the state it meets. -/
theorem checkedState_open {i : Instr} {s : State} (h : closing i = false) : checkedState i s = s := by
  simp [checkedState, h]

/-- What a C-slot operation whose checks pass answers. -/
theorem accepted_c {i : Instr} {own : Verdict} {eff : State → State} {s : State} (hx : exec i s = gated i own eff s)
    (h : Accepted i s) (ho : own = ownOf i s) (hs : i.slot? = some .c) : exec i s = .next (eff (checkedState i s)) := by
  rw [hx, gated_accepted h ho, perform_c hs]

/-- What an X-slot operation whose checks pass answers. -/
theorem accepted_x {i : Instr} {own : Verdict} {eff : State → State} {s : State} (hx : exec i s = gated i own eff s)
    (h : Accepted i s) (ho : own = ownOf i s) (hs : i.slot? = some .x) : exec i s = .next (eff (checkedState i s)) := by
  rw [hx, gated_accepted h ho, perform_x hs]

/-- What an engine operation that may act answers. -/
theorem accepted_engine {i : Instr} {own : Verdict} {eff : State → State} {s : State} (hx : exec i s = gated i own eff s)
    (h : Accepted i s) (hs : Startable i s) (ho : own = ownOf i s) : exec i s = .next (eff (checkedState i s)) := by
  rw [hx, gated_accepted h ho, perform_startable hs]

/-- A commit leaves what an operation reads as it stands. -/
@[simp] theorem commit_a (c : Ctx) : c.commit.a = c.a := by unfold Ctx.commit; split <;> rfl

@[simp] theorem commit_hmode (c : Ctx) : c.commit.hmode = c.hmode := by unfold Ctx.commit; split <;> rfl

/-- Closing the segment leaves the architectural state as it stands. -/
@[simp] theorem checkedState_a (i : Instr) (s : State) : (checkedState i s).ctx.a = s.ctx.a := by
  unfold checkedState; split <;> simp

@[simp] theorem checkedState_foc (i : Instr) (s : State) : (checkedState i s).foc = s.foc := by
  unfold checkedState; split <;> rfl

/-! ### Registers as they stand -/

theorem rdS_certain {s : State} (h : s.ctx.a.check = true) (n : Nat) : rdS s n = s.ctx.a.sReg n := by
  simp [rdS, State.unsure, h]

theorem rdP_certain {s : State} (h : s.ctx.a.check = true) (n : Nat) : rdP s n = s.ctx.a.pReg n := by
  simp [rdP, State.unsure, h]

theorem rdV_certain {s : State} (h : s.ctx.a.check = true) (n : Nat) : rdV s n = s.ctx.a.vReg n := by
  simp [rdV, State.unsure, h]

theorem rdM_certain {s : State} (h : s.ctx.a.check = true) (n : Nat) : rdM s n = s.ctx.a.mReg n := by
  simp [rdM, State.unsure, h]

theorem rdSh_certain {s : State} (h : s.ctx.a.check = true) (n : Nat) : rdSh s n = s.ctx.a.sh.get n 0 := by
  simp [rdSh, State.unsure, h]

theorem rdTh_certain {s : State} (h : s.ctx.a.check = true) (n : Nat) : rdTh s n = s.ctx.a.th.get n 0 := by
  simp [rdTh, State.unsure, h]

theorem operandB_certain {s : State} (h : s.ctx.a.check = true) (f : CSlot) : operandB s f = sourceB f s := by
  simp [operandB, sourceB, rdS_certain h, sext]

/-! ### Results -/

/-- A scalar result of an operation that does not collide. -/
theorem postS_certain {s : State} (h : s.foc.bad = false) (n lat : Nat) (x : Word) : postS n lat x s = s.landsS n lat x := by
  unfold postS post State.landsS State.lands
  by_cases hn : n = 0
  · simp [hn]
  · simp [hn, h]

/-- A result of an operation that does not collide, for a register that is neither s0 nor p0. -/
theorem post_certain {s : State} (h : s.foc.bad = false) (r : RegId) (lat : Nat) (v : Payload)
    (hr : ¬((r.cls = .s ∨ r.cls = .p) ∧ r.n = 0)) : post r lat v s = s.lands r lat v := by
  unfold post State.lands
  rw [if_neg hr]
  simp [h]

/-! ### Arithmetic of R65 -/

theorem zx_toNat {w : Nat} (hw : w ≤ 64) (x : BitVec w) (r : Nat) (h : r % 2 ^ w = x.toNat) : zx r w = x.zeroExtend 64 := by
  apply BitVec.eq_of_toNat_eq
  have : 2 ^ w ≤ 2 ^ 64 := Nat.pow_le_pow_right (by omega) hw
  have hx := x.isLt
  simp [zx, h]

theorem sx_toNat {w : Nat} (hw : 0 < w) (x : BitVec w) (r : Nat) (h : r % 2 ^ w = x.toNat) : sx r w = x.signExtend 64 := by
  have hi : sintOf w r = x.toInt := by
    unfold sintOf
    simp only
    rw [h, BitVec.toInt_eq_toNat_cond]
    have : 2 ^ w = 2 * 2 ^ (w - 1) := by
      rw [← Nat.pow_succ']; congr 1; omega
    by_cases hlt : x.toNat < 2 ^ (w - 1)
    · rw [if_pos hlt, if_pos (by omega)]
    · rw [if_neg hlt, if_neg (by omega)]; push_cast; rfl
  rw [sx, hi, BitVec.signExtend]

theorem widthBits_pos (w : BitVec 2) : 0 < widthBits w := by unfold widthBits; positivity

theorem widthBits_le (w : BitVec 2) : widthBits w ≤ 64 := by
  revert w; decide

/-- What the arithmetic operation of R65 does: it computes the function at width W that `g` is on natural numbers. -/
theorem alu_computes {i : Instr} {f : CSlot} {lat : Nat} {sg : Bool} {g : Nat → Nat → Nat → Nat}
    {g' : (w : Nat) → BitVec w → BitVec w → BitVec w}
    (hx : ∀ s, exec i s = gated i .go (alu f sg lat g) s) (ho : ∀ s, ownOf i s = .go) (hs : i.slot? = some .c)
    (hc : closing i = false)
    (hg : ∀ w, 8 ≤ w → ∀ a b : BitVec w, g w a.toNat b.toNat % 2 ^ w = (g' w a b).toNat) : Computes i f lat sg g' := by
  intro s ha hsure
  rw [hx, gated_accepted ha (ho s).symm, perform_c hs, checkedState_open hc]
  unfold alu
  simp only
  rw [postS_certain hsure.2, rdS_certain hsure.1, operandB_certain hsure.1]
  have hw8 : 8 ≤ widthBits f.w := by unfold widthBits; have := Nat.one_le_two_pow (n := f.w.toNat); omega
  have key := hg _ hw8 ((sourceA f s).truncate (widthBits f.w)) ((sourceB f s).truncate (widthBits f.w))
  simp only [BitVec.truncate_eq_setWidth, BitVec.toNat_setWidth] at key
  congr 2
  cases sg
  · exact zx_toNat (widthBits_le _) _ _ key
  · exact sx_toNat (widthBits_pos _) _ _ key

/-! ### Fetch -/

/-- Bytes that pass the L2 and the Mere change nothing but the device. -/
theorem vaTouch_eq (asid va n vf : Nat) (s : State) : ∃ d, vaTouch asid va n vf s = { s with dev := d } := by
  unfold vaTouch
  induction cuts 128 va n generalizing s with
  | nil => exact ⟨s.dev, rfl⟩
  | cons e l ih =>
    rw [List.foldl_cons]
    have h1 : ∀ g, ∃ d, List.foldl (fun s (x : Nat × Nat × Nat) => match walkPage s.dev asid x.1 with
        | some h => if h.rd then s.modDev (touchAll (h.phys x.1) x.2.1 h.key vf) else s
        | none => s) (s.modDev g) l = { s with dev := d } := fun g => by obtain ⟨d, h⟩ := ih (s.modDev g); exact ⟨d, h⟩
    dsimp only
    split
    · split
      · exact h1 _
      · exact ih s
    · exact ih s

/-- The fetch of a bundle changes nothing but the device. -/
theorem fetchTouch_eq (s : State) : ∃ d, fetchTouch s = { s with dev := d } := by
  unfold fetchTouch
  split
  · split
    · exact vaTouch_eq _ _ _ _ s
    · exact ⟨s.dev, rfl⟩
  · exact ⟨s.dev, rfl⟩

end Sys2Proof.Machine
end

