-- ==== Sys2Proof/Laws/Memory.lean ====
section
/-! SUPPORT. Memory: every operation keeps the canonical form, a read after a write, and every other byte as before. -/

namespace Sys2Proof.Machine

theorem Mem.above_cons {lo j : Nat} {b : Byte} {r : Mem} :
    Mem.above lo ((j, b) :: r) = true ↔ (lo ≤ j ∧ b ≠ 0) ∧ Mem.above (j + 1) r = true := by
  simp only [Mem.above, Bool.and_eq_true, decide_eq_true_eq]

theorem Mem.above_mono {lo lo' : Nat} {m : Mem} (h : Mem.above lo' m = true) (hl : lo ≤ lo') : Mem.above lo m = true := by
  cases m with
  | nil => rfl
  | cons e r =>
    obtain ⟨j, b⟩ := e
    simp only [Mem.above, Bool.and_eq_true, decide_eq_true_eq] at h ⊢
    exact ⟨⟨by omega, h.1.2⟩, h.2⟩

/-- A part of a memory above a bound is above it. -/
theorem Mem.above_filter {lo : Nat} (p : Host.Cell → Bool) {m : Mem} (h : Mem.above lo m = true) :
    Mem.above lo (m.filter p) = true := by
  induction m generalizing lo with
  | nil => rfl
  | cons e r ih =>
    obtain ⟨j, c⟩ := e
    obtain ⟨⟨hj, hc⟩, hr⟩ := Mem.above_cons.1 h
    rw [List.filter_cons]
    split
    · exact Mem.above_cons.2 ⟨⟨hj, hc⟩, ih hr⟩
    · exact Mem.above_mono (ih hr) (by omega)

/-- A byte inserted at or above the bound, where none stands, keeps the canonical form above the bound. -/
theorem Mem.above_insert {lo a : Nat} {b : Byte} (hb : b ≠ 0) {m : Mem} (h : Mem.above lo m = true) (ha : lo ≤ a)
    (hm : ∀ e ∈ m, e.1 ≠ a) : Mem.above lo (Mem.insert m a b) = true := by
  induction m generalizing lo with
  | nil => exact Mem.above_cons.2 ⟨⟨ha, hb⟩, rfl⟩
  | cons e r ih =>
    obtain ⟨j, c⟩ := e
    obtain ⟨⟨hj, hc⟩, hr⟩ := Mem.above_cons.1 h
    have hne : j ≠ a := hm (j, c) (by simp)
    unfold Mem.insert
    split
    · exact Mem.above_cons.2 ⟨⟨ha, hb⟩, Mem.above_cons.2 ⟨⟨by omega, hc⟩, hr⟩⟩
    · exact Mem.above_cons.2 ⟨⟨hj, hc⟩, ih hr (by omega) fun e he => hm e (by simp [he])⟩

/-- Putting a byte keeps the canonical form. -/
theorem Mem.wf_put (m : Mem) (a : Nat) (b : Byte) (h : Memory.wf m = true) : Memory.wf (m.put a b) = true := by
  unfold Mem.put
  split
  · exact Mem.above_filter _ h
  · exact Mem.above_insert ‹_› (Mem.above_filter _ h) (Nat.zero_le a) fun e he => by simpa using (List.mem_filter.1 he).2

/-- Writing bytes keeps the canonical form. -/
theorem Mem.wf_write (n : Nat) : ∀ (m : Mem) (a v : Nat), Memory.wf m = true → Memory.wf (m.write a n v) = true := by
  induction n with
  | zero => intro m a v h; exact h
  | succ n ih => intro m a v h; exact ih _ _ _ (Mem.wf_put m a _ h)

/-- A byte inserted reads back, where none stands; every other byte reads as before. -/
theorem Mem.byte_insert (m : Mem) (a c : Nat) (b : Byte) (h : ∀ e ∈ m, e.1 ≠ a) :
    (Mem.insert m a b).byte c = if c = a then b else m.byte c := by
  induction m with
  | nil => simp [Mem.insert, Mem.byte, eq_comm]
  | cons e r ih =>
    obtain ⟨j, d⟩ := e
    have hj : j ≠ a := h (j, d) (by simp)
    unfold Mem.insert
    split
    · simp [Mem.byte, eq_comm]
    · simp only [Mem.byte, ih fun e he => h e (by simp [he])]
      split <;> split <;> simp_all

/-- A byte of the memory without address `a`. -/
theorem Mem.byte_without (m : Mem) (a c : Nat) :
    Mem.byte (m.filter fun e => !(e.1 == a)) c = if c = a then 0 else m.byte c := by
  induction m with
  | nil => simp [Mem.byte]
  | cons e r ih =>
    obtain ⟨j, d⟩ := e
    rw [List.filter_cons]
    by_cases hj : j = a
    · subst hj; simp only [beq_self_eq_true, Bool.not_true, Bool.false_eq_true, if_false, ih, Mem.byte]
      by_cases hc : c = j
      · simp [hc]
      · simp [hc, Ne.symm hc]
    · simp only [beq_eq_false_iff_ne.2 hj, Bool.not_false, if_true, Mem.byte, ih]
      by_cases hc : j = c
      · subst hc; simp [hj]
      · simp [hc]

/-- The byte put reads back, and every other byte reads as before. -/
theorem Mem.byte_put (m : Mem) (a c : Nat) (b : Byte) : (m.put a b).byte c = if c = a then b else m.byte c := by
  unfold Mem.put
  split
  · rw [Mem.byte_without]; simp [*]
  · rw [Mem.byte_insert _ _ _ _ fun e he => by simpa using (List.mem_filter.1 he).2, Mem.byte_without]
    split <;> simp [*]

/-- A byte outside the bytes written reads as before. -/
theorem Mem.byte_write_outside (n : Nat) : ∀ (m : Mem) (a v c : Nat), c < a ∨ a + n ≤ c → (m.write a n v).byte c = m.byte c := by
  induction n with
  | zero => intro m a v c _; rfl
  | succ n ih =>
    intro m a v c h
    unfold Mem.write
    rw [ih _ _ _ _ (by omega), Mem.byte_put, if_neg (by omega)]

/-- The bytes written read back, little-endian (R6). -/
theorem Mem.read_write (n : Nat) : ∀ (m : Mem) (a v : Nat), (m.write a n v).read a n = v % 256 ^ n := by
  induction n with
  | zero => intro m a v; simp [Mem.read, Nat.mod_one]
  | succ n ih =>
    intro m a v
    unfold Mem.write Mem.read
    rw [ih, Mem.byte_write_outside _ _ _ _ _ (by omega), Mem.byte_put, if_pos rfl]
    have : (BitVec.ofNat 8 v).toNat = v % 256 := by simp
    rw [this, Nat.pow_succ, Nat.mul_comm (256 ^ n), Nat.mod_mul]

/-- Reading bytes none of which was written gives what it gave before. -/
theorem Mem.read_write_outside (k : Nat) : ∀ (m : Mem) (a n v c : Nat), c + k ≤ a ∨ a + n ≤ c →
    (m.write a n v).read c k = m.read c k := by
  induction k with
  | zero => intro m a n v c _; rfl
  | succ k ih =>
    intro m a n v c h
    unfold Mem.read
    rw [Mem.byte_write_outside _ _ _ _ _ (by omega), ih _ _ _ _ _ (by omega)]

end Sys2Proof.Machine
end

