-- ==== Sys2Proof/Laws/PerInstr.lean ====
section
/-! SUPPORT. Statements about every instruction, one lemma per constructor: the decoder gives back what the encoder wrote
(R43, R44, R46, R62). -/

namespace Sys2Proof.Laws

/-! ### A field of a packed word -/

theorem extract_low {m n : Nat} (x : BitVec m) (y : BitVec n) (k l : Nat) (h : k + l ≤ n) :
    BitVec.extractLsb' (n := m + n) k l (x ++ y) = y.extractLsb' k l := BitVec.extractLsb'_append_eq_of_add_le h

theorem extract_high {m n : Nat} (x : BitVec m) (y : BitVec n) (k l : Nat) (h : n ≤ k) :
    BitVec.extractLsb' (n := m + n) k l (x ++ y) = x.extractLsb' (k - n) l := BitVec.extractLsb'_append_eq_of_le h

theorem CSlot_unpack_pack (f : CSlot) (op : BitVec 8) : CSlot.unpack (f.pack op) = f := by
  obtain ⟨imm, fn, mir, w, i, sb, sa, sd⟩ := f
  unfold CSlot.unpack CSlot.pack
  simp only [CSlot.mk.injEq]
  refine ⟨?_, ?_, ?_, ?_, ?_, ?_, ?_, ?_⟩ <;>
    (repeat refine (extract_high _ _ _ _ (by omega)).trans ?_) <;>
    first | (refine (extract_low _ _ _ _ (by omega)).trans ?_; simp) | simp

theorem CSlot_opcode_pack (f : CSlot) (op : BitVec 8) : (f.pack op).extractLsb' 0 8 = op := by
  unfold CSlot.pack
  exact (extract_low _ _ 0 8 (by omega)).trans (by simp)

theorem ASlot_unpack_pack (f : ASlot) (op : BitVec 8) : ASlot.unpack (f.pack op) = f := by
  obtain ⟨off, step, sc, w, h, xs, dr, mir, sdly⟩ := f
  unfold ASlot.unpack ASlot.pack
  simp only [ASlot.mk.injEq]
  refine ⟨?_, ?_, ?_, ?_, ?_, ?_, ?_, ?_, ?_⟩ <;>
    (repeat refine (extract_high _ _ _ _ (by omega)).trans ?_) <;>
    first | (refine (extract_low _ _ _ _ (by omega)).trans ?_; simp) | simp

theorem ASlot_opcode_pack (f : ASlot) (op : BitVec 8) : (f.pack op).extractLsb' 0 8 = op := by
  unfold ASlot.pack
  exact (extract_low _ _ 0 8 (by omega)).trans (by simp)

theorem VSlot_unpack_pack (f : VSlot) (op : BitVec 8) : VSlot.unpack (f.pack op) = f := by
  obtain ⟨aux, rm, qa, step, fd, fa, z, p, vc, vb, va, vd, mir, sdly⟩ := f
  unfold VSlot.unpack VSlot.pack
  simp only [VSlot.mk.injEq]
  refine ⟨?_, ?_, ?_, ?_, ?_, ?_, ?_, ?_, ?_, ?_, ?_, ?_, ?_, ?_⟩ <;>
    (repeat refine (extract_high _ _ _ _ (by omega)).trans ?_) <;>
    first | (refine (extract_low _ _ _ _ (by omega)).trans ?_; simp) | simp

theorem VSlot_opcode_pack (f : VSlot) (op : BitVec 8) : (f.pack op).extractLsb' 0 8 = op := by
  unfold VSlot.pack
  exact (extract_low _ _ 0 8 (by omega)).trans (by simp)

theorem MSlot_unpack_pack (f : MSlot) (op : BitVec 8) : MSlot.unpack (f.pack op) = f := by
  obtain ⟨aux, h, spn, cbf, n, vs, q, src, sb, sa, md, af, inf, mode, b, rsv, sdly⟩ := f
  unfold MSlot.unpack MSlot.pack
  simp only [MSlot.mk.injEq]
  refine ⟨?_, ?_, ?_, ?_, ?_, ?_, ?_, ?_, ?_, ?_, ?_, ?_, ?_, ?_, ?_, ?_, ?_⟩ <;>
    (repeat refine (extract_high _ _ _ _ (by omega)).trans ?_) <;>
    first | (refine (extract_low _ _ _ _ (by omega)).trans ?_; simp) | simp

theorem MSlot_opcode_pack (f : MSlot) (op : BitVec 8) : (f.pack op).extractLsb' 0 8 = op := by
  unfold MSlot.pack
  exact (extract_low _ _ 0 8 (by omega)).trans (by simp)

theorem TSlot_unpack_pack (f : TSlot) (op : BitVec 8) : TSlot.unpack (f.pack op) = f := by
  obtain ⟨rsv, step, fmt, idx, v, sdly⟩ := f
  unfold TSlot.unpack TSlot.pack
  simp only [TSlot.mk.injEq]
  refine ⟨?_, ?_, ?_, ?_, ?_, ?_⟩ <;>
    (repeat refine (extract_high _ _ _ _ (by omega)).trans ?_) <;>
    first | (refine (extract_low _ _ _ _ (by omega)).trans ?_; simp) | simp

theorem TSlot_opcode_pack (f : TSlot) (op : BitVec 8) : (f.pack op).extractLsb' 0 8 = op := by
  unfold TSlot.pack
  exact (extract_low _ _ 0 8 (by omega)).trans (by simp)

theorem XSlot_unpack_pack (f : XSlot) (op : BitVec 8) : XSlot.unpack (f.pack op) = f := by
  obtain ⟨imm, fd2, fs, h2, h, sc, tag, scc, sb, sa⟩ := f
  unfold XSlot.unpack XSlot.pack
  simp only [XSlot.mk.injEq]
  refine ⟨?_, ?_, ?_, ?_, ?_, ?_, ?_, ?_, ?_, ?_⟩ <;>
    (repeat refine (extract_high _ _ _ _ (by omega)).trans ?_) <;>
    first | (refine (extract_low _ _ _ _ (by omega)).trans ?_; simp) | simp

theorem XSlot_opcode_pack (f : XSlot) (op : BitVec 8) : (f.pack op).extractLsb' 0 8 = op := by
  unfold XSlot.pack
  exact (extract_low _ _ 0 8 (by omega)).trans (by simp)

theorem decodeC_pack (f : CSlot) (op : BitVec 8) : decodeSlot .c (f.pack op) = operationC op.toNat f := by
  unfold decodeSlot decodeC
  rw [CSlot_opcode_pack, CSlot_unpack_pack]

theorem decodeA_pack (f : ASlot) (op : BitVec 8) : decodeSlot .a (f.pack op) = operationA op.toNat f := by
  unfold decodeSlot decodeA
  rw [ASlot_opcode_pack, ASlot_unpack_pack]

theorem decodeV_pack (f : VSlot) (op : BitVec 8) : decodeSlot .v (f.pack op) = operationV op.toNat f := by
  unfold decodeSlot decodeV
  rw [VSlot_opcode_pack, VSlot_unpack_pack]

theorem decodeM_pack (f : MSlot) (op : BitVec 8) : decodeSlot .m (f.pack op) = operationM op.toNat f := by
  unfold decodeSlot decodeM
  rw [MSlot_opcode_pack, MSlot_unpack_pack]

theorem decodeT_pack (f : TSlot) (op : BitVec 8) :
    decodeSlot .t ((f.pack op).setWidth 64) = operationT op.toNat f := by
  have h : ((f.pack op).setWidth 64).setWidth 32 = f.pack op := BitVec.setWidth_setWidth_of_le _ (by omega)
  unfold decodeSlot decodeT
  rw [h, TSlot_opcode_pack, TSlot_unpack_pack]

theorem decodeX_pack (f : XSlot) (op : BitVec 8) : decodeSlot .x (f.pack op) = operationX op.toNat f := by
  unfold decodeSlot decodeX
  rw [XSlot_opcode_pack, XSlot_unpack_pack]

/-! ### Round trips -/

/-- Decoding what the encoder writes for a well-formed instruction gives that instruction; an event has no word. -/
def RoundTrip.Statement (i : Instr) : Prop :=
  i.WellFormed = true → ∀ sl w, encode i = some (sl, w) → decodeSlot sl w = some i

/-- A well-formed instruction has the form its constructor names. -/
theorem formOk_of_wellFormed {i : Instr} (h : i.WellFormed = true) : i.formOk = true := by
  simp only [Instr.WellFormed, Bool.and_eq_true] at h
  exact h.1

theorem RoundTrip.cnop (f : CSlot) : RoundTrip.Statement (.cnop f) := by
  intro _ sl w h
  cases h
  exact decodeC_pack f _
theorem RoundTrip.endInst (f : CSlot) : RoundTrip.Statement (.endInst f) := by
  intro _ sl w h
  cases h
  exact decodeC_pack f _
theorem RoundTrip.add (f : CSlot) : RoundTrip.Statement (.add f) := by
  intro _ sl w h
  cases h
  exact decodeC_pack f _
theorem RoundTrip.sub (f : CSlot) : RoundTrip.Statement (.sub f) := by
  intro _ sl w h
  cases h
  exact decodeC_pack f _
theorem RoundTrip.mul (f : CSlot) : RoundTrip.Statement (.mul f) := by
  intro _ sl w h
  cases h
  exact decodeC_pack f _
theorem RoundTrip.mulh (f : CSlot) : RoundTrip.Statement (.mulh f) := by
  intro _ sl w h
  cases h
  exact decodeC_pack f _
theorem RoundTrip.mulhn (f : CSlot) : RoundTrip.Statement (.mulhn f) := by
  intro _ sl w h
  cases h
  exact decodeC_pack f _
theorem RoundTrip.div (f : CSlot) : RoundTrip.Statement (.div f) := by
  intro _ sl w h
  cases h
  exact decodeC_pack f _
theorem RoundTrip.divn (f : CSlot) : RoundTrip.Statement (.divn f) := by
  intro _ sl w h
  cases h
  exact decodeC_pack f _
theorem RoundTrip.rem (f : CSlot) : RoundTrip.Statement (.rem f) := by
  intro _ sl w h
  cases h
  exact decodeC_pack f _
theorem RoundTrip.remn (f : CSlot) : RoundTrip.Statement (.remn f) := by
  intro _ sl w h
  cases h
  exact decodeC_pack f _
theorem RoundTrip.and (f : CSlot) : RoundTrip.Statement (.and f) := by
  intro _ sl w h
  cases h
  exact decodeC_pack f _
theorem RoundTrip.or (f : CSlot) : RoundTrip.Statement (.or f) := by
  intro _ sl w h
  cases h
  exact decodeC_pack f _
theorem RoundTrip.xor (f : CSlot) : RoundTrip.Statement (.xor f) := by
  intro _ sl w h
  cases h
  exact decodeC_pack f _
theorem RoundTrip.andn (f : CSlot) : RoundTrip.Statement (.andn f) := by
  intro _ sl w h
  cases h
  exact decodeC_pack f _
theorem RoundTrip.shl (f : CSlot) : RoundTrip.Statement (.shl f) := by
  intro _ sl w h
  cases h
  exact decodeC_pack f _
theorem RoundTrip.shr (f : CSlot) : RoundTrip.Statement (.shr f) := by
  intro _ sl w h
  cases h
  exact decodeC_pack f _
theorem RoundTrip.sar (f : CSlot) : RoundTrip.Statement (.sar f) := by
  intro _ sl w h
  cases h
  exact decodeC_pack f _
theorem RoundTrip.rol (f : CSlot) : RoundTrip.Statement (.rol f) := by
  intro _ sl w h
  cases h
  exact decodeC_pack f _
theorem RoundTrip.min (f : CSlot) : RoundTrip.Statement (.min f) := by
  intro _ sl w h
  cases h
  exact decodeC_pack f _
theorem RoundTrip.max (f : CSlot) : RoundTrip.Statement (.max f) := by
  intro _ sl w h
  cases h
  exact decodeC_pack f _
theorem RoundTrip.minn (f : CSlot) : RoundTrip.Statement (.minn f) := by
  intro _ sl w h
  cases h
  exact decodeC_pack f _
theorem RoundTrip.maxn (f : CSlot) : RoundTrip.Statement (.maxn f) := by
  intro _ sl w h
  cases h
  exact decodeC_pack f _
theorem RoundTrip.clz (f : CSlot) : RoundTrip.Statement (.clz f) := by
  intro _ sl w h
  cases h
  exact decodeC_pack f _
theorem RoundTrip.ctz (f : CSlot) : RoundTrip.Statement (.ctz f) := by
  intro _ sl w h
  cases h
  exact decodeC_pack f _
theorem RoundTrip.popc (f : CSlot) : RoundTrip.Statement (.popc f) := by
  intro _ sl w h
  cases h
  exact decodeC_pack f _
theorem RoundTrip.seq (f : CSlot) : RoundTrip.Statement (.seq f) := by
  intro _ sl w h
  cases h
  exact decodeC_pack f _
theorem RoundTrip.slt (f : CSlot) : RoundTrip.Statement (.slt f) := by
  intro _ sl w h
  cases h
  exact decodeC_pack f _
theorem RoundTrip.sltn (f : CSlot) : RoundTrip.Statement (.sltn f) := by
  intro _ sl w h
  cases h
  exact decodeC_pack f _
theorem RoundTrip.sel (f : CSlot) : RoundTrip.Statement (.sel f) := by
  intro _ sl w h
  cases h
  exact decodeC_pack f _
theorem RoundTrip.li (f : CSlot) : RoundTrip.Statement (.li f) := by
  intro _ sl w h
  cases h
  exact decodeC_pack f _
theorem RoundTrip.lih (f : CSlot) : RoundTrip.Statement (.lih f) := by
  intro _ sl w h
  cases h
  exact decodeC_pack f _
theorem RoundTrip.lea (f : CSlot) : RoundTrip.Statement (.lea f) := by
  intro _ sl w h
  cases h
  exact decodeC_pack f _
theorem RoundTrip.popq (f : CSlot) : RoundTrip.Statement (.popq f) := by
  intro _ sl w h
  cases h
  exact decodeC_pack f _
theorem RoundTrip.br (f : CSlot) : RoundTrip.Statement (.br f) := by
  intro _ sl w h
  cases h
  exact decodeC_pack f _
theorem RoundTrip.beq (f : CSlot) : RoundTrip.Statement (.beq f) := by
  intro _ sl w h
  cases h
  exact decodeC_pack f _
theorem RoundTrip.bne (f : CSlot) : RoundTrip.Statement (.bne f) := by
  intro _ sl w h
  cases h
  exact decodeC_pack f _
theorem RoundTrip.blt (f : CSlot) : RoundTrip.Statement (.blt f) := by
  intro _ sl w h
  cases h
  exact decodeC_pack f _
theorem RoundTrip.bge (f : CSlot) : RoundTrip.Statement (.bge f) := by
  intro _ sl w h
  cases h
  exact decodeC_pack f _
theorem RoundTrip.bltn (f : CSlot) : RoundTrip.Statement (.bltn f) := by
  intro _ sl w h
  cases h
  exact decodeC_pack f _
theorem RoundTrip.bgen (f : CSlot) : RoundTrip.Statement (.bgen f) := by
  intro _ sl w h
  cases h
  exact decodeC_pack f _
theorem RoundTrip.bpany (f : CSlot) : RoundTrip.Statement (.bpany f) := by
  intro _ sl w h
  cases h
  exact decodeC_pack f _
theorem RoundTrip.bpall (f : CSlot) : RoundTrip.Statement (.bpall f) := by
  intro _ sl w h
  cases h
  exact decodeC_pack f _
theorem RoundTrip.call (f : CSlot) : RoundTrip.Statement (.call f) := by
  intro _ sl w h
  cases h
  exact decodeC_pack f _
theorem RoundTrip.ret (f : CSlot) : RoundTrip.Statement (.ret f) := by
  intro _ sl w h
  cases h
  exact decodeC_pack f _
theorem RoundTrip.jmpr (f : CSlot) : RoundTrip.Statement (.jmpr f) := by
  intro _ sl w h
  cases h
  exact decodeC_pack f _
theorem RoundTrip.loop (f : CSlot) : RoundTrip.Statement (.loop f) := by
  intro _ sl w h
  cases h
  exact decodeC_pack f _
theorem RoundTrip.lexit (f : CSlot) : RoundTrip.Statement (.lexit f) := by
  intro _ sl w h
  cases h
  exact decodeC_pack f _
theorem RoundTrip.spl (f : CSlot) : RoundTrip.Statement (.spl f) := by
  intro _ sl w h
  cases h
  exact decodeC_pack f _
theorem RoundTrip.fil (f : CSlot) : RoundTrip.Statement (.fil f) := by
  intro _ sl w h
  cases h
  exact decodeC_pack f _
theorem RoundTrip.mfs (f : CSlot) : RoundTrip.Statement (.mfs f) := by
  intro _ sl w h
  cases h
  exact decodeC_pack f _
theorem RoundTrip.mts (f : CSlot) : RoundTrip.Statement (.mts f) := by
  intro _ sl w h
  cases h
  exact decodeC_pack f _
theorem RoundTrip.trap (f : CSlot) : RoundTrip.Statement (.trap f) := by
  intro hw sl w h
  cases h
  have hf := formOk_of_wellFormed hw
  simp [Instr.formOk] at hf
  rw [decodeC_pack]
  simp [Instr.opcode, operationC, hf]
theorem RoundTrip.trapSys (f : CSlot) : RoundTrip.Statement (.trapSys f) := by
  intro hw sl w h
  cases h
  have hf := formOk_of_wellFormed hw
  simp [Instr.formOk] at hf
  rw [decodeC_pack]
  simp [Instr.opcode, operationC, hf]
theorem RoundTrip.eret (f : CSlot) : RoundTrip.Statement (.eret f) := by
  intro _ sl w h
  cases h
  exact decodeC_pack f _
theorem RoundTrip.chk (f : CSlot) : RoundTrip.Statement (.chk f) := by
  intro _ sl w h
  cases h
  exact decodeC_pack f _
theorem RoundTrip.blend (f : CSlot) : RoundTrip.Statement (.blend f) := by
  intro _ sl w h
  cases h
  exact decodeC_pack f _
theorem RoundTrip.bret (f : CSlot) : RoundTrip.Statement (.bret f) := by
  intro _ sl w h
  cases h
  exact decodeC_pack f _
theorem RoundTrip.anop (f : ASlot) : RoundTrip.Statement (.anop f) := by
  intro _ sl w h
  cases h
  exact decodeA_pack f _
theorem RoundTrip.ldq (f : ASlot) : RoundTrip.Statement (.ldq f) := by
  intro _ sl w h
  cases h
  exact decodeA_pack f _
theorem RoundTrip.ldqv (f : ASlot) : RoundTrip.Statement (.ldqv f) := by
  intro _ sl w h
  cases h
  exact decodeA_pack f _
theorem RoundTrip.ldqg (f : ASlot) : RoundTrip.Statement (.ldqg f) := by
  intro _ sl w h
  cases h
  exact decodeA_pack f _
theorem RoundTrip.ldqs (f : ASlot) : RoundTrip.Statement (.ldqs f) := by
  intro _ sl w h
  cases h
  exact decodeA_pack f _
theorem RoundTrip.sts (f : ASlot) : RoundTrip.Statement (.sts f) := by
  intro _ sl w h
  cases h
  exact decodeA_pack f _
theorem RoundTrip.stv (f : ASlot) : RoundTrip.Statement (.stv f) := by
  intro _ sl w h
  cases h
  exact decodeA_pack f _
theorem RoundTrip.stvp (f : ASlot) : RoundTrip.Statement (.stvp f) := by
  intro _ sl w h
  cases h
  exact decodeA_pack f _
theorem RoundTrip.stg (f : ASlot) : RoundTrip.Statement (.stg f) := by
  intro _ sl w h
  cases h
  exact decodeA_pack f _
theorem RoundTrip.ldf (f : ASlot) : RoundTrip.Statement (.ldf f) := by
  intro _ sl w h
  cases h
  exact decodeA_pack f _
theorem RoundTrip.ste (f : ASlot) : RoundTrip.Statement (.ste f) := by
  intro _ sl w h
  cases h
  exact decodeA_pack f _
theorem RoundTrip.setf (f : ASlot) : RoundTrip.Statement (.setf f) := by
  intro _ sl w h
  cases h
  exact decodeA_pack f _
theorem RoundTrip.sete (f : ASlot) : RoundTrip.Statement (.sete f) := by
  intro _ sl w h
  cases h
  exact decodeA_pack f _
theorem RoundTrip.tstf (f : ASlot) : RoundTrip.Statement (.tstf f) := by
  intro _ sl w h
  cases h
  exact decodeA_pack f _
theorem RoundTrip.tld (f : ASlot) : RoundTrip.Statement (.tld f) := by
  intro _ sl w h
  cases h
  exact decodeA_pack f _
theorem RoundTrip.tst (f : ASlot) : RoundTrip.Statement (.tst f) := by
  intro _ sl w h
  cases h
  exact decodeA_pack f _
theorem RoundTrip.xlt (f : ASlot) : RoundTrip.Statement (.xlt f) := by
  intro _ sl w h
  cases h
  exact decodeA_pack f _
theorem RoundTrip.hdrop (f : ASlot) : RoundTrip.Statement (.hdrop f) := by
  intro _ sl w h
  cases h
  exact decodeA_pack f _
theorem RoundTrip.hinfo (f : ASlot) : RoundTrip.Statement (.hinfo f) := by
  intro _ sl w h
  cases h
  exact decodeA_pack f _
theorem RoundTrip.hst (f : ASlot) : RoundTrip.Statement (.hst f) := by
  intro _ sl w h
  cases h
  exact decodeA_pack f _
theorem RoundTrip.hld (f : ASlot) : RoundTrip.Statement (.hld f) := by
  intro _ sl w h
  cases h
  exact decodeA_pack f _
theorem RoundTrip.amoadd (f : ASlot) : RoundTrip.Statement (.amoadd f) := by
  intro _ sl w h
  cases h
  exact decodeA_pack f _
theorem RoundTrip.amomin (f : ASlot) : RoundTrip.Statement (.amomin f) := by
  intro _ sl w h
  cases h
  exact decodeA_pack f _
theorem RoundTrip.amomax (f : ASlot) : RoundTrip.Statement (.amomax f) := by
  intro _ sl w h
  cases h
  exact decodeA_pack f _
theorem RoundTrip.amominn (f : ASlot) : RoundTrip.Statement (.amominn f) := by
  intro _ sl w h
  cases h
  exact decodeA_pack f _
theorem RoundTrip.amomaxn (f : ASlot) : RoundTrip.Statement (.amomaxn f) := by
  intro _ sl w h
  cases h
  exact decodeA_pack f _
theorem RoundTrip.amoand (f : ASlot) : RoundTrip.Statement (.amoand f) := by
  intro _ sl w h
  cases h
  exact decodeA_pack f _
theorem RoundTrip.amoor (f : ASlot) : RoundTrip.Statement (.amoor f) := by
  intro _ sl w h
  cases h
  exact decodeA_pack f _
theorem RoundTrip.amoxor (f : ASlot) : RoundTrip.Statement (.amoxor f) := by
  intro _ sl w h
  cases h
  exact decodeA_pack f _
theorem RoundTrip.amoswp (f : ASlot) : RoundTrip.Statement (.amoswp f) := by
  intro _ sl w h
  cases h
  exact decodeA_pack f _
theorem RoundTrip.amocas (f : ASlot) : RoundTrip.Statement (.amocas f) := by
  intro _ sl w h
  cases h
  exact decodeA_pack f _
theorem RoundTrip.amoincw (f : ASlot) : RoundTrip.Statement (.amoincw f) := by
  intro _ sl w h
  cases h
  exact decodeA_pack f _
theorem RoundTrip.amobfa (f : ASlot) : RoundTrip.Statement (.amobfa f) := by
  intro _ sl w h
  cases h
  exact decodeA_pack f _
theorem RoundTrip.amofadd (f : ASlot) : RoundTrip.Statement (.amofadd f) := by
  intro _ sl w h
  cases h
  exact decodeA_pack f _
theorem RoundTrip.ldacq (f : ASlot) : RoundTrip.Statement (.ldacq f) := by
  intro _ sl w h
  cases h
  exact decodeA_pack f _
theorem RoundTrip.strel (f : ASlot) : RoundTrip.Statement (.strel f) := by
  intro _ sl w h
  cases h
  exact decodeA_pack f _
theorem RoundTrip.pacq (f : ASlot) : RoundTrip.Statement (.pacq f) := by
  intro _ sl w h
  cases h
  exact decodeA_pack f _
theorem RoundTrip.drn (f : ASlot) : RoundTrip.Statement (.drn f) := by
  intro _ sl w h
  cases h
  exact decodeA_pack f _
theorem RoundTrip.barv (f : ASlot) : RoundTrip.Statement (.barv f) := by
  intro _ sl w h
  cases h
  exact decodeA_pack f _
theorem RoundTrip.bwait (f : ASlot) : RoundTrip.Statement (.bwait f) := by
  intro _ sl w h
  cases h
  exact decodeA_pack f _
theorem RoundTrip.fladd (f : ASlot) : RoundTrip.Statement (.fladd f) := by
  intro _ sl w h
  cases h
  exact decodeA_pack f _
theorem RoundTrip.flset (f : ASlot) : RoundTrip.Statement (.flset f) := by
  intro _ sl w h
  cases h
  exact decodeA_pack f _
theorem RoundTrip.flwait (f : ASlot) : RoundTrip.Statement (.flwait f) := by
  intro _ sl w h
  cases h
  exact decodeA_pack f _
theorem RoundTrip.vnop (f : VSlot) : RoundTrip.Statement (.vnop f) := by
  intro _ sl w h
  cases h
  exact decodeV_pack f _
theorem RoundTrip.vfadd (f : VSlot) : RoundTrip.Statement (.vfadd f) := by
  intro _ sl w h
  cases h
  exact decodeV_pack f _
theorem RoundTrip.vfsub (f : VSlot) : RoundTrip.Statement (.vfsub f) := by
  intro _ sl w h
  cases h
  exact decodeV_pack f _
theorem RoundTrip.vfmul (f : VSlot) : RoundTrip.Statement (.vfmul f) := by
  intro _ sl w h
  cases h
  exact decodeV_pack f _
theorem RoundTrip.vfma (f : VSlot) : RoundTrip.Statement (.vfma f) := by
  intro _ sl w h
  cases h
  exact decodeV_pack f _
theorem RoundTrip.vfms (f : VSlot) : RoundTrip.Statement (.vfms f) := by
  intro _ sl w h
  cases h
  exact decodeV_pack f _
theorem RoundTrip.vfnma (f : VSlot) : RoundTrip.Statement (.vfnma f) := by
  intro _ sl w h
  cases h
  exact decodeV_pack f _
theorem RoundTrip.vfmin (f : VSlot) : RoundTrip.Statement (.vfmin f) := by
  intro _ sl w h
  cases h
  exact decodeV_pack f _
theorem RoundTrip.vfmax (f : VSlot) : RoundTrip.Statement (.vfmax f) := by
  intro _ sl w h
  cases h
  exact decodeV_pack f _
theorem RoundTrip.vfabs (f : VSlot) : RoundTrip.Statement (.vfabs f) := by
  intro _ sl w h
  cases h
  exact decodeV_pack f _
theorem RoundTrip.vfneg (f : VSlot) : RoundTrip.Statement (.vfneg f) := by
  intro _ sl w h
  cases h
  exact decodeV_pack f _
theorem RoundTrip.vfcmp (f : VSlot) : RoundTrip.Statement (.vfcmp f) := by
  intro _ sl w h
  cases h
  exact decodeV_pack f _
theorem RoundTrip.vfspec (f : VSlot) : RoundTrip.Statement (.vfspec f) := by
  intro _ sl w h
  cases h
  exact decodeV_pack f _
theorem RoundTrip.vfclass (f : VSlot) : RoundTrip.Statement (.vfclass f) := by
  intro _ sl w h
  cases h
  exact decodeV_pack f _
theorem RoundTrip.viadd (f : VSlot) : RoundTrip.Statement (.viadd f) := by
  intro _ sl w h
  cases h
  exact decodeV_pack f _
theorem RoundTrip.visub (f : VSlot) : RoundTrip.Statement (.visub f) := by
  intro _ sl w h
  cases h
  exact decodeV_pack f _
theorem RoundTrip.vimul (f : VSlot) : RoundTrip.Statement (.vimul f) := by
  intro _ sl w h
  cases h
  exact decodeV_pack f _
theorem RoundTrip.vimad (f : VSlot) : RoundTrip.Statement (.vimad f) := by
  intro _ sl w h
  cases h
  exact decodeV_pack f _
theorem RoundTrip.viand (f : VSlot) : RoundTrip.Statement (.viand f) := by
  intro _ sl w h
  cases h
  exact decodeV_pack f _
theorem RoundTrip.vior (f : VSlot) : RoundTrip.Statement (.vior f) := by
  intro _ sl w h
  cases h
  exact decodeV_pack f _
theorem RoundTrip.vixor (f : VSlot) : RoundTrip.Statement (.vixor f) := by
  intro _ sl w h
  cases h
  exact decodeV_pack f _
theorem RoundTrip.vishl (f : VSlot) : RoundTrip.Statement (.vishl f) := by
  intro _ sl w h
  cases h
  exact decodeV_pack f _
theorem RoundTrip.vishr (f : VSlot) : RoundTrip.Statement (.vishr f) := by
  intro _ sl w h
  cases h
  exact decodeV_pack f _
theorem RoundTrip.visar (f : VSlot) : RoundTrip.Statement (.visar f) := by
  intro _ sl w h
  cases h
  exact decodeV_pack f _
theorem RoundTrip.vimin (f : VSlot) : RoundTrip.Statement (.vimin f) := by
  intro _ sl w h
  cases h
  exact decodeV_pack f _
theorem RoundTrip.vimax (f : VSlot) : RoundTrip.Statement (.vimax f) := by
  intro _ sl w h
  cases h
  exact decodeV_pack f _
theorem RoundTrip.vicmp (f : VSlot) : RoundTrip.Statement (.vicmp f) := by
  intro _ sl w h
  cases h
  exact decodeV_pack f _
theorem RoundTrip.vcvt (f : VSlot) : RoundTrip.Statement (.vcvt f) := by
  intro _ sl w h
  cases h
  exact decodeV_pack f _
theorem RoundTrip.vpack (f : VSlot) : RoundTrip.Statement (.vpack f) := by
  intro _ sl w h
  cases h
  exact decodeV_pack f _
theorem RoundTrip.vunpk (f : VSlot) : RoundTrip.Statement (.vunpk f) := by
  intro _ sl w h
  cases h
  exact decodeV_pack f _
theorem RoundTrip.vscacc (f : VSlot) : RoundTrip.Statement (.vscacc f) := by
  intro _ sl w h
  cases h
  exact decodeV_pack f _
theorem RoundTrip.vscal (f : VSlot) : RoundTrip.Statement (.vscal f) := by
  intro _ sl w h
  cases h
  exact decodeV_pack f _
theorem RoundTrip.vmov (f : VSlot) : RoundTrip.Statement (.vmov f) := by
  intro _ sl w h
  cases h
  exact decodeV_pack f _
theorem RoundTrip.vsel (f : VSlot) : RoundTrip.Statement (.vsel f) := by
  intro _ sl w h
  cases h
  exact decodeV_pack f _
theorem RoundTrip.vbcast (f : VSlot) : RoundTrip.Statement (.vbcast f) := by
  intro _ sl w h
  cases h
  exact decodeV_pack f _
theorem RoundTrip.vins (f : VSlot) : RoundTrip.Statement (.vins f) := by
  intro _ sl w h
  cases h
  exact decodeV_pack f _
theorem RoundTrip.vext (f : VSlot) : RoundTrip.Statement (.vext f) := by
  intro _ sl w h
  cases h
  exact decodeV_pack f _
theorem RoundTrip.vperm (f : VSlot) : RoundTrip.Statement (.vperm f) := by
  intro _ sl w h
  cases h
  exact decodeV_pack f _
theorem RoundTrip.vrot (f : VSlot) : RoundTrip.Statement (.vrot f) := by
  intro _ sl w h
  cases h
  exact decodeV_pack f _
theorem RoundTrip.viota (f : VSlot) : RoundTrip.Statement (.viota f) := by
  intro _ sl w h
  cases h
  exact decodeV_pack f _
theorem RoundTrip.vli (f : VSlot) : RoundTrip.Statement (.vli f) := by
  intro _ sl w h
  cases h
  exact decodeV_pack f _
theorem RoundTrip.vrsum (f : VSlot) : RoundTrip.Statement (.vrsum f) := by
  intro _ sl w h
  cases h
  exact decodeV_pack f _
theorem RoundTrip.vrmax (f : VSlot) : RoundTrip.Statement (.vrmax f) := by
  intro _ sl w h
  cases h
  exact decodeV_pack f _
theorem RoundTrip.vrmin (f : VSlot) : RoundTrip.Statement (.vrmin f) := by
  intro _ sl w h
  cases h
  exact decodeV_pack f _
theorem RoundTrip.pset (f : VSlot) : RoundTrip.Statement (.pset f) := by
  intro _ sl w h
  cases h
  exact decodeV_pack f _
theorem RoundTrip.pand (f : VSlot) : RoundTrip.Statement (.pand f) := by
  intro _ sl w h
  cases h
  exact decodeV_pack f _
theorem RoundTrip.por (f : VSlot) : RoundTrip.Statement (.por f) := by
  intro _ sl w h
  cases h
  exact decodeV_pack f _
theorem RoundTrip.pxor (f : VSlot) : RoundTrip.Statement (.pxor f) := by
  intro _ sl w h
  cases h
  exact decodeV_pack f _
theorem RoundTrip.pnot (f : VSlot) : RoundTrip.Statement (.pnot f) := by
  intro _ sl w h
  cases h
  exact decodeV_pack f _
theorem RoundTrip.pcnt (f : VSlot) : RoundTrip.Statement (.pcnt f) := by
  intro _ sl w h
  cases h
  exact decodeV_pack f _
theorem RoundTrip.pfirst (f : VSlot) : RoundTrip.Statement (.pfirst f) := by
  intro _ sl w h
  cases h
  exact decodeV_pack f _
theorem RoundTrip.hfwd (f : VSlot) : RoundTrip.Statement (.hfwd f) := by
  intro _ sl w h
  cases h
  exact decodeV_pack f _
theorem RoundTrip.hinv (f : VSlot) : RoundTrip.Statement (.hinv f) := by
  intro _ sl w h
  cases h
  exact decodeV_pack f _
theorem RoundTrip.hthr (f : VSlot) : RoundTrip.Statement (.hthr f) := by
  intro _ sl w h
  cases h
  exact decodeV_pack f _
theorem RoundTrip.htagSet (f : VSlot) : RoundTrip.Statement (.htagSet f) := by
  intro hw sl w h
  cases h
  have hf := formOk_of_wellFormed hw
  simp [Instr.formOk] at hf
  rw [decodeV_pack]
  simp [Instr.opcode, operationV, hf]
theorem RoundTrip.htagRead (f : VSlot) : RoundTrip.Statement (.htagRead f) := by
  intro hw sl w h
  cases h
  have hf := formOk_of_wellFormed hw
  simp [Instr.formOk] at hf
  rw [decodeV_pack]
  simp [Instr.opcode, operationV, hf]
theorem RoundTrip.hcmp (f : VSlot) : RoundTrip.Statement (.hcmp f) := by
  intro _ sl w h
  cases h
  exact decodeV_pack f _
theorem RoundTrip.splv (f : VSlot) : RoundTrip.Statement (.splv f) := by
  intro _ sl w h
  cases h
  exact decodeV_pack f _
theorem RoundTrip.filv (f : VSlot) : RoundTrip.Statement (.filv f) := by
  intro _ sl w h
  cases h
  exact decodeV_pack f _
theorem RoundTrip.vchk (f : VSlot) : RoundTrip.Statement (.vchk f) := by
  intro _ sl w h
  cases h
  exact decodeV_pack f _
theorem RoundTrip.mnop (f : MSlot) : RoundTrip.Statement (.mnop f) := by
  intro _ sl w h
  cases h
  exact decodeM_pack f _
theorem RoundTrip.fgrid (f : MSlot) : RoundTrip.Statement (.fgrid f) := by
  intro _ sl w h
  cases h
  exact decodeM_pack f _
theorem RoundTrip.fload (f : MSlot) : RoundTrip.Statement (.fload f) := by
  intro _ sl w h
  cases h
  exact decodeM_pack f _
theorem RoundTrip.fsel (f : MSlot) : RoundTrip.Statement (.fsel f) := by
  intro _ sl w h
  cases h
  exact decodeM_pack f _
theorem RoundTrip.fmx (f : MSlot) : RoundTrip.Statement (.fmx f) := by
  intro hw sl w h
  cases h
  have hf := formOk_of_wellFormed hw
  simp [Instr.formOk] at hf
  rw [decodeM_pack]
  simp [Instr.opcode, operationM, hf]
theorem RoundTrip.fmxHaar (f : MSlot) : RoundTrip.Statement (.fmxHaar f) := by
  intro hw sl w h
  cases h
  have hf := formOk_of_wellFormed hw
  simp [Instr.formOk] at hf
  rw [decodeM_pack]
  simp [Instr.opcode, operationM, hf]
theorem RoundTrip.fmxd (f : MSlot) : RoundTrip.Statement (.fmxd f) := by
  intro _ sl w h
  cases h
  exact decodeM_pack f _
theorem RoundTrip.fmxc (f : MSlot) : RoundTrip.Statement (.fmxc f) := by
  intro _ sl w h
  cases h
  exact decodeM_pack f _
theorem RoundTrip.fgout (f : MSlot) : RoundTrip.Statement (.fgout f) := by
  intro _ sl w h
  cases h
  exact decodeM_pack f _
theorem RoundTrip.fknot (f : MSlot) : RoundTrip.Statement (.fknot f) := by
  intro _ sl w h
  cases h
  exact decodeM_pack f _
theorem RoundTrip.foog (f : MSlot) : RoundTrip.Statement (.foog f) := by
  intro _ sl w h
  cases h
  exact decodeM_pack f _
theorem RoundTrip.fclrBuffer (f : MSlot) : RoundTrip.Statement (.fclrBuffer f) := by
  intro hw sl w h
  cases h
  have hf : ∀ a : BitVec 4, (a = 0#4 ∨ a = 1#4 ∨ a.getLsbD 3 = true) → a.toNat < 2 ∨ 8 ≤ a.toNat := by decide
  have hx := hf f.aux (by have := formOk_of_wellFormed hw; simpa [Instr.formOk] using this)
  rw [decodeM_pack]
  change some (match f.aux.toNat with
    | 2 => Instr.fclrCounters f
    | 3 => .fclrGrid f
    | 4 | 5 | 6 | 7 => .fclrGrad f
    | _ => .fclrBuffer f) = _
  split <;> first | rfl | omega
theorem RoundTrip.fclrCounters (f : MSlot) : RoundTrip.Statement (.fclrCounters f) := by
  intro hw sl w h
  cases h
  have hf := formOk_of_wellFormed hw
  simp [Instr.formOk] at hf
  rw [decodeM_pack]
  simp [Instr.opcode, operationM, hf]
theorem RoundTrip.fclrGrid (f : MSlot) : RoundTrip.Statement (.fclrGrid f) := by
  intro hw sl w h
  cases h
  have hf := formOk_of_wellFormed hw
  simp [Instr.formOk] at hf
  rw [decodeM_pack]
  simp [Instr.opcode, operationM, hf]
theorem RoundTrip.fclrGrad (f : MSlot) : RoundTrip.Statement (.fclrGrad f) := by
  intro hw sl w h
  cases h
  have hf := formOk_of_wellFormed hw
  simp [Instr.formOk] at hf
  have hc : f.aux.toNat = 4 ∨ f.aux.toNat = 5 ∨ f.aux.toNat = 6 ∨ f.aux.toNat = 7 := by omega
  rcases hc with hc | hc | hc | hc <;>
    simp [decodeM_pack, Instr.opcode, operationM, hc]
theorem RoundTrip.frdc (f : MSlot) : RoundTrip.Statement (.frdc f) := by
  intro _ sl w h
  cases h
  exact decodeM_pack f _
theorem RoundTrip.tnop (f : TSlot) : RoundTrip.Statement (.tnop f) := by
  intro _ sl w h
  cases h
  exact decodeT_pack f _
theorem RoundTrip.txi (f : TSlot) : RoundTrip.Statement (.txi f) := by
  intro _ sl w h
  cases h
  exact decodeT_pack f _
theorem RoundTrip.txo (f : TSlot) : RoundTrip.Statement (.txo f) := by
  intro _ sl w h
  cases h
  exact decodeT_pack f _
theorem RoundTrip.txc (f : TSlot) : RoundTrip.Statement (.txc f) := by
  intro _ sl w h
  cases h
  exact decodeT_pack f _
theorem RoundTrip.xnop (f : XSlot) : RoundTrip.Statement (.xnop f) := by
  intro _ sl w h
  cases h
  exact decodeX_pack f _
theorem RoundTrip.copy (f : XSlot) : RoundTrip.Statement (.copy f) := by
  intro _ sl w h
  cases h
  exact decodeX_pack f _
theorem RoundTrip.copy2d (f : XSlot) : RoundTrip.Statement (.copy2d f) := by
  intro _ sl w h
  cases h
  exact decodeX_pack f _
theorem RoundTrip.copyt (f : XSlot) : RoundTrip.Statement (.copyt f) := by
  intro _ sl w h
  cases h
  exact decodeX_pack f _
theorem RoundTrip.waitany (f : XSlot) : RoundTrip.Statement (.waitany f) := by
  intro _ sl w h
  cases h
  exact decodeX_pack f _
theorem RoundTrip.waitall (f : XSlot) : RoundTrip.Statement (.waitall f) := by
  intro _ sl w h
  cases h
  exact decodeX_pack f _
theorem RoundTrip.ffrdy (f : XSlot) : RoundTrip.Statement (.ffrdy f) := by
  intro _ sl w h
  cases h
  exact decodeX_pack f _
theorem RoundTrip.tagclr (f : XSlot) : RoundTrip.Statement (.tagclr f) := by
  intro _ sl w h
  cases h
  exact decodeX_pack f _
theorem RoundTrip.xdt (f : XSlot) : RoundTrip.Statement (.xdt f) := by
  intro _ sl w h
  cases h
  exact decodeX_pack f _
theorem RoundTrip.xds (f : XSlot) : RoundTrip.Statement (.xds f) := by
  intro _ sl w h
  cases h
  exact decodeX_pack f _
theorem RoundTrip.xdq (f : XSlot) : RoundTrip.Statement (.xdq f) := by
  intro _ sl w h
  cases h
  exact decodeX_pack f _
theorem RoundTrip.launch (f : XSlot) : RoundTrip.Statement (.launch f) := by
  intro _ sl w h
  cases h
  exact decodeX_pack f _
theorem RoundTrip.lwait (f : XSlot) : RoundTrip.Statement (.lwait f) := by
  intro _ sl w h
  cases h
  exact decodeX_pack f _
theorem RoundTrip.defer (f : XSlot) : RoundTrip.Statement (.defer f) := by
  intro _ sl w h
  cases h
  exact decodeX_pack f _
theorem RoundTrip.defrun (f : XSlot) : RoundTrip.Statement (.defrun f) := by
  intro _ sl w h
  cases h
  exact decodeX_pack f _
theorem RoundTrip.pput (f : XSlot) : RoundTrip.Statement (.pput f) := by
  intro _ sl w h
  cases h
  exact decodeX_pack f _
theorem RoundTrip.pget (f : XSlot) : RoundTrip.Statement (.pget f) := by
  intro _ sl w h
  cases h
  exact decodeX_pack f _
theorem RoundTrip.grpbar (f : XSlot) : RoundTrip.Statement (.grpbar f) := by
  intro _ sl w h
  cases h
  exact decodeX_pack f _
theorem RoundTrip.evwait (f : XSlot) : RoundTrip.Statement (.evwait f) := by
  intro _ sl w h
  cases h
  exact decodeX_pack f _
theorem RoundTrip.evsig (f : XSlot) : RoundTrip.Statement (.evsig f) := by
  intro _ sl w h
  cases h
  exact decodeX_pack f _
theorem RoundTrip.mflush (f : XSlot) : RoundTrip.Statement (.mflush f) := by
  intro _ sl w h
  cases h
  exact decodeX_pack f _
theorem RoundTrip.cntrd (f : XSlot) : RoundTrip.Statement (.cntrd f) := by
  intro _ sl w h
  cases h
  exact decodeX_pack f _
theorem RoundTrip.pendingTrap (cause info : Nat) : RoundTrip.Statement (.pendingTrap cause info) := by
  intro _ sl w h; cases h
theorem RoundTrip.functionLevelReset (vf : Nat) : RoundTrip.Statement (.functionLevelReset vf) := by
  intro _ sl w h; cases h
theorem RoundTrip.functionResetTimeout (vf : Nat) : RoundTrip.Statement (.functionResetTimeout vf) := by
  intro _ sl w h; cases h
theorem RoundTrip.shootDownCommand (asid all wb va count : Nat) : RoundTrip.Statement (.shootDownCommand asid all wb va count) := by
  intro _ sl w h; cases h
theorem RoundTrip.addressSpaceDescriptorWrite (index word : Nat) : RoundTrip.Statement (.addressSpaceDescriptorWrite index word) := by
  intro _ sl w h; cases h
theorem RoundTrip.keySlotDescriptorWrite (index word : Nat) : RoundTrip.Statement (.keySlotDescriptorWrite index word) := by
  intro _ sl w h; cases h
theorem RoundTrip.keyPortWrite (index word : Nat) : RoundTrip.Statement (.keyPortWrite index word) := by
  intro _ sl w h; cases h
theorem RoundTrip.keySlotUnload (index : Nat) : RoundTrip.Statement (.keySlotUnload index) := by
  intro _ sl w h; cases h
theorem RoundTrip.bankStatusWrite (index word : Nat) : RoundTrip.Statement (.bankStatusWrite index word) := by
  intro _ sl w h; cases h
theorem RoundTrip.retirementCommand (index word : Nat) : RoundTrip.Statement (.retirementCommand index word) := by
  intro _ sl w h; cases h
theorem RoundTrip.collectiveChannelWrite (index word : Nat) : RoundTrip.Statement (.collectiveChannelWrite index word) := by
  intro _ sl w h; cases h
theorem RoundTrip.functionLimitsWrite (index word : Nat) : RoundTrip.Statement (.functionLimitsWrite index word) := by
  intro _ sl w h; cases h
theorem RoundTrip.hostQueueGrantWrite (index word : Nat) : RoundTrip.Statement (.hostQueueGrantWrite index word) := by
  intro _ sl w h; cases h
theorem RoundTrip.flushCommand (word : Nat) : RoundTrip.Statement (.flushCommand word) := by
  intro _ sl w h; cases h
theorem RoundTrip.registerWrite (unit index word : Nat) : RoundTrip.Statement (.registerWrite unit index word) := by
  intro _ sl w h; cases h
theorem RoundTrip.qwcDoorbell (queue count : Nat) : RoundTrip.Statement (.qwcDoorbell queue count) := by
  intro _ sl w h; cases h
theorem RoundTrip.qctlRst (queue : Nat) : RoundTrip.Statement (.qctlRst queue) := by
  intro _ sl w h; cases h
theorem RoundTrip.hostMemoryAccess (write addr data : Nat) : RoundTrip.Statement (.hostMemoryAccess write addr data) := by
  intro _ sl w h; cases h
theorem RoundTrip.linkFlitReceive (port good : Nat) : RoundTrip.Statement (.linkFlitReceive port good) := by
  intro _ sl w h; cases h
theorem RoundTrip.linkPortFail (port : Nat) : RoundTrip.Statement (.linkPortFail port) := by
  intro _ sl w h; cases h
theorem RoundTrip.collectivePacketReceive (chan attempt data : Nat) : RoundTrip.Statement (.collectivePacketReceive chan attempt data) := by
  intro _ sl w h; cases h
theorem RoundTrip.abortTokenStart (chan : Nat) : RoundTrip.Statement (.abortTokenStart chan) := by
  intro _ sl w h; cases h
theorem RoundTrip.abortTokenReceive (chan attempt port : Nat) : RoundTrip.Statement (.abortTokenReceive chan attempt port) := by
  intro _ sl w h; cases h
theorem RoundTrip.serviceAnswer (word : Nat) : RoundTrip.Statement (.serviceAnswer word) := by
  intro _ sl w h; cases h
theorem RoundTrip.throttle (tower : Nat) : RoundTrip.Statement (.throttle tower) := by
  intro _ sl w h; cases h
theorem RoundTrip.clockRecoveryStep (tower : Nat) : RoundTrip.Statement (.clockRecoveryStep tower) := by
  intro _ sl w h; cases h
theorem RoundTrip.criticalTemperature (tower : Nat) : RoundTrip.Statement (.criticalTemperature tower) := by
  intro _ sl w h; cases h
theorem RoundTrip.tarnLinkTraining (port st peer degr : Nat) : RoundTrip.Statement (.tarnLinkTraining port st peer degr) := by
  intro _ sl w h; cases h
theorem RoundTrip.recordPrioChange (queue pos prio : Nat) : RoundTrip.Statement (.recordPrioChange queue pos prio) := by
  intro _ sl w h; cases h
theorem RoundTrip.errorNotConsumed (line : Nat) : RoundTrip.Statement (.errorNotConsumed line) := by
  intro _ sl w h; cases h
theorem RoundTrip.bundleIssue : RoundTrip.Statement .bundleIssue := by
  intro _ sl w h; cases h
theorem RoundTrip.operationStart : RoundTrip.Statement .operationStart := by
  intro _ sl w h; cases h
theorem RoundTrip.resultLanding : RoundTrip.Statement .resultLanding := by
  intro _ sl w h; cases h
theorem RoundTrip.loadDataFill : RoundTrip.Statement .loadDataFill := by
  intro _ sl w h; cases h
theorem RoundTrip.bankService : RoundTrip.Statement .bankService := by
  intro _ sl w h; cases h
theorem RoundTrip.accessPerform : RoundTrip.Statement .accessPerform := by
  intro _ sl w h; cases h
theorem RoundTrip.releasePerform : RoundTrip.Statement .releasePerform := by
  intro _ sl w h; cases h
theorem RoundTrip.waiterReady : RoundTrip.Statement .waiterReady := by
  intro _ sl w h; cases h
theorem RoundTrip.contextSwitch : RoundTrip.Statement .contextSwitch := by
  intro _ sl w h; cases h
theorem RoundTrip.freezeWatchdogExpiry : RoundTrip.Statement .freezeWatchdogExpiry := by
  intro _ sl w h; cases h
theorem RoundTrip.heldEntryCommit : RoundTrip.Statement .heldEntryCommit := by
  intro _ sl w h; cases h
theorem RoundTrip.arrayPushRow : RoundTrip.Statement .arrayPushRow := by
  intro _ sl w h; cases h
theorem RoundTrip.floadBegin : RoundTrip.Statement .floadBegin := by
  intro _ sl w h; cases h
theorem RoundTrip.floadComplete : RoundTrip.Statement .floadComplete := by
  intro _ sl w h; cases h
theorem RoundTrip.codebookTableRead : RoundTrip.Statement .codebookTableRead := by
  intro _ sl w h; cases h
theorem RoundTrip.fgridSlotWrite : RoundTrip.Statement .fgridSlotWrite := by
  intro _ sl w h; cases h
theorem RoundTrip.txiRowWrite : RoundTrip.Statement .txiRowWrite := by
  intro _ sl w h; cases h
theorem RoundTrip.copyChunk : RoundTrip.Statement .copyChunk := by
  intro _ sl w h; cases h
theorem RoundTrip.copyComplete : RoundTrip.Statement .copyComplete := by
  intro _ sl w h; cases h
theorem RoundTrip.mflushComplete : RoundTrip.Statement .mflushComplete := by
  intro _ sl w h; cases h
theorem RoundTrip.logPromotion : RoundTrip.Statement .logPromotion := by
  intro _ sl w h; cases h
theorem RoundTrip.l1WriteBack : RoundTrip.Statement .l1WriteBack := by
  intro _ sl w h; cases h
theorem RoundTrip.pacqRequestArrival : RoundTrip.Statement .pacqRequestArrival := by
  intro _ sl w h; cases h
theorem RoundTrip.pacqReply : RoundTrip.Statement .pacqReply := by
  intro _ sl w h; cases h
theorem RoundTrip.drnComplete : RoundTrip.Statement .drnComplete := by
  intro _ sl w h; cases h
theorem RoundTrip.heldServiceAnswer : RoundTrip.Statement .heldServiceAnswer := by
  intro _ sl w h; cases h
theorem RoundTrip.flagOperationArrival : RoundTrip.Statement .flagOperationArrival := by
  intro _ sl w h; cases h
theorem RoundTrip.eventSignalArrival : RoundTrip.Statement .eventSignalArrival := by
  intro _ sl w h; cases h
theorem RoundTrip.jobDispatch : RoundTrip.Statement .jobDispatch := by
  intro _ sl w h; cases h
theorem RoundTrip.blockDecode : RoundTrip.Statement .blockDecode := by
  intro _ sl w h; cases h
theorem RoundTrip.chunkWrite : RoundTrip.Statement .chunkWrite := by
  intro _ sl w h; cases h
theorem RoundTrip.jobComplete : RoundTrip.Statement .jobComplete := by
  intro _ sl w h; cases h
theorem RoundTrip.jobSuspend : RoundTrip.Statement .jobSuspend := by
  intro _ sl w h; cases h
theorem RoundTrip.xdtComplete : RoundTrip.Statement .xdtComplete := by
  intro _ sl w h; cases h
theorem RoundTrip.launchEnqueue : RoundTrip.Statement .launchEnqueue := by
  intro _ sl w h; cases h
theorem RoundTrip.launchSelection : RoundTrip.Statement .launchSelection := by
  intro _ sl w h; cases h
theorem RoundTrip.instanceBind : RoundTrip.Statement .instanceBind := by
  intro _ sl w h; cases h
theorem RoundTrip.preemption : RoundTrip.Statement .preemption := by
  intro _ sl w h; cases h
theorem RoundTrip.contextSave : RoundTrip.Statement .contextSave := by
  intro _ sl w h; cases h
theorem RoundTrip.contextResume : RoundTrip.Statement .contextResume := by
  intro _ sl w h; cases h
theorem RoundTrip.rebalanceCheck : RoundTrip.Statement .rebalanceCheck := by
  intro _ sl w h; cases h
theorem RoundTrip.deferralBatchStart : RoundTrip.Statement .deferralBatchStart := by
  intro _ sl w h; cases h
theorem RoundTrip.stageInstanceEnd : RoundTrip.Statement .stageInstanceEnd := by
  intro _ sl w h; cases h
theorem RoundTrip.launchComplete : RoundTrip.Statement .launchComplete := by
  intro _ sl w h; cases h
theorem RoundTrip.completionWordWrite : RoundTrip.Statement .completionWordWrite := by
  intro _ sl w h; cases h
theorem RoundTrip.launchWatchdogExpiry : RoundTrip.Statement .launchWatchdogExpiry := by
  intro _ sl w h; cases h
theorem RoundTrip.launchReplay : RoundTrip.Statement .launchReplay := by
  intro _ sl w h; cases h
theorem RoundTrip.shootDownAcknowledge : RoundTrip.Statement .shootDownAcknowledge := by
  intro _ sl w h; cases h
theorem RoundTrip.pageWalk : RoundTrip.Statement .pageWalk := by
  intro _ sl w h; cases h
theorem RoundTrip.bankLineMove : RoundTrip.Statement .bankLineMove := by
  intro _ sl w h; cases h
theorem RoundTrip.flushCommandComplete : RoundTrip.Statement .flushCommandComplete := by
  intro _ sl w h; cases h
theorem RoundTrip.queueEntryConsume : RoundTrip.Statement .queueEntryConsume := by
  intro _ sl w h; cases h
theorem RoundTrip.hostCompletionTimeout : RoundTrip.Statement .hostCompletionTimeout := by
  intro _ sl w h; cases h
theorem RoundTrip.firmwareTrapResume : RoundTrip.Statement .firmwareTrapResume := by
  intro _ sl w h; cases h
theorem RoundTrip.firmwareTrapForward : RoundTrip.Statement .firmwareTrapForward := by
  intro _ sl w h; cases h
theorem RoundTrip.firmwareSwapGo : RoundTrip.Statement .firmwareSwapGo := by
  intro _ sl w h; cases h
theorem RoundTrip.firmwareSwapTimeout : RoundTrip.Statement .firmwareSwapTimeout := by
  intro _ sl w h; cases h
theorem RoundTrip.wellheadRestart : RoundTrip.Statement .wellheadRestart := by
  intro _ sl w h; cases h
theorem RoundTrip.coldReset : RoundTrip.Statement .coldReset := by
  intro _ sl w h; cases h
theorem RoundTrip.warmReset : RoundTrip.Statement .warmReset := by
  intro _ sl w h; cases h
theorem RoundTrip.hostCxlReset : RoundTrip.Statement .hostCxlReset := by
  intro _ sl w h; cases h
theorem RoundTrip.jobResumption : RoundTrip.Statement .jobResumption := by
  intro _ sl w h; cases h

end Sys2Proof.Laws
end

