-- ==== Sys2Proof/Tests/Slice0.lean ====
section
/-! SUPPORT. Tests: ill-formed instructions, words from the spec's encodings, small steps with results from the spec, and for
each statement with hypotheses a state and operands that meet them. -/

namespace Sys2Proof.Tests

open Sys2Proof Sys2Proof.Machine

set_option Elab.async false

/-! ### Well-formedness (R46, R47, R61, R67, R109, R217, R396): one ill-formed instruction for each check -/

/-- Fields that hold 0, but for a width of 64 bits (R67). -/
def zeroC : CSlot := { imm := 0, fn := 0, mir := 0, w := 3, i := 0, sb := 0, sa := 0, sd := 0 }
/-- Fields that hold 0, but for a width of 32 bits (R109). -/
def zeroA : ASlot := { off := 0, step := 0, sc := 0, w := 2, h := 0, xs := 0, dr := 0, mir := 0, sdly := 0 }
def zeroV : VSlot := {
  aux := 0, rm := 0, qa := 0, step := 0, fd := 0, fa := 0, z := 0, p := 0, vc := 0, vb := 0, va := 0, vd := 0, mir := 0, sdly := 0 }
def zeroM : MSlot := {
  aux := 0, h := 0, spn := 0, cbf := 0, n := 1, vs := 0, q := 0, src := 0, sb := 0, sa := 0, md := 0, af := 0, inf := 0, mode := 0
  b := 0, rsv := 0, sdly := 0 }
def zeroT : TSlot := { rsv := 0, step := 0, fmt := 0, idx := 0, v := 0, sdly := 0 }
def zeroX : XSlot := { imm := 0, fd2 := 0, fs := 0, h2 := 0, h := 0, sc := 0, tag := 0, scc := 0, sb := 0, sa := 0 }

/-- Instructions with no reserved field or value. -/
theorem test_wellFormed : ([.add zeroC, .cnop { zeroC with w := 0 }, .trap { zeroC with i := 1 },
    .trapSys { zeroC with i := 1, fn := 1 }, .ldq zeroA, .amoadd { zeroA with sc := 6 }, .vfadd zeroV,
    .htagRead { zeroV with aux := 0x800 }, .fmx zeroM, .fmxHaar { zeroM with h := 1 }, .fclrBuffer { zeroM with n := 0 },
    .fclrCounters { zeroM with n := 0, aux := 2 }, .fclrGrid { zeroM with n := 0, aux := 3 },
    .fclrGrad { zeroM with n := 0, aux := 7 }, .txi zeroT, .copy zeroX, .mflush { zeroX with imm := 1 },
    .bundleIssue] : List Instr).all Instr.WellFormed = true := by decide +kernel

/-- The form that a constructor names must agree with the field that tells it from its opcode's other rows (R199, R200,
R207, R251, R352). -/
theorem test_illFormed_form : ([.trap { zeroC with i := 1, fn := 1 }, .trapSys { zeroC with i := 1 },
    .htagSet { zeroV with aux := 0x800 }, .htagRead zeroV, .fmx { zeroM with h := 1 }, .fmxHaar zeroM,
    .fclrBuffer { zeroM with n := 0, aux := 2 }, .fclrCounters { zeroM with n := 0 }, .fclrGrid { zeroM with n := 0 },
    .fclrGrad { zeroM with n := 0, aux := 3 }] : List Instr).all (fun i => !i.WellFormed) = true := by decide +kernel

/-- The lowest bit of the offending field, as R64 has TRAPINFO name it: C slot. -/
theorem test_illFormed_c : ([(.cnop { zeroC with w := 0, sd := 1 }, 8), (.li { zeroC with sa := 1 }, 13),
    (.add { zeroC with i := 1, sb := 1 }, 18), (.lih zeroC, 23), (.br { zeroC with i := 1 }, 23), (.lea { zeroC with w := 2 }, 24),
    (.beq { zeroC with mir := 1 }, 26), (.add { zeroC with fn := 1 }, 27), (.lea { zeroC with fn := 8 }, 27),
    (.loop { zeroC with fn := 2 }, 27), (.blend { zeroC with fn := 4 }, 27), (.sub { zeroC with imm := 1 }, 32),
    (.mfs { zeroC with imm := 0x10000 }, 32), (.bpany { zeroC with sa := 8 }, 13), (.endInst { zeroC with w := 0 }, 24)] :
    List (Instr × Nat)).all (fun e => e.1.reservedBit = some e.2) = true := by decide +kernel

theorem test_illFormed_a : ([(.anop { zeroA with w := 0, sdly := 1 }, 8), (.ldf { zeroA with mir := 1 }, 11),
    (.ldq { zeroA with dr := 1 }, 12), (.hdrop { zeroA with xs := 1 }, 18), (.drn { zeroA with h := 1 }, 23),
    (.ldqv { zeroA with w := 3 }, 27), (.sts { zeroA with sc := 1 }, 29), (.amoadd { zeroA with sc := 7 }, 29),
    (.amoadd { zeroA with step := 1 }, 32), (.hdrop { zeroA with off := 1 }, 38), (.fladd { zeroA with off := 64 }, 38),
    (.flset { zeroA with off := 0xC0 }, 38), (.flwait { zeroA with off := 512 }, 38), (.hst { zeroA with off := 0x200000 }, 38)] :
    List (Instr × Nat)).all (fun e => e.1.reservedBit = some e.2) = true := by decide +kernel

theorem test_illFormed_v : ([(.vnop { zeroV with sdly := 1 }, 8), (.vchk { zeroV with mir := 1 }, 11),
    (.vfcmp { zeroV with vd := 8 }, 12), (.vfadd { zeroV with qa := 1, va := 1 }, 18), (.vfabs { zeroV with vb := 1 }, 24),
    (.vfadd { zeroV with vc := 1 }, 30), (.pfirst { zeroV with p := 1 }, 36), (.pcnt { zeroV with z := 1 }, 39),
    (.vmov { zeroV with fa := 1 }, 40), (.vmov { zeroV with fd := 1 }, 43), (.pand { zeroV with step := 1 }, 46),
    (.viota { zeroV with qa := 1 }, 48), (.vfadd { zeroV with rm := 4 }, 49), (.viadd { zeroV with rm := 1 }, 49),
    (.vfadd { zeroV with aux := 1 }, 52), (.vfcmp { zeroV with aux := 7 }, 52), (.vicmp { zeroV with aux := 6 }, 52)] :
    List (Instr × Nat)).all (fun e => e.1.reservedBit = some e.2) = true := by decide +kernel

theorem test_illFormed_m : ([(.mnop { zeroM with n := 0, sdly := 1 }, 8), (.fmx { zeroM with rsv := 1 }, 11),
    (.foog { zeroM with n := 0, b := 1 }, 12), (.fmx { zeroM with mode := 4 }, 13), (.fsel { zeroM with n := 0, inf := 1 }, 16),
    (.fmx { zeroM with af := 3 }, 19), (.fmxd { zeroM with md := 96 }, 21), (.fsel { zeroM with n := 0, sa := 1 }, 28),
    (.fgout { zeroM with sb := 1 }, 33), (.frdc { zeroM with src := 1 }, 38), (.fload { zeroM with q := 1 }, 39),
    (.fclrBuffer { zeroM with n := 0, vs := 1 }, 40), (.fgrid zeroM, 46), (.fmxc { zeroM with cbf := 1 }, 54),
    (.fmxc { zeroM with spn := 5 }, 56), (.fmxd { zeroM with h := 1 }, 59), (.fload { zeroM with aux := 2 }, 60)] :
    List (Instr × Nat)).all (fun e => e.1.reservedBit = some e.2) = true := by decide +kernel

theorem test_illFormed_tx : ([(.tnop { zeroT with sdly := 1 }, 8), (.txc { zeroT with v := 1 }, 11), (.txc { zeroT with idx := 1 }, 17),
    (.txi { zeroT with fmt := 1 }, 24), (.txc { zeroT with step := 1 }, 27), (.txo { zeroT with rsv := 1 }, 29),
    (.defrun { zeroX with sa := 1 }, 8), (.waitall { zeroX with sb := 1 }, 13), (.waitany { zeroX with scc := 1 }, 18),
    (.ffrdy { zeroX with tag := 1 }, 23), (.copy { zeroX with sc := 7 }, 29), (.xdt { zeroX with sc := 1 }, 29),
    (.xdq { zeroX with h := 1 }, 32), (.ffrdy { zeroX with h2 := 1 }, 36), (.xds { zeroX with fs := 1 }, 40),
    (.launch { zeroX with fd2 := 1 }, 43), (.copy { zeroX with imm := 8 }, 46), (.mflush zeroX, 46)] :
    List (Instr × Nat)).all (fun e => e.1.reservedBit = some e.2) = true := by decide +kernel

/-! ### Decoding (R46, R62): words put together from the bit positions of R46 and the opcodes of R62 -/

/-- Fields for the C slot, and their word with opcode 0. -/
def fieldsC : CSlot := ⟨0x89ABCDEF, 0x16, 1, 2, 1, 0x15, 0xA, 0x13⟩
def wordC : BitVec 64 := 0x89ABCDEFB6D55300

/-- Fields for the C slot, and their word with opcode 0. -/
def fieldsCB : CSlot := ⟨0x89ABCDEF, 0x17, 1, 2, 1, 0x15, 0xA, 0x13⟩
def wordCB : BitVec 64 := 0x89ABCDEFBED55300

theorem test_decode_c_1 : ([(0x00, .cnop fieldsC), (0x01, .endInst fieldsC), (0x10, .add fieldsC), (0x11, .sub
      fieldsC), (0x12, .mul fieldsC), (0x13, .mulh fieldsC), (0x14, .mulhn fieldsC), (0x15, .div fieldsC), (0x16,
      .divn fieldsC), (0x17, .rem fieldsC), (0x18, .remn fieldsC), (0x19, .and fieldsC), (0x1A, .or fieldsC), (0x1B,
      .xor fieldsC), (0x1C, .andn fieldsC), (0x1D, .shl fieldsC), (0x1E, .shr fieldsC), (0x1F, .sar fieldsC), (0x20,
      .rol fieldsC), (0x21, .min fieldsC)] : List (Nat × Instr)).all (fun e => decodeSlot .c (wordC ||| BitVec.ofNat
      64 e.1) = some e.2) = true := by
  decide +kernel

theorem test_decode_c_2 : ([(0x22, .max fieldsC), (0x23, .minn fieldsC), (0x24, .maxn fieldsC), (0x25, .clz fieldsC),
      (0x26, .ctz fieldsC), (0x27, .popc fieldsC), (0x28, .seq fieldsC), (0x29, .slt fieldsC), (0x2A, .sltn fieldsC),
      (0x2B, .sel fieldsC), (0x2C, .li fieldsC), (0x2D, .lih fieldsC), (0x2E, .lea fieldsC), (0x2F, .popq fieldsC),
      (0x40, .br fieldsC), (0x41, .beq fieldsC), (0x42, .bne fieldsC), (0x43, .blt fieldsC), (0x44, .bge fieldsC),
      (0x45, .bltn fieldsC)] : List (Nat × Instr)).all (fun e => decodeSlot .c (wordC ||| BitVec.ofNat 64 e.1) = some
      e.2) = true := by
  decide +kernel

theorem test_decode_c_3 : ([(0x46, .bgen fieldsC), (0x47, .bpany fieldsC), (0x48, .bpall fieldsC), (0x49, .call
      fieldsC), (0x4A, .ret fieldsC), (0x4B, .jmpr fieldsC), (0x4C, .loop fieldsC), (0x4D, .lexit fieldsC), (0x50,
      .spl fieldsC), (0x51, .fil fieldsC), (0x60, .mfs fieldsC), (0x61, .mts fieldsC), (0x62, .trap fieldsC), (0x63,
      .eret fieldsC), (0x64, .chk fieldsC), (0x65, .blend fieldsC), (0x66, .bret fieldsC)] : List (Nat × Instr)).all
      (fun e => decodeSlot .c (wordC ||| BitVec.ofNat 64 e.1) = some e.2) = true := by
  decide +kernel

/-- Fields for the A slot, and their word with opcode 0. -/
def fieldsA : ASlot := ⟨0x2ABCDE1, 0x2D, 3, 2, 0xB, 0x15, 0x26, 1, 5⟩
def wordA : BitVec 64 := 0xAAF3786D75D66D00

theorem test_decode_a_1 : ([(0x00, .anop fieldsA), (0x01, .ldq fieldsA), (0x02, .ldqv fieldsA), (0x03, .ldqg fieldsA),
      (0x04, .ldqs fieldsA), (0x08, .sts fieldsA), (0x09, .stv fieldsA), (0x0A, .stvp fieldsA), (0x0B, .stg fieldsA),
      (0x10, .ldf fieldsA), (0x11, .ste fieldsA), (0x12, .setf fieldsA), (0x13, .sete fieldsA), (0x14, .tstf fieldsA),
      (0x18, .tld fieldsA), (0x19, .tst fieldsA), (0x20, .xlt fieldsA), (0x21, .hdrop fieldsA), (0x22, .hinfo
      fieldsA), (0x28, .hst fieldsA)] : List (Nat × Instr)).all (fun e => decodeSlot .a (wordA ||| BitVec.ofNat 64
      e.1) = some e.2) = true := by
  decide +kernel

theorem test_decode_a_2 : ([(0x29, .hld fieldsA), (0x30, .amoadd fieldsA), (0x31, .amomin fieldsA), (0x32, .amomax
      fieldsA), (0x33, .amominn fieldsA), (0x34, .amomaxn fieldsA), (0x35, .amoand fieldsA), (0x36, .amoor fieldsA),
      (0x37, .amoxor fieldsA), (0x38, .amoswp fieldsA), (0x39, .amocas fieldsA), (0x3A, .amoincw fieldsA), (0x3B,
      .amobfa fieldsA), (0x3C, .amofadd fieldsA), (0x40, .ldacq fieldsA), (0x41, .strel fieldsA), (0x42, .pacq
      fieldsA), (0x43, .drn fieldsA), (0x48, .barv fieldsA), (0x49, .bwait fieldsA)] : List (Nat × Instr)).all (fun e
      => decodeSlot .a (wordA ||| BitVec.ofNat 64 e.1) = some e.2) = true := by
  decide +kernel

theorem test_decode_a_3 : ([(0x4A, .fladd fieldsA), (0x4B, .flset fieldsA), (0x4C, .flwait fieldsA)] : List (Nat ×
      Instr)).all (fun e => decodeSlot .a (wordA ||| BitVec.ofNat 64 e.1) = some e.2) = true := by
  decide +kernel

/-- Fields for the V slot, and their word with opcode 0. -/
def fieldsV : VSlot := ⟨0x2C5, 3, 1, 2, 5, 2, 1, 6, 0x2C, 0x17, 0x3A, 0x25, 1, 5⟩
def wordV : BitVec 64 := 0x2C57AAEB17EA5D00

/-- Fields for the V slot, and their word with opcode 0. -/
def fieldsVB : VSlot := ⟨0xAC5, 3, 1, 2, 5, 2, 1, 6, 0x2C, 0x17, 0x3A, 0x25, 1, 5⟩
def wordVB : BitVec 64 := 0xAC57AAEB17EA5D00

theorem test_decode_v_1 : ([(0x10, .vfadd fieldsV), (0x11, .vfsub fieldsV), (0x12, .vfmul fieldsV), (0x13, .vfma
      fieldsV), (0x14, .vfms fieldsV), (0x15, .vfnma fieldsV), (0x16, .vfmin fieldsV), (0x17, .vfmax fieldsV), (0x18,
      .vfabs fieldsV), (0x19, .vfneg fieldsV), (0x1A, .vfcmp fieldsV), (0x1B, .vfspec fieldsV), (0x1C, .vfclass
      fieldsV), (0x20, .viadd fieldsV), (0x21, .visub fieldsV), (0x22, .vimul fieldsV), (0x23, .vimad fieldsV), (0x24,
      .viand fieldsV), (0x25, .vior fieldsV), (0x26, .vixor fieldsV)] : List (Nat × Instr)).all (fun e => decodeSlot
      .v (wordV ||| BitVec.ofNat 64 e.1) = some e.2) = true := by
  decide +kernel

theorem test_decode_v_2 : ([(0x27, .vishl fieldsV), (0x28, .vishr fieldsV), (0x29, .visar fieldsV), (0x2A, .vimin
      fieldsV), (0x2B, .vimax fieldsV), (0x2C, .vicmp fieldsV), (0x30, .vcvt fieldsV), (0x31, .vpack fieldsV), (0x32,
      .vunpk fieldsV), (0x33, .vscacc fieldsV), (0x34, .vscal fieldsV), (0x38, .vmov fieldsV), (0x39, .vsel fieldsV),
      (0x3A, .vbcast fieldsV), (0x3B, .vins fieldsV), (0x3C, .vext fieldsV), (0x3D, .vperm fieldsV), (0x3E, .vrot
      fieldsV), (0x3F, .viota fieldsV), (0x40, .vli fieldsV)] : List (Nat × Instr)).all (fun e => decodeSlot .v (wordV
      ||| BitVec.ofNat 64 e.1) = some e.2) = true := by
  decide +kernel

theorem test_decode_v_3 : ([(0x44, .vrsum fieldsV), (0x45, .vrmax fieldsV), (0x46, .vrmin fieldsV), (0x48, .pset
      fieldsV), (0x49, .pand fieldsV), (0x4A, .por fieldsV), (0x4B, .pxor fieldsV), (0x4C, .pnot fieldsV), (0x4D,
      .pcnt fieldsV), (0x4E, .pfirst fieldsV), (0x50, .hfwd fieldsV), (0x51, .hinv fieldsV), (0x52, .hthr fieldsV),
      (0x53, .htagSet fieldsV), (0x54, .hcmp fieldsV), (0x58, .splv fieldsV), (0x59, .filv fieldsV), (0x00, .vnop
      fieldsV), (0x5C, .vchk fieldsV)] : List (Nat × Instr)).all (fun e => decodeSlot .v (wordV ||| BitVec.ofNat 64
      e.1) = some e.2) = true := by
  decide +kernel

theorem test_decode_vb : ([(0x53, .htagRead fieldsVB)] : List (Nat × Instr)).all (fun e => decodeSlot .v (wordVB |||
      BitVec.ofNat 64 e.1) = some e.2) = true := by
  decide +kernel

/-- Fields for the M slot, and their word with opcode 0. -/
def fieldsM : MSlot := ⟨0, 0, 3, 1, 0xA6, 0x2D, 1, 0, 0x15, 0xB, 0x5A, 2, 5, 3, 1, 0, 6⟩
def wordM : BitVec 64 := 0x0369ADAABB557600

/-- Fields for the M slot, and their word with opcode 0. -/
def fieldsMB : MSlot := ⟨0, 1, 3, 1, 0xA6, 0x2D, 1, 0, 0x15, 0xB, 0x5A, 2, 5, 3, 1, 0, 6⟩
def wordMB : BitVec 64 := 0x0B69ADAABB557600

/-- Fields for the M slot, and their word with opcode 0. -/
def fieldsMC : MSlot := ⟨2, 0, 3, 1, 0xA6, 0x2D, 1, 0, 0x15, 0xB, 0x5A, 2, 5, 3, 1, 0, 6⟩
def wordMC : BitVec 64 := 0x2369ADAABB557600

/-- Fields for the M slot, and their word with opcode 0. -/
def fieldsMD : MSlot := ⟨3, 0, 3, 1, 0xA6, 0x2D, 1, 0, 0x15, 0xB, 0x5A, 2, 5, 3, 1, 0, 6⟩
def wordMD : BitVec 64 := 0x3369ADAABB557600

/-- Fields for the M slot, and their word with opcode 0. -/
def fieldsME : MSlot := ⟨5, 0, 3, 1, 0xA6, 0x2D, 1, 0, 0x15, 0xB, 0x5A, 2, 5, 3, 1, 0, 6⟩
def wordME : BitVec 64 := 0x5369ADAABB557600

theorem test_decode_m : ([(0x00, .mnop fieldsM), (0x01, .fgrid fieldsM), (0x02, .fload fieldsM), (0x03, .fsel
      fieldsM), (0x04, .fmx fieldsM), (0x05, .fmxd fieldsM), (0x06, .fmxc fieldsM), (0x07, .fgout fieldsM), (0x08,
      .fknot fieldsM), (0x09, .foog fieldsM), (0x0A, .fclrBuffer fieldsM), (0x0B, .frdc fieldsM)] : List (Nat ×
      Instr)).all (fun e => decodeSlot .m (wordM ||| BitVec.ofNat 64 e.1) = some e.2) = true := by
  decide +kernel

theorem test_decode_mc : ([(0x0A, .fclrCounters fieldsMC)] : List (Nat × Instr)).all (fun e => decodeSlot .m (wordMC
      ||| BitVec.ofNat 64 e.1) = some e.2) = true := by
  decide +kernel

theorem test_decode_md : ([(0x0A, .fclrGrid fieldsMD)] : List (Nat × Instr)).all (fun e => decodeSlot .m (wordMD |||
      BitVec.ofNat 64 e.1) = some e.2) = true := by
  decide +kernel

theorem test_decode_me : ([(0x0A, .fclrGrad fieldsME)] : List (Nat × Instr)).all (fun e => decodeSlot .m (wordME |||
      BitVec.ofNat 64 e.1) = some e.2) = true := by
  decide +kernel

/-- Fields for the T slot, and their word with opcode 0. -/
def fieldsT : TSlot := ⟨0, 2, 5, 0x59, 0x35, 5⟩
def wordT : BitVec 64 := 0x15B3AD00

theorem test_decode_t : ([(0x00, .tnop fieldsT), (0x01, .txi fieldsT), (0x02, .txo fieldsT), (0x03, .txc fieldsT)] :
      List (Nat × Instr)).all (fun e => decodeSlot .t (wordT ||| BitVec.ofNat 64 e.1) = some e.2) = true := by
  decide +kernel

/-- Fields for the X slot, and their word with opcode 0. -/
def fieldsX : XSlot := ⟨0x2C5A3, 5, 3, 0xB, 6, 5, 0x2D, 0x15, 0xB, 0x16⟩
def wordX : BitVec 64 := 0xB168EBB6B6D57600

theorem test_decode_x_1 : ([(0x00, .xnop fieldsX), (0x01, .copy fieldsX), (0x02, .copy2d fieldsX), (0x03, .copyt
      fieldsX), (0x08, .waitany fieldsX), (0x09, .waitall fieldsX), (0x0A, .ffrdy fieldsX), (0x0B, .tagclr fieldsX),
      (0x10, .xdt fieldsX), (0x11, .xds fieldsX), (0x12, .xdq fieldsX), (0x18, .launch fieldsX), (0x19, .lwait
      fieldsX), (0x20, .defer fieldsX), (0x21, .defrun fieldsX), (0x28, .pput fieldsX), (0x29, .pget fieldsX), (0x30,
      .grpbar fieldsX), (0x31, .evwait fieldsX), (0x32, .evsig fieldsX)] : List (Nat × Instr)).all (fun e =>
      decodeSlot .x (wordX ||| BitVec.ofNat 64 e.1) = some e.2) = true := by
  decide +kernel

theorem test_decode_x_2 : ([(0x38, .mflush fieldsX), (0x39, .cntrd fieldsX)] : List (Nat × Instr)).all (fun e =>
      decodeSlot .x (wordX ||| BitVec.ofNat 64 e.1) = some e.2) = true := by
  decide +kernel

/-! ### States for tests and witnesses -/

/-- A launch of one stage and one thread of it, with code at address 0 and a handler 64 bytes on. -/
def lau : Launch := {
  rc := { nstg := 1, clen := 1, hnd := true, handler := 64, stages := [(1, 0)] }
  insts := [{ stage := 0, num := 0, st := .bound 0 0 }] }

/-- Its one thread: launch 1, stage 0, number 0. -/
def who : InstId := { launch := 1, stage := 0, num := 0 }

/-- Context 0 of core 0 issues for it, with a region of 64 KiB. -/
def mk (c : Ctx := {}) (k : Core := {}) (d : Dev := State.reset.dev) (l : Launch := lau) (foc : Focus := { pre := true }) :
    State :=
  let x := { c with st := .issuing, inst := some who }
  let y := { k with ctxs := [(0, x)], issuing := some 0, regions := [{ launch := 1, base := 0, size := 0x10000 }] }
  { cores := [(0, y)], dev := { d with launches := [(1, l)] }, foc := foc }

/-- The context with register file `a`. -/
def withA (a : Arch) : Ctx := { a := a }

/-- The state of `mk` in which an operation's checks are still to be made. -/
def alone (c : Ctx := {}) (k : Core := {}) (d : Dev := State.reset.dev) (l : Launch := lau) : State := mk c k d l {}

/-- What an instruction makes of a state. -/
def ran (i : Instr) (s : State) : State := match exec i s with | .next t => t | _ => s

/-- The registers when everything in flight has landed. -/
def regs (i : Instr) (s : State) : Arch := (ran i s).after 1000

theorem acc {i : Instr} {s : State} (h : s.foc.pre = true) : Accepted i s := Or.inl h

theorem acc_go {i : Instr} {s : State} (h : verdictOf i (ownOf i s) (checkedState i s) = .go) : Accepted i s := Or.inr h

/-- Whether an operation may act, its registers certain. -/
def isReady (i : Instr) (s : State) : Bool :=
  s.foc.pre && decide (popCount i (checkedState i s) ≤ (checkedState i s).ctx.a.queue.length)
    && decide (corruptOf i (checkedState i s) = none) && s.ctx.a.check && !s.foc.bad

theorem ready {i : Instr} {s : State} (h : isReady i s = true) : Ready i s := by
  simp only [isReady, Bool.and_eq_true, decide_eq_true_eq, Bool.not_eq_true'] at h
  exact ⟨acc h.1.1.1.1, ⟨h.1.1.1.2, h.1.1.2⟩, h.1.2, h.2⟩

theorem allPlain_of {l : List (BitVec 32)} (h : (l.all fun t => !tagHaar t) = true) : AllPlain l := by
  intro t ht
  simpa using List.all_eq_true.1 h t ht

theorem agree_of {l : List (BitVec 32)} (h : (l.all fun a => l.all fun b =>
    !tagHaar a || !tagHaar b || (decide (tagL a = tagL b) && decide (tagLay a = tagLay b))) = true) : Agree l := by
  intro a ha b hb h1 h2
  have := List.all_eq_true.1 (List.all_eq_true.1 h a ha) b hb
  simpa [h1, h2] using this

/-! ### Small steps -/

/-- s1 = 0x80 and s2 = 0xFF at 8 bits, by R65, R68 and R69. -/
theorem test_scalar8 : let f : CSlot := { zeroC with w := 0, sd := 3, sa := 1, sb := 2 }
    ([(.add f, 0x7F), (.sub f, -0x7F), (.mul f, -0x80), (.mulh f, 0), (.mulhn f, 0x7F), (.div f, -0x80), (.divn f, 0), (.rem f, 0),
      (.remn f, 0x80), (.and f, -0x80), (.or f, -1), (.xor f, 0x7F), (.andn f, 0), (.shl f, 0), (.shr f, 1), (.sar f, -1),
      (.rol f, 0x40), (.min f, -0x80), (.max f, -1), (.minn f, 0x80), (.maxn f, 0xFF), (.clz { f with sb := 0 }, 0),
      (.ctz { f with sb := 0 }, 7), (.popc { f with sb := 0 }, 1), (.seq f, 0), (.slt f, 1), (.sltn f, 1)] :
      List (Instr × Word)).all (fun e => (regs e.1 (mk (withA { s := [(1, 0x80), (2, 0xFF)] }))).sReg 3 = e.2) = true := by
  decide +kernel

/-- The examples of R69: a division by zero at 32 bits. -/
theorem test_divide_by_zero : let f : CSlot := { zeroC with w := 2, sd := 3, sa := 1, sb := 2 }
    ([(.div f, 0xFFFFFFFFFFFFFFFF), (.divn f, 0xFFFFFFFF), (.rem f, 0xFFFFFFFF80000001), (.remn f, 0x80000001)] :
      List (Instr × Word)).all (fun e => (regs e.1 (mk (withA { s := [(1, 0x80000001)] }))).sReg 3 = e.2) = true := by
  decide +kernel

/-- SEL, LI, LIH and LEA (R70). -/
theorem test_constants : let a : Arch := { s := [(1, 0x1122334455667788), (2, 3)] }
    ([(.sel { zeroC with sd := 3, sa := 1, sb := 2, fn := 2 }, 0x1122334455667788), (.sel { zeroC with sd := 3, sa := 1, sb := 2 }, 3),
      (.li { zeroC with sd := 3, i := 1, imm := 0x80000000 }, 0xFFFFFFFF80000000),
      (.lih { zeroC with sd := 3, sa := 1, i := 1, imm := 0xDEADBEEF }, 0xDEADBEEF55667788),
      (.lea { zeroC with sd := 3, sa := 1, sb := 2, fn := 4 }, 0x11223344556677B8)] :
      List (Instr × Word)).all (fun e => (regs e.1 (mk (withA a))).sReg 3 = e.2) = true := by decide +kernel

/-- A write to s0 is discarded (R66). -/
theorem test_s0 : ran (.add { zeroC with i := 1, imm := 5 }) (mk {}) = mk {} := by decide +kernel

/-- Branches taken and not (R72, R73): the bundle's next PC. -/
theorem test_branches : let f : CSlot := { zeroC with sa := 1, sb := 2, imm := 0x30 }
    let go := NextPC.branch 0x40
    ([(.br { zeroC with imm := 0x30 }, go), (.beq f, .seq), (.bne f, go), (.blt f, go), (.bge f, .seq), (.bltn f, .seq), (.bgen f, go),
      (.bpany { f with sa := 1, sb := 0 }, go), (.bpall { f with sa := 1, sb := 0 }, .seq), (.ret { zeroC with sa := 2 }, .branch 7),
      (.jmpr { zeroC with sa := 2, i := 1, imm := 1 }, .branch 8), (.call { zeroC with sd := 5, imm := 0x30 }, go)] :
      List (Instr × NextPC)).all (fun e =>
        (ran e.1 (mk (withA { pc := 0x10, s := [(1, -1), (2, 7)], p := [(1, 2)] }))).ctx.next = e.2) = true := by decide +kernel

/-- LOOP 0x30 − 0x18 at 0x18 with count 3 (R76), and the loop-end test after the body's last bundle (R78). -/
theorem test_loop : let s := mk { a := { pc := 0x18, s := [(1, 3)] }, blen := 12 }
    let c := (ran (.loop { zeroC with sa := 1, imm := 0x18 }) s).ctx.advance 7
    c.a.pc = 0x24 ∧ c.a.lp0 = { start := 0x24, len := 0xC, act := true, count := 3 }
    ∧ let e := Ctx.advance { c with a := { c.a with pc := 0x30 }, next := .seq } 8
      e.a.pc = 0x24 ∧ e.a.lp0.count = 2 := by decide +kernel

/-- SPL and FIL by bytes: only the bytes of W are written (R81, R82). -/
theorem test_spill : let s := mk (withA { s := [(4, 0x11223344)], spill := [(16, 9), (18, 7)] })
    let t := (ran (.spl { zeroC with sa := 4, i := 1, w := 1, imm := 16 }) s).ctx.spillNow
    t.a.spill.read 16 4 = 0x73344 ∧ (regs (.fil { zeroC with sd := 5, i := 1, w := 0, imm := 16 }) s).sReg 5 = 9 := by decide +kernel

/-- MFS of COREID, CLID and COLID on core 0x2B, as R14's example gives them. -/
theorem test_coreid : let f : CSlot := { zeroC with sd := 3 }
    let s : State := { State.reset with foc := { core := 0x2B, pre := true } }
    (regs (.mfs { f with imm := 9 }) s).sReg 3 = 0x2B ∧ (regs (.mfs { f with imm := 10 }) s).sReg 3 = 5
    ∧ (regs (.mfs { f with imm := 11 }) s).sReg 3 = 11 := by decide +kernel

/-- TRAPINFO of R64's example: SLOT 2, OPC 0x11, REPIDX 0, CLASS 1, REG 12. -/
theorem test_trapinfo : info64 2 0x11 0 1 12 0 = 0x0000000C20001102 := by decide +kernel

/-- An illegal operand is refused at the issue: MFS of a number with no register traps 0x06 and enters the handler at
CODE + HANDLER in handler mode (R84, R347, R348). -/
theorem test_trap : let t := ran (.mfs { zeroC with sd := 3, imm := 0x7F }) (alone (withA { pc := 0x20, s := [(28, 5)] }))
    t.ctx.hmode = true ∧ t.ctx.a.pc = 64 ∧ t.ctx.tpc = 0x20 ∧ t.ctx.cause.toNat % 256 = 6 ∧ t.ctx.a.sReg 28 = 0
    ∧ t.ctx.hs.get 28 0 = 5 := by decide +kernel

/-- A load from h0 puts an entry in the queue, and the bytes read are zero-extended (R111, R113). -/
theorem test_load : let s := mk (withA { s := [(1, 8)] }) { sp := [(12, 0x34), (13, 0x12)] }
    let t := ran .bankService ((fun t : State =>
      { t with foc := { id := (t.core.acc.map (·.id)).headD 0 } }) (ran (.ldq { zeroA with w := 1, xs := 1, off := 4 }) s))
    t.ctx.a.queue.map (fun e => (e.data.toNat, e.filled)) = [(0x1234, true)] := by decide +kernel

/-- A store to h0 writes its bytes little-endian when its access performs (R6, R113). -/
theorem test_store : let s := mk (withA { s := [(1, 8), (2, 0xAABBCCDD)] })
    let t := ran (.sts { zeroA with xs := 1, off := 4, dr := 2 }) s
    let u := ran .bankService { t with foc := { id := (t.core.acc.map (·.id)).headD 0 } }
    u.core.sp = [(12, 0xDD), (13, 0xCC), (14, 0xBB), (15, 0xAA)] := by decide +kernel

/-- The bound cases of R129 at w = 32. -/
theorem test_atomic_bounds : ([(0x3A, 5, 9, 0, 6, false, true), (0x3A, 9, 9, 0, 0, false, true), (0x3A, 5, 0, 0, 0, false, true),
    (0x3A, 7, 3, 0, 0, false, true), (0x3A, 0xFFFFFFFE, 0xFFFFFFFF, 0, 0xFFFFFFFF, false, true),
    (0x3A, 0xFFFFFFFF, 0xFFFFFFFF, 0, 0, false, true), (0x3B, 10, 10, 20, 20, true, true), (0x3B, 10, 11, 20, 10, false, false),
    (0x3B, 0, 0, 0, 0, true, true), (0x3B, 0, 1, 0, 0, false, false), (0x3B, 30, 0, 20, 30, false, false),
    (0x3B, 0xFFFFFFF0, 0x20, 0xFFFFFFFF, 0xFFFFFFF0, false, false)] :
    List (BitVec 8 × Nat × Nat × Nat × Nat × Bool × Bool)).all (fun (op, old, a, b, new, flag, writes) =>
      amoNew op 32 old a b = (new, flag, writes)) = true := by decide +kernel

/-- The other atomics (R128): AMOMIN is signed and AMOMINN is not; AMOCAS that fails writes nothing. -/
theorem test_atomics : ([(0x30, 0xFFFFFFFF, 2, 0, 1, false, true), (0x31, 0xFFFFFFFF, 2, 0, 0xFFFFFFFF, false, true),
    (0x32, 0xFFFFFFFF, 2, 0, 2, false, true), (0x33, 0xFFFFFFFF, 2, 0, 2, false, true), (0x34, 0xFFFFFFFF, 2, 0, 0xFFFFFFFF, false, true),
    (0x35, 12, 10, 0, 8, false, true), (0x36, 12, 10, 0, 14, false, true), (0x37, 12, 10, 0, 6, false, true),
    (0x38, 12, 10, 0, 10, false, true), (0x39, 12, 12, 7, 7, true, true), (0x39, 12, 10, 7, 12, false, false)] :
    List (BitVec 8 × Nat × Nat × Nat × Nat × Bool × Bool)).all (fun (op, old, a, b, new, flag, writes) =>
      amoNew op 32 old a b = (new, flag, writes)) = true ∧ (amoNew 0x3C 32 0x3F800000 0x40000000 0).1 = 0x40400000 := by decide +kernel

/-- LDF on an EMPTY word blocks; STE fills it (R117). -/
theorem test_full_empty : let k : Core := { sp := [(8, 5)], empt := [2] }
    (ran (.ldf { zeroA with off := 8 }) (alone {} k)).ctx.wait = some (.word 0 8)
    ∧ let t := ran (.ste { zeroA with off := 8, dr := 1 }) (mk (withA { s := [(1, 6)] }) k)
      t.core.full 8 = true ∧ t.core.sp.read 8 4 = 6 := by decide +kernel

/-- One lane of the vector unit in FP32: 1.5 + 2.25 = 3.75, 1.5 × 2.25 = 3.375 (R219). -/
theorem test_vector : let s := mk (withA { v := [(1, { bits := 0x3FC00000 }), (2, { bits := 0x40100000 })] })
    let f : VSlot := { zeroV with va := 1, vb := 2, vd := 3 }
    (lane ((regs (.vfadd f) s).vReg 3).bits 0 = 0x40700000) ∧ (lane ((regs (.vfmul f) s).vReg 3).bits 0 = 0x40580000)
    ∧ (lane ((regs (.vfmin f) s).vReg 3).bits 0 = 0x3FC00000) ∧ (lane ((regs (.vfneg { f with vb := 0 }) s).vReg 3).bits 0 = 0xBFC00000)
    := by decide +kernel

/-- Conversions of one element (R225): 1.5 in FP32 is 0x3FC0 in BF16 and 0x3E00 in FP16; 2.5 as a signed byte is 2. -/
theorem test_convert : convertF 0 1 0 false 0x3FC00000 = 0x3FC0 ∧ convertF 0 2 0 false 0x3FC00000 = 0x3E00
    ∧ convertF 0 6 0 false 0x40200000 % 256 = 2 := by decide +kernel

/-- SELect by lane, iota, and PSET's count (R228, R229, R231). -/
theorem test_lanes : let s := mk {}
    lane ((regs (.viota { zeroV with vd := 3, aux := 5 }) s).vReg 3).bits 2 = 7
    ∧ (regs (.pset { zeroV with vd := 2, aux := 3 }) s).pReg 2 = 7 := by decide +kernel

/-- The transposer: a row written is a column read (R235). -/
theorem test_transposer : let s := mk {} { xpose := [(0, 0x22), (1, 0x33)] }
    lane ((regs (.txo { zeroT with v := 4 }) s).vReg 4).bits 1 = 0x33 := by decide +kernel

/-- A barrier of two: the first arrival counts, the second completes it (R300, R301). -/
theorem test_barrier : barArrive 2 1 0 = (0x10002, false) ∧ (barArrive 0x10002 1 4).2 = true
    ∧ (barArrive 0x10002 1 4).1 = 0x2 + 2 ^ 32 + 2 ^ 64 + 4 * 2 ^ 96 := by decide +kernel

/-- FLADD's flag at the target, and FLWAIT that may pass (R296, R297, R299). -/
theorem test_flag : let t := ran (.fladd { zeroA with off := 5, dr := 4 }) (mk (withA { s := [(4, 9)] }))
    let u := ran .flagOperationArrival { t with foc := { id := (t.core.acc.map (·.id)).headD 0 } }
    flagOf 5 u = 9 := by decide +kernel

/-- TAGCLR leaves the tags that its mask does not name (R141). -/
theorem test_tagclr : (ran (.tagclr { zeroX with sa := 1 }) (mk (withA { s := [(1, 6)], tagDone := 0xF }))).ctx.a.tagDone = 9 := by
  decide +kernel

/-- The CRC of R262 over "123456789". -/
theorem test_crc : crc32c [0x31, 0x32, 0x33, 0x34, 0x35, 0x36, 0x37, 0x38, 0x39] = 0xE3069283 := by decide +kernel

/-- END marks the issue's context to end, and TRAP_SYS asks firmware (R85, R352). -/
theorem test_end : (ran (.endInst zeroC) (mk {})).ctx.ending = true
    ∧ (ran (.trapSys { zeroC with i := 1, fn := 1, sd := 5, imm := 0x11 }) (mk {})).ctx.svc = some (5, 0x11) := by decide +kernel

/-- The instruction placed for the next step runs: END's bundle ends its context, an ADD's result is in flight and the PC
moves on by its bundle's 12 bytes (log 5). -/
theorem test_fetch : let s := match step (State.reset.withFetchWord 64 0x000000010380A510) with | .next t => t | _ => State.reset
    ((s.coreAt 0).ctxAt 0).a.pc = 12 ∧ ((s.coreAt 0).ctxAt 0).flight.map (fun l => (l.reg, l.val)) = [(⟨.s, 5⟩, .scalar 1)] := by
  decide +kernel

/-- What the step fetches there is what the decoder reads (R44). -/
theorem test_table_word : decodeTableWord 64 0x000000010380A510 = some (.add { zeroC with sd := 5, sa := 5, i := 1, imm := 1 })
    ∧ decodeTableWord 32 1 = some (.txi zeroT) := by decide +kernel

/-- Memory at reset is in canonical form, and nothing is listed. -/
theorem test_reset_memory : Memory.wf State.reset.dev.hbm = true ∧ State.reset.dev.hbm.byte 0x1234 = 0 := by decide +kernel

/-! ### Witnesses: for each statement with hypotheses, a state and operands that meet them -/

/-- Every C- and X-slot operation is accepted here, its registers certain. -/
theorem witness_accepted (i : Instr) : Accepted i (mk {}) ∧ Certain (mk {}) := ⟨acc rfl, rfl, rfl⟩

/-- Every engine operation is ready here. -/
theorem witness_ready : ∀ i ∈ ([.anop zeroA, .ldq zeroA, .ldqv zeroA, .ldqg zeroA, .ldqs zeroA, .sts zeroA, .stv zeroA, .stvp zeroA,
    .stg zeroA, .ldf zeroA, .ste zeroA, .setf zeroA, .sete zeroA, .tstf zeroA, .tld zeroA, .tst zeroA, .xlt zeroA, .hdrop zeroA,
    .hinfo zeroA, .hst zeroA, .hld zeroA, .amoadd zeroA, .amomin zeroA, .amomax zeroA, .amominn zeroA, .amomaxn zeroA, .amoand zeroA,
    .amoor zeroA, .amoxor zeroA, .amoswp zeroA, .amocas zeroA, .amoincw zeroA, .amobfa zeroA, .amofadd zeroA, .ldacq zeroA,
    .strel zeroA, .pacq zeroA, .drn zeroA, .barv zeroA, .bwait zeroA, .fladd zeroA, .flset zeroA, .flwait zeroA, .vnop zeroV,
    .vfadd zeroV, .vfsub zeroV, .vfmul zeroV, .vfma zeroV, .vfms zeroV, .vfnma zeroV, .vfmin zeroV, .vfmax zeroV, .vfabs zeroV,
    .vfneg zeroV, .vfcmp zeroV, .vfspec zeroV, .vfclass zeroV, .viadd zeroV, .visub zeroV, .vimul zeroV, .vimad zeroV, .viand zeroV,
    .vior zeroV, .vixor zeroV, .vishl zeroV, .vishr zeroV, .visar zeroV, .vimin zeroV, .vimax zeroV, .vicmp zeroV, .vcvt zeroV,
    .vpack zeroV, .vunpk zeroV, .vscacc zeroV, .vscal zeroV, .vmov zeroV, .vsel zeroV, .vbcast zeroV, .vins zeroV, .vext zeroV,
    .vperm zeroV, .vrot zeroV, .viota zeroV, .vli zeroV, .vrsum zeroV, .vrmax zeroV, .vrmin zeroV, .pset zeroV, .pand zeroV,
    .por zeroV, .pxor zeroV, .pnot zeroV, .pcnt zeroV, .pfirst zeroV, .hfwd zeroV, .hinv zeroV, .hthr zeroV, .htagSet zeroV,
    .htagRead zeroV, .hcmp zeroV, .splv zeroV, .filv zeroV, .vchk zeroV, .mnop zeroM, .fgrid zeroM, .fload zeroM, .fsel zeroM,
    .fmx zeroM, .fmxHaar zeroM, .fmxd zeroM, .fmxc zeroM, .fgout zeroM, .fknot zeroM, .foog zeroM, .fclrBuffer zeroM,
    .fclrCounters zeroM, .fclrGrid zeroM, .fclrGrad zeroM, .frdc zeroM, .tnop zeroT, .txi zeroT, .txo zeroT, .txc zeroT] :
    List Instr), Ready i (mk {}) := by
  intro i hi
  refine ready ?_
  revert i hi
  decide +kernel

/-- A state whose queue holds one filled entry. -/
def queued : State := mk (withA { queue := [{ id := 1, data := 5, filled := true, arrived := true }] })

/-- An operation that pops its source is ready where the queue holds an entry. -/
theorem witness_ready_queue : Ready (.vfadd { zeroV with qa := 1 }) queued ∧ Ready (.fsel { zeroM with q := 1 }) queued :=
  ⟨ready (by decide +kernel), ready (by decide +kernel)⟩

theorem witness_ScalarZero : (∀ l ∈ (mk {}).ctx.flight, l.reg ≠ ⟨.s, 0⟩) ∧ zeroC.sd.toNat = 0
    ∧ (destsOf (.pcnt { zeroV with vd := 3 }) 0 (mk {})).map Prod.fst = [⟨.s, 3⟩] := by decide +kernel

theorem witness_CountsAndPops : (∃ e r, queued.ctx.a.queue = e :: r ∧ Accepted (.popq zeroC) queued ∧ Certain queued)
    ∧ let s := alone (withA { queue := [{ id := 1 }] })
      s.foc.pre = false ∧ verdict5 (.popq zeroC) s = .go ∧ verdict6 (.popq zeroC) s = .go ∧ corruptOf (.popq zeroC) s = none
      ∧ (s.ctx.a.queue.map fun e => e.ready s.cyc) = [false] :=
  ⟨⟨_, _, rfl, acc rfl, rfl, rfl⟩, by decide +kernel⟩

/-- Every branch's condition holds in one of these states and not in the other. -/
theorem witness_BranchesAndLoops : let f : CSlot := { zeroC with sa := 1, sb := 2 }
    let s := mk (withA { s := [(1, 1)], p := [(1, 2)] })
    let t := mk (withA { s := [(2, 1)], p := [(1, BitVec.allOnes 128)] })
    (narrowA f s ≠ narrowB f s ∧ narrowA f (mk {}) = narrowB f (mk {})) ∧ (narrowA f t).slt (narrowB f t) = true
    ∧ (narrowB f s).sle (narrowA f s) = true ∧ narrowA f t < narrowB f t ∧ ¬narrowA f s < narrowB f s ∧ narrowB f s ≤ narrowA f s
    ∧ (∃ n < 128, (s.ctx.a.pReg f.sa.toNat).getLsbD n = true) ∧ (¬∀ n < 128, (s.ctx.a.pReg f.sa.toNat).getLsbD n = true)
    ∧ (∀ n < 128, (t.ctx.a.pReg f.sa.toNat).getLsbD n = true) ∧ sourceA f s ≠ 0 ∧ sourceA f t = 0 := by decide +kernel

theorem witness_NextIssue : let end0 : LoopReg := { start := 0, len := 0, act := true, count := 2 }
    let last : LoopReg := { end0 with count := 1 }
    let c (l0 l1 : LoopReg) : Ctx := { a := { lp0 := l0, lp1 := l1 } }
    (({ brep := 1 } : Ctx).next ≠ .placed ∧ ({ brep := 1 } : Ctx).a.idx < ({ brep := 1 } : Ctx).brep)
    ∧ ({ next := .branch 8 } : Ctx).brep ≤ ({ next := .branch 8 } : Ctx).a.idx ∧ ({ next := .own 8 } : Ctx).brep = 0
    ∧ ((c {} end0).a.lp1.endsAt 0 = true ∧ (c {} end0).a.lp1.count ≠ 1 ∧ (c {} end0).next = .seq)
    ∧ ((c {} {}).a.lp1.endsAt 0 = false ∧ (c {} {}).a.lp0.endsAt 0 = false)
    ∧ ((c end0 last).a.lp1.endsAt 0 = true ∧ (c end0 last).a.lp1.count = 1 ∧ (c end0 last).a.lp0.endsAt 0 = true
      ∧ (c end0 last).a.lp0.count ≠ 1)
    ∧ (c {} last).a.lp0.endsAt 0 = false ∧ ((c last last).a.lp0.endsAt 0 = true ∧ (c last last).a.lp0.count = 1)
    ∧ ((c end0 {}).a.lp1.endsAt 0 = false ∧ (c end0 {}).a.lp0.endsAt 0 = true ∧ (c end0 {}).a.lp0.count ≠ 1)
    ∧ ((c last {}).a.lp0.endsAt 0 = true ∧ (c last {}).a.lp0.count = 1) := by decide +kernel

/-- Two registers that differ in lane 1, and only there. -/
def lanesApart : State := mk (withA { v := [(1, { bits := 2 ^ 32 }), (2, {})] })

theorem witness_Spills : (∀ k < 4, (BitVec.ofNat 12 (k * 2 ^ 10)).toNat / 2 ^ 10 = k) ∧ journalFull true (linesOf 0 512) (mk {}) = none
    ∧ ({ spillW := [(0, 1, 7)] } : Ctx).spillW = [(0, 1, 7)]
    ∧ (let f : VSlot := { zeroV with vd := 1 }; f.vd.toNat % 8 ≠ 0)
    ∧ (domA zeroV (mk {}) = domB zeroV (mk {}) ∧ ∀ n < 128, lane (vecA zeroV (mk {})) n = lane (vecB zeroV (mk {})) n)
    ∧ (let f : VSlot := { zeroV with va := 1, vb := 2 }
      (∀ n < 1, lane (vecA f lanesApart) n = lane (vecB f lanesApart) n)
        ∧ lane (vecA f lanesApart) 1 ≠ lane (vecB f lanesApart) 1) := by decide +kernel

/-- Two registers that differ in their tags, and only there. -/
def tagsApart : State := mk (withA { v := [(1, { tag := plainTag 1 }), (2, {})] })

theorem witness_Spills_tags : let f : VSlot := { zeroV with va := 1, vb := 2 }
    domA f tagsApart ≠ domB f tagsApart ∧ ∀ n < 128, lane (vecA f tagsApart) n = lane (vecB f tagsApart) n := by decide +kernel

theorem witness_Spills_ready : Ready (.vchk { zeroV with va := 1, vb := 2 }) tagsApart ∧ Ready (.vchk { zeroV with va := 1, vb := 2 }) lanesApart
    ∧ Ready (.splv { zeroV with aux := 0xC00 }) (mk {})
    ∧ Ready (.filv { zeroV with aux := 0xC00, vd := 1 }) (mk {}) :=
  ⟨ready (by decide +kernel), ready (by decide +kernel), ready (by decide +kernel), ready (by decide +kernel)⟩

theorem witness_SystemRegisters_counters : let a (x : BitVec 16) : ArrayState := { above := [(127, x)] }
    (∃ r < 128, (a 0xFFFF).below.get r 0 = 0xFFFF#16 ∨ (a 0xFFFF).above.get r 0 = 0xFFFF#16)
    ∧ ∀ r < 128, (a 0xFFFE).below.get r 0 ≠ 0xFFFF#16 ∧ (a 0xFFFE).above.get r 0 ≠ 0xFFFF#16 := by decide +kernel

theorem witness_SystemRegisters : (mk { hmode := true }).ctx.hmode = true ∧ (mk {}).ctx.hmode = false ∧ (5 ∉ [0x18, 0x19, 0x1A])
    ∧ (5 ∉ [0x00, 0x01, 0x21]) ∧ (0x18 ∉ [0x00, 0x01, 0x21]) := by decide +kernel

theorem witness_TrapEntry : let q : TrapReq := { cause := 6, info := 0 }
    (mk {}).launch? = some lau ∧ lau.rc.hnd = true ∧ (mk {}).ctx.hmode = false ∧ q.hm = false ∧ firmwareFirst q.cause = false
    ∧ (1 : Nat) ≠ (mk {}).foc.core := by decide +kernel

theorem witness_TrapAndReturn : let op : Start := { due := 0, ord := 0, op := .vnop zeroV, k := 0, idx := 0, hm := false }
    let q : TrapReq := { cause := 6, info := 0, replay := [op] }
    let snap : List Snap := [.result 0 0 ⟨.s, 3⟩ (.scalar 1), .start 0 op, .replay op]
    ({ } : Ctx).a.idx < 64 ∧ Snap.result 0 0 ⟨.s, 3⟩ (.scalar 1) ∈ snap ∧ Snap.start 0 op ∈ snap ∧ Snap.replay op ∈ snap
    ∧ q.replay ≠ []
    ∧ (let c : Ctx := { flight := [{ due := 4, ord := 0, reg := ⟨.s, 3⟩, val := .scalar 1 }], starts := [op] }
      c.snapshot 1 [op] = [.result 3 0 ⟨.s, 3⟩ (.scalar 1), .start 0 op, .replay op]) := by decide +kernel

theorem witness_TrapInstructions : let f : CSlot := { zeroC with i := 1 }
    (mk {}).foc.pre = true ∧ (alone {}).foc.pre = false ∧ Accepted (.trap f) (alone {}) ∧ Accepted (.trapSys { f with fn := 1 }) (alone {})
    ∧ (alone {}).ctx.hmode = false ∧ verdict5 (.eret zeroC) (alone {}) = .go ∧ verdict6 (.eret zeroC) (alone {}) = .go
    ∧ corruptOf (.eret zeroC) (alone {}) = none :=
  ⟨rfl, rfl, acc_go (by decide +kernel), acc_go (by decide +kernel), by decide +kernel⟩

theorem witness_ChecksAndStartFaults : let v : Instr := .vfadd { zeroV with qa := 1 }
    let w : Instr := .vfadd { zeroV with va := 1 }
    let bad := mk (withA { bad := [⟨.v, 1⟩] })
    verdictOf (.popq zeroC) (ownOf (.popq zeroC) (alone {})) (checkedState (.popq zeroC) (alone {})) ≠ .go
    ∧ (v.slot? ≠ some .c ∧ v.slot? ≠ some .x ∧ v.slot?.isSome = true) ∧ (mk {}).ctx.a.queue.length < popCount v (mk {})
    ∧ (popCount w bad ≤ bad.ctx.a.queue.length ∧ corruptOf w bad = some (1, 0) ∧ bad.ctx.seg = none) := by decide +kernel

theorem witness_QuietOperations : let f : CSlot := { zeroC with sa := 1 }
    let s := alone (withA { s := [(1, 1)] })
    s.foc.pre = false ∧ s.ctx.a.check = true ∧ verdict5 (.chk f) s = .go ∧ verdict6 (.chk f) s = .go ∧ corruptOf (.chk f) s = none
    ∧ narrowA f s ≠ (sourceB f s).truncate _ := by decide +kernel

theorem witness_Idle : ∀ i ∈ ([.cnop zeroC, .anop zeroA, .vnop zeroV, .mnop zeroM, .tnop zeroT, .xnop zeroX, .chk zeroC] : List Instr),
    Accepted i (mk {}) ∧ Startable i (mk {}) := by
  intro i hi
  exact ⟨acc rfl, (ready (i := i) (by revert i hi; decide +kernel)).2.1⟩

/-! Loads and stores through h0 at offset 0, past the region's end, and with the queue full. -/

/-- A shape record of rank 1 in FP32: four elements (R119). -/
def shaped : State := mk (withA { sh := [(0, BitVec.ofNat 256 (2 ^ 35 + 3 * 2 ^ 64))] })

/-- A shape record of rank 2: four by two elements, rows 16 bytes apart. -/
def shaped2 : State := mk (withA { sh := [(0, BitVec.ofNat 256 (2 * 2 ^ 35 + 3 * 2 ^ 64 + 2 ^ 76 + 4 * 2 ^ 148))] })

def fullQueue : State := mk (withA { queue := (List.range 16).map fun n => { id := n } })

theorem witness_LoadInstructions : let el (size align : Nat) : List AEl := [{ off := 0, size := size, align := align }]
    (offsetOf zeroA 4 (mk {})).toNat = 0
    ∧ accessCheck (mk {}) 0 .rd 0 (el 4 4) = none ∧ accessCheck (mk {}) 0 .rd 0 (el 512 16) = none
    ∧ accessCheck (mk {}) 0 .rd 0 ((List.range 128).map fun _ => { off := 0, size := 4, align := 4 }) = none
    ∧ (accessCheck (mk {}) 0 .rd 0x10000 [{ off := 0x10000, size := 4, align := 4 }]).isSome = true
    ∧ (accessCheck (mk {}) 0 .rd 1 [{ off := 1, size := 4, align := 4 }]).isSome = true
    ∧ (mk {}).ctx.a.queue.length < 16 ∧ 16 ≤ fullQueue.ctx.a.queue.length ∧ tensorBad zeroA shaped = false
    ∧ accessCheck shaped 0 .rd (tensorBase (tensorEls zeroA shaped)) (tensorCheck zeroA shaped) = none := by decide +kernel

theorem witness_LoadInstructions_ready : Ready (.tld zeroA) shaped ∧ Ready (.ldq zeroA) fullQueue :=
  ⟨ready (by decide +kernel), ready (by decide +kernel)⟩

theorem witness_TensorElements : let r (s : State) := (s.ctx.a.sh.get 0 0).toNat
    r shaped / 2 ^ 38 % 4 = 0 ∧ r shaped / 2 ^ 35 % 8 = 1 ∧ r shaped2 / 2 ^ 38 % 4 = 0 ∧ r shaped2 / 2 ^ 35 % 8 = 2
    ∧ (tensorEls zeroA shaped).map (fun x => (x.1, x.2.toNat)) = [(0, 0), (1, 4), (2, 8), (3, 12)]
    ∧ shaped.ctx.a.check = true ∧ shaped2.foc.bad = false := by decide +kernel

theorem witness_StoreInstructions : let el (size align : Nat) : List AEl := [{ off := 0, size := size, align := align }]
    let one : List Elem := [elemAt (mk {}) 0 4 0 0 0]
    accessCheck (mk {}) 0 .wr 0 (el 4 4) = none ∧ accessCheck (mk {}) 0 .wr 0 (el 512 16) = none
    ∧ accessCheck (mk {}) 1 .wr 0 (el 4 4) = none ∧ accessCheck (mk {}) 0 .amo 0 (el 4 4) = none
    ∧ accessCheck (mk {}) 0 .wr 0 ((List.range 128).map fun _ => { off := 0, size := 4, align := 4 }) = none
    ∧ shadowFault (mk {}) 0 (el 4 1) = none ∧ shadowFault (mk {}) 1 (el 4 1) = none
    ∧ journalFull false (spLines one) (mk {}) = none ∧ heldFull (mk {}) = false
    ∧ tensorBad zeroA shaped = false ∧ accessCheck shaped 0 .wr (tensorBase (tensorEls zeroA shaped)) (tensorCheck zeroA shaped) = none
    ∧ (accessCheck (mk {}) 0 .wr 0x10000 [{ off := 0x10000, size := 4, align := 4 }]).isSome = true
    ∧ (accessCheck (mk {}) 0 .amo 2 [{ off := 2, size := 4, align := 4 }]).isSome = true := by decide +kernel

theorem witness_MemoryFrames : (mk {}).ctx.seg = none ∧ storeHandle (.sts zeroA) = some 0 ∧ storeHandle (.strel zeroA) = some 0
    ∧ zeroA.sc.toNat < 2 ∧ (Instr.add zeroC).slot? = some .c ∧ (Instr.txi zeroT).slot? = some .t := by decide +kernel

theorem witness_MemoryFrames_next : ∃ t, exec (.sts zeroA) (mk {}) = .next t := by
  unfold exec execSts
  exact gated_next _ _ _ _

theorem witness_FullEmpty : let f : ASlot := { zeroA with off := 8 }
    let e := alone {} { empt := [2] }
    let s' (s : State) := s.modCtx Ctx.commit
    spPlace (mk {}) 0 (mk {}).lid 0 (offsetOf f 4 (mk {})).toNat 4 = some (0, 8)
    ∧ accessCheck (mk {}) 0 .rd 8 [{ off := 8, size := 4, align := 4 }] = none
    ∧ accessCheck (mk {}) 0 .wr 8 [{ off := 8, size := 4, align := 4 }] = none ∧ (mk {}).ctx.seg = none
    ∧ (e.foc.pre = false ∧ feHeld f (0, 8) e = false ∧ verdict5 (.ldf f) (s' e) = .go ∧ verdict6 (.ldf f) (s' e) = .go
      ∧ (e.coreAt 0).full 8 = false)
    ∧ (let u := alone {}
      verdict5 (.ste f) (s' u) = .go ∧ verdict6 (.ste f) (s' u) = .go ∧ (u.coreAt 0).full 8 = true) := by decide +kernel

/-- Address space 0 maps its first page. -/
def mapped : State := mk {} {} (placeDev 4 0 lau State.reset.dev)

theorem witness_Handles : let f : ASlot := { zeroA with h := 3, xs := 1 }
    (translate 0 mapped.asid 0 mapped).1.isSome = true ∧ (translate 0 (mk {}).asid 0 (mk {})).1 = none
    ∧ (2 ^ 52 : Nat) ≤ ((mk (withA { s := [(1, 0x10000000000000)] })).ctx.a.sReg f.xs.toNat + f.off.signExtend 64).toNat := by
  decide +kernel

theorem witness_Handles_ready : Ready (.xlt { zeroA with h := 3 }) mapped ∧ Ready (.hdrop { zeroA with h := 3 }) (mk {}) :=
  ⟨ready (by decide +kernel), ready (by decide +kernel)⟩

/-- Rounding to FP32, BF16 and FP8E4 (R171, R175, R176): ties to even, overflow, the sign of a result that rounds to zero. -/
theorem test_rounding : roundFmt (.num false 0x1000001 0 false) 0 0 false = 0x4B800000
    ∧ roundFmt (.num false 0x1000003 0 false) 0 0 false = 0x4B800002 ∧ roundFmt (.num true 5 (-1) false) 3 0 false = 0xC2
    ∧ roundFmt (.num false 1 200 false) 0 1 false = 0x7F800000 ∧ roundFmt (.num true 1 200 false) 1 0 true = 0xFF7F
    ∧ roundFmt (.num false 480 0 false) 3 0 false = 0x7F ∧ roundFmt (.num true 1 (-200) false) 0 0 false = 0x80000000 := by
  decide +kernel

theorem witness_FloatNumbers : (0 < 0x7F / 2 ^ fmtM 3 % (fmtEmax 3 + 1)) ∧ 0x7E / 8 = 15 ∧ 0x7E % 8 ≠ 7 ∧ 0x7F / 8 = fmtEmax 3
    ∧ 0x7F800000 / 2 ^ fmtM 0 % (fmtEmax 0 + 1) = fmtEmax 0 ∧ 0x3F800000 / 2 ^ 23 < fmtEmax 0 := by decide +kernel

theorem witness_AtomicValues : decodeF 0 (0x7FC00000#32).toNat = .nan ∧ decodeF 0 (0#32).toNat ≠ .nan := by decide +kernel

/-- An access of the context, of an earlier cycle, that no DRN of scope CTX with an empty earlier mask waits for. -/
def oneAccess (path : Path) : Core := { mark := 2, acc := [{ id := 1, ctx := 0, ord := 0, path := path, kind := .load, els := [] }] }

theorem witness_Ordering : let f : ASlot := { zeroA with dr := 1 }
    let drn (e sc : Nat) : Instr := .drn { zeroA with off := BitVec.ofNat 26 e, sc := BitVec.ofNat 3 sc }
    let at8 (k : Core) : State := mk {} k State.reset.dev lau { ord := 8, pre := true }
    let other : CopyCmd := { id := 1, ctx := 0, inst := who, ord := 9, tag := 0, op := 1, mode := 0, fs := 0, fd := 0, sc := 0
                             srcH := 0, src := {}, dstH := 0, dst := {}, so := 0, dofs := 0, rows := 1, cols := 1
                             spitch := 0, dpitch := 0 }
    let clean : L1Line := { pa := 0, key := 0, data := 0, valid := 1, dirty := 0 }
    accessCheck (mk {}) 0 .rd 0 [{ off := 0, size := 4, align := 4 }] = none
    ∧ ((mk (withA { s := [(1, 255)] })).ctx.a.sReg f.dr.toNat).toNat < 256
    ∧ 256 ≤ ((mk (withA { s := [(1, 256)] })).ctx.a.sReg f.dr.toNat).toNat
    ∧ (({ zeroA with dr := 32 } : ASlot).dr.getLsbD 5 = true ∧ groupCores 0 (mk {}) = none
      ∧ (groupCores 0 (mk {} {} State.reset.dev { lau with rc := { lau.rc with groups := [(0, [(0, 0, 0)])] } })).isSome = true)
    ∧ holdA (drn 0 0) false (at8 (oneAccess .ctxls)) = none ∧ holdA (drn 1 0) false (at8 (oneAccess .atom)) = none
    ∧ holdA (drn 0x30 0) false (at8 (oneAccess .ctxls)) = none ∧ (at8 (oneAccess .ctxls)).core.waiting ≠ []
    ∧ holdA (drn 1 2) false (at8 { l1 := [clean] }) = none ∧ holdA (drn 2 0) false (at8 { copyq := [other] }) = none
    ∧ ((l1Invalidate 0 (mk {} { l1 := [{ clean with dirty := 1 }] })).coreAt 0).l1 ≠ [] := by decide +kernel

theorem witness_Ordering_job : let j : Job := {
      id := 1, core := 0, ctx := 0, inst := who, ord := 9, tag := 0, isXdt := false, srcH := 0, src := {}, so := 0 }
    let s := mk {} { jobq := [j] } State.reset.dev lau { ord := 8, pre := true }
    holdA (.drn { zeroA with off := 8 }) false s = none ∧ s.core.jobq.map (fun j => j.live) = [true] := by decide +kernel

theorem witness_Ordering_array : let p : Push := { id := 7, op := .fmx zeroM, ctx := 0, ord := 8, start := 0, n := 1, c := 1, sp := true, k := 1 }
    let s := mk {} { mark := 8, arr := { pushes := [p] } } State.reset.dev lau { ord := 16, pre := true }
    holdA (.drn { zeroA with off := 4 }) false s = none ∧ p.ctx = s.foc.ctx ∧ p.id < s.core.mark
    ∧ s.core.portTo ≤ s.core.clk ∧ (64 : Nat).testBit 6 = true := by decide +kernel

theorem witness_FlagOperations : let s := mk (withA { s := [(1, 255), (4, 0xFFFFFFFF)] })
    let f : ASlot := { zeroA with xs := 1, dr := 4 }
    let w (k : Nat) : ASlot := { zeroA with off := BitVec.ofNat 26 (64 * k) }
    (s.ctx.a.sReg f.xs.toNat).toNat < 256 ∧ (s.ctx.a.sReg f.dr.toNat).toNat < 2 ^ 32 ∧ heldFull s = false
    ∧ flsetTargets f s = some [0, 1, 2, 3, 4, 5, 6, 7] ∧ f.off.getLsbD 6 = false ∧ s.ctx.a.queue.length < 16
    ∧ (∀ k < 2, verdict5 (.flwait (w k)) (checkedState (.flwait (w k)) (alone {})) = .go)
    ∧ (∀ k < 3, verdict6 (.flwait (w k)) (checkedState (.flwait (w k)) (alone {})) = .go)
    ∧ (0#32 ≤ flagOf 0 (alone {}) ∧ flagOf 0 (alone {}) = 0 ∧ ¬(1#32 ≤ flagOf 0 (alone {})))
    ∧ actsAfter (alone {}) = false := by decide +kernel

theorem witness_FlagOperations_blocks : let f : ASlot := { zeroA with dr := 4 }
    let s := alone (withA { s := [(4, 1)] })
    s.foc.pre = false ∧ s.ctx.a.check = true ∧ actsAfter s = false ∧ ¬(BitVec.ofNat 32 (s.ctx.a.sReg f.dr.toNat).toNat ≤ flagOf 0 s)
    ∧ verdict5 (.flwait f) (checkedState (.flwait f) s) = .go ∧ verdict6 (.flwait f) (checkedState (.flwait f) s) = .go := by
  decide +kernel

/-- Core 0's SRAM holds a barrier object with EXPECTED 2. -/
def barrier : Core := { sp := [(0, 2)] }

theorem witness_Barriers : let s := mk {} barrier
    let u := alone {} barrier
    let u' := checkedState (.bwait zeroA) u
    (offsetOf zeroA 0 s).toNat % 16 = 0 ∧ spPlace s 0 s.lid 0 0 16 = some (0, 0) ∧ pondSpace s 0 0 16 = none
    ∧ accessCheck s 0 .amo 0 [{ off := 0, size := 16, align := 16 }] = none
    ∧ accessCheck s 0 .rd 0 [{ off := 0, size := 16, align := 16 }] = none ∧ s.ctx.a.queue.length < 16
    ∧ (s.ctx.a.sReg zeroA.dr.toNat).toNat < 16
    ∧ (verdict5 (.bwait zeroA) u' = .go ∧ verdict6 (.bwait zeroA) u' = .go ∧ feHeld zeroA (0, 0) u = false ∧ barMalformed 2 = false
      ∧ eligible u.core (syncAccess (.bwait zeroA) (some (.sp 0 0)) 16 (some 0) none u) = true
      ∧ (u.coreAt 0).sp.read 0 16 / 2 ^ 32 % 16 = 0)
    ∧ barMalformed 0 = true ∧ (barMalformed 2 = false ∧ 0 + 1 < 2 ∧ 2 ≤ 0 + 2 ∧ 2 < 0 + 3) := by decide +kernel

/-- A threshold register: L 1, MALLAT, FP16, and registers of that tree. -/
def tiled (k : Core := {}) : State := mk (withA {
  th := [(0, BitVec.ofNat 128 (2 ^ 96 + 2 * 2 ^ 100))]
  v := [(0, { bits := 5, tag := mkTag true 1 0 2 true }), (1, { tag := mkTag true 1 0 2 true })] }) k

theorem witness_Tiles : let th := tiled.ctx.a.th.get 0 0
    let srcs := (List.range 2).map fun j => tiled.ctx.a.vReg j
    let tile := buildTile th srcs
    let el : List AEl := [{ off := 0, size := tileMax th, align := 16 }]
    let k : Core := { sp := ({} : Core).sp.write 0 tile.1 tile.2 }
    let s := tiled k
    let hdr := s.core.sp.read 0 16
    let len := 16 + tileRows hdr * rowBytes (thFmt th.toNat)
    thBad th = false ∧ tileRegs zeroA tiled = none ∧ (tileOff zeroA th tiled).toNat = 0
    ∧ hstClash th (srcs.zipIdx.map fun r => (r.2, r.1.tag)) = none ∧ accessCheck tiled 0 .wr 0 el = none
    ∧ shadowFault tiled 0 [{ off := 0, size := tile.1, align := 1 }] = none ∧ heldFull tiled = false
    ∧ accessCheck tiled 1 .wr 0 el = none
    ∧ (tileRegs zeroA s = none ∧ spPlace s 0 s.lid 0 0 16 = some (0, 0)
      ∧ accessCheck s 0 .rd 0 [{ off := 0, size := 16, align := 16 }] = none ∧ tileOk hdr = true ∧ thMatches th (tileTag hdr) = true
      ∧ accessCheck s 0 .rd 0 [{ off := 0, size := len, align := 16 }] = none ∧ badSp s 0 0 len = false)
    ∧ 1 < 2 ^ tagL (tileTag hdr) := by decide +kernel

theorem witness_Tiles_ready : Ready (.hst zeroA) tiled ∧ Ready (.hld zeroA) tiled := ⟨ready (by decide +kernel), ready (by decide +kernel)⟩

/-! Vectors: PLAIN sources, HAAR sources that agree, and HAAR sources that do not. -/

/-- v1 and v2 are HAAR of level 1, v3 of level 2, th0 a threshold register of level 1 in BF16. -/
def haar : State := mk (withA {
  v := [(1, { bits := 0x3F800000, tag := mkTag true 1 0 0 true }), (2, { tag := mkTag true 1 0 0 false }),
        (3, { tag := mkTag true 2 0 0 true })]
  th := [(0, BitVec.ofNat 128 (2 ^ 96 + 2 ^ 100 + 0x3E80))] })

theorem witness_plain : let l := [domA zeroV (mk {}), domB zeroV (mk {}), domC zeroV (mk {})]
    AllPlain l ∧ Agree l ∧ ¬(tagHaar (domA zeroV (mk {})) = true ∧ tagHaar (domB zeroV (mk {})) = true) :=
  ⟨allPlain_of (by decide +kernel), agree_of (by decide +kernel), by decide +kernel⟩

theorem witness_haar : let f : VSlot := { zeroV with va := 1, vb := 2 }
    Agree [domA f haar, domB f haar] ∧ tagHaar (domA f haar) = true ∧ tagHaar (domB f haar) = true :=
  ⟨agree_of (by decide +kernel), by decide +kernel⟩

theorem witness_haar_apart : let g : VSlot := { zeroV with va := 1, vb := 3 }
    let h : VSlot := { zeroV with va := 0, vb := 3 }
    ¬Agree [domA g haar, domB g haar] ∧ tagHaar (domA g haar) = true ∧ tagHaar (domB g haar) = true ∧ g.qa = 0#1
    ∧ tagHaar (domA h haar) = false ∧ tagHaar (domB h haar) = true := by
  refine ⟨fun h => ?_, by decide +kernel⟩
  have := h _ (List.mem_cons_self ..) _ (List.mem_cons_of_mem _ (List.mem_cons_self ..)) (by decide +kernel) (by decide +kernel)
  revert this
  decide +kernel

theorem witness_haar_ready : let g : VSlot := { zeroV with va := 1, vb := 3 }
    ∀ i ∈ ([.vfadd g, .vfsub g, .vsel g, .vscal g, .vfmin g, .vfmax g, .vfcmp g, .vicmp g, .viadd g, .visub g, .vimul g, .viand g,
      .vior g, .vixor g, .vishl g, .vishr g, .visar g, .vimin g, .vimax g, .vfabs g, .vfspec g, .vfclass g, .vrmax g, .vrmin g,
      .vfmul g, .vfma g, .vfms g, .vfnma g] : List Instr), Ready i haar := by
  intro g i hi
  refine ready ?_
  revert i hi
  decide +kernel

theorem witness_VectorMinMax : let s := mk (withA { v := [(1, { bits := 0x80000000 }), (2, { bits := 0x7FC00000 })] })
    let f : VSlot := { zeroV with va := 1, vb := 0 }
    valA f s 0 = .num true 0 (-149) false ∧ valB f s 0 = .num false 0 (-149) false
    ∧ valA { f with va := 2 } s 0 = .nan ∧ valB { f with vb := 2 } s 0 = .nan ∧ valB f s 1 ≠ .nan := by decide +kernel

theorem witness_VectorPredicates : let f : VSlot := { zeroV with vd := 7, aux := 5 }
    f.vd.toNat % 8 ≠ 0 ∧ f.aux.toNat % 8 ≤ 5 ∧ f.qa = 0#1 := by decide +kernel

theorem witness_VectorInteger : (∀ k < 3, 5 ≤ ({ zeroV with fa := BitVec.ofNat 3 (5 + k) } : VSlot).fa.toNat) := by decide +kernel

theorem witness_VectorConvert : (isFloat 0 && isFloat 0) = true ∧ (0 + 1) * fmtBits 0 ≤ 32 ∧ (1 + 1) * fmtBits 1 ≤ 32
    ∧ (3 + 1) * fmtBits 6 ≤ 32 := by decide +kernel

theorem witness_VectorMoves : (0x80#12).getLsbD 7 = true ∧ (0#12).getLsbD 7 = false ∧ (0x400F#12).toNat / 2 ^ 10 = 0
    ∧ (0x40F#12).toNat / 2 ^ 10 = 1 ∧ (0x40F#12).toNat % 128 < 16 ∧ (0x81F#12).toNat / 2 ^ 10 = 2 ∧ (0x81F#12).toNat % 128 < 32 := by
  decide +kernel

theorem witness_VectorReductions : (0#12).getLsbD 8 = false ∧ (0x100#12).getLsbD 8 = true := by decide +kernel

theorem witness_HaarOperations : let f : VSlot := { zeroV with aux := 2 }
    let tl := f.aux.toNat / 2 % 8
    tl ≠ 0 ∧ tl ≠ 7 ∧ (tagHaar (domA f (mk {})) = true → tagL (domA f (mk {})) = tl)
    ∧ (tagHaar (domA { f with va := 1 } haar) = true ∧ tagL (domA { f with va := 1 } haar) = tl ∧ tagLay (domA { f with va := 1 } haar) = 0)
    ∧ thBad (haar.ctx.a.th.get 0 0) = false ∧ f.fa.toNat < 5 := by decide +kernel

theorem witness_DomainFaults_tag : let t := mkTag true 1 0 0 true
    t ∈ [t, plainTag 0] ∧ tagHaar t = true ∧ (4 : Nat) < 8 ∧ tagHaar (plainTag 0) = false := by decide +kernel

/-! The function array: a LIN buffer, a PW buffer whose rows all map to a VALID slot 0, and a GRAD buffer beside them. -/

/-- Slot 0: the knots 0 and 1. -/
def grid01 : Grid := { rule := 0, knots := [0, 0x3F800000], widths := [0x3F800000] }

/-- The array with buffer 0 of a descriptor and buffer 1 of gradients. -/
def arrWith (d : BufDesc) (c : Ctx := {}) (sp : Mem := []) : State :=
  mk c { arr := { b0 := { desc := d }, b1 := { desc := .grad 0 }, grid := [(0, grid01)] }, sp := sp }

/-- The tiles of an operation of one row pass R195's checks. -/
def tileFits (i : Instr) (f : MSlot) (size skip len : Nat) (s : State) : Bool :=
  match spTile i f size size skip 1 len s with | .ok _ => true | .error _ => false

theorem witness_ArrayPushes : let lin := arrWith (.coef 0 1 0)
    let pw := arrWith (.coef 1 1 0)
    let f : MSlot := { zeroM with inf := 1 }
    let p : MSlot := { f with mode := 1 }
    let x : MSlot := { f with src := 1 }
    lin.core.arr.portTo ≤ lin.cyc ∧ pw.core.arr.unmapped 0 = false
    ∧ inputLen (lin.core.arr.buf f.b).desc f.inf.toNat = some 128 ∧ inputLen (pw.core.arr.buf p.b).desc p.inf.toNat = some 128
    ∧ tileFits (.fmx x) x 2 0 256 lin = true ∧ tileFits (.fmxd x) x 2 0 256 lin = true
    ∧ tileFits (.fmxd { p with aux := 1 }) { p with aux := 1 } 2 0 256 pw = true
    ∧ tileFits (.fmxc x) x 2 0 256 lin = true ∧ (lin.core.arr.buf 1).desc = .grad 0
    ∧ ((pushSources f 1 lin).all fun v => !tagHaar v.tag) = true
    ∧ (pushSources f 1 lin).map (fun v => v.tag) = [(lin.ctx.a.vReg 0).tag] := by decide +kernel

/-- A compressed tile of one row in BF16 with its header at 0; s1 is the pitch of its rows. -/
def packed : State := arrWith (.coef 0 1 0) (withA { s := [(1, BitVec.ofNat 64 (256 * 2 ^ 32))] })
  (Mem.write [] 0 16 ((mkTag true 1 0 1 true).toNat + 2 ^ 32 + 2 ^ 96))

theorem witness_ArrayPushes_haar : let f : MSlot := { zeroM with inf := 1, h := 1, src := 1, sa := 1 }
    let i : Instr := .fmxHaar f
    let hdr := mxrRead packed packed.foc.ctx (packed.foc.ord / 8) 0 16
    (match spTile i f 2 2 0 1 16 packed with | .ok h => decide (h.base = 0 ∧ h.pitch = 256) | .error _ => false) = true
    ∧ badSp packed packed.foc.core 0 16 = false ∧ tileOk hdr = true ∧ tileRows hdr = mCount f ∧ rowBytes 1 = 256
    ∧ tagFmt (tileTag hdr) = 1 ∧ tileFits i f 2 16 256 packed = true := by decide +kernel

theorem witness_ArrayPushes_ready : let f : MSlot := { zeroM with inf := 1 }
    Ready (.fmx f) (arrWith (.coef 0 1 0)) ∧ Ready (.fmx { f with mode := 1 }) (arrWith (.coef 1 1 0))
    ∧ Ready (.fmxHaar { f with h := 1, src := 1, sa := 1 }) packed ∧ Ready (.fmxd f) (arrWith (.coef 0 1 0))
    ∧ Ready (.fmxd { f with mode := 1 }) (arrWith (.coef 1 1 0)) ∧ Ready (.fmxc f) (arrWith (.coef 0 1 0)) :=
  ⟨ready (by decide +kernel), ready (by decide +kernel), ready (by decide +kernel), ready (by decide +kernel),
   ready (by decide +kernel), ready (by decide +kernel)⟩

/-- The record of slot 0. -/
def record01 : Nat := 128 + 0x3F800000 * 2 ^ 64 + 0x3F800000 * 2 ^ (32 * 18)

/-- It stands at 0; s1 is a knot of 0.5, s2 the pitch of a tile, and s3 the last row. -/
def arrRegs : Ctx := withA { s := [(1, 0x3F000000), (2, BitVec.ofNat 64 (256 * 2 ^ 32)), (3, 127), (4, 0x1F7F)] }

theorem witness_ArrayChanges : let s := arrWith (.coef 1 1 0) arrRegs (Mem.write [] 0 136 record01)
    spPlace s s.foc.core s.lid 0 0 136 = some (0, 0) ∧ badSp s 0 0 136 = false
    ∧ parseGrid (mxrRead s s.foc.ctx (s.foc.ord / 8) 0 136) = some grid01
    ∧ ((List.range 128).all fun j => decide ((lane (s.ctx.a.vReg 0).bits j).toNat ≤ 15)) = true
    ∧ ((s.core.arr.slotOf 0 0).isSome = true ∧ floadBooks zeroM [1] 0 = true)
    ∧ (let f : MSlot := { zeroM with inf := 1, cbf := 1, sa := 2 }
      floadBooks f [1] 256 = true ∧ tileFits (.fload f) f 4 0 32 s = true ∧ (spPlace s s.foc.core s.lid 0 256 8).isSome = true)
    ∧ (match knotCheck { zeroM with sa := 1 } 0 0x3F000000 { s.core.arr with b1 := {} } with | .ok r => decide (r.2.1 = 0) | .error _ => false) = true
    ∧ (match knotCheck zeroM 0 0 s.core.arr with | .error e => decide (e = 3) | .ok _ => false) = true
    ∧ (match knotCheck zeroM 0 0x3F000000 (mk {}).core.arr with | .error e => decide (e = 1) | .ok _ => false) = true := by
  decide +kernel

theorem witness_ArrayReadsAndTransposer : let s := arrWith (.coef 1 1 0) arrRegs
    let last := (s.ctx.a.sReg 3).toNat
    let cell := (s.ctx.a.sReg 4).toNat
    (s.core.arr.buf 1).desc = .grad 0 ∧ last < 128 ∧ last + mCount zeroM ≤ 128
    ∧ cell < 2 ^ 13 ∧ cell / 128 % 2 = 0 ∧ cell % 128 + mCount zeroM ≤ 128 ∧ tagHaar (s.ctx.a.vReg 0).tag = false
    ∧ tagHaar (haar.ctx.a.vReg 1).tag = true ∧ (mk {} { xclear := true }).core.xclear = true := by decide +kernel

theorem witness_ArrayReads_ready : let s := arrWith (.coef 1 1 0) arrRegs
    Ready (.fgout { zeroM with b := 1, sa := 3 }) s ∧ Ready (.frdc { zeroM with sa := 4 }) s ∧ Ready (.txi { zeroT with v := 1 }) haar :=
  ⟨ready (by decide +kernel), ready (by decide +kernel), ready (by decide +kernel)⟩

/-! The X slot. -/

theorem witness_Copies : let c : CopyCmd := { id := 1, ctx := 0, inst := who, ord := 9, tag := 0, op := 3, mode := 0, fs := 1, fd := 1, sc := 0
                                              srcH := 0, src := {}, dstH := 0, dst := {}, so := 0, dofs := 0, rows := 1, cols := 1
                                              spitch := 0, dpitch := 0 }
    c.fs = c.fd ∧ 0 < c.rows ∧ 0 < c.cols ∧ c.op = (Instr.copyt zeroX).opcode.toNat
    ∧ c.op ≠ (Instr.copy zeroX).opcode.toNat := by decide +kernel

/-- Tag 3 is PENDING, tag 5 DONE, and s1 names tag 3, s2 tag 5, s3 both, s4 tag 9, which is IDLE. -/
def tagged (c : Ctx := {}) : State := alone { c with a := { c.a with
  tagDone := 32, tagPend := 8, s := [(1, 8), (2, 32), (3, 40), (4, 512)] } }

/-- Step 5 and step 6 of R63 pass for an operation, and it consumes nothing corrupt. -/
def passes (i : Instr) (s : State) : Bool :=
  let u := checkedState i s
  decide (verdict5 i u = .go) && decide (verdict6 i u = .go) && decide (corruptOf i u = none)

theorem witness_TagsAndEvents : let f (n : Nat) : XSlot := { zeroX with sa := BitVec.ofNat 5 n }
    let done := tagged.ctx.a.tagDone
    let known := done ||| tagged.ctx.a.tagPend
    let m (n : Nat) := tagged.ctx.a.sReg n
    tagged.foc.pre = false ∧ tagged.ctx.a.check = true ∧ passes (.waitany (f 1)) tagged = true
    ∧ passes (.waitall (f 1)) tagged = true ∧ passes (.waitall (f 2)) tagged = true
    ∧ (m 3 &&& done ≠ 0 ∧ m 1 &&& done = 0 ∧ m 1 &&& known ≠ 0 ∧ m 2 &&& ~~~done = 0)
    ∧ (m 3 &&& ~~~done ≠ 0 ∧ m 3 &&& ~~~known = 0)
    ∧ spPlace (mk {}) 0 (mk {}).lid 0 0 4 = some (0, 0) := by decide +kernel

/-- Events 1 and 3 are pending for the context's thread. -/
def evented : Launch := { lau with insts := [{ stage := 0, num := 0, st := .bound 0 0, events := 10 }] }

theorem witness_TagsAndEvents_events : let f (n : Nat) : XSlot := { zeroX with sa := BitVec.ofNat 5 n }
    let s := alone (withA { s := [(1, 8), (2, 1), (3, 0xFFFFFFFF)] }) {} State.reset.dev evented
    passes (.evwait (f 1)) s = true ∧ passes (.evwait (f 2)) s = true ∧ actsAfter s = false
    ∧ eventsHere s &&& (s.ctx.a.sReg 1).truncate 32 ≠ 0 ∧ eventsHere s &&& (s.ctx.a.sReg 2).truncate 32 = 0
    ∧ (s.ctx.a.sReg 3).toNat < 2 ^ 32 ∧ (s.ctx.a.sReg 3).toNat ≠ 0 := by decide +kernel

/-- Stage 0 puts into pond 0, of four words, and gets from it. -/
def ponded (w : List (BitVec 32)) : Launch := { lau with
  rc := { lau.rc with ponds := [(0, 0, 3, 0)] }
  ponds := [(0, { words := w })] }

theorem witness_HeldServices : (alone {}).ctx.answer = none ∧ passes (.pput zeroX) (alone {} {} State.reset.dev (ponded [])) = true
    ∧ passes (.pget zeroX) (alone {} {} State.reset.dev (ponded [])) = true
    ∧ (let s := alone { asked := some (.pget zeroX) } {} State.reset.dev (ponded [5])
      s.ctx.asked = some (.pget zeroX) ∧ s.ctx.answer = none ∧ (pondDesc 0 s).isSome = true ∧ badPond (some 0) s = none
      ∧ eligible s.core (serviceAccess (.pget zeroX) { s with foc := { s.foc with ord := 8 * s.ctx.seq + 5 } }) = true
      ∧ s.launchAt s.lid = some (ponded [5])) := by decide +kernel

/-! Events of a cycle. -/

/-- The state whose next issue is of one instruction, in the issuing context. -/
def coded (i : Instr) : State :=
  match encode i with
  | some (sl, w) => (placeProgram sl w.toNat State.reset).focusOn 0 0
  | none => State.reset

/-- What the issue of a placed instruction finds: its checks of the encoding, then of its operations. -/
def found (s : State) : Option Bool :=
  match s.launch? with
  | none => none
  | some l =>
    match fetchBundle s l s.ctx.a.pc with
    | .error _ => none
    | .ok b =>
      match encodedChecks b s.ctx.a.idx with
      | .error _ => none
      | .ok ops =>
        let s1 := s.modCtx fun c => { c with blen := b.hdr.length, brep := b.hdr.rep.toNat }
        some (decide ((issueVerdict (entriesOf s.ctx.a ops) false s1).1 = .go))

/-- Whether the encoding of a placed instruction fails a check. -/
def refusedCode (s : State) : Bool :=
  match s.launch? with
  | none => false
  | some l =>
    match fetchBundle s l s.ctx.a.pc with
    | .error _ => false
    | .ok b => match encodedChecks b s.ctx.a.idx with | .error _ => true | .ok _ => false

theorem witness_CycleEvents_issue : let s := coded (.add { zeroC with sd := 5 })
    let l := placedLaunch State.reset
    (mayIssue s = true ∧ s.launch?.isSome = true ∧ s.ctx.saveFor = none ∧ s.ctx.pend = [] ∧ l.rc.segprot = false ∧ s.ctx.seg = none)
    ∧ found s = some true ∧ found (coded (.popq zeroC)) = some false ∧ refusedCode (coded (.cnop { zeroC with w := 0, sd := 1 })) = true
    ∧ mayIssue (mk (withA { pc := 2 })) = true ∧ (mk (withA { pc := 2 })).ctx.a.pc.toNat % 4 ≠ 0
    ∧ mayIssue (mk {}) = true ∧ (mk {}).launch? = some lau ∧ headerAt (mk {}) lau 0 = none := by decide +kernel

/-- An operation of context 0 that starts now. -/
def starting (i : Instr) (k : Core := {}) : State :=
  mk { starts := [{ due := 0, ord := 8, op := i, k := 0, idx := 0 }] } k State.reset.dev lau { ord := 8, id := 1, pre := true }

/-- Two results for one register land, the later one after. -/
def landing : State := mk { flight := [
  { due := 0, ord := 16, reg := ⟨.s, 5⟩, val := .scalar 2 }, { due := 0, ord := 8, reg := ⟨.s, 5⟩, val := .scalar 1 }] }

/-- Context 0, which issued last, is the only READY one, and resumes with an answer. -/
def choosing : State := ((mk {}).modCore fun k => { k with issuing := none, last := 0, pickAt := some 0 }).modCtx fun c => { c with
  st := .ready, resume := some (2, some (5, 7)) }

theorem witness_CycleEvents : (dueNow (starting (.ldq zeroA)).core).length = 1
    ∧ firstHold (starting (.ldq zeroA)) [] (dueNow (starting (.ldq zeroA)).core) = none
    ∧ turnLost (dueNow (starting (.ldq zeroA)).core) (starting (.ldq zeroA)) = false
    ∧ (let s := starting (.ldq zeroA) { arr := { pushes := [{ id := 7, op := .fmx zeroM, ctx := 0, ord := 8, start := 0, n := 1, c := 1, sp := false }] } }
      let t := { s with plan := [0], cores := s.cores ++ [32, 64, 96].map fun c => (c, { fullAt := some 0 }) }
      firstHold (closeDue (dueNow t.core) t) [] (dueNow t.core) = none ∧ turnLost (dueNow t.core) t = true)
    ∧ (let l : Landing := { due := 0, ord := 16, reg := ⟨.m, 5⟩, val := .acc 0 0 128 0 0 }
      let x : Landing := { l with due := 3, ord := 8 }
      l.due ≤ (mk { flight := [l, x] }).cyc ∧ x.meets l = true ∧ x.ord < l.ord)
    ∧ (let s := starting (.drn { zeroA with off := 1 }) (oneAccess .ctxls)
      (firstHold s [] (dueNow s.core)).map (fun x => x.2.2) = some 5)
    ∧ (landing.ctx.flight.filter fun l => decide (l.due ≤ landing.cyc)).map (fun l => l.ord) = [16, 8]
    ∧ (choosing.core.pickAt = some 0 ∧ 0 ≤ choosing.cyc ∧ choosing.core.issuing = none
      ∧ (∀ i < 4, 1 ≤ i → (choosing.core.ctxAt ((choosing.core.last + i) % 4)).st ≠ .ready)
      ∧ (choosing.core.ctxAt ((choosing.core.last + 4) % 4)).st = .ready)
    ∧ (let s := (mk {}).modCtx fun c => { c with st := .blocked, woken := true }
      s.ctx.st = .blocked ∧ s.ctx.woken = true ∧ (s.modCore fun k => { k with issuing := none }).core.pickAt = none)
    ∧ (let s := mk {} { hold := some 5, holdIss := true, holdRun := 4096 }
      s.core.hold = some 5 ∧ freezeLimit s ≤ s.core.holdRun ∧ s.core.issuing = some 0 ∧ s.core.holdIss = true)
    ∧ (mk {} { holdRun := 4095 }).core.holdRun < freezeLimit (mk {}) := by decide +kernel

/-- A push of one row is in the array. -/
def pushing (i : Instr) (sp : Bool) : State := mk {} {
  arr := { b0 := { desc := .coef 0 1 0 }, b1 := { desc := .grad 0 }
           pushes := [{ id := 7, op := i, ctx := 0, ord := 8, start := 0, n := 1, c := 1, sp := sp }] } } State.reset.dev lau {
  id := 7, pre := true }

theorem witness_ArrayEvents_pushes : let f : MSlot := { zeroM with inf := 1 }
    let ok (s : State) : Bool := match s.core.arr.pushes.find? (fun p => p.id = s.foc.id) with
      | some p => p.due s.cyc && decide (p.poison s = none)
      | none => false
    ok (pushing (.fmx f) false) = true ∧ ok (pushing (.fmxHaar f) true) = true ∧ ok (pushing (.fmxd f) false) = true
    ∧ ok (pushing (.fmxc f) false) = true := by decide +kernel

/-- An FLOAD of one row. -/
def loading (f : MSlot) (g : Option Int) (cyc : Nat) : State := mk {} {
  cyc := cyc, arr := { loads := [{ op := .fload f, ctx := 0, ord := 8, g := g, base := 0, pitch := 256, rot := 0, ks := [1] }] } }

theorem witness_ArrayEvents_loads : let f : MSlot := { zeroM with inf := 1 }
    let at' (s : State) (p : FLoad → Bool) : Bool := match s.core.arr.loads with | l :: _ => p l | [] => false
    (at' (loading f none 0) (fun l => decide (l.g = none)) = true ∧ (loading f none 0).core.arr.wpFree ≤ (loading f none 0).cyc)
    ∧ at' (loading { f with cbf := 1 } (some 0) 0) (fun l => l.readDue 0) = true
    ∧ (loading { f with cbf := 1 } (some 0) 0).dev.badLines = []
    ∧ (let s := (loading { f with cbf := 1 } (some 0) 0).modDev fun d => { d with badLines := [.sp 0 256] }
      at' s (fun l => l.readDue 0 && decide (l.reads = 0) && (badLine s 0 (l.base + l.ks.length * l.pitch) 8).isSome) = true)
    ∧ at' (loading f (some 0) 130) (fun l => l.complete 130) = true
    ∧ at' (loading f (some 0) 129) (fun l => l.complete 129) = false ∧ f.spn = 0
    ∧ (0 ≤ (mk {} { arr := { changes := [(0, .grid 3 grid01)] } }).cyc
      ∧ (mk {} { arr := { changes := [(1, .grid 3 grid01)] } }).cyc < 1) := by decide +kernel

/-! Accesses and the L1. -/

/-- An access of one word of 4 bytes at `loc`, in focus. -/
def oneWord (loc : Loc) (kind : AccKind) : Access := { id := 1, ctx := 0, ord := 8, path := .ctxls, kind := kind
                                                       els := [{ loc := loc, size := 4 }], launch := 1 }

def accessing (a : Access) : State := mk {} { acc := [a] } State.reset.dev lau { id := 1, pre := true }

/-- Whether the access in focus is of that row and may perform. -/
def arrives (r : AccRow) (s : State) : Bool :=
  match s.core.acc.find? fun x => x.id = s.foc.id with
  | some a => decide (a.row = r) && eligible s.core a && banksFree a s && !a.shadow
  | none => false

theorem witness_AccessEvents : let sp : Loc := .sp 0 0x100
    let gm : Loc := .gm 0x7C
    (arrives .bank (accessing (oneWord sp .load)) = true ∧ arrives .bank (accessing (oneWord sp .store)) = true
      ∧ arrives .bank (accessing (oneWord sp (.amo 0x40 1 2))) = true
      ∧ badSp (accessing (oneWord sp .load)) 0 0x100 4 = false ∧ pondSpace (accessing (oneWord sp .load)) 0 0x100 4 = none)
    ∧ (arrives .perform (accessing (oneWord gm .load)) = true ∧ arrives .perform (accessing (oneWord gm .store)) = true
      ∧ (0x7C : Nat) % 128 + 4 ≤ 128 ∧ badGlobal (accessing (oneWord gm .load)) 0x7C 4 = false
      ∧ launchVer (accessing (oneWord gm .load)) 1 = none)
    ∧ arrives .release (accessing { oneWord sp .store with rel := some 1, narrow := true }) = true
    ∧ arrives .release (accessing { oneWord sp .store with rel := some 2 }) = true
    ∧ (let s := accessing { oneWord sp (.flag 0 3 true 1) with path := .atom, els := [], rel := some 1 }
      arrives .flag s = true ∧ ((s.coreAt 0).region? 1).isSome = true ∧ ((s.coreAt 1).region? 1).isNone = true)
    ∧ (let s := accessing { oneWord sp (.event 0 0 8) with path := .atom, els := [], rel := some 1 }
      arrives .event s = true ∧ (s.launchAt 1).isSome = true) := by decide +kernel

theorem witness_AccessEvents_held : let a := oneWord (.sp 0 0x100) .load
    let b : Access := { oneWord (.sp 0 0x100) .store with id := 0, ord := 0 }
    let g : Segment := { o := 0, ck := {}, flight := [], starts := [], ordo := 0, held := [.access b] }
    let s := mk { seg := some g } { acc := [a] } State.reset.dev lau { id := 1, pre := true }
    arrives .bank s = true ∧ (s.core.ctxAt a.ctx).heldAccs = [b] ∧ b.before a = true ∧ b.path = a.path ∧ b.els = a.els
    ∧ (((accessing a).core.ctxAt a.ctx).heldAccs = []) ∧ ({ oneWord (.sp 0 0) .load with acq := none, rel := none } : Access).narrow = false := by
  decide +kernel

theorem witness_AccessEvents_after : (mayEnter (.access (oneWord (.sp 0 0) .load)) (mk {}) = true
      ∧ (mk { entering := [.access (oneWord (.sp 0 0) .load)] }).ctx.entering.length = 1)
    ∧ (let s := (starting (.drn { zeroA with off := 0x11F, sc := 2 }) {}).modCore fun k => { k with hold := some 5 }
      s.ctx.starts.length = 1 ∧ s.core.hold = some 5 ∧ (0x11F#26).getLsbD 8 = true
      ∧ drained 0x1F 2 { s with foc := { s.foc with ord := 8, k := 0, idx := 0 } } = true) := by decide +kernel

/-- A log entry and a dirty line of its generation. -/
def logged (r : List PacqReq) (l : List LogEntry) (aux id : Nat := 0) (vf : Option Nat := none) : State := mk {} {
  plog := l, plnum := 5, pacq := r, lastVF := vf, l1 := [{ pa := 0, key := 0, data := 0, valid := 1, dirty := 1 }] } State.reset.dev lau {
  id := id, aux := aux, pre := true }

theorem witness_PromotionEvents : let x : LogEntry := { num := 5, gen := 0, core := false, ctx := 0, ord := 1 }
    let q (c : Option (BitVec 32)) : PacqReq := { id := 9, core := 0, target := 0, vf := 0, cut := c }
    (promotionAsked (logged [q (some 5)] [x]).core = true ∧ promotable (logged [q (some 5)] [x]).core x.gen = true)
    ∧ ((logged [] []).core.l1.find? (fun y => y.pa = lineOf 0)).isSome = true ∧ promotable (logged [] []).core 0 = true
    ∧ ((logged [q none] [] 0 9).core.plog = [] ∧ (logged [q none] [x] 0 9 (some 0)).core.lastVF = some 0
      ∧ (logged [q none] [x] 0 9 (some 1)).core.lastVF ≠ some 0)
    ∧ (2 ^ 31 ≤ ((4 : BitVec 32) - x.num).toNat ∧ ((5 : BitVec 32) - x.num).toNat < 2 ^ 31)
    := by decide +kernel

/-- A translation of core 0 that missed its TLB in cycle 0; a walker has begun it or not, and the cluster's TLB holds `l`. -/
def walking (begun : Bool) (l : List Handle := []) : State := (mapped.modDev fun d => { d with
  walks := [{ id := 3, core := 0, vf := 0, asid := 0, va := 0, since := 0, begun := begun }], tlb2 := [(0, l)] }).modCore fun k =>
    { k with clk := 40 }

theorem witness_PromotionEvents_walks : let one (s : State) (g : Walk → Bool) : Bool := s.dev.walks.all g && !s.dev.walks.isEmpty
    let s := walking false
    let t := walking true
    let u := walking false (match (translate 0 0 0 mapped).1 with | some h => [h] | none => [])
    one s (fun w => !w.begun && !w.hit s && w.mayBegin s) = true
    ∧ one t (fun w => w.begun && w.missed t && decide (w.mates t = [w])) = true ∧ one u (fun w => w.hit u) = true := by decide +kernel

theorem witness_PromotionEvents_errors : let g : Segment := { o := 0, ck := {}, flight := [], starts := [], ordo := 0 }
    let at' (n : Nat) : State := mk { seg := some g } {} State.reset.dev lau { aux := n }
    (at' 3).foc.aux = 3 ∧ (at' 7).foc.aux = 7 ∧ (at' 7).ctx.seg = some g ∧ (at' 9).foc.aux = 9 ∧ (at' 1).foc.id = 0
    ∧ 33 ∈ banksOf (bankKind false 33) ∧ 89 ∈ banksOf (bankKind false 89) := by decide +kernel

/-! Engines. -/

/-- The state with a command, access or launch in focus. -/
def about (n : Nat) (s : State) : State := { s with foc := { s.foc with id := n } }

/-- A copy of one element of 4 bytes in the SRAM, from 0 to 0x40. -/
def oneCopy : CopyCmd := { id := 7, ctx := 0, inst := who, ord := 9, tag := 63, op := 1, mode := 0, fs := 0, fd := 0, sc := 0, srcH := 0
                           src := {}, dstH := 0, dst := {}, so := 0, dofs := 0x40, rows := 1, cols := 1, spitch := 0, dpitch := 0 }

theorem witness_EngineEvents_copies : let s := about 7 (mk {} { copyq := [oneCopy] })
    (s.core.copyq.find? fun c => c.id = s.foc.id) = some oneCopy ∧ oneCopy.rows * oneCopy.cols = 1 ∧ oneCopy.fs = oneCopy.fd
    ∧ spPlace s s.foc.core 1 0 (oneCopy.srcOff 0).toNat 4 = some (0, 0) ∧ spPlace s s.foc.core 1 0 (oneCopy.dstOff 0).toNat 4 = some (0, 64)
    ∧ badSp s 0 0 4 = false ∧ pondSpace s 0 0 4 = none ∧ pondSpace s 0 64 4 = none ∧ oneCopy.src.st ≠ .revoked ∧ oneCopy.olds = [] ∧ readsLeft oneCopy.ctx oneCopy.inst oneCopy.ord s = false
    ∧ ({ oneCopy with src := { st := .revoked } } : CopyCmd).src.st = .revoked ∧ ({ oneCopy with done := 1 } : CopyCmd).done = 1
    ∧ oneCopy.tag < 64 := by decide +kernel

theorem witness_EngineEvents_flushes : let c : FlushCmd := { id := 7, tag := 63, inst := some who, pa := 0, len := 128, key := 0, op := 1 }
    let s := about 7 (mk {} { flushq := [c] })
    (s.core.flushq.find? fun c => c.id = s.foc.id) = some c ∧ c.len ≤ 128 ∧ c.tag < 64
    ∧ 128 < ({ c with len := 256 } : FlushCmd).len := by decide +kernel

/-- A table of one state that emits symbol 0 and consumes nothing. -/
def dull : List Nat := List.replicate 16 0x20000

/-- A coded block of one symbol of one bit, and the CRC-32C of four bytes of 0. -/
def block1 : List Nat := [0x4B445842, 0, 1, 0x10020, 0x48674BC7, 0, 0, 0]

/-- A job over that block at 0, whose words go to 0x100. -/
def job1 : Job := { id := 7, core := 0, ctx := 0, inst := who, ord := 9, tag := 63, isXdt := false, srcH := 0, src := {}, so := 0
                    io := 0x100, tabo := 0x200, nblk := 1, st := .running }

/-- A job on a lane, its source in the SRAM. -/
def onLane (j : Job) (src : List Nat) (l : Launch := lau) (empt : List Nat := []) : State :=
  about 7 (mk {} { sp := Mem.write [] 0 (4 * src.length) (packElems 32 src), empt := empt } { State.reset.dev with jobs := [j] }
    { l with dtabs := [(0, { sw := 1, entries := dull })] })

/-- Whether the lane reads a block's header, and it is good. -/
def reads (j : Job) (s : State) : Option Bool :=
  match jobWords j.run j.pos 8 (setJob j.id Job.run (s.focusOn j.core j.ctx)) with
  | (.ok h, s2) => some (headOk h && !slotWaits j.inst.launch 0 s2 && (s2.launchAt j.inst.launch).isSome)
  | (.error _, _) => none

theorem witness_EngineEvents_decode : let s := onLane job1 block1
    s.job? = some job1 ∧ laneBusy job1 s.dev.jobs = false ∧ job1.mayGo s = true ∧ reads job1 s = some true ∧ reads job1 (onLane job1 []) = some false
    ∧ (let b := blockUpTo none job1 block1 { sw := 1, entries := dull } 0 []
      b.1 = [(0, 0x100, 0)] ∧ b.2.1 = 0 ∧ mayWrite job1 s = true)
    ∧ (s.dev.jobs.find? fun y => y.id = job1.id) = some job1
    ∧ readsLeft job1.ctx job1.inst job1.ord (s.focusOn job1.core job1.ctx) = false := by decide +kernel

theorem witness_EngineEvents_reads : let s := onLane job1 block1
    let u := setJob job1.id Job.run (s.focusOn 0 0)
    let late := s.modDev fun d => { d with base := 100 }
    jobMisses job1.run 0 8 u = [] ∧ jobHost job1.run 0 8 u = none ∧ jobMisses job1.run 32 1 u = [] ∧ jobHost job1.run 32 1 u = none
    ∧ mayDecode job1 late = true ∧ headOk (0 :: block1) = false ∧ bankFree true (0, 0x100) s = true ∧ job1.begun = false
    ∧ ({ job1 with begun := true } : Job).begun = true := by decide +kernel

theorem witness_EngineEvents_jobs : let w : Job := { job1 with out := [(0, 0x100, 5)] }
    let ended : Job := { job1 with blk := 1 }
    let parked : Launch := { lau with insts := [{ stage := 0, num := 0, st := .saved }] }
    (spPlace (onLane w block1) 0 1 0 0x100 4 = some (0, 0x100) ∧ ((onLane w block1 lau [64]).coreAt 0).full 0x100 = false
      ∧ ((onLane w block1).coreAt 0).full 0x100 = true)
    ∧ (ended.out = [] ∧ ended.nblk ≤ ended.blk ∧ ended.tag < 64)
    ∧ (jobParked job1 (onLane job1 block1 parked) = true ∧ job1.mid = false ∧ job1.live = true ∧ job1.st ≠ .suspended
      ∧ job1.run.begun = true)
    ∧ (jobParked job1 (onLane { job1 with st := .suspended } block1) = false ∧ laneBusy job1 [] = false) := by decide +kernel

theorem witness_EngineEvents_table : let j : Job := { job1 with isXdt := true, slot := 15 }
    let s := onLane j (0x801 :: 0 :: 0 :: 0 :: dull)
    (s.dev.jobs.any fun x => decide (x.inst.launch = j.inst.launch) && decide (x.tid = some j.slot)) = false
    ∧ (match jobWords j 0 4 (s.focusOn j.core j.ctx) with
      | (.ok h, s2) => tableHeadOk h && decide (h.headD 0 % 2 ^ 11 = 1) && decide (h.headD 0 / 2 ^ 11 % 8 = 1)
        && (match jobWords j 16 16 s2 with | (.ok w, _) => w.all (entryOk 1 1) | (.error _, _) => false)
      | (.error _, _) => false) = true := by decide +kernel

theorem witness_EngineEvents_dispatch : (mk {} { jobq := [job1] }).core.jobq = [job1] := by decide +kernel

/-! The scheduler. -/

/-- A launch record of one stage with 1 MiB of region and 4 KiB of code (R277). -/
def record1 : Nat := (2 * 2 ^ 19 + 4 * 2 ^ 16) * 2 ^ (32 * 12) + 2 ^ 22 * 2 ^ (32 * 15)

/-- The read of a LAUNCH's record in the SRAM at 0. -/
def recordRead : Access :=
  { id := 7, ctx := 0, ord := 8, path := .ctxls, kind := .record, launch := 1, els := [{ loc := .sp 0 0, size := 128 }] }

/-- A LAUNCH on its way. -/
def request : LaunchReq := { id := 7, core := 0, ctx := 0, inst := who, ord := 8, tag := 0, loc := {}, hn := 0, read := recordRead }

def asking (x : Nat) : State := about 7 (mk {} {} { State.reset.dev with lreqs := [{ request with got := some (x, none) }] })

/-- Its record is still to be read. -/
def unread : State := about 7 (mk {} { acc := [request.read] } { State.reset.dev with lreqs := [request] })

/-- What its record is: good or refused. -/
def recordGood (x : Nat) : Option Bool :=
  let s := asking x
  let u := s.focusOn 0 0
  match s.launchAt 1 with
  | some l =>
    if launchMay request u && !u.resetting l.vf && !l.rc.shadow then
      match checkRecord u x l.vf l.asid none false with | .ok rc => some (decide ((springOf u rc.queue).length < 256)) | _ => some false
    else none
  | none => none

theorem witness_BindingEvents_launch : recordGood record1 = some true ∧ recordGood 0 = some false
    ∧ (let u := unread.focusOn 0 0
      request.got = none ∧ u.core.acc.find? (fun a => a.id = request.id) = some request.read ∧ request.read.shadow = false
      ∧ eligible u.core request.read = true ∧ banksFree request.read u = true)
    ∧ (request.loc.st ≠ .revoked ∧ ({ request with loc := { st := .revoked } } : LaunchReq).loc.st = .revoked)
    ∧ (about 7 (mk {} {} { State.reset.dev with lreqs := [{ request with inst := { who with launch := 9 } }] })).launchAt 9 = none := by
  decide +kernel

/-- A launch that waits for a context, and the same one saved. -/
def wanting (st : InstState) : Launch := { rc := { prio := 1, stages := [(1, 0)] }, insts := [{ stage := 0, num := 0, st := st
                                                                                                saved := some {} }] }

/-- Context 1 is free, launch 2 in focus beside launch 1, its address space valid. -/
def offering (l : Launch) (k : Core := {}) : State :=
  let s := mk {} k (placeDev 4 0 lau State.reset.dev) lau { ctx := 1, id := 2, pre := true }
  s.modDev fun d => { d with launches := d.launches ++ [(2, l)] }

theorem witness_BindingEvents_bind : let s := offering (wanting .unstarted)
    let t := offering (wanting .saved)
    let q := mk {} {} { State.reset.dev with springs := [(63, [{ rc := lau.rc, vf := 0, asid := 0, parent := none }])] } lau { ctx := 1 }
    (((s.launchAt 2).bind Launch.nextNew).isSome = true ∧ fits 2 0 1 s = true ∧ batchWaits s.foc.core s = false)
    ∧ (fits 2 0 1 t = true ∧ batchWaits t.foc.core t = false ∧ ((wanting .saved).insts.find? fun r => r.st = .saved).isSome = true)
    ∧ (q.ctx.st = .free ∧ (q.dev.launches.any fun e => e.2.wants && fits e.1 0 1 q) = false ∧ bestQueue q = some 63
      ∧ (springOf q 63).length = 1) := by decide +kernel

/-- Core 0 runs launch 1 on every context, the other cores of its tower have no scratchpad, and the other tower is stopped: launch 2
finds no context. -/
def crowded : State :=
  let s := mk {} {} (placeDev 4 0 lau State.reset.dev) lau { id := 2, pre := true }
  { s with
    cores := (List.range 128).map fun c => (c, if c = 0 then { s.core with ctxs := (List.range 4).map fun n => (n, s.ctx) }
                                               else { spLog := 0 })
    dev := { s.dev with launches := s.dev.launches ++ [(2, wanting .unstarted)], stopped := [(1, true)] } }

theorem witness_BindingEvents_preempt : (∀ k < 256, ∀ n < 4, fits 2 k n crowded = false) ∧ fitsOn 2 0 0 (some 0) crowded = true
    ∧ ((crowded.launchAt 2).bind Launch.nextWant).isSome = true ∧ crowded.ctx.inst = some who ∧ who.batch = none
    ∧ (∀ e ∈ crowded.cores, ∀ x ∈ e.2.ctxs, x.2.saveFor ≠ some (.preempt 2 0 0)) ∧ lau.rc.prio < (wanting .unstarted).rc.prio
    ∧ crowded.ctx.saveFor = none ∧ crowded.ctx.st = .issuing := by decide +kernel

/-- The code at 0 is a bundle with no slot whose first issue is a drain point. -/
def draining (c : Ctx := {}) (k : Core := {}) (l : Launch := lau) : State :=
  mk c k (placeDev 4 (Header.pack { rsv := 0, rv := 0, g := 0, d := 1, stall := 0, rep := 0, pres := 0 }).toNat lau State.reset.dev) l

/-- A pond that has been full for 4,096 cycles and on which context 0 waits, at a drain point. -/
def balancing : State :=
  let s := draining {} { clk := 4096 } { lau with
    rc := { lau.rc with ponds := [(0, 0, 3, 0)] }
    ponds := [(0, { home := some 0, words := [1, 2, 3, 4], fullFrom := some 0 })] }
  s.modCtx fun c => { c with st := .blocked, wait := some (.pond 1 0) }

theorem witness_BindingEvents_save : let s := draining { saveFor := some (.move 0) }
    let t := (mk {}).modCtx fun c => { c with st := .saving }
    (atDrain s = true ∧ s.ctx.st ≠ .saving ∧ s.ctx.inst = some who)
    ∧ (t.ctx.st = .saving ∧ t.ctx.saveFor = none ∧ settled t = true ∧ t.ctx.a.queue = [] ∧ promotableAll t.core = true ∧ (t.launchAt 1).isSome = true)
    ∧ rebalanceFind balancing = some (0, 0) ∧ balancing.core.clk % 4096 = 0 ∧ (mk {} { clk := 4095 }).core.clk % 4096 ≠ 0 := by
  decide +kernel

theorem witness_BindingEvents_batch : let b : Batch := { ctx := 0, inst := who, mark := 0, path := 3, entry := 0
                                                         ents := [{ inst := who, path := 3, lane := 9, vals := [1] }] }
    let s := mk {} { batches := [b] } State.reset.dev lau { ctx := 1, pre := true }
    s.ctx.st = .free ∧ nextBatch s = some b ∧ (s.launchAt b.inst.launch).isSome = true
    ∧ s.core.waiting = [] := by decide +kernel

/-- A state whose context in focus has ended. -/
def finishing (b : Option (Nat × Nat)) : State := (mk {}).modCtx fun c => { c with st := .ended, inst := some { who with batch := b } }

/-- A state whose launch 1 is `l`, in focus. -/
def closing1 (l : Launch) (k : Core := {}) (d : Dev := State.reset.dev) : State := about 1 (mk {} k d l)

/-- A launch all of whose work is done. -/
def allDone : Launch := { lau with insts := [{ stage := 0, num := 0, st := .ended }] }

theorem witness_LaunchEnds : let s := finishing none
    (s.ctx.st = .ended ∧ through s = true ∧ (s.cores.all fun e => e.2.defq.isEmpty) = true ∧ batchLive who s = false
      ∧ lau.insts.map (fun r => r.st) = [.bound s.foc.core s.foc.ctx])
    ∧ (through (finishing (some (3, 1))) = true ∧ (finishing (some (3, 0))).ctx.inst = some { who with batch := some (3, 0) }
      ∧ s.core.acc = [])
    ∧ (launchThrough 1 allDone (closing1 allDone) = true ∧ allDone.complete = false)
    ∧ (let l := { allDone with wordDue := true, complete := true }
      let d := placeDev 4 0 lau State.reset.dev
      let u := closing1 l {} { d with hbm := d.hbm.write 0x22000 8 (15 * 2 ^ 60 + 0x30000) }
      (match walkPage u.dev 0 0 with | some h => h.wr | none => false) = true ∧ l.rc.compl.testBit 63 = false)
    ∧ (let l : Launch := { allDone with rc := { lau.rc with compl := 2 ^ 63 }, wordDue := true, parent := some 1 }
      let u := closing1 l { empt := [0] }
      ((u.coreAt 0).region? 1).isSome = true ∧ pondSpace u 0 0 4 = none ∧ pondSpace (closing1 l) 0 0 4 = none ∧ l.rc.compl.testBit 63 = true ∧ (u.coreAt 0).full 0 = false
      ∧ ((closing1 l).coreAt 0).full 0 = true)
    ∧ (watchdogDue { lau with killed := true } (closing1 { lau with killed := true }) = true)
    ∧ (let l : Launch := { lau with rc := { lau.rc with shadow := true } }
      let u := closing1 l
      u.foc.aux ≠ 1 ∧ l.replays + 1 ≤ u.limit 0 3 ∧ (springOf u 0).length < 256
      ∧ (closing1 { l with replays := 2 }).limit 0 3 < ({ l with replays := 2 } : Launch).replays + 1)
    ∧ (let d := { State.reset.dev with springs := [(3, [{ rc := lau.rc, vf := 0, asid := 0, parent := none }])] }
      ((springOf (closing1 lau {} d) 3)[0]?).isSome = true) := by decide +kernel

/-! Firmware, the host and the links. -/

/-- The device with other parts. -/
def withDev (g : Dev → Dev) : State := (mk {}).modDev g

/-- The state with the argument that the focus carries. -/
def aux (n : Nat) (s : State) : State := { s with foc := { s.foc with aux := n } }

theorem witness_FirmwareWrites : let s := withDev fun d => { d with
      keys := [(1, { loaded := true }), (1023, { loaded := true })]
      keyPort := [(2, List.replicate 7 1), (3, List.replicate 6 1)]
      flushA := 0x5FFFFFFF80, flushK := 0x103FF }
    ((s.dev.keys.get 1023 {}).loaded = true ∧ (s.dev.keys.get 2 {}).loaded = false ∧ 7 ≤ (s.dev.keyPort.get 2 []).length
      ∧ (s.dev.keyPort.get 3 []).length < 7 ∧ (s.dev.keys.get 3 {}).loaded = false)
    ∧ (limitOk (255 % 8) 1 = false ∧ limitOk (248 % 8) 65536 = true ∧ limitOk (248 % 8) 65537 = false ∧ limitOk (6 % 8) 64 = true)
    ∧ (unloadReady 1023 s = true ∧ 0x6000000000 < 0x5FFFFFFF80 + 256
      ∧ (let y : L1Line := { pa := 0, key := 1023, data := 0, valid := 1, dirty := 1, gen := 1 }
        let x : LogEntry := { num := 1, gen := 0, core := false, ctx := 0, ord := 9 }
        unloadReady 1023 (mk {} { gen := 1, plog := [x], l1 := [y], acc := [{ oneWord (.sp 0 0) .load with id := 3 }] }) = false))
    ∧ (0x5FFFFFFF80 + 128 ≤ 0x6000000000 ∧ s.dev.flushK.toNat / 2 ^ 16 % 4 ≠ 0 ∧ s.dev.flush = none ∧ s.dev.flushA.toNat = 0x5FFFFFFF80)
    ∧ (let c : FlushCmd := { id := 1, pa := 0, len := 128, key := 0, op := 1 }
      (withDev fun d => { d with flush := some c }).dev.flush = some c ∧ c.len ≤ 128 ∧ 128 < ({ c with len := 256 } : FlushCmd).len)
    ∧ (let c : ShootDown := { asid := 0, all := true, wb := false, va := 0, count := 0 }
      let t := withDev fun d => { d with shoot := [c] }
      t.dev.shoot = [c] ∧ shootDone c t = true) := by decide +kernel

/-- Firmware holds a trap of context 0, which waits for it. -/
def held (w : WaitOn) (l : Launch := lau) : State := mk { wait := some w, svc := some (5, 9), fwHeld := some { cause := 3, owed := 2 } } {}
  State.reset.dev l

theorem witness_FirmwareCommands : let s := withDev fun d => { d with flr := [{ vf := 31, since := 0 }], base := 2 ^ 21 }
    (s.resetting 31 = true ∧ flrQuiet 31 s = true ∧ s.resetting 1 = false ∧ 0 + 2 ^ 21 ≤ s.dev.base)
    ∧ ((mk {}).ctx.inst.isSome = true ∧ asyncCause 0x12 = true ∧ asyncCause 0x0E = false)
    ∧ (firmwareUp (held .service) = true ∧ (held .service).ctx.wait = some .service ∧ (held .service).ctx.svc = some (5, 9)
      ∧ (held .firmware).ctx.wait = some .firmware ∧ (held .firmware).launch? = some lau ∧ (held .firmware).ctx.hmode = false
      ∧ lau.rc.hnd = true ∧ ({ lau with rc := { lau.rc with hnd := false } } : Launch).rc.hnd = false)
    ∧ ((mk {}).dev.fwStatus ≠ 2 ∧ (mk {}).dev.fwStatus ≠ 3 ∧ (mk {}).dev.fwDown = false)
    ∧ (let t := withDev fun d => { d with fwStatus := 2, base := 2 ^ 24 }
      t.dev.fwStatus = 2 ∧ imageOk t t.dev.fwStage.toNat = false ∧ t.dev.fwSince + 2 ^ 24 ≤ t.dev.base)
    ∧ (let t := withDev fun d => { d with fwStatus := 3, fwImage := some 7, base := 2 ^ 24 - 1 }
      t.dev.fwImage = some 7 ∧ t.dev.base < t.dev.fwSince + 2 ^ 24)
    ∧ (let q : TrapReq := { cause := 0x0B }
      let t := mk { wait := some .firmware, hmode := true, fwHeld := some q }
      t.ctx.hmode = true ∧ q.cause = 0x0B ∧ ({ q with cause := 0x13 } : TrapReq).cause ≠ 0x0B)
    ∧ (aux 2 (withDev fun d => { d with fwStatus := 3 })).dev.fwStatus = 3 ∧ (aux 2 (mk {})).foc.aux = 2
    ∧ (withDev fun d => { d with fwDown := true }).dev.fwDown = true := by decide +kernel

theorem witness_FirmwareCommands_banks : let s := mk {}
    (33 ∈ banksOf 0 ∧ 34 ∉ banksOf 0 ∧ 89 ∈ banksOf 1 ∧ 16 ∈ banksOf 2 ∧ retireOf false 0 s = none ∧ retireOf true 127 s = none)
    ∧ (bankState (bankWord (bankTable false 0 s) 0 0) = 1 ∧ bankState (bankWord (bankTable false 0 s) 0 33) = 0
      ∧ bankState (bankWord (bankTable true 127 s) 2 0) = 1 ∧ bankState (bankWord (bankTable true 127 s) 2 16) = 0)
    ∧ (let r : Retire := { kind := 0, src := 0, dst := 33, moved := 1022, lines := 1024, spare := true }
      (mk {} { retire := some r }).core.retire = some r ∧ (retireOf false 0 (mk {} { retire := some r })).isSome = true ∧ r.moved + 1 < r.lines
      ∧ r.lines ≤ ({ r with moved := 1023 } : Retire).moved + 1
      ∧ r.wait = false ∧ r.locked = false ∧ ({ r with locked := true } : Retire).locked = true)
    ∧ (let r : Retire := { kind := 0, src := 0, dst := 0, lines := 1024, spare := false, wait := true }
      let region : Region := { launch := 1, base := 7 * 524288, size := 524288 }
      let full := mk {} { retire := some r }
      full.core.vacated = true ∧ (full.modCore fun k => { k with regions := [region] }).core.vacated = false
      ∧ topLaunches (full.modCore fun k => { k with regions := [region] }).core = [1])
    ∧ (let none' := mk {} { banks := [(32, setBank 0 3 0xFF), (33, setBank 0 3 0xFF)] }
      (∀ q ∈ banksOf 0, bankState (bankWord (bankTable false 0 none') 0 q) ≠ 0) ∧ none'.core.loser.1 = 3
      ∧ (none'.core.ctxAt 0).inst = some who ∧ (none'.core.ctxAt 0).st ≠ .free) := by decide +kernel

/-- Host queue 255 is granted to function 0, runs, and has one entry, a record of zeros or `x`. -/
def queueing (x : Nat) : State := about 255 ((mk {}).modDev fun d => { d with
  hostq := [(255, { en := true, lsz := 3, wc := 1, st := 1, grant := some 0 })]
  hostMem := d.hostMem.write 0x200000000000 128 x })

/-- Whether its entry is a good record. -/
def entryGood (s : State) : Bool :=
  match checkRecord s (s.dev.hostMem.read (hostAddr 0) 128) 0 0 none true with
  | .ok rc => decide ((springOf s rc.queue).length < 256)
  | .error _ => false

/-- Port 15 is UP and channel 7 enabled on ports 14 and 15, at attempt 65535. -/
def linked (st retries : Nat) : State := (mk {}).modDev fun d => { d with
  ports := [(15, BitVec.ofNat 64 st), (14, 2)], retries := [(15, List.replicate retries 0)]
  chans := [(7, BitVec.ofNat 64 (65535 * 2 ^ 48 + 2 ^ 16 + 2 ^ 15 + 2 ^ 14))] }

theorem witness_HostEvents : let s := queueing record1
    let h := queueAt s 255
    (reaches 0 255 s = true ∧ reaches 1 255 s = false ∧ h.st ≠ 2 ∧ s.resetting 0 = false ∧ ((8#32) - h.rc).toNat ≤ 2 ^ h.lsz
      ∧ 2 ^ h.lsz < ((9#32) - h.rc).toNat)
    ∧ (mayConsume 255 s = true ∧ h.grant = some 0 ∧ entryGood s = true ∧ mayConsume 255 (queueing 0) = true ∧ entryGood (queueing 0) = false
      ∧ badGlobal s (hostAddr 0) 128 = false
      ∧ badGlobal (s.modDev fun d => { d with badLines := [.gm (hostAddr 0)] }) (hostAddr 0) 128 = true)
    ∧ (0x6000000000 - 64 + 64 ≤ 0x6000000000 ∧ 0x6000000000 < 0x6000000000 - 63 + 64)
    ∧ (let down (base : Nat) : State := s.modDev fun d => { d with cxl := { d.cxl with ideReq := true }, base := base }
      s.hostUp = true ∧ (down 0).hostUp = false ∧ queueLate 255 (down 6400000) = true ∧ queueLate 255 (down 6399999) = false
      ∧ s.hostLate 0 0 = false ∧ (down 6400000).hostLate 0 0 = true)
    ∧ ((2 ^ 32 : Nat).testBit 32 = true ∧ (0x103FF < 2 ^ 18 ∧ 0x103FF / 2 ^ 10 % 64 = 0 ∧ 0x103FF / 2 ^ 16 % 4 ≠ 0)
      ∧ (let t := s.modDev fun d => { d with kdsel := [(7, BitVec.ofNat 64 (2 ^ 56 + 4095))] }
        (t.hart 7).mode = 3 ∧ (t.dev.kdsel.get 7 0).toNat / 2 ^ 56 = 1 ∧ (t.dev.kdsel.get 7 0).toNat % 2 ^ 40 < 4096)
      ∧ ((s.modDev fun d => { d with harts := [(7, { mode := 1 })] }).hart 7).mode ≠ 3)
    ∧ (let a := oneWord (.gm 0x200000000000) .load
      a.toHost = true ∧ ({ a with kind := .record } : Access).toHost = true ∧ (oneWord (.gm 0x200000000000) .store).toHost = true ∧ (oneWord (.gm 0x6000000000) .load).toHost = false) := by
  decide +kernel

theorem witness_HostEvents_links : (portSt (linked 2 1024) 15 = 2 ∧ (linked 2 1024).resetting 0 = false
      ∧ ((linked 2 0).modDev fun d => { d with flr := [{ vf := 1, since := 0 }] }).resetting 1 = true ∧ portSt (linked 3 0) 15 = 3 ∧ (chanOf (linked 2 0) 7).testBit 16 = true)
    ∧ ((recentRetries (linked 2 1023) 15).length < 1024 ∧ 1024 ≤ (recentRetries (linked 2 1024) 15).length)
    ∧ (1024 < (recentRetries (linked 2 1025) 15).length ∧ (recentRetries (linked 2 1024) 15).length ≤ 1024)
    ∧ (let cur := chanOf (linked 2 0) 7 / 2 ^ 48
      newerAttempt 0 cur = true ∧ newerAttempt 65535 cur = false ∧ cur = 65535 ∧ newerAttempt 32767 cur = false) := by decide +kernel

theorem witness_Resets : let c : CLine := { pa := 0x80, key := 0, data := 5, dirty := 128 }
    c.pa % 128 = 0 ∧ c.dirty.getLsbD 7 = true ∧ (withDev fun d => { d with mere := [c] }).dev.mere = [c]
    ∧ (mk {}).dev.mere = []
    ∧ (siteOf 9 1 = true ∧ siteOf 9 0 = false ∧ siteOf 10 0 = true ∧ tooHot 9 760 (mk {}) = true ∧ tooHot 9 759 (mk {}) = false)
    ∧ (let t := withDev fun d => { d with thr := [(1, 9)], base := 1600000 }
      mayRecover 1 t = true ∧ mayRecover 0 t = false ∧ mayRecover 1 (t.modDev fun d => { d with thrSites := [9] }) = false) := by
  decide +kernel

/-! The whole machine. -/

/-- The next step issues the placed instruction. -/
def ready1 (i : Instr) : State := match encode i with
  | some (sl, w) => placeProgram sl w.toNat State.reset
  | none => State.reset

theorem witness_StepRunsDecoded : let s := ready1 (.add { zeroC with sd := 5 })
    let early (s : State) : Option Nat := match performDue exec 0 (cycleState 0 s) with | .next u => earlyHold 0 u | _ => some 0
    let next (s : State) : Bool := s.inputs.isEmpty && (chooseEvent s).isNone && decide ((planned s).turnCore = 0) && runsNow 0 (planned s)
      && decide (((cycleState 0 s).coreAt 0).rewHold = 0) && (cycleState 0 s).dev.walks.isEmpty
      && (heldCtxs (cycleState 0 s) 0).all fun n => !mayWake ((cycleState 0 s).focusOn 0 n)
    (next s = true ∧ early s = none ∧ heldBefore 0 (cycleState 0 s) = false)
    ∧ (let t := s.modCoreAt 0 fun k => { k with acc := [oneWord (.sp 0 0x100) .load], claims := [bankOf 0x100] }
      next t = true ∧ early t = some 2)
    ∧ (({ s with inputs := [{ row := .coldReset }] } : State).inputs.map fun e => decide (e.row.slot? = none)) = [true]
    ∧ (let t := starting (.ldq zeroA)
      (dueStarts (t.coreAt 0)).map (fun x => x.1) = [0] ∧ firstHold (closeDue (dueStarts (t.coreAt 0)) (t.focusOn 0 0)) [] (dueStarts (t.coreAt 0)) = none
      ∧ turnLost (dueStarts (t.coreAt 0)) (t.focusOn 0 0) = false ∧ (t.coreAt 0).todo = []) := by decide +kernel

/-- Whatever the choice is, an event is chosen where enough retirements are in progress. -/
def busy : State := { dev := { State.reset.dev with l2Ret := List.replicate (Config.choice 0 + 1) (0, { kind := 2, src := 0, dst := 16, moved := 0, lines := 1024, spare := true }) } }

theorem witness_StepRunsDecoded_event : busy.inputs = [] ∧ ∃ e, chooseEvent busy = some e := by
  refine ⟨rfl, ?_⟩
  have h : Config.choice 0 < (enabledEvents busy).length := by
    have : (busy.dev.l2Ret.map fun e => ({ row := .bankLineMove, id := e.1, aux := 1 } : Event)).length
        ≤ (enabledEvents busy).length := by
      simp only [enabledEvents, firmwareEvents, List.length_append]
      omega
    have h0 : busy.dev.l2Ret.length = Config.choice 0 + 1 := by simp only [busy, List.length_replicate]
    rw [List.length_map] at this
    omega
  unfold chooseEvent
  split
  · rename_i h0
    simp [h0] at h
  · have : Config.choice (2 * busy.nfree) % ((enabledEvents busy).length + 1) < (enabledEvents busy).length :=
        lt_of_le_of_lt (Nat.mod_le _ _) h
    exact ⟨_, List.getElem?_eq_getElem this⟩

/-- A bundle of one slot at the PC, whose checks pass. -/
def issuesOne (sl : Slot) (i : Instr) (s : State) : Bool :=
  let h := Header.unpack (BitVec.ofNat 32 (oneSlotHeader sl))
  let u := s.focusOn 0 0
  let l := placedLaunch State.reset
  mayIssue u && decide (u.launch? = some l) && decide (u.ctx.pend = []) && decide (headerAt u l 0 = some h)
    && decide (Slot.all.filter h.present = [sl]) && decide (i.reservedBit = none)
    && (match codeBytes u l 4 sl.bytes with | some w => decide (decodeSlot sl (BitVec.ofNat 64 w) = some i) | none => false)
    && decide ((issueVerdict [{ slot := sl, op := i }] false (issueState h sl i u)).1 = .go)

theorem witness_StepRunsDecoded_issue : issuesOne .c (.add { zeroC with sd := 5 }) (ready1 (.add { zeroC with sd := 5 })) = true
    ∧ issuesOne .x (.tagclr zeroX) (ready1 (.tagclr zeroX)) = true ∧ issuesOne .a (.ldq zeroA) (ready1 (.ldq zeroA)) = true
    ∧ issuesOne .v (.vfadd zeroV) (ready1 (.vfadd zeroV)) = true ∧ issuesOne .m (.fmx zeroM) (ready1 (.fmx zeroM)) = true
    ∧ issuesOne .t (.txi zeroT) (ready1 (.txi zeroT)) = true ∧ isNop (.txi zeroT) = false := by decide +kernel

theorem witness_EncodeDecode : (Instr.txi zeroT).WellFormed = true ∧ (encode (.txi zeroT)).map Prod.fst = some .t
    ∧ decodeSlot .t 0xFFFFFF01 ≠ none ∧ (0xFFFFFF01#64).toNat < 2 ^ 32 := by decide +kernel

theorem witness_MemoriesKept : MemoriesOk State.reset := ⟨by decide +kernel, by decide +kernel, fun _ h => nomatch h⟩

theorem witness_EveryInstructionAnswers : ∀ w a d, Instr.bundleIssue ≠ .hostMemoryAccess w a d := fun _ _ _ h => nomatch h

end Sys2Proof.Tests
end

section
/-! The quiet operations: explicit NOPs, CHK, WAITALL, BLEND and BRET (R31, R139, R212, R361). -/

namespace Sys2Proof.Machine

/-! ### Verdicts that are not go -/

/-- Past the checks of R63, and with nothing corrupt to consume, the operation's own entry decides. -/
theorem verdictOf_eq_own {i : Instr} {own : Verdict} {s : State} (h5 : verdict5 i s = .go) (h6 : verdict6 i s = .go)
    (hc : corruptOf i s = none) : verdictOf i own s = own := by
  simp [verdictOf, otherVerdict, Verdict.orElse, h5, h6, hc]

/-- A gated operation whose own checks do not pass does what its verdict says. -/
theorem gated_act {i : Instr} {own v : Verdict} {eff : State → State} {s : State} (hp : s.foc.pre = false)
    (hv : verdictOf i own (checkedState i s) = v) (hgo : v ≠ .go) :
    gated i own eff s = .next (v.act (slotCode i) (checkedState i s)) := by
  rw [gated_eq, if_neg (by simp [hp]), hv]
  cases v
  case go => exact absurd rfl hgo
  all_goals rfl

/-! ### Operations without an effect of their own -/

/-- An operation that closes no segment and whose effect leaves the state is idle. -/
theorem idle_of_gated {i : Instr} (hx : ∀ s, exec i s = gated i (ownOf i s) (fun s => s) s) (hc : closing i = false) :
    Idle i := by
  intro s ha hs
  rw [accepted_engine (hx s) ha hs rfl, checkedState_open hc]

/-! ### CHK (R361) -/

/-- TRAPINFO of a CHK that traps (R361): RB, RA, REPIDX and the opcode. -/
def chkInfo (f : CSlot) (s : State) : Word :=
  BitVec.ofNat 64 ((if f.i = 1#1 then 0 else f.sb.toNat) * 2 ^ 37 + f.sa.toNat * 2 ^ 32 + s.foc.idx % 64 * 2 ^ 23
    + 0x64 * 2 ^ 8)

/-- CHK of operands that differ at width W decides for trap 0x0D. -/
theorem ownChk_of_ne {f : CSlot} {s : State} (hsure : Certain s) (hne : narrowA f s ≠ (sourceB f s).truncate _) :
    ownChk f s = .trap 0x0D (chkInfo f s) := by
  have hmod : (sourceA f s).toNat % 2 ^ widthBits f.w ≠ (sourceB f s).toNat % 2 ^ widthBits f.w := fun h =>
    hne (BitVec.eq_of_toNat_eq (by simpa [narrowA] using h))
  unfold ownChk
  rw [rdS_certain hsure.1, operandB_certain hsure.1]
  exact if_neg hmod

/-- CHK of operands that differ at width W traps before the issue, where nothing that R63 or R368 checks comes first. -/
theorem exec_chk_of_ne {f : CSlot} {s : State} (hp : s.foc.pre = false) (hsure : Certain s)
    (h5 : verdict5 (.chk f) s = .go) (h6 : verdict6 (.chk f) s = .go) (hc : corruptOf (.chk f) s = none)
    (hne : narrowA f s ≠ (sourceB f s).truncate _) :
    exec (.chk f) s = .next (takeTrap { cause := 0x0D, info := chkInfo f s, fslot := 0 } s) := by
  have hopen : checkedState (.chk f) s = s := checkedState_open rfl
  have hown : verdictOf (.chk f) (ownChk f s) (checkedState (.chk f) s) = ownChk f s := by
    rw [hopen, verdictOf_eq_own h5 h6 hc]
  have hact := gated_act (eff := fun s => s) hp (hown.trans (ownChk_of_ne hsure hne)) (by simp)
  rw [hopen] at hact
  exact hact

/-! ### The statement of O13 -/

/-- Settles O13: the effect of each is the identity or the change of `lent`, in the state its checks are made in, which only
WAITALL, a closing operation, makes another; a CHK whose operands differ traps by its own verdict. -/
theorem quietOperations : Obligations.QuietOperations := by
  unfold Obligations.QuietOperations
  refine ⟨?cnop, ?anop, ?vnop, ?mnop, ?tnop, ?xnop, ?chk, ?waitall, ?blend, ?bret, ?chkTraps⟩
  case cnop => exact fun f => idle_of_gated (fun _ => rfl) rfl
  case anop => exact fun f => idle_of_gated (fun _ => rfl) rfl
  case vnop => exact fun f => idle_of_gated (fun _ => rfl) rfl
  case mnop => exact fun f => idle_of_gated (fun _ => rfl) rfl
  case tnop => exact fun f => idle_of_gated (fun _ => rfl) rfl
  case xnop => exact fun f => idle_of_gated (fun _ => rfl) rfl
  case chk => exact fun f => idle_of_gated (fun _ => rfl) rfl
  case waitall =>
    intro f s ha
    have hclosed : checkedState (.waitall f) s = s.modCtx Ctx.commit := rfl
    rw [accepted_x (own := ownWaitall f s) (eff := fun s => s) rfl ha rfl rfl, hclosed]
  case blend =>
    intro f s ha
    rw [accepted_c (own := .go) rfl ha rfl rfl, checkedState_open rfl]
  case bret =>
    intro f s ha
    rw [accepted_c (own := .go) rfl ha rfl rfl, checkedState_open rfl]
  case chkTraps => exact fun f s hp hsure h5 h6 hc hne => exec_chk_of_ne hp hsure h5 h6 hc hne

end Sys2Proof.Machine
end

section
/-! The words of slot operations (R43, R46, R62): a word is made of its opcode and fields, and what it decodes to encodes to it. -/

namespace Sys2Proof.Laws

/-! ### Words from their fields -/

/-- Two neighbouring fields of a word, side by side, are the field that spans both. -/
theorem extract_append_extract {w : Nat} (x : BitVec w) (hi lo a b : Nat) (h : hi = lo + b) :
    x.extractLsb' hi a ++ x.extractLsb' lo b = x.extractLsb' lo (a + b) :=
  BitVec.extractLsb'_append_extractLsb'_eq_extractLsb' h

theorem CSlot_pack_unpack (w : BitVec 64) : (CSlot.unpack w).pack (w.extractLsb' 0 8) = w := by
  unfold CSlot.pack CSlot.unpack
  simp (disch := decide) only [extract_append_extract]
  exact BitVec.extractLsb'_eq_self

theorem ASlot_pack_unpack (w : BitVec 64) : (ASlot.unpack w).pack (w.extractLsb' 0 8) = w := by
  unfold ASlot.pack ASlot.unpack
  simp (disch := decide) only [extract_append_extract]
  exact BitVec.extractLsb'_eq_self

theorem VSlot_pack_unpack (w : BitVec 64) : (VSlot.unpack w).pack (w.extractLsb' 0 8) = w := by
  unfold VSlot.pack VSlot.unpack
  simp (disch := decide) only [extract_append_extract]
  exact BitVec.extractLsb'_eq_self

theorem MSlot_pack_unpack (w : BitVec 64) : (MSlot.unpack w).pack (w.extractLsb' 0 8) = w := by
  unfold MSlot.pack MSlot.unpack
  simp (disch := decide) only [extract_append_extract]
  exact BitVec.extractLsb'_eq_self

theorem TSlot_pack_unpack (w : BitVec 32) : (TSlot.unpack w).pack (w.extractLsb' 0 8) = w := by
  unfold TSlot.pack TSlot.unpack
  simp (disch := decide) only [extract_append_extract]
  exact BitVec.extractLsb'_eq_self

theorem XSlot_pack_unpack (w : BitVec 64) : (XSlot.unpack w).pack (w.extractLsb' 0 8) = w := by
  unfold XSlot.pack XSlot.unpack
  simp (disch := decide) only [extract_append_extract]
  exact BitVec.extractLsb'_eq_self

theorem Header_pack_unpack (w : BitVec 32) : (Header.unpack w).pack = w := by
  unfold Header.pack Header.unpack
  simp (disch := decide) only [extract_append_extract]
  exact BitVec.extractLsb'_eq_self

theorem Header_unpack_pack (h : Header) : Header.unpack h.pack = h := by
  obtain ⟨rsv, rv, g, d, stall, rep, pres⟩ := h
  unfold Header.unpack Header.pack
  simp only [Header.mk.injEq]
  refine ⟨?_, ?_, ?_, ?_, ?_, ?_, ?_⟩ <;>
    (repeat refine (extract_high _ _ _ _ (by omega)).trans ?_) <;>
    first | (refine (extract_low _ _ _ _ (by omega)).trans ?_; simp) | simp

/-! ### What an opcode and fields encode -/

/-- Instruction `i` has the form its constructor names, and its word is `w` of slot `sl`. -/
def Encodes (i : Instr) (sl : Slot) (w : BitVec 64) : Prop := encode i = some (sl, w) ∧ i.formOk = true

theorem encodes_trap (f : CSlot) :
    Encodes (if f.fn.getLsbD 0 then .trapSys f else .trap f) .c (f.pack 0x62#8) := by
  by_cases h : f.fn.getLsbD 0 = true
  · rw [if_pos h]; exact ⟨rfl, h⟩
  · rw [if_neg h]; exact ⟨rfl, by simpa [Instr.formOk] using h⟩

theorem encodes_htag (f : VSlot) :
    Encodes (if f.aux.getLsbD 11 then .htagRead f else .htagSet f) .v (f.pack 0x53#8) := by
  by_cases h : f.aux.getLsbD 11 = true
  · rw [if_pos h]; exact ⟨rfl, h⟩
  · rw [if_neg h]; exact ⟨rfl, by simpa [Instr.formOk] using h⟩

theorem encodes_fmx (f : MSlot) : Encodes (if f.h = 1#1 then .fmxHaar f else .fmx f) .m (f.pack 0x04#8) := by
  by_cases h : f.h = 1#1
  · rw [if_pos h]; exact ⟨rfl, by simp [Instr.formOk, h]⟩
  · rw [if_neg h]; exact ⟨rfl, by simp [Instr.formOk, (BitVec.eq_zero_or_eq_one f.h).resolve_right h]⟩

/-- FCLR's four rows (R207): AUX tells them apart. -/
theorem encodes_fclr {f : MSlot} {i : Instr} (h : operationM 0x0A f = some i) : Encodes i .m (f.pack 0x0A#8) := by
  have hrest : ∀ a : BitVec 4, ¬a.toNat = 2 ∧ ¬a.toNat = 3 ∧ ¬a.toNat = 4 ∧ ¬a.toNat = 5 ∧ ¬a.toNat = 6 ∧ ¬a.toNat = 7 →
      a = 0#4 ∨ a = 1#4 ∨ a.getLsbD 3 = true := by decide
  simp only [operationM] at h
  split at h
  case h_1 ha => cases h; exact ⟨rfl, by simp [Instr.formOk, BitVec.eq_of_toNat_eq (y := 2#4) ha]⟩
  case h_2 ha => cases h; exact ⟨rfl, by simp [Instr.formOk, BitVec.eq_of_toNat_eq (y := 3#4) ha]⟩
  case h_7 h2 h3 h4 h5 h6 h7 =>
    cases h
    exact ⟨rfl, by simpa [Instr.formOk] using hrest f.aux ⟨h2, h3, h4, h5, h6, h7⟩⟩
  all_goals
    rename_i ha
    cases h
    exact ⟨rfl, by simp [Instr.formOk, ha]⟩

theorem encodes_operationC {n : Nat} {f : CSlot} {i : Instr} (h : operationC n f = some i) :
    Encodes i .c (f.pack (BitVec.ofNat 8 n)) := by
  unfold operationC at h
  split at h
  case h_53 => cases h; exact encodes_trap f
  all_goals cases h
  all_goals exact ⟨rfl, rfl⟩

theorem encodes_operationA {n : Nat} {f : ASlot} {i : Instr} (h : operationA n f = some i) :
    Encodes i .a (f.pack (BitVec.ofNat 8 n)) := by
  unfold operationA at h
  split at h
  all_goals cases h
  all_goals exact ⟨rfl, rfl⟩

theorem encodes_operationV {n : Nat} {f : VSlot} {i : Instr} (h : operationV n f = some i) :
    Encodes i .v (f.pack (BitVec.ofNat 8 n)) := by
  unfold operationV at h
  split at h
  case h_55 => cases h; exact encodes_htag f
  all_goals cases h
  all_goals exact ⟨rfl, rfl⟩

theorem encodes_operationM {n : Nat} {f : MSlot} {i : Instr} (h : operationM n f = some i) :
    Encodes i .m (f.pack (BitVec.ofNat 8 n)) := by
  unfold operationM at h
  split at h
  case h_5 => cases h; exact encodes_fmx f
  case h_11 => exact encodes_fclr h
  all_goals cases h
  all_goals exact ⟨rfl, rfl⟩

theorem encodes_operationT {n : Nat} {f : TSlot} {i : Instr} (h : operationT n f = some i) :
    Encodes i .t ((f.pack (BitVec.ofNat 8 n)).setWidth 64) := by
  unfold operationT at h
  split at h
  all_goals cases h
  all_goals exact ⟨rfl, rfl⟩

theorem encodes_operationX {n : Nat} {f : XSlot} {i : Instr} (h : operationX n f = some i) :
    Encodes i .x (f.pack (BitVec.ofNat 8 n)) := by
  unfold operationX at h
  split at h
  all_goals cases h
  all_goals exact ⟨rfl, rfl⟩

/-! ### Round trips -/

/-- What a word decodes to encodes to that word, and has the form its constructor names; of the T slot's word the low 32 bits
count. -/
theorem encodes_decodeSlot {sl : Slot} {w : BitVec 64} {i : Instr} (ht : sl = .t → w.toNat < 2 ^ 32)
    (h : decodeSlot sl w = some i) : Encodes i sl w := by
  cases sl
  case c =>
    have he := encodes_operationC (f := CSlot.unpack w) h
    rwa [BitVec.ofNat_toNat, BitVec.setWidth_eq, CSlot_pack_unpack] at he
  case a =>
    have he := encodes_operationA (f := ASlot.unpack w) h
    rwa [BitVec.ofNat_toNat, BitVec.setWidth_eq, ASlot_pack_unpack] at he
  case v =>
    have he := encodes_operationV (f := VSlot.unpack w) h
    rwa [BitVec.ofNat_toNat, BitVec.setWidth_eq, VSlot_pack_unpack] at he
  case m =>
    have he := encodes_operationM (f := MSlot.unpack w) h
    rwa [BitVec.ofNat_toNat, BitVec.setWidth_eq, MSlot_pack_unpack] at he
  case x =>
    have he := encodes_operationX (f := XSlot.unpack w) h
    rwa [BitVec.ofNat_toNat, BitVec.setWidth_eq, XSlot_pack_unpack] at he
  case t =>
    have hw : (w.setWidth 32).setWidth 64 = w := by
      have := ht rfl
      bv_omega
    have he := encodes_operationT (f := TSlot.unpack (w.setWidth 32)) h
    rwa [BitVec.ofNat_toNat, BitVec.setWidth_eq, TSlot_pack_unpack, hw] at he

/-- A word stands in the slot of its operation, and an event has no word. -/
theorem slot_encode (i : Instr) : (encode i).map Prod.fst = i.slot? := by cases i <;> rfl

/-- Every instruction's word decodes to it: its constructor's lemma says so. -/
theorem roundTrip : ∀ i, RoundTrip.Statement i
  | .cnop f => RoundTrip.cnop f | .endInst f => RoundTrip.endInst f | .add f => RoundTrip.add f
  | .sub f => RoundTrip.sub f | .mul f => RoundTrip.mul f | .mulh f => RoundTrip.mulh f | .mulhn f => RoundTrip.mulhn f
  | .div f => RoundTrip.div f | .divn f => RoundTrip.divn f | .rem f => RoundTrip.rem f | .remn f => RoundTrip.remn f
  | .and f => RoundTrip.and f | .or f => RoundTrip.or f | .xor f => RoundTrip.xor f | .andn f => RoundTrip.andn f
  | .shl f => RoundTrip.shl f | .shr f => RoundTrip.shr f | .sar f => RoundTrip.sar f | .rol f => RoundTrip.rol f
  | .min f => RoundTrip.min f | .max f => RoundTrip.max f | .minn f => RoundTrip.minn f | .maxn f => RoundTrip.maxn f
  | .clz f => RoundTrip.clz f | .ctz f => RoundTrip.ctz f | .popc f => RoundTrip.popc f | .seq f => RoundTrip.seq f
  | .slt f => RoundTrip.slt f | .sltn f => RoundTrip.sltn f | .sel f => RoundTrip.sel f | .li f => RoundTrip.li f
  | .lih f => RoundTrip.lih f | .lea f => RoundTrip.lea f | .popq f => RoundTrip.popq f | .br f => RoundTrip.br f
  | .beq f => RoundTrip.beq f | .bne f => RoundTrip.bne f | .blt f => RoundTrip.blt f | .bge f => RoundTrip.bge f
  | .bltn f => RoundTrip.bltn f | .bgen f => RoundTrip.bgen f | .bpany f => RoundTrip.bpany f
  | .bpall f => RoundTrip.bpall f | .call f => RoundTrip.call f | .ret f => RoundTrip.ret f
  | .jmpr f => RoundTrip.jmpr f | .loop f => RoundTrip.loop f | .lexit f => RoundTrip.lexit f
  | .spl f => RoundTrip.spl f | .fil f => RoundTrip.fil f | .mfs f => RoundTrip.mfs f | .mts f => RoundTrip.mts f
  | .trap f => RoundTrip.trap f | .trapSys f => RoundTrip.trapSys f | .eret f => RoundTrip.eret f
  | .chk f => RoundTrip.chk f | .blend f => RoundTrip.blend f | .bret f => RoundTrip.bret f
  | .anop f => RoundTrip.anop f | .ldq f => RoundTrip.ldq f | .ldqv f => RoundTrip.ldqv f | .ldqg f => RoundTrip.ldqg f
  | .ldqs f => RoundTrip.ldqs f | .sts f => RoundTrip.sts f | .stv f => RoundTrip.stv f | .stvp f => RoundTrip.stvp f
  | .stg f => RoundTrip.stg f | .ldf f => RoundTrip.ldf f | .ste f => RoundTrip.ste f | .setf f => RoundTrip.setf f
  | .sete f => RoundTrip.sete f | .tstf f => RoundTrip.tstf f | .tld f => RoundTrip.tld f | .tst f => RoundTrip.tst f
  | .xlt f => RoundTrip.xlt f | .hdrop f => RoundTrip.hdrop f | .hinfo f => RoundTrip.hinfo f
  | .hst f => RoundTrip.hst f | .hld f => RoundTrip.hld f | .amoadd f => RoundTrip.amoadd f
  | .amomin f => RoundTrip.amomin f | .amomax f => RoundTrip.amomax f | .amominn f => RoundTrip.amominn f
  | .amomaxn f => RoundTrip.amomaxn f | .amoand f => RoundTrip.amoand f | .amoor f => RoundTrip.amoor f
  | .amoxor f => RoundTrip.amoxor f | .amoswp f => RoundTrip.amoswp f | .amocas f => RoundTrip.amocas f
  | .amoincw f => RoundTrip.amoincw f | .amobfa f => RoundTrip.amobfa f | .amofadd f => RoundTrip.amofadd f
  | .ldacq f => RoundTrip.ldacq f | .strel f => RoundTrip.strel f | .pacq f => RoundTrip.pacq f
  | .drn f => RoundTrip.drn f | .barv f => RoundTrip.barv f | .bwait f => RoundTrip.bwait f
  | .fladd f => RoundTrip.fladd f | .flset f => RoundTrip.flset f | .flwait f => RoundTrip.flwait f
  | .vnop f => RoundTrip.vnop f | .vfadd f => RoundTrip.vfadd f | .vfsub f => RoundTrip.vfsub f
  | .vfmul f => RoundTrip.vfmul f | .vfma f => RoundTrip.vfma f | .vfms f => RoundTrip.vfms f
  | .vfnma f => RoundTrip.vfnma f | .vfmin f => RoundTrip.vfmin f | .vfmax f => RoundTrip.vfmax f
  | .vfabs f => RoundTrip.vfabs f | .vfneg f => RoundTrip.vfneg f | .vfcmp f => RoundTrip.vfcmp f
  | .vfspec f => RoundTrip.vfspec f | .vfclass f => RoundTrip.vfclass f | .viadd f => RoundTrip.viadd f
  | .visub f => RoundTrip.visub f | .vimul f => RoundTrip.vimul f | .vimad f => RoundTrip.vimad f
  | .viand f => RoundTrip.viand f | .vior f => RoundTrip.vior f | .vixor f => RoundTrip.vixor f
  | .vishl f => RoundTrip.vishl f | .vishr f => RoundTrip.vishr f | .visar f => RoundTrip.visar f
  | .vimin f => RoundTrip.vimin f | .vimax f => RoundTrip.vimax f | .vicmp f => RoundTrip.vicmp f
  | .vcvt f => RoundTrip.vcvt f | .vpack f => RoundTrip.vpack f | .vunpk f => RoundTrip.vunpk f
  | .vscacc f => RoundTrip.vscacc f | .vscal f => RoundTrip.vscal f | .vmov f => RoundTrip.vmov f
  | .vsel f => RoundTrip.vsel f | .vbcast f => RoundTrip.vbcast f | .vins f => RoundTrip.vins f
  | .vext f => RoundTrip.vext f | .vperm f => RoundTrip.vperm f | .vrot f => RoundTrip.vrot f
  | .viota f => RoundTrip.viota f | .vli f => RoundTrip.vli f | .vrsum f => RoundTrip.vrsum f
  | .vrmax f => RoundTrip.vrmax f | .vrmin f => RoundTrip.vrmin f | .pset f => RoundTrip.pset f
  | .pand f => RoundTrip.pand f | .por f => RoundTrip.por f | .pxor f => RoundTrip.pxor f | .pnot f => RoundTrip.pnot f
  | .pcnt f => RoundTrip.pcnt f | .pfirst f => RoundTrip.pfirst f | .hfwd f => RoundTrip.hfwd f
  | .hinv f => RoundTrip.hinv f | .hthr f => RoundTrip.hthr f | .htagSet f => RoundTrip.htagSet f
  | .htagRead f => RoundTrip.htagRead f | .hcmp f => RoundTrip.hcmp f | .splv f => RoundTrip.splv f
  | .filv f => RoundTrip.filv f | .vchk f => RoundTrip.vchk f | .mnop f => RoundTrip.mnop f
  | .fgrid f => RoundTrip.fgrid f | .fload f => RoundTrip.fload f | .fsel f => RoundTrip.fsel f
  | .fmx f => RoundTrip.fmx f | .fmxHaar f => RoundTrip.fmxHaar f | .fmxd f => RoundTrip.fmxd f
  | .fmxc f => RoundTrip.fmxc f | .fgout f => RoundTrip.fgout f | .fknot f => RoundTrip.fknot f
  | .foog f => RoundTrip.foog f | .fclrBuffer f => RoundTrip.fclrBuffer f | .fclrCounters f => RoundTrip.fclrCounters f
  | .fclrGrid f => RoundTrip.fclrGrid f | .fclrGrad f => RoundTrip.fclrGrad f | .frdc f => RoundTrip.frdc f
  | .tnop f => RoundTrip.tnop f | .txi f => RoundTrip.txi f | .txo f => RoundTrip.txo f | .txc f => RoundTrip.txc f
  | .xnop f => RoundTrip.xnop f | .copy f => RoundTrip.copy f | .copy2d f => RoundTrip.copy2d f
  | .copyt f => RoundTrip.copyt f | .waitany f => RoundTrip.waitany f | .waitall f => RoundTrip.waitall f
  | .ffrdy f => RoundTrip.ffrdy f | .tagclr f => RoundTrip.tagclr f | .xdt f => RoundTrip.xdt f
  | .xds f => RoundTrip.xds f | .xdq f => RoundTrip.xdq f | .launch f => RoundTrip.launch f
  | .lwait f => RoundTrip.lwait f | .defer f => RoundTrip.defer f | .defrun f => RoundTrip.defrun f
  | .pput f => RoundTrip.pput f | .pget f => RoundTrip.pget f | .grpbar f => RoundTrip.grpbar f
  | .evwait f => RoundTrip.evwait f | .evsig f => RoundTrip.evsig f | .mflush f => RoundTrip.mflush f
  | .cntrd f => RoundTrip.cntrd f | .pendingTrap cause info => RoundTrip.pendingTrap cause info
  | .functionLevelReset vf => RoundTrip.functionLevelReset vf
  | .functionResetTimeout vf => RoundTrip.functionResetTimeout vf
  | .shootDownCommand asid all wb va count => RoundTrip.shootDownCommand asid all wb va count
  | .addressSpaceDescriptorWrite index word => RoundTrip.addressSpaceDescriptorWrite index word
  | .keySlotDescriptorWrite index word => RoundTrip.keySlotDescriptorWrite index word
  | .keyPortWrite index word => RoundTrip.keyPortWrite index word
  | .keySlotUnload index => RoundTrip.keySlotUnload index
  | .bankStatusWrite index word => RoundTrip.bankStatusWrite index word
  | .retirementCommand index word => RoundTrip.retirementCommand index word
  | .collectiveChannelWrite index word => RoundTrip.collectiveChannelWrite index word
  | .functionLimitsWrite index word => RoundTrip.functionLimitsWrite index word
  | .hostQueueGrantWrite index word => RoundTrip.hostQueueGrantWrite index word
  | .flushCommand word => RoundTrip.flushCommand word
  | .registerWrite unit index word => RoundTrip.registerWrite unit index word
  | .qwcDoorbell queue count => RoundTrip.qwcDoorbell queue count | .qctlRst queue => RoundTrip.qctlRst queue
  | .hostMemoryAccess write addr data => RoundTrip.hostMemoryAccess write addr data
  | .linkFlitReceive port good => RoundTrip.linkFlitReceive port good
  | .linkPortFail port => RoundTrip.linkPortFail port
  | .collectivePacketReceive chan attempt data => RoundTrip.collectivePacketReceive chan attempt data
  | .abortTokenStart chan => RoundTrip.abortTokenStart chan
  | .abortTokenReceive chan attempt port => RoundTrip.abortTokenReceive chan attempt port
  | .serviceAnswer word => RoundTrip.serviceAnswer word | .throttle tower => RoundTrip.throttle tower
  | .clockRecoveryStep tower => RoundTrip.clockRecoveryStep tower
  | .criticalTemperature tower => RoundTrip.criticalTemperature tower
  | .tarnLinkTraining port st peer degr => RoundTrip.tarnLinkTraining port st peer degr
  | .recordPrioChange queue pos prio => RoundTrip.recordPrioChange queue pos prio
  | .errorNotConsumed line => RoundTrip.errorNotConsumed line | .bundleIssue => RoundTrip.bundleIssue
  | .operationStart => RoundTrip.operationStart | .resultLanding => RoundTrip.resultLanding
  | .loadDataFill => RoundTrip.loadDataFill | .bankService => RoundTrip.bankService
  | .accessPerform => RoundTrip.accessPerform | .releasePerform => RoundTrip.releasePerform
  | .waiterReady => RoundTrip.waiterReady | .contextSwitch => RoundTrip.contextSwitch
  | .freezeWatchdogExpiry => RoundTrip.freezeWatchdogExpiry | .heldEntryCommit => RoundTrip.heldEntryCommit
  | .arrayPushRow => RoundTrip.arrayPushRow | .floadBegin => RoundTrip.floadBegin
  | .floadComplete => RoundTrip.floadComplete | .codebookTableRead => RoundTrip.codebookTableRead
  | .fgridSlotWrite => RoundTrip.fgridSlotWrite | .txiRowWrite => RoundTrip.txiRowWrite
  | .copyChunk => RoundTrip.copyChunk | .copyComplete => RoundTrip.copyComplete
  | .mflushComplete => RoundTrip.mflushComplete | .logPromotion => RoundTrip.logPromotion
  | .l1WriteBack => RoundTrip.l1WriteBack | .pacqRequestArrival => RoundTrip.pacqRequestArrival
  | .pacqReply => RoundTrip.pacqReply | .drnComplete => RoundTrip.drnComplete
  | .heldServiceAnswer => RoundTrip.heldServiceAnswer | .flagOperationArrival => RoundTrip.flagOperationArrival
  | .eventSignalArrival => RoundTrip.eventSignalArrival | .jobDispatch => RoundTrip.jobDispatch
  | .blockDecode => RoundTrip.blockDecode | .chunkWrite => RoundTrip.chunkWrite | .jobComplete => RoundTrip.jobComplete
  | .jobSuspend => RoundTrip.jobSuspend | .xdtComplete => RoundTrip.xdtComplete
  | .launchEnqueue => RoundTrip.launchEnqueue | .launchSelection => RoundTrip.launchSelection
  | .instanceBind => RoundTrip.instanceBind | .preemption => RoundTrip.preemption
  | .contextSave => RoundTrip.contextSave | .contextResume => RoundTrip.contextResume
  | .rebalanceCheck => RoundTrip.rebalanceCheck | .deferralBatchStart => RoundTrip.deferralBatchStart
  | .stageInstanceEnd => RoundTrip.stageInstanceEnd | .launchComplete => RoundTrip.launchComplete
  | .completionWordWrite => RoundTrip.completionWordWrite | .launchWatchdogExpiry => RoundTrip.launchWatchdogExpiry
  | .launchReplay => RoundTrip.launchReplay | .shootDownAcknowledge => RoundTrip.shootDownAcknowledge
  | .pageWalk => RoundTrip.pageWalk | .bankLineMove => RoundTrip.bankLineMove
  | .flushCommandComplete => RoundTrip.flushCommandComplete | .queueEntryConsume => RoundTrip.queueEntryConsume
  | .hostCompletionTimeout => RoundTrip.hostCompletionTimeout | .firmwareTrapResume => RoundTrip.firmwareTrapResume
  | .firmwareTrapForward => RoundTrip.firmwareTrapForward | .firmwareSwapGo => RoundTrip.firmwareSwapGo
  | .firmwareSwapTimeout => RoundTrip.firmwareSwapTimeout | .wellheadRestart => RoundTrip.wellheadRestart
  | .coldReset => RoundTrip.coldReset | .warmReset => RoundTrip.warmReset | .hostCxlReset => RoundTrip.hostCxlReset
  | .jobResumption => RoundTrip.jobResumption

/-- Settles O58: one way by a lemma for each constructor, the other by the rows of each slot's opcode table, a word being packed
again from what was unpacked. -/
theorem encodeDecode : Obligations.EncodeDecode := by
  unfold Obligations.EncodeDecode
  exact ⟨fun i sl w hw he => roundTrip i hw sl w he, fun i sl w ht hd => encodes_decodeSlot ht hd, slot_encode,
    Header_unpack_pack, Header_pack_unpack⟩

/-- Settles O57: each word is evaluated by the decoder. -/
theorem decodeWords : Obligations.DecodeWords := by
  unfold Obligations.DecodeWords
  decide

end Sys2Proof.Laws
end

section
/-! Where the next issue is (R49, R77, R78). -/

namespace Sys2Proof.Machine

/-! ### The loop-end test of a level (R77) -/

theorem LoopReg.test_no {l : LoopReg} {pc : Nat} (h : l.endsAt pc = false) : l.test pc = (l, none) := by
  simp [LoopReg.test, h]

theorem LoopReg.test_round {l : LoopReg} {pc : Nat} (h : l.endsAt pc = true) (hn : l.count ≠ 1) :
    l.test pc = ({ l with count := l.count - 1 }, some (l.start.zeroExtend 64)) := by
  have hc : ¬l.count - 1#32 = 0#32 := fun hz => hn (by bv_omega)
  have ha : l.act = true := by
    simp only [LoopReg.endsAt, Bool.and_eq_true] at h
    exact h.1
  simp [LoopReg.test, LoopReg.count1, h, hc, ha]

theorem LoopReg.test_leave {l : LoopReg} {pc : Nat} (h : l.endsAt pc = true) (h1 : l.count = 1) :
    l.test pc = ({ l with count := 0, act := false }, none) := by
  simp [LoopReg.test, LoopReg.count1, h, h1]

/-- After a taken branch a level is active if it was and contains the target (R78). -/
theorem LoopReg.branch_eq (l : LoopReg) (x : Word) : l.branch x = { l with
    act := l.act && decide (l.start.toNat ≤ x.toNat) && decide (x.toNat ≤ l.start.toNat + l.len.toNat) } := by
  obtain ⟨start, len, act, count⟩ := l
  cases act
  case false => simp [LoopReg.branch]
  case true =>
    by_cases h : start.toNat ≤ x.toNat ∧ x.toNat ≤ start.toNat + len.toNat
    · simp [LoopReg.branch, LoopReg.endAt, h]
    · have ho : x.toNat < start.toNat ∨ start.toNat + len.toNat < x.toNat := by omega
      simp only [LoopReg.branch, LoopReg.endAt]
      rw [if_pos ⟨trivial, ho⟩]
      simpa using h

/-! ### The loop-end test of both levels -/

/-- lp1 goes round: lp0 is not tested. -/
theorem Arch.loopEnd_round1 {a : Arch} {fall t : Word} {l : LoopReg} (h : a.lp1.test a.pc.toNat = (l, some t)) :
    a.loopEnd fall = { a with lp1 := l, pc := t } := by simp [Arch.loopEnd, h]

/-- lp1 does not go round: lp0's test decides. -/
theorem Arch.loopEnd_test0 {a : Arch} {fall : Word} {l1 l0 : LoopReg} {t : Option Word}
    (h1 : a.lp1.test a.pc.toNat = (l1, none)) (h0 : a.lp0.test a.pc.toNat = (l0, t)) :
    a.loopEnd fall = { a with lp1 := l1, lp0 := l0, pc := t.getD fall } := by simp [Arch.loopEnd, h1, h0]

/-! ### The context advanced -/

theorem Ctx.advance_again {c : Ctx} {t : Nat} (hp : c.next ≠ .placed) (h : c.a.idx < c.brep) :
    c.advance t = { c with a := { c.a with idx := c.a.idx + 1 }, frm := t + 1, next := .seq } := by
  unfold Ctx.advance
  split
  · contradiction
  · rw [if_pos h]

/-- The last issue of a bundle executed: registers `a`, and issue 0 of the bundle at its PC comes next. -/
def Ctx.toNext (c : Ctx) (t : Nat) (a : Arch) : Ctx :=
  { c with a := { a with idx := 0, check := c.chkNext.getD a.check }, frm := t + 1, noStall := false, next := .seq, chkNext := none }

theorem Ctx.advance_branch {c : Ctx} {t : Nat} {x : Word} (hn : c.next = .branch x) (h : c.brep ≤ c.a.idx) :
    c.advance t = c.toNext t { c.a with pc := x, lp1 := c.a.lp1.branch x, lp0 := c.a.lp0.branch x } := by
  simp [Ctx.advance, Ctx.toNext, hn, Nat.not_lt.2 h]

theorem Ctx.advance_own {c : Ctx} {t : Nat} {x : Word} (hn : c.next = .own x) (h : c.brep ≤ c.a.idx) :
    c.advance t = c.toNext t { c.a with pc := x } := by
  simp [Ctx.advance, Ctx.toNext, hn, Nat.not_lt.2 h]

theorem Ctx.advance_seq {c : Ctx} {t : Nat} (hn : c.next = .seq) (h : c.brep ≤ c.a.idx) :
    c.advance t = c.toNext t (c.a.loopEnd (c.a.pc + BitVec.ofNat 64 c.blen)) := by
  simp [Ctx.advance, Ctx.toNext, hn, Nat.not_lt.2 h]

/-- Settles O6: what the context is after each kind of issue, with the loop-end test of each level round, left or not made. -/
theorem nextIssue : Obligations.NextIssue := by
  unfold Obligations.NextIssue
  intro c t
  refine ⟨?again, ?branch, ?own, ?round1, ?neither, ?leave1round0, ?leave1, ?both, ?lp0⟩
  case again =>
    intro hp h
    rw [Ctx.advance_again hp h]
    exact ⟨rfl, rfl⟩
  case branch =>
    intro x hn h
    rw [Ctx.advance_branch hn h]
    refine ⟨rfl, rfl, rfl, fun n => ?_⟩
    cases n
    · exact LoopReg.branch_eq _ _
    · exact LoopReg.branch_eq _ _
  case own =>
    intro x hn h
    rw [Ctx.advance_own hn h]
    exact ⟨rfl, rfl, rfl⟩
  case round1 =>
    intro hn h he hc
    rw [Ctx.advance_seq hn h, Arch.loopEnd_round1 (LoopReg.test_round he hc)]
    exact ⟨rfl, rfl, rfl⟩
  case neither =>
    intro hn h h1 h0
    rw [Ctx.advance_seq hn h, Arch.loopEnd_test0 (LoopReg.test_no h1) (LoopReg.test_no h0)]
    exact ⟨rfl, rfl, rfl⟩
  case leave1round0 =>
    intro hn h h1 hc1 h0 hc0
    rw [Ctx.advance_seq hn h, Arch.loopEnd_test0 (LoopReg.test_leave h1 hc1) (LoopReg.test_round h0 hc0)]
    exact ⟨rfl, rfl, rfl⟩
  case leave1 =>
    intro hn h h1 hc1 h0
    rw [Ctx.advance_seq hn h, Arch.loopEnd_test0 (LoopReg.test_leave h1 hc1) (LoopReg.test_no h0)]
    exact ⟨rfl, rfl, rfl⟩
  case both =>
    intro hn h h1 hc1 h0 hc0
    rw [Ctx.advance_seq hn h, Arch.loopEnd_test0 (LoopReg.test_leave h1 hc1) (LoopReg.test_leave h0 hc0)]
    exact ⟨rfl, rfl, rfl⟩
  case lp0 =>
    intro hn h h1 h0
    rw [Ctx.advance_seq hn h]
    by_cases hc : c.a.lp0.count = 1
    · rw [Arch.loopEnd_test0 (LoopReg.test_no h1) (LoopReg.test_leave h0 hc)]
      exact ⟨rfl, fun hne => absurd hc hne, fun _ => ⟨rfl, rfl⟩⟩
    · rw [Arch.loopEnd_test0 (LoopReg.test_no h1) (LoopReg.test_round h0 hc)]
      exact ⟨rfl, fun _ => ⟨rfl, rfl⟩, fun h => absurd h hc⟩

end Sys2Proof.Machine
end

section
/-! Taking a trap and returning from it (R343 to R354). -/

namespace Sys2Proof.Machine

/-! ### Fields of TRAPCAUSE (R345) -/

theorem b2n_le (b : Bool) : b2n b ≤ 1 := by cases b <;> decide

/-- TRAPCAUSE as a number: no field reaches the next one. -/
theorem causeWord_toNat (nsnap owed rep fslot code : Nat) (replay before defer fwd : Bool) :
    (causeWord nsnap owed rep fslot replay before defer fwd code).toNat =
      min nsnap 255 * 2 ^ 32 + owed % 32 * 2 ^ 27 + rep % 64 * 2 ^ 21 + fslot % 8 * 2 ^ 18
        + b2n replay * 2 ^ 17 + b2n before * 2 ^ 16 + b2n defer * 2 ^ 15 + b2n fwd * 2 ^ 14 + code % 256 := by
  have h1 := b2n_le replay
  have h2 := b2n_le before
  have h3 := b2n_le defer
  have h4 := b2n_le fwd
  have h5 : min nsnap 255 ≤ 255 := Nat.min_le_right _ _
  rw [causeWord, BitVec.toNat_ofNat]
  apply Nat.mod_eq_of_lt
  omega

theorem causeWord_owed (nsnap owed rep fslot code : Nat) (replay before defer fwd : Bool) :
    bits (causeWord nsnap owed rep fslot replay before defer fwd code).toNat 31 27 = owed % 32 := by
  have h1 := b2n_le replay
  have h2 := b2n_le before
  have h3 := b2n_le defer
  have h4 := b2n_le fwd
  rw [causeWord_toNat, bits]
  omega

theorem causeWord_rep (nsnap owed rep fslot code : Nat) (replay before defer fwd : Bool) :
    bits (causeWord nsnap owed rep fslot replay before defer fwd code).toNat 26 21 = rep % 64 := by
  have h1 := b2n_le replay
  have h2 := b2n_le before
  have h3 := b2n_le defer
  have h4 := b2n_le fwd
  rw [causeWord_toNat, bits]
  omega

theorem causeWord_replay (nsnap owed rep fslot code : Nat) (replay before defer fwd : Bool) :
    bit (causeWord nsnap owed rep fslot replay before defer fwd code).toNat 17 = replay := by
  have h2 := b2n_le before
  have h3 := b2n_le defer
  have h4 := b2n_le fwd
  rw [causeWord_toNat, bit, Nat.testBit_eq_decide_div_mod_eq]
  cases replay
  case false =>
    rw [decide_eq_false_iff_not]
    simp only [show b2n false = 0 from rfl]
    omega
  case true =>
    rw [decide_eq_true_iff]
    simp only [show b2n true = 1 from rfl]
    omega

/-! ### s28 to s31 of the two modes (R348) -/

/-- s28 to s31 come from the second table, the others from the first. -/
theorem get_withHandlerScalars (m hs : Map Word) (n : Nat) :
    (withHandlerScalars m hs).get n 0 = if 28 ≤ n ∧ n ≤ 31 then hs.get n 0 else m.get n 0 := by
  unfold withHandlerScalars
  simp only [List.foldl_cons, List.foldl_nil]
  by_cases h31 : n = 31
  · subst h31; simp
  rw [Map.get_set_ne _ _ _ _ _ h31]
  by_cases h30 : n = 30
  · subst h30; simp
  rw [Map.get_set_ne _ _ _ _ _ h30]
  by_cases h29 : n = 29
  · subst h29; simp
  rw [Map.get_set_ne _ _ _ _ _ h29]
  by_cases h28 : n = 28
  · subst h28; simp
  rw [Map.get_set_ne _ _ _ _ _ h28, if_neg (by omega)]

theorem get_handlerScalars (m : Map Word) {n : Nat} (h : 28 ≤ n) (h' : n ≤ 31) :
    (handlerScalars m).get n 0 = m.get n 0 := by
  have hn : n = 28 ∨ n = 29 ∨ n = 30 ∨ n = 31 := by omega
  rcases hn with rfl | rfl | rfl | rfl <;> rfl

/-- Two exchanges of s28 to s31 give back every scalar register. -/
theorem scalars_exchanged_twice (s hs : Map Word) (n : Nat) :
    (withHandlerScalars (withHandlerScalars s hs) (handlerScalars s)).get n 0 = s.get n 0 := by
  rw [get_withHandlerScalars]
  split
  next h => exact get_handlerScalars s h.1 h.2
  next h => rw [get_withHandlerScalars, if_neg h]

/-! ### The snapshot put back (R350, R353) -/

theorem result_placed {snap : List Snap} {r ord : Nat} {reg : RegId} {val : Payload} (e : Nat) (hm : Bool)
    (h : Snap.result r ord reg val ∈ snap) :
    ({ due := e + 1 + r, ord := ord, reg := reg, val := val, hm := hm } : Landing) ∈ placeFlight e hm snap :=
  List.mem_filterMap.2 ⟨_, h, rfl⟩

theorem start_placed {snap : List Snap} {r : Nat} {op : Start} (e : Nat) (replay hm : Bool) (h : Snap.start r op ∈ snap) :
    ({ op with due := e + 1 + r, hm := hm } : Start) ∈ placeStarts e replay hm snap :=
  List.mem_filterMap.2 ⟨_, h, rfl⟩

theorem replay_placed {snap : List Snap} {op : Start} (e : Nat) (hm : Bool) (h : Snap.replay op ∈ snap) :
    ({ op with due := e, hm := hm } : Start) ∈ placeStarts e true hm snap :=
  List.mem_filterMap.2 ⟨_, h, rfl⟩

theorem flight_in_snapshot {c : Ctx} {x : Landing} (b : Nat) (replay : List Start) (h : x ∈ c.flight) :
    Snap.result (x.due - b) x.ord x.reg x.val ∈ c.snapshot b replay := by
  unfold Ctx.snapshot
  simp only [List.mem_append, List.mem_map]
  exact .inl (.inl ⟨x, h, rfl⟩)

theorem start_in_snapshot {c : Ctx} {x : Start} (b : Nat) (replay : List Start) (h : x ∈ c.starts) :
    Snap.start (x.due - b) x ∈ c.snapshot b replay := by
  unfold Ctx.snapshot
  simp only [List.mem_append, List.mem_map]
  exact .inl (.inr ⟨x, h, rfl⟩)

/-! ### The return -/

/-- What a return from a handler that changed nothing makes of the context. -/
theorem returnFrom_enterHandler (c : Ctx) (q : TrapReq) (snap : List Snap) (fwd : Bool) (f e : Nat) (entry : Word) :
    (c.enterHandler q snap fwd f entry).returnFrom e =
      { c.enterHandler q snap fwd f entry with
        hmode := false, aside := none, hs := handlerScalars (withHandlerScalars c.a.s c.hs), snap := []
        flight := placeFlight e false snap, starts := placeStarts e (decide (q.replay ≠ [])) false snap
        answer := c.answer.filter fun x => x.1 = 1
        trapEnd := c.trapEnd, svc := c.svc, chkNext := c.chkNext, frm := e + 1 + q.owed % 32, noStall := true, next := .placed
        a := { c.a with idx := c.a.idx % 64, s := withHandlerScalars (withHandlerScalars c.a.s c.hs) (handlerScalars c.a.s) } } := by
  simp only [Ctx.enterHandler, Ctx.returnFrom, Ctx.place, causeWord_owed, causeWord_rep, causeWord_replay, List.nil_append]

/-- Settles O10: the return's fields, with s28 to s31 exchanged twice, TRAPCAUSE read back, and each entry of the snapshot among
what is put back. -/
theorem trapAndReturn : Obligations.TrapAndReturn := by
  unfold Obligations.TrapAndReturn
  intro c q snap fwd f e entry hidx t
  have ht : t = _ := returnFrom_enterHandler c q snap fwd f e entry
  rw [ht]
  refine ⟨?scalars, ?handlerScalars, rfl, ?idx, rfl, rfl, rfl, rfl, rfl, rfl, rfl, rfl, rfl, rfl, rfl, rfl, rfl, rfl, rfl, rfl,
    rfl, rfl, rfl, rfl, ?result, ?inFlight, ?start, ?replay⟩
  case scalars => exact fun n => congrArg (ite (n = 0) 0) (scalars_exchanged_twice c.a.s c.hs n)
  case handlerScalars =>
    intro n h28 h31
    exact (get_handlerScalars _ h28 h31).trans ((get_withHandlerScalars _ _ _).trans (if_pos ⟨h28, h31⟩))
  case idx => exact Nat.mod_eq_of_lt hidx
  case result => exact fun r ord reg val h => result_placed e false h
  case inFlight =>
    rintro b rfl
    exact ⟨fun x hx => result_placed e false (flight_in_snapshot b q.replay hx),
      fun x hx => start_placed e _ false (start_in_snapshot b q.replay hx)⟩
  case start => exact fun r op h => start_placed e _ false h
  case replay =>
    intro hr op h
    have := replay_placed e false h
    rwa [← decide_eq_true hr] at this

end Sys2Proof.Machine
end

section
/-! Slot operations whose checks do not pass, and start faults (R63, R216, R343, R368). -/

namespace Sys2Proof.Machine

/-- Every slot operation is gated, with its own entry's verdict. -/
theorem exec_gated {i : Instr} (h : i.slot?.isSome = true) (s : State) : ∃ eff, exec i s = gated i (ownOf i s) eff s := by
  cases i <;> cases h <;> exact ⟨_, rfl⟩

/-- An engine operation that pops more entries than the queue holds faults in its start cycle (R216). -/
theorem perform_emptyQueue {i : Instr} {eff : State → State} {s : State} (hc : i.slot? ≠ some .c) (hx : i.slot? ≠ some .x)
    (h : s.ctx.a.queue.length < popCount i s) : perform i eff s = startFault i 6 (opInfo i 0 0 0 s) s := by
  rw [perform, if_neg (by simp [hc, hx]), if_pos h]

/-- With no open segment nothing rewinds (R369). -/
theorem canRewind_noSegment {s : State} (h : s.ctx.seg = none) : canRewind s = false := by rw [canRewind, h]

/-- An engine operation that consumes a corrupt value, with no segment to rewind, faults in its start cycle (R368). -/
theorem perform_corrupt {i : Instr} {eff : State → State} {s : State} {src pa : Nat} (hc : i.slot? ≠ some .c)
    (hx : i.slot? ≠ some .x) (hq : popCount i s ≤ s.ctx.a.queue.length) (h : corruptOf i s = some (src, pa))
    (hseg : s.ctx.seg = none) :
    perform i eff s = startFault i 0x14 (info14 pa (slotCode i) i.opcode.toNat src s) s := by
  simp [perform, hc, hx, Nat.not_lt.2 hq, h, canRewind_noSegment hseg]

/-- Settles O12: every slot operation passes the gate, which carries out its verdict, or performs it. -/
theorem checksAndStartFaults : Obligations.ChecksAndStartFaults := by
  unfold Obligations.ChecksAndStartFaults
  intro i s hslot s'
  obtain ⟨eff, hx⟩ := exec_gated hslot s
  rw [hx]
  refine ⟨fun hp hgo => gated_act hp rfl hgo, fun hc hx ha => ?_⟩
  rw [gated_accepted ha rfl]
  exact ⟨fun h => congrArg _ (perform_emptyQueue hc hx h), fun src pa hq h hseg => congrArg _ (perform_corrupt hc hx hq h hseg)⟩

end Sys2Proof.Machine
end

section
/-! The cycle from which a context that firmware resumes issues (R285, R352, R353). -/

namespace Sys2Proof.Machine

/-- A context put back as by an ERET in cycle `e` issues OWED cycles after the next one (R353). -/
theorem firmwareReturn_frm (c : Ctx) (e owed : Nat) (ans : Option (Nat × Word)) :
    (c.firmwareReturn e owed ans).frm = e + 1 + owed := by
  unfold Ctx.firmwareReturn
  split
  · rfl
  · split <;> rfl

/-- Context 0 is READY, firmware having answered its service request with 5 in s1, and its core chooses in cycle 0. -/
def answeredChoice : State :=
  { cores := [(0, { pickAt := some 0, ctxs := [(0, { st := .ready, resume := some (0, some (1, 5)) })] })] }

/-- The core chooses context 0, which is put back as by an ERET in cycle 1, from which it would issue. -/
theorem answeredChoice_frm {t : State} (h : exec .contextSwitch answeredChoice = .next t) : (t.core.ctxAt 0).frm = 2 := by
  cases h
  exact (firmwareReturn_frm (answeredChoice.core.ctxAt 0) 1 0 (some (1, 5)) :)

/-- Refutes O44: of the context that the core chooses in cycle t, put back for firmware's answer, it has the answer land and the
resume issue take place OWED cycles after t + 1; the model places both as an ERET in t + 1 does, a cycle later. In
`answeredChoice` t is 0 and OWED 0, and the context issues from cycle 2. -/
theorem not_cycleEvents : ¬ Obligations.CycleEvents := by
  unfold Obligations.CycleEvents
  intro h
  obtain ⟨-, -, -, -, -, hchoice, -⟩ := h answeredChoice
  have hfirst : ∀ i, 1 ≤ i → i < 1 →
      (answeredChoice.core.ctxAt ((answeredChoice.core.last + i) % 4)).st ≠ .ready := by omega
  obtain ⟨t, ht, -, -, -, -, -, hresumed⟩ := hchoice 0 1 rfl (Nat.zero_le _) rfl (by omega) (by omega) hfirst rfl
  obtain ⟨l, -, -, -, -, hfrm⟩ := hresumed 0 1 5 rfl (by omega)
  have hlate : (t.core.ctxAt 0).frm = 2 := answeredChoice_frm ht
  have hearly : (t.core.ctxAt 0).frm = 1 := hfrm
  omega

end Sys2Proof.Machine
end

section
/-! What a step runs (R48, R49, R56): the events, and the parts of a core's cycle before its issue. -/

namespace Sys2Proof.Machine

/-! ### Sequences -/

theorem next_andThen (s : State) (g : State → Result) : andThen (.next s) g = g s := rfl

theorem andThen_assoc (r : Result) (g h : State → Result) : andThen (andThen r g) h = andThen r fun s => andThen (g s) h := by
  cases r <;> rfl

/-- One after another changes nothing where none of them changes anything. -/
theorem runEach_idle {α : Type} {g : α → State → Result} {l : List α} {s : State} (h : ∀ x ∈ l, g x s = .next s) :
    runEach g l s = .next s := by
  induction l with
  | nil => rfl
  | cons x r ih =>
    rw [runEach, h x (by simp)]
    exact ih fun y hy => h y (by simp [hy])

/-! ### The cycle before its issue -/

/-- Where no waiter is to wake, none ages (R286). -/
theorem ageWaiters_none {c : Nat} {s : State} (h : ∀ n ∈ heldCtxs s c, mayWake (s.focusOn c n) = false) :
    ageWaiters exec c s = .next s :=
  runEach_idle fun n hn => by simp [h n hn]

/-- Where no translation ends with a hit, no page walk ends (R328). -/
theorem endHits_none {c : Nat} {s : State} (h : ∀ w ∈ s.dev.walks, w.core = c → w.hit s = false) :
    endHits exec c s = .next s := by
  have hf : (s.dev.walks.filter fun w => decide (w.core = c) && w.hit s) = [] := by
    rw [List.filter_eq_nil_iff]
    intro w hw
    by_cases hc : w.core = c
    · simp [h w hw hc]
    · simp [hc]
  rw [endHits, hf]
  rfl

/-- An event from outside that is no slot operation happens (R48). -/
theorem step_input {s : State} {e : Event} {r : List Event} (hin : s.inputs = e :: r) (hslot : e.row.slot? = none) :
    step s = exec e.row (e.focus { s with inputs := r, nfree := s.nfree + 1 }) := by
  unfold step stepWith
  split
  next e' r' h =>
    rw [hin] at h
    cases h
    simp [hslot]
  next h => simp [hin] at h

/-- An event of the device happens. -/
theorem step_event {s : State} {e : Event} (hin : s.inputs = []) (hev : chooseEvent s = some e) :
    step s = exec e.row (e.focus { s with nfree := s.nfree + 1 }) := by
  unfold step stepWith
  split
  next h => simp [hin] at h
  next => simp only [hev]

/-- The next core's turn comes, with the losing layers of its round settled. -/
theorem step_turn {s : State} (hin : s.inputs = []) (hev : chooseEvent s = none) :
    step s = coreCycle exec (planned s).turnCore (planned s) := by
  unfold step stepWith
  split
  next h => simp [hin] at h
  next => simp only [hev]; rfl

/-- The next step is a cycle of core `c` past its waiters, walks and rewinds. -/
theorem step_cycle {c : Nat} {s : State} (h : CycleNext c s) : step s = liveCycle exec c (cycleState c s) := by
  obtain ⟨hin, hev, hturn, hruns, hrew, hwake, hhit⟩ := h
  have hcyc : lockAges c (countLag c (planned s)) = cycleState c s := rfl
  rw [step_turn hin hev, hturn, coreCycle]
  simp only [hruns, Bool.not_true, Bool.false_eq_true, if_false, hcyc]
  rw [ageWaiters_none hwake, next_andThen, endHits_none hhit, next_andThen, if_neg (by simp [hrew])]

/-- With nothing due to start, no operation issued before holds the core. -/
theorem heldBefore_none {c : Nat} {s : State} (h : dueStarts (s.coreAt c) = []) : heldBefore c s = false := by
  have hn : dueNow (s.focusOn c 0).core = [] := by
    have hd : dueStarts (s.focusOn c 0).core = [] := h
    simp [dueNow, hd]
  simp [heldBefore, hn]

/-- A cycle that no early hold stands in the way of. -/
theorem liveCycle_free {c : Nat} {s u : State} (hp : performDue exec c s = .next u) (he : earlyHold c u = none) :
    liveCycle exec c s = andThen (landAll exec c (u.modCoreAt c fun k => { k with hold := none })) fun s =>
      andThen (arrayBegin exec c s) fun s => andThen (issueOrHold exec c s) (restOfCycle c) := by
  rw [liveCycle, hp, next_andThen]
  simp only [he]
  rfl

/-- A cycle that an early hold stands in the way of. -/
theorem liveCycle_held {c k : Nat} {s u : State} (hp : performDue exec c s = .next u) (he : earlyHold c u = some k) :
    liveCycle exec c s = heldPhase exec c (u.modCoreAt c fun x => { x with hold := some k, holdIss := false }) := by
  rw [liveCycle, hp, next_andThen]
  simp only [he]

end Sys2Proof.Machine
end

section
/-! The issue of a bundle of one operation, and what the operation finds (R43 to R49, R53, R56, R63). -/

namespace Sys2Proof.Machine

/-! ### What stays as the issue or the start found it -/

/-- What context `n` of core `c` has in registers and in flight, its place in program order, its core's SRAM, clock and
operations to run, and the device are in `t` as in `s`. -/
structure AsFound (c n : Nat) (s t : State) : Prop where
  arch : ((t.coreAt c).ctxAt n).a = ((s.coreAt c).ctxAt n).a
  flight : ((t.coreAt c).ctxAt n).flight = ((s.coreAt c).ctxAt n).flight
  seq : ((t.coreAt c).ctxAt n).seq = ((s.coreAt c).ctxAt n).seq
  ending : ((t.coreAt c).ctxAt n).ending = ((s.coreAt c).ctxAt n).ending
  sp : (t.coreAt c).sp = (s.coreAt c).sp
  todo : (t.coreAt c).todo = (s.coreAt c).todo
  cyc : (t.coreAt c).cyc = (s.coreAt c).cyc
  dev : t.dev = s.dev

/-- A change of a context that leaves its registers, results in flight and place in program order. -/
structure KeepsIssue (g : Ctx → Ctx) : Prop where
  arch : ∀ x, (g x).a = x.a
  flight : ∀ x, (g x).flight = x.flight
  seq : ∀ x, (g x).seq = x.seq
  ending : ∀ x, (g x).ending = x.ending

theorem AsFound.refl (c n : Nat) (s : State) : AsFound c n s s := ⟨rfl, rfl, rfl, rfl, rfl, rfl, rfl, rfl⟩

@[simp] theorem State.coreAt_modCtxAt_self (s : State) (c n : Nat) (g : Ctx → Ctx) :
    (s.modCtxAt c n g).coreAt c = { s.coreAt c with ctxs := (s.coreAt c).ctxs.set n (g ((s.coreAt c).ctxAt n)) } := by
  simp [State.modCtxAt]

theorem AsFound.modCtxAt {c n : Nat} {s t : State} (h : AsFound c n s t) {g : Ctx → Ctx} (hg : KeepsIssue g) :
    AsFound c n s (t.modCtxAt c n g) where
  arch := by simp [hg.arch, h.arch]
  flight := by simp [hg.flight, h.flight]
  seq := by simp [hg.seq, h.seq]
  ending := by simp [hg.ending, h.ending]
  sp := by simp [h.sp]
  todo := by simp [h.todo]
  cyc := by simp [h.cyc]
  dev := by simp [h.dev]

theorem keepsIssue_commit : KeepsIssue Ctx.commit := by
  constructor <;> intro x <;> unfold Ctx.commit <;> split <;> rfl

theorem keepsIssue_openSegment (o : Nat) : KeepsIssue fun c => { c.commit with
    seg := some { o := o, ck := { c.commit.a with idx := 0 }, flight := c.commit.flight, starts := c.commit.starts
                  ordo := 8 * c.commit.seq } } where
  arch := keepsIssue_commit.arch
  flight := keepsIssue_commit.flight
  seq := keepsIssue_commit.seq
  ending := keepsIssue_commit.ending

/-! ### A bundle of one slot -/

/-- The context in focus issues its bundle: it is not to be saved and no trap is pending (R49). -/
theorem exec_bundleIssue {s : State} {l : Launch} (hmay : mayIssue s = true) (hl : s.launch? = some l)
    (hsave : s.ctx.saveFor = none) (hpend : s.ctx.pend = []) : exec .bundleIssue s = .next (issueBundle l s) := by
  have hnone : (if s.core.holdIss then none else nextPend s.ctx) = none := by
    split
    · rfl
    · simp [nextPend, hpend]
  show execBundleIssue s = _
  simp [execBundleIssue, hmay, hl, hsave, hnone]

/-- The bundle as fetched (R43 to R45). -/
theorem fetchBundle_one {l : Launch} {h : Header} {sl : Slot} {i : Instr} {s : State} (hb : BundleIs l h sl i s) :
    ∃ w, fetchBundle s l s.ctx.a.pc = .ok { hdr := h, words := [(sl, w)] } ∧ decodeSlot sl w = some i := by
  obtain ⟨halign, hhdr, -, -, hslots, -, w, hcode, hdec⟩ := hb
  refine ⟨_, ?_, hdec⟩
  simp [fetchBundle, halign, hhdr, hslots, slotWords, hcode]

/-- Checks 1 to 4 pass (R63). -/
theorem encodedChecks_one {h : Header} {sl : Slot} {w : BitVec 64} {i : Instr} (idx : Nat) (hrsv : h.rsv = 0)
    (hrep : h.rep = 0 ∨ needsRep0 i = false) (hdec : decodeSlot sl w = some i) (hres : i.reservedBit = none) :
    encodedChecks { hdr := h, words := [(sl, w)] } idx = .ok [(sl, i)] := by
  have hrepCheck : repCheck { hdr := h, words := [(sl, w)] } idx = none := by
    have hno : ¬(h.rep ≠ 0 ∧ needsRep0 i = true) := by rcases hrep with h | h <;> simp [h]
    by_cases hsl : sl = .c
    · subst hsl
      have hfound : ([(Slot.c, w)].find? fun e => decide (e.1 = .c)).bind (fun e => decodeSlot .c e.2) = some i := hdec
      simp only [repCheck, hfound]
      rw [if_neg hno]
      split <;> rfl
    · simp [repCheck, hsl]
  have hall : decodeAll idx [(sl, w)] = .ok [(sl, i)] := by simp [decodeAll, hdec, Except.map]
  simp [encodedChecks, hrsv, hrepCheck, hall, reservedCheck, hres]

/-- Where no sticky operation stands, the one slot's operation is all that the issue executes (R53). -/
theorem entriesOf_one {a : Arch} {sl : Slot} {i : Instr} {e : Entry} (hst : ∀ sl, (a.sticky sl).op = none)
    (he : entryOf a sl (some i) = some e) : entriesOf a [(sl, i)] = [e] := by
  have hno : ∀ y, entryOf a y none = none := fun y => by cases y <;> simp [entryOf, hst]
  cases sl <;> simp [entriesOf, Slot.all, slotOf, hno, he]

/-- Whether the issue in focus is its bundle's first, which the re-issue after a rewind is not (R362). -/
def firstIssue (s : State) : Bool :=
  decide (s.ctx.a.idx = 0) && !(match s.ctx.seg with | some g => g.again | none => false)

/-- The length and REP of the bundle in progress known. -/
def measured (h : Header) (s : State) : State := s.modCtx fun c => { c with blen := h.length, brep := h.rep.toNat }

theorem keepsIssue_measured (h : Header) : KeepsIssue fun c => { c with blen := h.length, brep := h.rep.toNat } :=
  ⟨fun _ => rfl, fun _ => rfl, fun _ => rfl, fun _ => rfl⟩

theorem issueState_eq (h : Header) (sl : Slot) (i : Instr) (s : State) : issueState h sl i s =
    if closesFirst h (firstIssue (measured h s)) [{ slot := sl, op := i }] then (measured h s).modCtx Ctx.commit
    else measured h s := rfl

/-- The state of the checks has what the operation reads as the issue found it. -/
theorem issueState_asFound (h : Header) (sl : Slot) (i : Instr) (s : State) :
    AsFound s.foc.core s.foc.ctx s (issueState h sl i s) ∧ (issueState h sl i s).foc = s.foc := by
  have hlen : AsFound s.foc.core s.foc.ctx s (measured h s) :=
    (AsFound.refl _ _ s).modCtxAt (keepsIssue_measured h)
  rw [issueState_eq]
  split
  · exact ⟨hlen.modCtxAt keepsIssue_commit, rfl⟩
  · exact ⟨hlen, rfl⟩

/-- An issue whose verdict is go executes, with a segment opened first where its bundle opens one (R362). -/
theorem issueOps_go {l : Launch} {h : Header} {ops : List (Slot × Instr)} {es : List Entry} {s w : State}
    (hes : entriesOf s.ctx.a ops = es) (hw : (if closesFirst h (firstIssue s) es then s.modCtx Ctx.commit else s) = w)
    (hgo : (issueVerdict es (firstIssue s && l.rc.segprot && decide (h.rv = 1#1) && rewindNear w.foc.core w.lid w) w).1 = .go) :
    issueOps l h ops s = executeIssue ops es
      (if firstIssue s && l.rc.segprot && decide (h.g = 1#1) then openSegment w.cyc w else w) := by
  subst hes hw
  unfold issueOps
  dsimp only
  split
  next => rfl
  next v slot hne hv =>
    have hvgo : v = .go := (congrArg Prod.fst hv).symm.trans hgo
    exact (hne hvgo).elim

/-- An operation whose checks pass executes. -/
theorem issueOps_one (l : Launch) {h : Header} {sl : Slot} {i : Instr} {s : State} (hp : IssuePasses h sl i s)
    (hes : entriesOf s.ctx.a [(sl, i)] = [{ slot := sl, op := i }]) :
    ∃ opens : Bool, issueOps l h [(sl, i)] (measured h s) = executeIssue [(sl, i)] [{ slot := sl, op := i }]
      (if opens then openSegment (issueState h sl i s).cyc (issueState h sl i s) else issueState h sl i s) := by
  obtain ⟨hgo, hnear⟩ := hp
  have hmeet : ∀ b : Bool, (b && decide (h.rv = 1#1)
      && rewindNear (issueState h sl i s).foc.core (issueState h sl i s).lid (issueState h sl i s)) = false := by
    intro b
    by_cases hrv : h.rv = 1#1
    · simp [hnear hrv]
    · simp [hrv]
  have ha : (measured h s).ctx.a = s.ctx.a := by simp [measured]
  exact ⟨_, issueOps_go (ha ▸ hes) rfl (by rw [hmeet]; exact hgo)⟩

/-- The bundle's one operation executes, in a state that has what it reads as the issue found it (R49, R63). -/
theorem issueBundle_one {l : Launch} {h : Header} {sl : Slot} {i : Instr} {s : State} (hb : BundleIs l h sl i s)
    (hp : IssuePasses h sl i s) (hes : entriesOf s.ctx.a [(sl, i)] = [{ slot := sl, op := i }]) :
    ∃ w, AsFound s.foc.core s.foc.ctx s w ∧ w.foc = s.foc
      ∧ issueBundle l s = executeIssue [(sl, i)] [{ slot := sl, op := i }] w := by
  obtain ⟨word, hfetch, hdec⟩ := fetchBundle_one hb
  obtain ⟨-, -, hrsv, hrep, -, hres, -⟩ := hb
  obtain ⟨opens, hops⟩ := issueOps_one l hp hes
  obtain ⟨hstate, hfoc⟩ := issueState_asFound h sl i s
  have heq : issueBundle l s = issueOps l h [(sl, i)] (measured h s) := by
    rw [issueBundle, hfetch]
    simp only [encodedChecks_one _ hrsv hrep hdec hres]
    rfl
  cases opens
  case false => exact ⟨issueState h sl i s, hstate, hfoc, heq.trans hops⟩
  case true =>
    have hopen := hstate.modCtxAt (keepsIssue_openSegment (issueState h sl i s).cyc)
    rw [← hfoc] at hopen
    exact ⟨openSegment (issueState h sl i s).cyc (issueState h sl i s), hfoc ▸ hopen, hfoc, heq.trans hops⟩

end Sys2Proof.Machine
end

section
/-! What the issue of one operation leads to: a C or X operation acts in its cycle, an engine's waits to start (R49, R53, R56). -/

namespace Sys2Proof.Machine

/-! ### Executing an issue of one operation -/

/-- After the operations of an issue are on their way: the stickies have taken it, and its C and X operations are to act. -/
def issued (ops : List (Slot × Instr)) (s : State) : State :=
  (s.modCtx fun c => { c with a := c.a.takeSticky ops, seq := c.seq + 1
                              seg := c.seg.map fun g => { g with again := false } }).modCore fun k =>
    { k with midIss := true }

theorem executeIssue_now {sl : Slot} (h : sl = .c ∨ sl = .x) (ops : List (Slot × Instr)) (i : Instr) (s : State) :
    executeIssue ops [{ slot := sl, op := i }] s = issued ops (addNow { slot := sl, op := i } s) := by
  rcases h with rfl | rfl <;> rfl

theorem executeIssue_engine {sl : Slot} (hc : sl ≠ .c) (hx : sl ≠ .x) (ops : List (Slot × Instr)) (i : Instr) (s : State) :
    executeIssue ops [{ slot := sl, op := i }] s = issued ops (addStart { slot := sl, op := i } s) := by
  cases sl
  case c => exact absurd rfl hc
  case x => exact absurd rfl hx
  all_goals rfl

@[simp] theorem State.ctx_modCore (s : State) (g : Core → Core) : (s.modCore g).ctx = (g s.core).ctxAt s.foc.ctx := by
  simp [State.ctx]

@[simp] theorem issued_foc (ops : List (Slot × Instr)) (s : State) : (issued ops s).foc = s.foc := rfl
@[simp] theorem issued_dev (ops : List (Slot × Instr)) (s : State) : (issued ops s).dev = s.dev := rfl
@[simp] theorem issued_midIss (ops : List (Slot × Instr)) (s : State) : (issued ops s).core.midIss = true := by simp [issued]
@[simp] theorem issued_todo (ops : List (Slot × Instr)) (s : State) : (issued ops s).core.todo = s.core.todo := by simp [issued]
@[simp] theorem issued_sp (ops : List (Slot × Instr)) (s : State) : (issued ops s).core.sp = s.core.sp := by simp [issued]

theorem issued_ctx (ops : List (Slot × Instr)) (s : State) : (issued ops s).ctx = { s.ctx with
    a := s.ctx.a.takeSticky ops, seq := s.ctx.seq + 1, seg := s.ctx.seg.map fun g => { g with again := false } } := by
  simp [issued, Core.ctxAt]

/-- The operation of slot `sl` of the issue in focus, as it is to run in cycle `due`. -/
def startOfSlot (sl : Slot) (i : Instr) (due : Nat) (bad : Bool) (s : State) : Start :=
  { due := due, ord := ordOf s.ctx sl, op := i, k := 0, idx := s.ctx.a.idx, hm := s.ctx.hmode, bad := bad }

theorem addNow_eq (sl : Slot) (i : Instr) (s : State) : addNow { slot := sl, op := i } s =
    s.modCore fun k => { k with todo := k.todo ++ [(s.foc.ctx, startOfSlot sl i s.cyc false s)] } := rfl

/-- An engine operation is among the starts of its context, SDLY cycles from the issue (R56). -/
theorem addStart_eq (sl : Slot) (i : Instr) (s : State) : ∃ (bad : Bool) (mark : Start → Start),
    addStart { slot := sl, op := i } s = s.modCtx fun c => { c with
      starts := c.starts.map mark ++ [startOfSlot sl i (s.cyc + i.sdly) bad s] } := ⟨_, _, rfl⟩

/-- A slot without an operation leaves a sticky slot that has none as it stands (R53). -/
theorem stickyAfter_none {a : Arch} {sl : Slot} (h : (a.sticky sl).op = none) : stickyAfter a sl none = a.sticky sl := by
  simp [stickyAfter, h]

@[simp] theorem Arch.setSticky_sticky (a : Arch) (sl : Slot) : a.setSticky (a.sticky sl) sl = a := by cases sl <;> rfl

/-- A C or X operation leaves stickies that are none as they stand. -/
theorem takeSticky_now {a : Arch} {sl : Slot} (i : Instr) (hsl : sl = .c ∨ sl = .x) (h : ∀ sl, (a.sticky sl).op = none) :
    a.takeSticky [(sl, i)] = a := by
  rcases hsl with rfl | rfl <;>
    simp [Arch.takeSticky, slotOf, stickyAfter_none, h]

/-! ### The issue phase -/

@[simp] theorem andThen_next (r : Result) : andThen r Host.Outcome.next = r := by cases r <;> rfl

theorem runAll_nil {c : Nat} {s : State} (h : (s.coreAt c).todo = []) : runAll exec c s = .next s := by
  rw [runAll, h]
  rfl

/-- The one operation that is to run runs. -/
theorem runAll_one {c : Nat} {s : State} {x : Nat × Start} (h : (s.coreAt c).todo = [x]) :
    runAll exec c s = exec x.2.op (focusOp c x (s.modCoreAt c fun k => { k with todo := [] })) := by
  have hlast : runTodo exec c 0 = Host.Outcome.next := funext fun _ => rfl
  rw [runAll, h]
  simp only [List.length_singleton, runTodo, h]
  rw [← hlast]
  exact andThen_next _

/-- The context whose turn to issue it is makes its issue, and then its C and X operations act (R49). -/
theorem issuePhase_issued {c n : Nat} {s t : State} (hmay : mayIssue (s.focusOn c n) = true)
    (hx : exec .bundleIssue (s.focusOn c n) = .next t) (ht : (t.coreAt c).midIss = true) :
    issuePhase exec c s = andThen (runAll exec c t) fun s => .next (finishIssue (s.focusOn c n)) := by
  simp only [mayIssue, Bool.and_eq_true, decide_eq_true_eq, Bool.not_eq_true'] at hmay
  obtain ⟨⟨⟨hiss, -⟩, hmid⟩, -⟩ := hmay
  have hiss' : (s.coreAt c).issuing = some n := hiss
  have hmid' : (s.coreAt c).midIss = false := hmid
  simp [issuePhase, hiss', hmid', hx, andThen, ht]

@[simp] theorem advance_starts (c : Ctx) (t : Nat) : (c.advance t).starts = c.starts := by
  unfold Ctx.advance
  split
  · rfl
  · split <;> rfl

@[simp] theorem advance_ending (c : Ctx) (t : Nat) : (c.advance t).ending = c.ending := by
  unfold Ctx.advance
  split
  · rfl
  · split <;> rfl

/-- The end of an issue without END keeps the starts of its context. -/
theorem finishIssue_starts {s : State} (h : s.ctx.ending = false) : (finishIssue s).ctx.starts = s.ctx.starts
    ∧ (finishIssue s).foc = s.foc := by
  obtain ⟨d, hd⟩ := fetchTouch_eq s
  have hctx : (advanceHere (fetchTouch s)).ctx = s.ctx.advance s.cyc := by
    rw [hd, advanceHere, State.ctx_modCtx]
    rfl
  have hno : (advanceHere (fetchTouch s)).ctx.ending = false := by rw [hctx, advance_ending, h]
  have hfin : finishIssue s = advanceHere (fetchTouch s) := by simp [finishIssue, hno]
  rw [hfin]
  exact ⟨by rw [hctx, advance_starts], by rw [hd]; rfl⟩

end Sys2Proof.Machine
end

section
/-! A cycle's issue of one operation, and the start of one (R49, R56): the state that the operation is executed in. -/

namespace Sys2Proof.Machine

/-- The context whose turn to issue it is executes its bundle's one operation. -/
theorem bundleIssue_one {c n : Nat} {l : Launch} {h : Header} {sl : Slot} {i : Instr} {s : State} (hi : IssuesNow c n l s)
    (hb : BundleIs l h sl i (s.focusOn c n)) (hp : IssuePasses h sl i (s.focusOn c n))
    (he : entryOf (s.focusOn c n).ctx.a sl (some i) = some { slot := sl, op := i }) :
    ∃ w, AsFound c n (s.focusOn c n) w ∧ w.foc = { core := c, ctx := n }
      ∧ exec .bundleIssue (s.focusOn c n) = .next (executeIssue [(sl, i)] [{ slot := sl, op := i }] w) := by
  obtain ⟨hmay, hl, hsave, hpend, -, -, hst⟩ := hi
  obtain ⟨w, hfound, hfoc, hissue⟩ := issueBundle_one hb hp (entriesOf_one hst he)
  exact ⟨w, hfound, hfoc, by rw [exec_bundleIssue hmay hl hsave hpend, hissue]⟩

/-- The core and the context in focus, by their numbers. -/
theorem focus_reads {c n : Nat} {s : State} (h : s.foc.core = c ∧ s.foc.ctx = n) :
    s.coreAt c = s.core ∧ (s.coreAt c).ctxAt n = s.ctx := by
  obtain ⟨rfl, rfl⟩ := h
  exact ⟨rfl, rfl⟩

/-- What the context in focus finds, in the state of the issue. -/
theorem AsFound.here {c n : Nat} {s t : State} (h : AsFound c n (s.focusOn c n) t) (hf : t.foc = { core := c, ctx := n }) :
    t.ctx.a = (s.focusOn c n).ctx.a ∧ t.ctx.flight = (s.focusOn c n).ctx.flight ∧ t.ctx.seq = (s.focusOn c n).ctx.seq
      ∧ t.ctx.ending = (s.focusOn c n).ctx.ending ∧ t.core.sp = (s.focusOn c n).core.sp
      ∧ t.core.todo = (s.focusOn c n).core.todo ∧ t.cyc = (s.focusOn c n).cyc ∧ t.dev = s.dev := by
  obtain ⟨hcore, hctx⟩ := focus_reads (s := t) (c := c) (n := n) (by simp [hf])
  obtain ⟨ha, hfl, hseq, hend, hsp, htodo, hcyc, hdev⟩ := h
  rw [hctx] at ha hfl hseq hend
  rw [hcore] at hsp htodo hcyc
  exact ⟨ha, hfl, hseq, hend, hsp, htodo, hcyc, hdev⟩

/-- The state in which the operation `x`, taken from the `todo` of core `c`, is executed. -/
def running (c : Nat) (x : Nat × Start) (s : State) : State := focusOp c x (s.modCoreAt c fun k => { k with todo := [] })

theorem running_ctx (c : Nat) (x : Nat × Start) (s : State) : (running c x s).ctx = (s.coreAt c).ctxAt x.1 := by
  have hcore : (running c x s).coreAt c = { s.coreAt c with todo := [] } := State.coreAt_modCoreAt_self s c fun k => { k with todo := [] }
  have hctx : (running c x s).ctx = ((running c x s).coreAt c).ctxAt x.1 := rfl
  rw [hctx, hcore]
  rfl

theorem running_sp (c : Nat) (x : Nat × Start) (s : State) : (running c x s).core.sp = (s.coreAt c).sp := by
  have hcore : (running c x s).core = { s.coreAt c with todo := [] } := State.coreAt_modCoreAt_self s c fun k => { k with todo := [] }
  rw [hcore]

/-- The issue of a C or X operation, where nothing else is to run and no sticky operation stands. -/
theorem executeIssue_now_facts {sl : Slot} {i : Instr} {s : State} (hnow : sl = .c ∨ sl = .x)
    (hst : ∀ sl, (s.ctx.a.sticky sl).op = none) (hidle : s.core.todo = []) :
    let t := executeIssue [(sl, i)] [{ slot := sl, op := i }] s
    t.foc = s.foc ∧ t.core.midIss = true ∧ t.core.todo = [(s.foc.ctx, startOfSlot sl i s.cyc false s)]
      ∧ t.ctx.a = s.ctx.a ∧ t.ctx.flight = s.ctx.flight ∧ t.core.sp = s.core.sp ∧ t.dev = s.dev := by
  intro t
  have ht : t = issued [(sl, i)] (addNow { slot := sl, op := i } s) := executeIssue_now hnow _ _ _
  rw [ht, addNow_eq]
  refine ⟨rfl, issued_midIss _ _, ?todo, ?arch, ?flight, by simp, by simp⟩
  case todo => simp [hidle]
  case arch =>
    rw [issued_ctx]
    simpa [State.ctx, Core.ctxAt] using takeSticky_now i hnow hst
  case flight =>
    rw [issued_ctx]
    simp [State.ctx, Core.ctxAt]

/-- A C or X operation is executed with what the issue found, and then the context is advanced. -/
theorem issuePhase_now {c n : Nat} {l : Launch} {h : Header} {sl : Slot} {i : Instr} {s : State} (hnow : sl = .c ∨ sl = .x)
    (hi : IssuesNow c n l s) (hb : BundleIs l h sl i (s.focusOn c n)) (hp : IssuePasses h sl i (s.focusOn c n)) :
    ∃ F : State, issuePhase exec c s = andThen (exec i F) (fun t => .next (finishIssue (t.focusOn c n)))
      ∧ F.foc = { core := c, ctx := n, idx := (s.focusOn c n).ctx.a.idx, ord := 8 * (s.focusOn c n).ctx.seq + sl.code, pre := true }
      ∧ F.ctx.a = (s.focusOn c n).ctx.a ∧ F.ctx.flight = (s.focusOn c n).ctx.flight
      ∧ F.core.sp = (s.focusOn c n).core.sp ∧ F.dev = s.dev := by
  have he : entryOf (s.focusOn c n).ctx.a sl (some i) = some { slot := sl, op := i } := by rcases hnow with rfl | rfl <;> rfl
  obtain ⟨w, hfound, hfoc, hx⟩ := bundleIssue_one hi hb hp he
  obtain ⟨ha, hfl, hseq, -, hsp, htodo, -, hdev⟩ := hfound.here hfoc
  obtain ⟨hmay, -, -, -, hidle, -, hst⟩ := hi
  obtain ⟨htfoc, hmid, hone, hta, htfl, htsp, htdev⟩ :=
    executeIssue_now_facts (i := i) hnow (by rw [ha]; exact hst) (htodo.trans hidle)
  generalize executeIssue [(sl, i)] [{ slot := sl, op := i }] w = t at *
  obtain ⟨htcore, htctx⟩ := focus_reads (s := t) (c := c) (n := n) (by simp [htfoc, hfoc])
  have hwctx : w.foc.ctx = n := by rw [hfoc]
  rw [← htcore, hwctx] at hone
  refine ⟨running c (n, startOfSlot sl i w.cyc false w) t, ?phase, ?foc, ?arch, ?flight, ?sp, htdev.trans hdev⟩
  case phase =>
    rw [issuePhase_issued hmay hx (by rw [htcore, hmid]), runAll_one hone]
    rfl
  case foc =>
    rw [← ha, ← hseq]
    rfl
  case arch => rw [running_ctx, htctx, hta, ha]
  case flight => rw [running_ctx, htctx, htfl, hfl]
  case sp => rw [running_sp, htcore, htsp, hsp]

/-- An engine operation that is no NOP is among the starts, SDLY cycles from the issue, when the issue is over. -/
theorem issuePhase_engine {c n : Nat} {l : Launch} {h : Header} {sl : Slot} {i : Instr} {s : State} (hc : sl ≠ .c)
    (hx : sl ≠ .x) (hnop : isNop i = false) (hidx : (s.focusOn c n).ctx.a.idx = 0) (hi : IssuesNow c n l s)
    (hb : BundleIs l h sl i (s.focusOn c n)) (hp : IssuePasses h sl i (s.focusOn c n)) :
    ∃ t : State, issuePhase exec c s = .next t ∧ ∃ x ∈ ((t.coreAt c).ctxAt n).starts, x.op = i ∧ x.k = 0 ∧ x.idx = 0
      ∧ x.due = (s.focusOn c n).cyc + i.sdly ∧ x.ord = 8 * (s.focusOn c n).ctx.seq + sl.code := by
  have he : entryOf (s.focusOn c n).ctx.a sl (some i) = some { slot := sl, op := i } := by
    cases sl
    case c => exact absurd rfl hc
    case x => exact absurd rfl hx
    all_goals simp [entryOf, hnop, hidx]
  obtain ⟨w, hfound, hfoc, hexec⟩ := bundleIssue_one hi hb hp he
  obtain ⟨ha, -, hseq, hend, -, htodo, hcyc, -⟩ := hfound.here hfoc
  obtain ⟨hmay, -, -, -, hidle, hnoend, -⟩ := hi
  obtain ⟨bad, mark, hstart⟩ := addStart_eq sl i w
  rw [executeIssue_engine hc hx, hstart] at hexec
  generalize ht : issued [(sl, i)] _ = t at hexec
  have htfoc : t.foc = { core := c, ctx := n } := by rw [← ht, ← hfoc]; rfl
  obtain ⟨htcore, htctx⟩ := focus_reads (s := t) (c := c) (n := n) (by simp [htfoc])
  have hmid : (t.coreAt c).midIss = true := by rw [htcore, ← ht, issued_midIss]
  have htidle : (t.coreAt c).todo = [] := by
    rw [htcore, ← ht, issued_todo]
    simpa using htodo.trans hidle
  have htstarts : t.ctx.starts = w.ctx.starts.map mark ++ [startOfSlot sl i (w.cyc + i.sdly) bad w] := by
    rw [← ht, issued_ctx, State.ctx_modCtx]
  have htend : t.ctx.ending = false := by
    rw [← ht, issued_ctx, State.ctx_modCtx]
    exact hend.trans hnoend
  have hfocus : t.focusOn c n = t := by rw [State.focusOn, ← htfoc]
  obtain ⟨hstarts, hfin⟩ := finishIssue_starts htend
  have hread : ((finishIssue t).coreAt c).ctxAt n = (finishIssue t).ctx := (focus_reads (by simp [hfin, htfoc])).2
  refine ⟨finishIssue t, ?_, startOfSlot sl i (w.cyc + i.sdly) bad w, ?_, rfl, rfl, (congrArg Arch.idx ha).trans hidx, ?_, ?_⟩
  · rw [issuePhase_issued hmay hexec hmid, runAll_nil htidle, next_andThen, hfocus]
  · rw [hread, hstarts, htstarts]
    simp
  · rw [← hcyc]
    rfl
  · rw [← hseq]
    rfl

end Sys2Proof.Machine
end

section
/-! The start of one operation, and the statement on what a step runs (R48, R49, R56, R287). -/

namespace Sys2Proof.Machine

/-! ### Tables changed entry by entry -/

theorem Map.find?_map {α : Type} (m : Map α) (g : Nat → α → α) (k : Nat) :
    Map.find? (m.map fun e => (e.1, g e.1 e.2)) k = (m.find? k).map (g k) := by
  induction m with
  | nil => rfl
  | cons e r ih =>
    obtain ⟨j, x⟩ := e
    by_cases h : j = k
    · subst h; simp [Map.find?]
    · simp [Map.find?, h, ih]

/-- Each entry of a table changed by `g`, which leaves the default value. -/
theorem Map.get_map {α : Type} (m : Map α) (g : Nat → α → α) (k : Nat) (d : α) (hd : g k d = d) :
    Map.get (m.map fun e => (e.1, g e.1 e.2)) k d = g k (m.get k d) := by
  rw [Map.get, Map.find?_map, Map.get]
  cases m.find? k
  · exact hd.symm
  · rfl

/-! ### The operations that start -/

theorem AsFound.trans {c n : Nat} {s t u : State} (h : AsFound c n s t) (h' : AsFound c n t u) : AsFound c n s u :=
  ⟨h'.arch.trans h.arch, h'.flight.trans h.flight, h'.seq.trans h.seq, h'.ending.trans h.ending, h'.sp.trans h.sp,
    h'.todo.trans h.todo, h'.cyc.trans h.cyc, h'.dev.trans h.dev⟩

/-- Granted slots of the vertical bus change nothing that an operation finds (R97). -/
theorem grantBus_asFound (i : Instr) {c : Nat} (n : Nat) {s : State} (hc : s.foc.core = c) :
    AsFound c n s (grantBus i s) := by
  subst hc
  unfold grantBus
  dsimp only
  split
  · exact AsFound.refl _ _ s
  · constructor <;> simp [State.modCore, Core.ctxAt]

/-- A segment closed before the start changes nothing that the operation finds (R362). -/
theorem closeDue_one {c n : Nat} (e : Start) {s : State} (hc : s.foc.core = c) :
    AsFound c n s (closeDue [(n, e)] s) ∧ (closeDue [(n, e)] s).foc = s.foc := by
  subst hc
  by_cases h : closing e.op = true
  · have hone : closeDue [(n, e)] s = s.modCtxAt s.foc.core n Ctx.commit := by simp [closeDue, h]
    rw [hone]
    exact ⟨(AsFound.refl _ _ s).modCtxAt keepsIssue_commit, rfl⟩
  · have hnone : closeDue [(n, e)] s = s := by simp [closeDue, h]
    rw [hnone]
    exact ⟨AsFound.refl _ _ s, rfl⟩

/-- An operation due to start is of an engine slot. -/
theorem slotCode_of_due {k : Core} {x : Nat × Start} (h : x ∈ dueStarts k) : slotCode x.2.op ∈ [1, 2, 3, 4] := by
  simp only [dueStarts, List.mem_flatMap, List.mem_filter, decide_eq_true_eq] at h
  obtain ⟨m, hm, -, hx⟩ := h
  rwa [hx]

theorem dueNow_one {k : Core} {x : Nat × Start} (h : dueStarts k = [x]) : dueNow k = [x] := by
  by_cases hm : slotCode x.2.op = 3 <;> simp [dueNow, h, hm]

theorem startOrder_one {x : Nat × Start} (h : slotCode x.2.op ∈ [1, 2, 3, 4]) : startOrder [x] = [x] := by
  simp only [List.mem_cons, List.not_mem_nil, or_false] at h
  rcases h with h | h | h | h <;> simp [startOrder, h]

/-- Nothing holds the operations that are due: they start. -/
theorem exec_operationStart_free {s : State} (hold : firstHold (closeDue (dueNow s.core) s) [] (dueNow s.core) = none)
    (hturn : turnLost (dueNow s.core) s = false) :
    exec .operationStart s = .next (startNow (dueNow s.core) (closeDue (dueNow s.core) s)) := by
  show execOperationStart s = _
  simp [execOperationStart, hold, hturn]

/-- A core once the operations of `l` start: they wait in `todo`, and are starts no more. -/
def Core.taking (l : List (Nat × Start)) (k : Core) : Core := { k with
  todo := k.todo ++ startOrder l
  ctxs := k.ctxs.map fun e => (e.1, { e.2 with starts := e.2.starts.filter fun x => !l.contains (e.1, x) }) }

theorem Core.taking_ctxAt (l : List (Nat × Start)) (k : Core) (n : Nat) : (k.taking l).ctxAt n =
    { k.ctxAt n with starts := (k.ctxAt n).starts.filter fun x => !l.contains (n, x) } :=
  Map.get_map k.ctxs (fun n c => { c with starts := c.starts.filter fun x => !l.contains (n, x) }) n {} rfl

/-- The one operation that starts waits in `todo`, and finds what it found before. -/
theorem startNow_one {c n : Nat} {e : Start} {s : State} (hc : s.foc.core = c) (he : slotCode e.op ∈ [1, 2, 3, 4]) :
    let t := startNow [(n, e)] s
    (t.coreAt c).todo = (s.coreAt c).todo ++ [(n, e)] ∧ ((t.coreAt c).ctxAt n).a = ((s.coreAt c).ctxAt n).a
      ∧ ((t.coreAt c).ctxAt n).flight = ((s.coreAt c).ctxAt n).flight ∧ (t.coreAt c).sp = (s.coreAt c).sp
      ∧ t.dev = s.dev := by
  intro t
  subst hc
  have hbus : AsFound s.foc.core n (atStart n e false s) (grantBus e.op (atStart n e false s)) := grantBus_asFound _ n rfl
  have hcore : t.coreAt s.foc.core = ((grantBus e.op (atStart n e false s)).coreAt s.foc.core).taking [(n, e)] :=
    State.coreAt_modCoreAt_self { grantBus e.op (atStart n e false s) with foc := s.foc } s.foc.core (Core.taking [(n, e)])
  rw [hcore, Core.taking_ctxAt]
  refine ⟨?_, hbus.arch, hbus.flight, hbus.sp, hbus.dev⟩
  rw [Core.taking, startOrder_one (x := (n, e)) he, hbus.todo]
  rfl

/-- The starts of a cycle in which one operation is due that nothing holds: it is executed with what it finds. -/
theorem startPhase_one {c n : Nat} {e : Start} {s : State} (hdue : dueStarts (s.coreAt c) = [(n, e)])
    (hold : firstHold (closeDue [(n, e)] (s.focusOn c 0)) [] [(n, e)] = none)
    (hturn : turnLost [(n, e)] (s.focusOn c 0) = false) (hidle : (s.coreAt c).todo = []) :
    ∃ F : State, startPhase exec c s = andThen (exec e.op F) (afterStarts c)
      ∧ F.foc = { core := c, ctx := n, k := e.k, idx := e.idx, ord := e.ord, bad := e.bad, pre := true }
      ∧ F.ctx.a = (s.focusOn c n).ctx.a ∧ F.ctx.flight = (s.focusOn c n).ctx.flight ∧ F.core.sp = (s.coreAt c).sp
      ∧ F.dev = s.dev := by
  have hslot : slotCode e.op ∈ [1, 2, 3, 4] := slotCode_of_due (x := (n, e)) (by rw [hdue]; simp)
  have hnow : dueNow (s.focusOn c 0).core = [(n, e)] := dueNow_one hdue
  have hstart := exec_operationStart_free (s := s.focusOn c 0) (by rw [hnow]; exact hold) (by rw [hnow]; exact hturn)
  rw [hnow] at hstart
  obtain ⟨hclosed, hfoc⟩ := closeDue_one (c := c) (n := n) e (s := s.focusOn c 0) rfl
  obtain ⟨htodo, ha, hfl, hsp, hdev⟩ := startNow_one (n := n) (s := closeDue [(n, e)] (s.focusOn c 0)) (c := c) (by rw [hfoc]; rfl) hslot
  generalize startNow [(n, e)] (closeDue [(n, e)] (s.focusOn c 0)) = t at *
  have hone : (t.coreAt c).todo = [(n, e)] := by
    rw [htodo, hclosed.todo]
    exact congrArg (· ++ [(n, e)]) hidle
  refine ⟨running c (n, e) t, ?phase, rfl, ?arch, ?flight, ?sp, hdev.trans hclosed.dev⟩
  case phase =>
    rw [startPhase, startRounds, hstart, next_andThen, andThen_assoc, runAll_one hone]
    rfl
  case arch => rw [running_ctx, ha, hclosed.arch]; rfl
  case flight => rw [running_ctx, hfl, hclosed.flight]; rfl
  case sp => rw [running_sp, hsp, hclosed.sp]; rfl

/-! ### The statement of O56 -/

/-- Settles O56: the events by the choice that the step makes, a cycle's parts in their order, and the one operation of an issue
or a start by the state in which it is executed. -/
theorem stepRunsDecoded : Obligations.StepRunsDecoded := by
  unfold Obligations.StepRunsDecoded
  intro s
  refine ⟨?input, ?event, ?free, ?idle, ?held, ?issue, ?start⟩
  case input => exact fun e r hin hslot => step_input hin hslot
  case event => exact fun e hin hev => step_event hin hev
  case free =>
    intro c u hnext hp he
    rw [step_cycle hnext, liveCycle_free hp he]
    rfl
  case idle => exact fun c h => heldBefore_none h
  case held =>
    intro c u k hnext hp he
    rw [step_cycle hnext, liveCycle_held hp he]
  case issue =>
    intro c n l h sl i u hi hb hp
    exact ⟨fun hnow => issuePhase_now hnow hi hb hp, fun hc hx hnop hidx => issuePhase_engine hc hx hnop hidx hi hb hp⟩
  case start => exact fun c n e hdue hold hturn hidle => startPhase_one hdue hold hturn hidle

end Sys2Proof.Machine
end

section
/-! What a slot operation whose checks pass answers, in the state that it meets (R63, R362). -/

namespace Sys2Proof.Machine

/-- A change of the context in focus is what it makes of that context. -/
theorem State.modCtx_congr {s : State} {g g' : Ctx → Ctx} (h : g s.ctx = g' s.ctx) : s.modCtx g = s.modCtx g' := by
  have hc : g ((s.coreAt s.foc.core).ctxAt s.foc.ctx) = g' ((s.coreAt s.foc.core).ctxAt s.foc.ctx) := h
  simp only [State.modCtx, State.modCtxAt, State.modCoreAt, hc]

/-- An operation of a bundle's issue, whose checks have been made, is accepted. -/
theorem accepted_of_pre {i : Instr} {s : State} (h : s.foc.pre = true) : Accepted i s := .inl h

/-- What a C-slot operation that closes no segment answers, its checks passed. -/
theorem accepted_c_open {i : Instr} {own : Verdict} {eff : State → State} {s : State} (hx : exec i s = gated i own eff s)
    (h : Accepted i s) (ho : own = ownOf i s) (hs : i.slot? = some .c) (hc : closing i = false) : exec i s = .next (eff s) := by
  rw [accepted_c hx h ho hs, checkedState_open hc]

/-- What a C-slot operation that closes the segment answers, its checks passed. -/
theorem accepted_c_closing {i : Instr} {own : Verdict} {eff : State → State} {s : State} (hx : exec i s = gated i own eff s)
    (h : Accepted i s) (ho : own = ownOf i s) (hs : i.slot? = some .c) (hc : closing i = true) :
    exec i s = .next (eff (s.modCtx Ctx.commit)) := by
  rw [accepted_c hx h ho hs, checkedState, if_pos hc]

/-- What an engine operation that closes no segment answers, where it may act. -/
theorem ready_engine_open {i : Instr} {own : Verdict} {eff : State → State} {s : State} (hx : exec i s = gated i own eff s)
    (h : Ready i s) (ho : own = ownOf i s) (hc : closing i = false) : exec i s = .next (eff s) := by
  obtain ⟨ha, hs, -⟩ := h
  rw [accepted_engine hx ha hs ho, checkedState_open hc]

end Sys2Proof.Machine
end

section
/-! Scalar arithmetic of the C slot: what each function on natural numbers is on words of width W (R65, R68, R69). -/

namespace Sys2Proof.Machine

/-! ### Words as natural numbers and integers -/

theorem wrapInt_eq (w : Nat) (x : Int) : wrapInt w x = (BitVec.ofInt w x).toNat := (BitVec.toNat_ofInt x).symm

theorem wrapInt_natCast (w n : Nat) : wrapInt w n = n % 2 ^ w := by
  rw [wrapInt, ← Int.natCast_mod, Int.toNat_natCast]

theorem sintOf_toNat {w : Nat} (hw : 0 < w) (a : BitVec w) : sintOf w a.toNat = a.toInt := by
  have hhalf : 2 ^ w = 2 * 2 ^ (w - 1) := (Nat.two_pow_pred_mul_two hw).symm.trans (Nat.mul_comm _ _)
  simp only [sintOf, Nat.mod_eq_of_lt a.isLt, BitVec.toInt_eq_toNat_cond]
  by_cases h : a.toNat < 2 ^ (w - 1)
  · rw [if_pos h, if_pos (by omega)]
  · rw [if_neg h, if_neg (by omega)]
    push_cast
    rfl

/-- A word that is the low part of a signed value, as the value wrapped. -/
theorem wrapInt_toInt {w : Nat} (a : BitVec w) : wrapInt w a.toInt = a.toNat := by rw [wrapInt_eq, BitVec.ofInt_toInt]

theorem wrapInt_mod (w : Nat) (x : Int) : wrapInt w x % 2 ^ w = wrapInt w x := by
  rw [wrapInt_eq, Nat.mod_eq_of_lt (BitVec.isLt _)]

theorem toNat_mod {w : Nat} (a : BitVec w) : a.toNat % 2 ^ w = a.toNat := Nat.mod_eq_of_lt a.isLt

/-! ### Products -/

theorem two_pow_two_mul (w : Nat) : 2 ^ (2 * w) = 2 ^ w * 2 ^ w := by rw [Nat.two_mul, Nat.pow_add]

/-- The second digit in base `m` of an integer. -/
theorem second_digit (x : Int) {m : Nat} (hm : 0 < m) :
    (x / (m : Nat) % (m : Nat)).toNat = (x % (m * m : Nat)).toNat / m % m := by
  have hm' : (m : Int) ≠ 0 := by omega
  have hx : 0 ≤ x % (m * m : Nat) := Int.emod_nonneg _ (by positivity)
  apply Int.ofNat_inj.1
  rw [Int.toNat_of_nonneg (Int.emod_nonneg _ hm'), Int.natCast_mod, Int.natCast_div, Int.toNat_of_nonneg hx]
  have hlow : x % (m * m : Nat) = x + m * (-(m * (x / (m * m : Nat)))) := by
    rw [Int.emod_def]; push_cast; ring
  rw [hlow, Int.add_mul_ediv_left _ _ hm', ← mul_neg, Int.add_mul_emod_self_left]

/-- MULHN: the high half of the product of two words. -/
theorem mulhn_toNat {w : Nat} (a b : BitVec w) : a.toNat * b.toNat / 2 ^ w % 2 ^ w =
    ((a.zeroExtend (2 * w) * b.zeroExtend (2 * w)).extractLsb' w w).toNat := by
  have hle : w ≤ 2 * w := by omega
  have hlt : a.toNat * b.toNat < 2 ^ (2 * w) := two_pow_two_mul w ▸ Nat.mul_lt_mul'' a.isLt b.isLt
  simp only [BitVec.extractLsb'_toNat, BitVec.toNat_mul, BitVec.truncate_eq_setWidth, BitVec.toNat_setWidth_of_le hle,
    Nat.shiftRight_eq_div_pow, Nat.mod_eq_of_lt hlt]

/-- MULH: the high half of the product of two signed words. -/
theorem mulh_toNat {w : Nat} (a b : BitVec w) : wrapInt w (a.toInt * b.toInt / (2 ^ w : Nat)) =
    ((a.signExtend (2 * w) * b.signExtend (2 * w)).extractLsb' w w).toNat := by
  have hprod : a.signExtend (2 * w) * b.signExtend (2 * w) = BitVec.ofInt (2 * w) (a.toInt * b.toInt) := by
    simp only [BitVec.signExtend, BitVec.ofInt_mul]
  rw [hprod, BitVec.extractLsb'_toNat, BitVec.toNat_ofInt, Nat.shiftRight_eq_div_pow, wrapInt, two_pow_two_mul,
    second_digit _ (Nat.two_pow_pos w)]

/-! ### Shifts -/

theorem sar_toNat {w : Nat} (a : BitVec w) (k : Nat) :
    wrapInt w (a.toInt / (2 ^ k : Nat)) = (a.sshiftRight k).toNat := by
  rw [wrapInt_eq, BitVec.sshiftRight_eq, Int.shiftRight_eq_div_pow]

theorem rol_toNat {w : Nat} (hw : 0 < w) (a : BitVec w) (k : Nat) :
    (a.toNat * 2 ^ (k % w) % 2 ^ w + a.toNat / 2 ^ (w - k % w)) % 2 ^ w = (a.rotateLeft (k % w)).toNat := by
  have hk : k % w < w := Nat.mod_lt _ hw
  have hlow : a.toNat >>> (w - k % w) < 2 ^ (k % w) := by
    rw [Nat.shiftRight_eq_div_pow, Nat.div_lt_iff_lt_mul (Nat.two_pow_pos _), ← Nat.pow_add, Nat.add_sub_cancel' hk.le]
    exact a.isLt
  have hhigh : a.toNat * 2 ^ (k % w) % 2 ^ w = a.toNat % 2 ^ (w - k % w) * 2 ^ (k % w) := by
    rw [← Nat.mul_mod_mul_right, ← Nat.pow_add, Nat.sub_add_cancel hk.le]
  have hrot : (a.rotateLeft (k % w)).toNat = a.toNat * 2 ^ (k % w) % 2 ^ w + a.toNat / 2 ^ (w - k % w) := by
    rw [BitVec.toNat_rotateLeft, Nat.mod_mod, Nat.shiftLeft_eq, hhigh, ← Nat.shiftLeft_eq, ← Nat.shiftLeft_add_eq_or_of_lt hlow,
      Nat.shiftRight_eq_div_pow]
  rw [← hrot, toNat_mod]

/-! ### Quotients and remainders -/

theorem sdiv_toNat {w : Nat} (a b : BitVec w) : wrapInt w (a.toInt.tdiv b.toInt) = (a.sdiv b).toNat := by
  rw [wrapInt_eq]
  congr 1
  apply BitVec.eq_of_toInt_eq
  rw [BitVec.toInt_ofInt, BitVec.toInt_sdiv]

theorem srem_toNat {w : Nat} (a b : BitVec w) :
    wrapInt w (a.toInt - a.toInt.tdiv b.toInt * b.toInt) = (a.srem b).toNat := by
  rw [← wrapInt_toInt (a.srem b), BitVec.toInt_srem, Int.tmod_def, Int.mul_comm]

/-- Quotient and remainder of two signed words (R69). -/
theorem divide_signed {w : Nat} (hw : 0 < w) (a b : BitVec w) : divide true w a.toNat b.toNat =
    if b = 0 then (2 ^ w - 1, a.toNat) else ((a.sdiv b).toNat, (a.srem b).toNat) := by
  have hz : b.toInt = 0 ↔ b = 0 := by rw [← BitVec.toInt_inj]; simp
  simp only [divide, if_true, sintOf_toNat hw, hz, wrapInt_toInt, sdiv_toNat, srem_toNat]

/-- Quotient and remainder of two unsigned words (R69). -/
theorem divide_unsigned {w : Nat} (a b : BitVec w) : divide false w a.toNat b.toNat =
    if b = 0 then (2 ^ w - 1, a.toNat) else ((a / b).toNat, (a % b).toNat) := by
  have hz : (b.toNat : Int) = 0 ↔ b = 0 := by rw [Int.natCast_eq_zero, ← BitVec.toNat_inj]; rfl
  have hrem : (a.toNat : Int) - a.toNat / b.toNat * b.toNat = (a.toNat % b.toNat : Nat) := by
    rw [Int.natCast_mod, Int.emod_def, Int.mul_comm]
  simp only [divide, Bool.false_eq_true, if_false, hz, Int.tdiv_eq_ediv_of_nonneg (Int.natCast_nonneg _), hrem]
  simp only [← Int.natCast_ediv, wrapInt_natCast, ← BitVec.toNat_udiv, ← BitVec.toNat_umod, toNat_mod]

/-! ### Minima, maxima and comparisons -/

theorem min_toNat {w : Nat} (a b : BitVec w) : Nat.min a.toNat b.toNat = (if a ≤ b then a else b).toNat := by
  split
  next h => exact Nat.min_eq_left h
  next h => exact Nat.min_eq_right (Nat.le_of_not_le h)

theorem max_toNat {w : Nat} (a b : BitVec w) : Nat.max a.toNat b.toNat = (if a ≤ b then b else a).toNat := by
  split
  next h => exact Nat.max_eq_right h
  next h => exact Nat.max_eq_left (Nat.le_of_not_le h)

theorem flag01_toNat (w : Nat) (b : Bool) : flag01 b % 2 ^ w = (if b then BitVec.ofNat w 1 else 0).toNat := by
  cases b <;> simp [flag01]

/-- The signed order of two words. -/
theorem sintOf_le {w : Nat} (hw : 0 < w) (a b : BitVec w) : sintOf w a.toNat ≤ sintOf w b.toNat ↔ a.sle b = true := by
  rw [sintOf_toNat hw, sintOf_toNat hw, BitVec.sle_iff_toInt_le]

theorem sintOf_lt {w : Nat} (hw : 0 < w) (a b : BitVec w) : sintOf w a.toNat < sintOf w b.toNat ↔ a.slt b = true := by
  rw [sintOf_toNat hw, sintOf_toNat hw, BitVec.slt_iff_toInt_lt]

/-! ### The statements of O1 and O3 -/

/-- Settles O1: each operation is an arithmetic operation of R65 whose function on natural numbers is, at every width, the
function on words. -/
theorem scalarArithmetic : Obligations.ScalarArithmetic := by
  unfold Obligations.ScalarArithmetic
  intro f
  refine ⟨?add, ?sub, ?mul, ?mulh, ?mulhn, ?and, ?or, ?xor, ?andn, ?shl, ?shr, ?sar, ?rol, ?min, ?max, ?minn, ?maxn, ?seq, ?slt,
    ?sltn, ?li⟩
  all_goals refine alu_computes (fun _ => rfl) (fun _ => rfl) rfl rfl fun w hw a b => ?_
  case add => exact (BitVec.toNat_add a b).symm
  case sub => rw [BitVec.toNat_sub]; congr 1; have := b.isLt; omega
  case mul => exact (BitVec.toNat_mul a b).symm
  case mulh => rw [wrapInt_mod, sintOf_toNat (by omega), sintOf_toNat (by omega), mulh_toNat]
  case mulhn => exact mulhn_toNat a b
  case and => rw [← BitVec.toNat_and, toNat_mod]
  case or => rw [← BitVec.toNat_or, toNat_mod]
  case xor => rw [← BitVec.toNat_xor, toNat_mod]
  case andn => rw [← BitVec.toNat_not, ← BitVec.toNat_and, toNat_mod]
  case shl => rw [BitVec.toNat_shiftLeft, Nat.shiftLeft_eq]
  case shr => rw [← Nat.shiftRight_eq_div_pow, ← BitVec.toNat_ushiftRight, toNat_mod]
  case sar => rw [wrapInt_mod, sintOf_toNat (by omega), sar_toNat]
  case rol => exact rol_toNat (by omega) a b.toNat
  case min => simp only [sintOf_le (show 0 < w by omega), ← apply_ite BitVec.toNat, toNat_mod]
  case max => simp only [sintOf_le (show 0 < w by omega), ← apply_ite BitVec.toNat, toNat_mod]
  case minn => rw [min_toNat, toNat_mod]
  case maxn => rw [max_toNat, toNat_mod]
  case seq => simp only [flag01_toNat, BitVec.toNat_inj, decide_eq_true_eq]
  case slt => simp only [flag01_toNat, sintOf_lt (show 0 < w by omega), decide_eq_true_eq]
  case sltn => simp only [flag01_toNat, BitVec.lt_def, decide_eq_true_eq]
  case li => exact toNat_mod b

/-- Settles O3: what `divide` gives for words, and for a divisor 0. -/
theorem scalarDivision : Obligations.ScalarDivision := by
  unfold Obligations.ScalarDivision
  intro f
  refine ⟨?div, ?divn, ?rem, ?remn⟩
  all_goals refine alu_computes (fun _ => rfl) (fun _ => rfl) rfl rfl fun w hw a b => ?_
  case div =>
    rw [divide_signed (by omega)]
    split
    · rw [BitVec.toNat_allOnes]; exact Nat.mod_eq_of_lt (Nat.sub_lt (Nat.two_pow_pos w) Nat.one_pos)
    · exact toNat_mod _
  case divn =>
    rw [divide_unsigned]
    split
    · rw [BitVec.toNat_allOnes]; exact Nat.mod_eq_of_lt (Nat.sub_lt (Nat.two_pow_pos w) Nat.one_pos)
    · exact toNat_mod _
  case rem =>
    rw [divide_signed (by omega)]
    split
    · exact toNat_mod a
    · exact toNat_mod _
  case remn =>
    rw [divide_unsigned]
    split
    · exact toNat_mod a
    · exact toNat_mod _

end Sys2Proof.Machine
end

section
/-! s0 (R66): it reads 0, and no operation writes it. -/

namespace Sys2Proof.Machine

/-- s0 as a register. -/
def s0 : RegId := ⟨.s, 0⟩

@[simp] theorem s0_eq_iff (c : RegClass) (n : Nat) : s0 = ⟨c, n⟩ ↔ c = .s ∧ n = 0 := by simp [s0, eq_comm]

@[simp] theorem eq_s0_iff (c : RegClass) (n : Nat) : ⟨c, n⟩ = s0 ↔ c = .s ∧ n = 0 := by simp [s0]

theorem toNat_ne_zero {n : Nat} {x : BitVec n} (h : x ≠ 0#n) : x.toNat ≠ 0 := fun hz =>
  h (BitVec.eq_of_toNat_eq (by simpa using hz))

@[simp] theorem s0_notMem_rS {n : Nat} (x : BitVec n) : s0 ∉ rS x := by
  unfold rS
  split
  next => simp
  next h => simp [toNat_ne_zero h]

@[simp] theorem s0_notMem_rVs (x n : Nat) : s0 ∉ rVs x n := by simp [rVs]

@[simp] theorem s0_notMem_mInputs (f : MSlot) (r k : Nat) : s0 ∉ mInputs f r k := by
  unfold mInputs
  split <;> simp

theorem spillClass_ne_s (f : VSlot) : spillClass f ≠ .s := by
  unfold spillClass
  split <;> decide

theorem notMem_ite {α : Type} {a : α} {p : Prop} [Decidable p] {l l' : List α} (h : a ∉ l) (h' : a ∉ l') :
    a ∉ if p then l else l' := by
  split
  · exact h
  · exact h'

/-- The register of a spilled class. -/
theorem s0_ne_spilled (f : VSlot) (n : Nat) : s0 ≠ ⟨spillClass f, n⟩ := by simp [spillClass_ne_s]

/-- No operation reads s0 as a register, but ERET, which waits for the registers in flight. -/
theorem s0_notMem_readsOf (i : Instr) (k : Nat) (s : State) (hfl : ∀ l ∈ s.ctx.flight, l.reg ≠ s0) : s0 ∉ readsOf i k s := by
  cases i
  all_goals dsimp only [readsOf, vSlot?]
  case eret => simpa using fun l hl _ => hfl l hl
  case tld f => simpa using fun hx _ => toNat_ne_zero hx
  case tst f => simpa using fun hx _ => toNat_ne_zero hx
  case splv f =>
    split
    · simp
    · simpa using s0_ne_spilled f _
  all_goals simp [notMem_ite]

/-! ### Registers written -/

@[simp] theorem s0_notMem_mDests (i : Instr) (f : MSlot) (k : Nat) (a : ArrayState) : s0 ∉ mDests i f k a := by
  unfold mDests
  split <;> simp

@[simp] theorem notMem_zipIdx {α : Type} {l : List α} {a : α} (h : a ∉ l) (j n : Nat) : (a, j) ∉ l.zipIdx n := fun hm =>
  h (List.fst_mem_of_mem_zipIdx hm)

/-- No operation of an engine writes s0. -/
theorem s0_notMem_destsOf (i : Instr) (k : Nat) (s : State) : s0 ∉ (destsOf i k s).map Prod.fst := by
  cases i
  all_goals dsimp only [destsOf, vSlot?]
  case vext f => split <;> simp
  case filv f =>
    split
    · simp
    · simpa using s0_ne_spilled f _
  all_goals simp [vUse]

theorem destsOf_ne_s0 (i : Instr) (k : Nat) (s : State) : ∀ d ∈ destsOf i k s, d.1 ≠ s0 := fun _ hd h =>
  s0_notMem_destsOf i k s (h ▸ List.mem_map_of_mem hd)

/-! ### The statement of O2 -/

/-- Settles O2: no constructor of the instructions lists s0 among what it reads or what an engine writes. -/
theorem scalarZero : Obligations.ScalarZero := by
  unfold Obligations.ScalarZero
  refine ⟨fun a => rfl, fun a v => ?write, fun lat x s => rfl, fun i k s hfl => s0_notMem_readsOf i k s hfl,
    fun i k s => destsOf_ne_s0 i k s, fun f s hd ha hsure => ?add⟩
  case write => cases v <;> rfl
  case add =>
    obtain ⟨hadd, -⟩ := scalarArithmetic f
    rw [hadd s ha hsure]
    simp [State.landsS, hd]

end Sys2Proof.Machine
end

section
/-! Bit counts, SEL, LIH, LEA and POPQ (R65, R68, R70, R71). -/

namespace Sys2Proof.Machine

/-! ### Bit counts -/

/-- The numbers below `w` before one that fails. -/
theorem takeWhile_range {w m : Nat} {p : Nat → Bool} (hm : m ≤ w) (hp : ∀ i < m, p i = true) (hf : m < w → p m = false) :
    (List.range w).takeWhile p = List.range m := by
  obtain ⟨d, rfl⟩ := Nat.exists_eq_add_of_le hm
  rw [List.range_add, List.takeWhile_append_of_pos fun i hi => hp i (List.mem_range.1 hi)]
  cases d with
  | zero => simp
  | succ d => simp [List.range_succ_eq_map, hf (by omega)]

theorem bitLen_le {w n : Nat} (h : n < 2 ^ w) : bitLen n ≤ w := by
  unfold bitLen
  split
  next => exact Nat.zero_le w
  next hn => exact (Nat.log2_lt hn).2 h

theorem testBit_of_bitLen_le {n i : Nat} (h : bitLen n ≤ i) : n.testBit i = false := by
  unfold bitLen at h
  split at h
  next hn => simp [hn]
  next hn => exact Nat.testBit_lt_two_pow ((Nat.log2_lt hn).1 h)

theorem testBit_bitLen {n : Nat} (h : 0 < bitLen n) : n.testBit (bitLen n - 1) = true := by
  have hn : n ≠ 0 := fun hz => by simp [bitLen, hz] at h
  rw [bitLen, if_neg hn, Nat.add_sub_cancel]
  exact Nat.testBit_log2 hn

theorem clzW_toNat {w : Nat} (a : BitVec w) :
    clzW w a.toNat = ((List.range w).takeWhile fun i => !a.getMsbD i).length := by
  have hle : bitLen a.toNat ≤ w := bitLen_le a.isLt
  rw [clzW, toNat_mod, takeWhile_range (m := w - bitLen a.toNat) (Nat.sub_le _ _), List.length_range]
  · intro i hi
    simp [BitVec.getMsbD_eq_getLsbD, BitVec.getLsbD, testBit_of_bitLen_le (show bitLen a.toNat ≤ w - 1 - i by omega)]
  · intro hlt
    have hone := testBit_bitLen (n := a.toNat) (by omega)
    rw [BitVec.getMsbD_eq_getLsbD, BitVec.getLsbD, show w - 1 - (w - bitLen a.toNat) = bitLen a.toNat - 1 by omega, hone]
    simp [hlt]

theorem ctzW_toNat {w : Nat} (a : BitVec w) :
    ctzW w a.toNat = ((List.range w).takeWhile fun i => !a.getLsbD i).length := by
  unfold ctzW
  cases hfind : (List.range w).find? fun i => a.toNat.testBit i with
  | none =>
    rw [takeWhile_range (m := w) le_rfl, List.length_range]
    · rfl
    · intro i hi
      simpa [BitVec.getLsbD] using List.find?_eq_none.1 hfind i (List.mem_range.2 hi)
    · omega
  | some m =>
    obtain ⟨hm, hlt, hbefore⟩ := List.find?_range_eq_some.1 hfind
    have hmw : m < w := List.mem_range.1 hlt
    rw [takeWhile_range (m := m) hmw.le, List.length_range]
    · rfl
    · exact fun i hi => hbefore i hi
    · intro _
      rw [BitVec.getLsbD, hm]
      rfl

theorem popcW_toNat {w : Nat} (a : BitVec w) : popcW w a.toNat = (List.range w).countP fun i => a.getLsbD i :=
  List.countP_eq_length_filter.symm

/-! ### Results -/

/-- The result of an arithmetic operation whose operands read as they stand. -/
theorem alu_signed {s : State} (hsure : Certain s) (f : CSlot) (lat : Nat) {g : Nat → Nat → Nat → Nat}
    {r : BitVec (widthBits f.w)}
    (hr : g (widthBits f.w) (narrowA f s).toNat ((sourceB f s).truncate (widthBits f.w)).toNat % 2 ^ widthBits f.w = r.toNat) :
    alu f true lat g s = s.landsS f.sd.toNat lat (r.signExtend 64) := by
  simp only [narrowA, sourceA, BitVec.truncate_eq_setWidth, BitVec.toNat_setWidth] at hr
  simp only [alu, if_true]
  rw [postS_certain hsure.2, rdS_certain hsure.1, operandB_certain hsure.1, sx_toNat (widthBits_pos _) r _ hr]

/-! ### POPQ (R71) -/

/-- The head entry taken. -/
theorem popEntry_cons {s : State} {e : QEntry} {r : List QEntry} (h : s.ctx.a.queue = e :: r) : popEntry s = (e, s.pops 1) := by
  have hpop : (s.modArch fun a => { a with queue := r }) = s.pops 1 := by
    unfold State.pops State.modArch
    exact State.modCtx_congr (by simp [h])
  simp only [popEntry, h, hpop]

theorem ownPopq_waits {s : State} {e : QEntry} {r : List QEntry} (h : s.ctx.a.queue = e :: r) (hr : e.ready s.cyc = false) :
    ownPopq s = .hold 1 := by simp [ownPopq, h, hr]

/-! ### The statement of O4 -/

/-- Settles O4: the bit counts as lengths of runs of bits, POPQ by the head of the queue, which its own verdict tests. -/
theorem countsAndPops : Obligations.CountsAndPops := by
  unfold Obligations.CountsAndPops
  refine ⟨fun f => ⟨?clz, ?ctz, ?popc, fun s ha hsure => ?sel, fun s ha hsure => ?lih, fun s ha hsure => ?lea⟩,
    fun f s e r hq => ⟨fun ha hsure => ?popq, fun hp h5 h6 hc hr => ?hold⟩⟩
  case clz =>
    exact alu_computes (fun _ => rfl) (fun _ => rfl) rfl rfl fun w _ a _ => by rw [clzW_toNat, BitVec.toNat_ofNat]
  case ctz =>
    exact alu_computes (fun _ => rfl) (fun _ => rfl) rfl rfl fun w _ a _ => by rw [ctzW_toNat, BitVec.toNat_ofNat]
  case popc =>
    exact alu_computes (fun _ => rfl) (fun _ => rfl) rfl rfl fun w _ a _ => by rw [popcW_toNat, BitVec.toNat_ofNat]
  case sel =>
    rw [accepted_c_open (own := .go) rfl ha rfl rfl rfl, rdS_certain hsure.1]
    congr 1
    apply alu_signed hsure
    split <;> exact toNat_mod _
  case lih =>
    rw [accepted_c_open (own := .go) rfl ha rfl rfl rfl, rdS_certain hsure.1, postS_certain hsure.2]
    rfl
  case lea =>
    rw [accepted_c_open (own := .go) rfl ha rfl rfl rfl, rdS_certain hsure.1, postS_certain hsure.2, operandB_certain hsure.1]
    rfl
  case popq =>
    rw [accepted_c_open (own := ownPopq s) rfl ha rfl rfl rfl, popEntry_cons hq]
    have hlow : e.data.toNat % 2 ^ widthBits f.w = (e.data.truncate (widthBits f.w)).toNat := by simp
    simp only [sx_toNat (widthBits_pos _) _ _ hlow]
    exact congrArg _ (postS_certain (s := s.pops 1) hsure.2 _ _ _)
  case hold =>
    have hv : verdictOf (.popq f) (ownPopq s) (checkedState (.popq f) s) = .hold 1 := by
      rw [checkedState_open rfl, verdictOf_eq_own h5 h6 hc, ownPopq_waits hq hr]
    exact (gated_act hp hv (by simp)).trans (by rw [checkedState_open rfl]; rfl)

end Sys2Proof.Machine
end

section
/-! Branches, calls and hardware loops (R72 to R79). -/

namespace Sys2Proof.Machine

/-- A branch whose condition is `cond`: it goes to PC + sext(IMM), or leaves the state. -/
theorem branchesIf_of_effect {i : Instr} {f : CSlot} {cond : State → Prop} {eff : State → State}
    (hx : ∀ s, exec i s = gated i .go eff s) (ho : ∀ s, ownOf i s = .go) (hs : i.slot? = some .c) (hc : closing i = false)
    (hgo : ∀ s, Certain s → cond s → eff s = branchTo (relTarget f s) s) (hstay : ∀ s, Certain s → ¬cond s → eff s = s) :
    BranchesIf i f cond := by
  intro s ha hsure
  rw [accepted_c_open (hx s) ha (ho s).symm hs hc]
  exact ⟨fun h => congrArg _ (hgo s hsure h), fun h => congrArg _ (hstay s hsure h)⟩

/-- A comparison of natural numbers that is, at every width, a relation on words makes a conditional branch of R73. -/
theorem branchesIf_compare {i : Instr} {f : CSlot} {g : Nat → Nat → Nat → Bool} {r : (w : Nat) → BitVec w → BitVec w → Prop}
    (hx : ∀ s, exec i s = gated i .go (branchIf f g) s) (ho : ∀ s, ownOf i s = .go) (hs : i.slot? = some .c)
    (hc : closing i = false) (hg : ∀ w, 0 < w → ∀ a b : BitVec w, g w a.toNat b.toNat = true ↔ r w a b) :
    BranchesIf i f fun s => r _ (narrowA f s) (narrowB f s) := by
  have heff : ∀ s, Certain s → branchIf f g s =
      if g (widthBits f.w) (narrowA f s).toNat (narrowB f s).toNat then branchTo (relTarget f s) s else s := by
    intro s hsure
    simp only [branchIf, narrowA, narrowB, sourceA, BitVec.truncate_eq_setWidth, BitVec.toNat_setWidth, rdS_certain hsure.1]
  refine branchesIf_of_effect hx ho hs hc (fun s hsure h => ?_) fun s hsure h => ?_
  · rw [heff s hsure, if_pos ((hg _ (widthBits_pos _) _ _).2 h)]
  · rw [heff s hsure, if_neg fun hg' => h ((hg _ (widthBits_pos _) _ _).1 hg')]

/-! ### Predicates -/

theorem pred_ne_zero (p : Pred) : p ≠ 0 ↔ ∃ n < 128, p.getLsbD n = true := by
  constructor
  · intro h
    by_contra hn
    refine h (BitVec.eq_of_getLsbD_eq fun n hlt => ?_)
    simpa using fun hp => hn ⟨n, hlt, hp⟩
  · rintro ⟨n, -, hp⟩ rfl
    simp at hp

theorem pred_eq_allOnes (p : Pred) : p = BitVec.allOnes 128 ↔ ∀ n < 128, p.getLsbD n = true := by
  constructor
  · rintro rfl n hlt
    rw [BitVec.getLsbD_allOnes, decide_eq_true hlt]
  · exact fun h => BitVec.eq_of_getLsbD_eq fun n hlt => by rw [h n hlt, BitVec.getLsbD_allOnes, decide_eq_true hlt]

/-! ### The statement of O5 -/

/-- Settles O5: a branch by its condition, a comparison at width W by the order of the words, LOOP and LEXIT by their effect. -/
theorem branchesAndLoops : Obligations.BranchesAndLoops := by
  unfold Obligations.BranchesAndLoops
  refine ⟨fun f => ⟨?br, ?beq, ?bne, ?blt, ?bge, ?bltn, ?bgen, ?bpany, ?bpall, ?call, ?ret, ?jmpr⟩,
    fun f s => ⟨?loop, ?skip, ?lexit⟩⟩
  case br =>
    exact branchesIf_of_effect (fun _ => rfl) (fun _ => rfl) rfl rfl (fun _ _ _ => rfl) fun _ _ h => absurd trivial h
  case beq =>
    exact branchesIf_compare (r := fun _ a b => a = b) (fun _ => rfl) (fun _ => rfl) rfl rfl fun w _ a b => by
      rw [decide_eq_true_iff, BitVec.toNat_inj]
  case bne =>
    exact branchesIf_compare (r := fun _ a b => a ≠ b) (fun _ => rfl) (fun _ => rfl) rfl rfl fun w _ a b => by
      rw [decide_eq_true_iff, ne_eq, BitVec.toNat_inj]
  case blt =>
    exact branchesIf_compare (r := fun _ a b => a.slt b = true) (fun _ => rfl) (fun _ => rfl) rfl rfl fun w hw a b => by
      rw [decide_eq_true_iff, sintOf_lt hw]
  case bge =>
    exact branchesIf_compare (r := fun _ a b => b.sle a = true) (fun _ => rfl) (fun _ => rfl) rfl rfl fun w hw a b => by
      rw [decide_eq_true_iff, sintOf_le hw]
  case bltn =>
    exact branchesIf_compare (r := fun _ a b => a < b) (fun _ => rfl) (fun _ => rfl) rfl rfl fun w _ a b => by
      rw [decide_eq_true_iff, BitVec.lt_def]
  case bgen =>
    exact branchesIf_compare (r := fun _ a b => b ≤ a) (fun _ => rfl) (fun _ => rfl) rfl rfl fun w _ a b => by
      rw [decide_eq_true_iff, BitVec.le_def]
  case bpany =>
    refine branchesIf_of_effect (fun _ => rfl) (fun _ => rfl) rfl rfl (fun s hsure h => ?_) fun s hsure h => ?_
    all_goals rw [← pred_ne_zero, ← rdP_certain hsure.1] at h
    · exact if_pos h
    · exact if_neg h
  case bpall =>
    refine branchesIf_of_effect (fun _ => rfl) (fun _ => rfl) rfl rfl (fun s hsure h => ?_) fun s hsure h => ?_
    all_goals rw [← pred_eq_allOnes, ← rdP_certain hsure.1] at h
    · exact if_pos h
    · exact if_neg h
  case call =>
    intro s ha hsure
    rw [accepted_c_open (own := .go) rfl ha rfl rfl rfl, postS_certain hsure.2]
    rfl
  case ret =>
    intro s ha hsure
    rw [accepted_c_open (own := .go) rfl ha rfl rfl rfl, rdS_certain hsure.1]
    rfl
  case jmpr =>
    intro s ha hsure
    rw [accepted_c_open (own := .go) rfl ha rfl rfl rfl, rdS_certain hsure.1]
    rfl
  case loop =>
    intro ha hsure hn
    rw [accepted_c_open (own := .go) rfl ha rfl rfl rfl, rdS_certain hsure.1]
    exact congrArg _ (if_neg hn)
  case skip =>
    intro ha hsure hz
    rw [accepted_c_open (own := .go) rfl ha rfl rfl rfl, rdS_certain hsure.1]
    exact congrArg _ (if_pos hz)
  case lexit =>
    intro ha
    rw [accepted_c_open (own := .go) rfl ha rfl rfl rfl]
    congr 1
    refine State.modCtx_congr ?_
    cases f.fn.getLsbD 0 <;> rfl

end Sys2Proof.Machine
end

section
/-! Spill memory: SPL, FIL, SPLV, FILV and VCHK (R81, R82, R232, R233). -/

namespace Sys2Proof.Machine

/-! ### Reads and writes of spill memory -/

/-- A spill write of an operation that does not collide. -/
theorem spillWrite_certain {s : State} (h : s.foc.bad = false) (off n v : Nat) : spillWrite off n v s =
    (journal true (linesOf off n) s).modCtx fun c => { c with spillW := c.spillW ++ [(off, n, v)] } := by
  simp [spillWrite, spillLines, h]

/-- The one write of a cycle, at its end. -/
theorem spillNow_spill {c : Ctx} {off n v : Nat} (h : c.spillW = [(off, n, v)]) :
    c.spillNow.a.spill = c.a.spill.write off n v := by simp [Ctx.spillNow, h]

/-! ### SPLV and FILV (R232) -/

/-- The class code, the highest field of AUX. -/
theorem classCode_eq (f : VSlot) : bits f.aux.toNat 11 10 = f.aux.toNat / 2 ^ 10 :=
  Nat.mod_eq_of_lt (by have := f.aux.isLt; omega)

/-- What SPLV and FILV take from AUX when it names v-registers. -/
theorem spill_of_v {f : VSlot} (h : f.aux.toNat / 2 ^ 10 = 0) :
    spillClass f = .v ∧ spillPlace f = (16 * (f.aux.toNat % 512), 512) := by
  have hc : spillClass f = .v := by rw [spillClass, classCode_eq, h]; rfl
  exact ⟨hc, by simp [spillPlace, hc, bits]⟩

/-- Shape records. -/
theorem spill_of_sh {f : VSlot} (h : f.aux.toNat / 2 ^ 10 = 1) :
    spillClass f = .sh ∧ spillPlace f = (16 * (f.aux.toNat % 512), 32) := by
  have hc : spillClass f = .sh := by rw [spillClass, classCode_eq, h]; rfl
  exact ⟨hc, by simp [spillPlace, hc, bits]⟩

/-- Threshold registers. -/
theorem spill_of_th {f : VSlot} (h : f.aux.toNat / 2 ^ 10 = 2) :
    spillClass f = .th ∧ spillPlace f = (16 * (f.aux.toNat % 512), 16) := by
  have hc : spillClass f = .th := by rw [spillClass, classCode_eq, h]; rfl
  exact ⟨hc, by simp [spillPlace, hc, bits]⟩

/-- Predicates. -/
theorem spill_of_p {f : VSlot} (h : f.aux.toNat / 2 ^ 10 = 3) :
    spillClass f = .p ∧ spillPlace f = (16 * (f.aux.toNat % 512), 16) := by
  have hc : spillClass f = .p := by rw [spillClass, classCode_eq, h]; rfl
  exact ⟨hc, by simp [spillPlace, hc, bits]⟩

/-! ### VCHK (R233) -/

/-- TRAPINFO of a VCHK that finds the tags to differ or not, and first lane `l`. -/
def vchkInfo (tags : Bool) (l : Nat) (s : State) : Word :=
  BitVec.ofNat 64 (b2n tags * 2 ^ 39 + l * 2 ^ 32 + s.foc.idx % 64 * 2 ^ 23 + 0x5C * 2 ^ 8 + 2)

/-- The first lane in which two sources differ. -/
def firstDiffer (a b : Vec) : Option Nat := (List.range 128).find? fun n => lane a n ≠ lane b n

theorem firstDiffer_none {a b : Vec} (h : ∀ n < 128, lane a n = lane b n) : firstDiffer a b = none := by
  simpa [firstDiffer] using h

theorem firstDiffer_some {a b : Vec} {l : Nat} (hl : l < 128) (h : ∀ n < l, lane a n = lane b n) (hne : lane a l ≠ lane b l) :
    firstDiffer a b = some l := by
  rw [firstDiffer, List.find?_range_eq_some]
  simpa [hl, hne] using h

/-- What a VCHK that may act does, its sources registers. -/
theorem exec_vchk {f : VSlot} {s : State} (h : Ready (.vchk f) s) (hq : f.qa = 0#1) : exec (.vchk f) s = .next
    (if decide (domA f s ≠ domB f s) ∨ (firstDiffer (vecA f s) (vecB f s)).isSome then
      startFault (.vchk f) 0x0D (vchkInfo (decide (domA f s ≠ domB f s)) ((firstDiffer (vecA f s) (vecB f s)).getD 0) s) s
    else s) := by
  have hsure := h.2.2
  have hA : srcA f s = ⟨vecA f s, domA f s⟩ := by simp [srcA, vecA, domA, hq, rdV_certain hsure.1]
  have hB : srcB f s = ⟨vecB f s, domB f s⟩ := by simp [srcB, vecB, domB, rdV_certain hsure.1]
  rw [ready_engine_open (own := .go) rfl h rfl rfl]
  simp only [hA, hB]
  rfl

/-! ### The statement of O7 -/

/-- Settles O7: a spill write is one entry of `spillW`, which the end of the cycle writes; SPLV and FILV by the class of AUX; VCHK
by the first lane that differs. -/
theorem spills : Obligations.Spills := by
  unfold Obligations.Spills
  refine ⟨fun f s => ⟨?spl, ?now, ?fil⟩, fun f s => ?vector⟩
  case spl =>
    intro ha hsure
    rw [accepted_c_open (own := ownSpl f s) rfl ha rfl rfl rfl, rdS_certain hsure.1, spillWrite_certain hsure.2]
    simp [narrowA, sourceA, spillLines]
  case now =>
    intro c off n v h
    rw [spillNow_spill h]
    exact ⟨Mem.read_write n _ _ _, fun x hx => Mem.byte_write_outside n _ _ _ _ hx⟩
  case fil =>
    intro ha hsure
    rw [accepted_c_open (own := .go) rfl ha rfl rfl rfl, postS_certain hsure.2,
      sx_toNat (widthBits_pos _) (BitVec.ofNat (widthBits f.w) _) _ (BitVec.toNat_ofNat _ _).symm]
  case vector =>
    intro cls off keep r m d
    refine ⟨?splv, ?splsh, ?splth, ?splp, ?filv, ?filsh, ?filth, ?filp, ?same, ?lanes, ?tags⟩
    case splv =>
      intro h hj hc
      obtain ⟨ha, hst, hsure⟩ := h
      obtain ⟨hcls, hplace⟩ := spill_of_v hc
      change journalFull true (linesOf (16 * (f.aux.toNat % 512)) 512) s = none at hj
      rw [ready_engine_open (own := .go) rfl ⟨ha, hst, hsure⟩ rfl rfl]
      simp only [hplace, hcls, spillLines, hj, rdV_certain hsure.1, hsure.2, spillWrite_certain hsure.2]
      rfl
    case splsh =>
      intro h hj hc
      obtain ⟨ha, hst, hsure⟩ := h
      obtain ⟨hcls, hplace⟩ := spill_of_sh hc
      change journalFull true (linesOf (16 * (f.aux.toNat % 512)) 32) s = none at hj
      rw [ready_engine_open (own := .go) rfl ⟨ha, hst, hsure⟩ rfl rfl]
      simp only [hplace, hcls, spillLines, hj, rdSh_certain hsure.1, spillWrite_certain hsure.2]
      rfl
    case splth =>
      intro h hj hc
      obtain ⟨ha, hst, hsure⟩ := h
      obtain ⟨hcls, hplace⟩ := spill_of_th hc
      change journalFull true (linesOf (16 * (f.aux.toNat % 512)) 16) s = none at hj
      rw [ready_engine_open (own := .go) rfl ⟨ha, hst, hsure⟩ rfl rfl]
      simp only [hplace, hcls, spillLines, hj, rdTh_certain hsure.1, spillWrite_certain hsure.2]
      rfl
    case splp =>
      intro h hj hc
      obtain ⟨ha, hst, hsure⟩ := h
      obtain ⟨hcls, hplace⟩ := spill_of_p hc
      change journalFull true (linesOf (16 * (f.aux.toNat % 512)) 16) s = none at hj
      rw [ready_engine_open (own := .go) rfl ⟨ha, hst, hsure⟩ rfl rfl]
      simp only [hplace, hcls, spillLines, hj, rdP_certain hsure.1, spillWrite_certain hsure.2]
      rfl
    case filv =>
      intro h hc
      obtain ⟨ha, hst, hsure⟩ := h
      obtain ⟨hcls, hplace⟩ := spill_of_v hc
      rw [ready_engine_open (own := .go) rfl ⟨ha, hst, hsure⟩ rfl rfl]
      simp only [hplace, hcls]
      exact congrArg _ (post_certain hsure.2 _ _ _ (by simp))
    case filsh =>
      intro h hc
      obtain ⟨ha, hst, hsure⟩ := h
      obtain ⟨hcls, hplace⟩ := spill_of_sh hc
      rw [ready_engine_open (own := .go) rfl ⟨ha, hst, hsure⟩ rfl rfl]
      simp only [hplace, hcls]
      exact congrArg _ (post_certain hsure.2 _ _ _ (by simp))
    case filth =>
      intro h hc
      obtain ⟨ha, hst, hsure⟩ := h
      obtain ⟨hcls, hplace⟩ := spill_of_th hc
      rw [ready_engine_open (own := .go) rfl ⟨ha, hst, hsure⟩ rfl rfl]
      simp only [hplace, hcls]
      exact congrArg _ (post_certain hsure.2 _ _ _ (by simp))
    case filp =>
      intro h hc hd
      obtain ⟨ha, hst, hsure⟩ := h
      obtain ⟨hcls, hplace⟩ := spill_of_p hc
      rw [ready_engine_open (own := .go) rfl ⟨ha, hst, hsure⟩ rfl rfl]
      simp only [hplace, hcls]
      exact congrArg _ (post_certain hsure.2 _ _ _ fun h0 => hd h0.2)
    case same =>
      intro h hq htag hlane
      rw [exec_vchk h hq, firstDiffer_none hlane]
      simp [htag]
    case lanes =>
      intro h hq l hl hbefore hne
      rw [exec_vchk h hq, firstDiffer_some hl hbefore hne]
      by_cases htag : domA f s = domB f s
      · simp [vchkInfo, htag, b2n]
      · simp [vchkInfo, htag, b2n]
    case tags =>
      intro h hq htag hlane
      rw [exec_vchk h hq, firstDiffer_none hlane]
      simp [vchkInfo, htag, b2n]

end Sys2Proof.Machine
end

section
/-! The system registers (R83, R84, R105 to R107, R206). -/

namespace Sys2Proof.Machine

/-! ### Values of the registers -/

theorem coreCL_eq (n : Nat) : coreCL n = n / 128 % 2 * 16 + n / 32 % 4 * 4 + n / 8 % 4 := by
  simp only [coreCL, coreTower, coreLayer, bits]
  omega

theorem coreCOL_eq (n : Nat) : coreCOL n = n / 128 % 2 * 32 + n / 8 % 4 * 8 + n % 8 := by
  simp only [coreCOL, coreTower, corePos, bits]
  omega

theorem capSP_eq (k : Core) : capSP k = k.spSpare * 2 ^ 32 + 128 * k.spLog * 2 ^ 8 + k.spLog := by
  unfold capSP
  omega

theorem capL2_eq (d : Dev) : capL2 d = d.l2Spare * 2 ^ 40 + 128 * d.l2Log * 2 ^ 16 + d.l2Log := by
  unfold capL2
  omega

theorem capBanks_eq (spare d : Nat) (m : Map Nat) : capBanks spare m d =
    spare * 2 ^ 32 + m.get 0 d % 16 + m.get 1 d % 16 * 2 ^ 4 + m.get 2 d % 16 * 2 ^ 8 + m.get 3 d % 16 * 2 ^ 12 := by
  have hfour : (List.range 4).map (fun i => m.get i d) = [m.get 0 d, m.get 1 d, m.get 2 d, m.get 3 d] := rfl
  simp only [capBanks, hfour, packElems]
  omega

/-- Whether a counter of a row is full (R206). -/
def anyFull (m : Map (BitVec 16)) : Bool := (List.range 128).any fun r => m.get r 0 = 0xFFFF#16

/-- The rows whose counter is not 0. -/
def rowsCounted (m : Map (BitVec 16)) : Nat := (List.range 128).countP fun r => m.get r 0 ≠ 0

theorem oogCnt_eq (a : ArrayState) :
    oogCnt a = b2n (anyFull a.below || anyFull a.above) * 2 ^ 16 + rowsCounted a.above * 2 ^ 8 + rowsCounted a.below := by
  simp only [rowsCounted, List.countP_eq_length_filter]
  rfl

/-! ### Reads and writes -/

/-- TRAPCAUSE written by a handler: RESREP, OWED and REPLAY take the new bits (R345). -/
theorem cause_written (old x : Word) {n : Nat} (hn : n < 64) : ((old &&& ~~~causeMask) ||| (x &&& causeMask)).getLsbD n =
    if n = 17 ∨ (21 ≤ n ∧ n ≤ 31) then x.getLsbD n else old.getLsbD n := by
  have hmask : causeMask.getLsbD n = decide (n = 17 ∨ (21 ≤ n ∧ n ≤ 31)) := by
    revert n
    decide
  rw [BitVec.getLsbD_or, BitVec.getLsbD_and, BitVec.getLsbD_and, BitVec.getLsbD_not, hmask]
  by_cases h : n = 17 ∨ (21 ≤ n ∧ n ≤ 31) <;> simp [h, hn]

/-- A number that no writable register has, or the trap record's outside handler mode. -/
theorem sysWrite_readOnly {n : Nat} {s : State} (x : Word) (h : s.ctx.hmode = false ∨ n ∉ [0x18, 0x19, 0x1A])
    (hn : n ∉ [0x00, 0x01, 0x21]) : sysWrite n x s = s := by
  unfold sysWrite
  split
  all_goals simp_all

/-! ### The statement of O8 -/

/-- Settles O8: each number by its line of `sysRead` or `sysWrite`, the capability words and OOGCNT by their
fields, TRAPCAUSE bit by bit. -/
theorem systemRegisters : Obligations.SystemRegisters := by
  unfold Obligations.SystemRegisters
  intro f s
  refine ⟨fun ha hsure => ?mfs, fun ha hsure => ?mts, rfl, ?check, rfl, rfl, ?cl, ?col, ?tower, rfl, ?sp, ⟨?vb, ?mb⟩, ?l2,
    ⟨?full, ?counts⟩, rfl, rfl, rfl, rfl, rfl, fun x => ?tagDone, fun x => ?scbmode, fun x => ?holdcnt, fun x hm => ?record,
    fun n x h hn => sysWrite_readOnly x h hn⟩
  case mfs =>
    rw [accepted_c_open (own := .go) rfl ha rfl rfl rfl, postS_certain hsure.2]
  case mts =>
    have hclosed : checkedState (.mts f) s = s.modCtx Ctx.commit := rfl
    have hcheck : (s.modCtx Ctx.commit).ctx.a.check = true := by simpa using hsure.1
    rw [accepted_c (own := .go) rfl ha rfl rfl, hclosed, rdS_certain hcheck]
    simp [sourceA]
  case check =>
    show BitVec.ofNat 64 (b2n s.ctx.a.check) = _
    cases s.ctx.a.check <;> rfl
  case cl => exact congrArg (BitVec.ofNat 64) (coreCL_eq s.foc.core)
  case col => exact congrArg (BitVec.ofNat 64) (coreCOL_eq s.foc.core)
  case tower => rfl
  case sp => exact congrArg (BitVec.ofNat 64) (capSP_eq s.core)
  case vb => exact congrArg (BitVec.ofNat 64) (capBanks_eq s.core.rgSpare 4 s.core.nvb)
  case mb => exact congrArg (BitVec.ofNat 64) (capBanks_eq s.core.rgSpare 2 s.core.nmb)
  case l2 => exact congrArg (BitVec.ofNat 64) (capL2_eq s.dev)
  case full =>
    rintro ⟨r, hr, h⟩
    have hfull : (anyFull s.core.arr.below || anyFull s.core.arr.above) = true := by
      simp only [anyFull, Bool.or_eq_true, List.any_eq_true, List.mem_range, decide_eq_true_eq]
      exact h.imp (fun h => ⟨r, hr, h⟩) fun h => ⟨r, hr, h⟩
    show BitVec.ofNat 64 (oogCnt s.core.arr) = _
    rw [oogCnt_eq, hfull]
    rfl
  case counts =>
    intro h
    have hfull : (anyFull s.core.arr.below || anyFull s.core.arr.above) = false := by
      simpa [anyFull] using ⟨fun r hr => (h r hr).1, fun r hr => (h r hr).2⟩
    show BitVec.ofNat 64 (oogCnt s.core.arr) = _
    rw [oogCnt_eq, hfull]
    simp [b2n, rowsCounted]
  case tagDone =>
    show (clearTags x s).ctx.a.tagDone = _
    simp [clearTags]
  case scbmode => exact State.ctx_modCtx s _
  case holdcnt =>
    show (s.modCore _).core.holdcnt = x
    simp
  case record =>
    refine ⟨?tpc, ?tinfo, fun n hn => ?cause⟩
    case tpc => simp [sysWrite, hm, sysRead]
    case tinfo => simp [sysWrite, hm, sysRead, bits]
    case cause =>
      rw [← cause_written _ _ hn]
      simp [sysWrite, hm, sysRead]

end Sys2Proof.Machine
end

section
/-! TRAP, service requests, ERET and END (R85, R352, R353). -/

namespace Sys2Proof.Machine

/-- The low 16 bits of IMM, which a TRAP carries. -/
theorem trapCode_toNat (x : BitVec 32) : (x.extractLsb' 0 16).toNat = x.toNat % 65536 := by simp

/-- TRAPINFO of an ERET refused outside handler mode (R64, R346). -/
theorem opInfo_eret (f : CSlot) (s : State) :
    opInfo (.eret f) 0 0 0 s = BitVec.ofNat 64 (s.foc.idx % 64 * 2 ^ 23 + 0x63 * 2 ^ 8) := by
  have hopc : (Instr.eret f).opcode.toNat = 0x63 := rfl
  have hslot : slotCode (.eret f) = 0 := rfl
  rw [opInfo, hopc, hslot, info64]
  refine congrArg (BitVec.ofNat 64) ?_
  omega

/-! ### The statement of O11 -/

/-- Settles O11: each by its effect after the segment is closed, which within a bundle's issue is the note of it; ERET by its own
verdict. -/
theorem trapInstructions : Obligations.TrapInstructions := by
  unfold Obligations.TrapInstructions
  intro f s s' q
  refine ⟨fun hp => ?noted, fun hp ha => ?taken, fun hp => ?asked, fun hp ha => ?served, fun ha => ?eret,
    fun hp hm h5 h6 hc => ?refused, fun ha => ?ends⟩
  case noted =>
    rw [accepted_c_closing (own := .go) rfl (accepted_of_pre hp) rfl rfl rfl]
    exact congrArg _ (if_pos hp)
  case taken =>
    rw [accepted_c_closing (own := .go) rfl ha rfl rfl rfl]
    exact congrArg _ (if_neg (by simp [hp]))
  case asked =>
    rw [accepted_c_closing (own := .go) rfl (accepted_of_pre hp) rfl rfl rfl, trapCode_toNat]
    exact congrArg _ (if_pos hp)
  case served =>
    rw [accepted_c_closing (own := .go) rfl ha rfl rfl rfl, trapCode_toNat]
    exact congrArg _ (if_neg (by simp [hp]))
  case eret => exact accepted_c_open (own := ownEret f s) rfl ha rfl rfl rfl
  case refused =>
    have hown : ownEret f s = .deny (opInfo (.eret f) 0 0 0 s) := by simp [ownEret, hm]
    have hv : verdictOf (.eret f) (ownEret f s) (checkedState (.eret f) s) = .deny (opInfo (.eret f) 0 0 0 s) := by
      rw [checkedState_open rfl, verdictOf_eq_own h5 h6 hc, hown]
    refine (gated_act hp hv (by simp)).trans ?_
    rw [checkedState_open rfl, opInfo_eret]
    rfl
  case ends => exact accepted_c_closing (own := .go) rfl ha rfl rfl rfl

end Sys2Proof.Machine
end

section
/-! What the scheduler's operations on launches, waits and regions change and leave: the reading of launches, cores and contexts
after each of them. -/

namespace Sys2Proof.Machine

/-! ### Tables -/

/-- A key dropped is listed no more. -/
@[simp] theorem Map.find?_drop_self {α : Type} (m : Map α) (k : Nat) : (m.drop k).find? k = none := by
  induction m with
  | nil => rfl
  | cons e r ih =>
    obtain ⟨j, x⟩ := e
    by_cases h : j = k
    · simpa [Map.drop, h] using ih
    · simpa [Map.drop, h, Map.find?] using ih

/-- What every step of a fold leaves, the fold leaves. -/
theorem foldl_leaves {α β γ : Type} (read : α → γ) {step : α → β → α} (h : ∀ a x, read (step a x) = read a) (l : List β) (a : α) :
    read (l.foldl step a) = read a := by
  induction l generalizing a with
  | nil => rfl
  | cons x l ih => rw [List.foldl_cons, ih, h]

/-! ### A launch changed -/

@[simp] theorem State.launchAt_modLaunch_self (s : State) (n : Nat) (g : Launch → Launch) :
    (s.modLaunch n g).launchAt n = (s.launchAt n).map g := by
  unfold State.modLaunch
  split
  next h => simp [h]
  next l h =>
    rw [h]
    exact Map.find?_set_self _ _ _

@[simp] theorem State.cores_modLaunch (s : State) (n : Nat) (g : Launch → Launch) : (s.modLaunch n g).cores = s.cores := by
  unfold State.modLaunch
  split <;> rfl

@[simp] theorem State.foc_modLaunch (s : State) (n : Nat) (g : Launch → Launch) : (s.modLaunch n g).foc = s.foc := by
  unfold State.modLaunch
  split <;> rfl

@[simp] theorem State.springs_modLaunch (s : State) (n : Nat) (g : Launch → Launch) :
    (s.modLaunch n g).dev.springs = s.dev.springs := by
  unfold State.modLaunch
  split <;> rfl

@[simp] theorem State.hbm_modLaunch (s : State) (n : Nat) (g : Launch → Launch) : (s.modLaunch n g).dev.hbm = s.dev.hbm := by
  unfold State.modLaunch
  split <;> rfl

/-- A core reads from the cores alone. -/
theorem State.coreAt_of_cores {s t : State} (h : t.cores = s.cores) (c : Nat) : t.coreAt c = s.coreAt c := by
  rw [State.coreAt, h, State.coreAt]

@[simp] theorem State.coreAt_modLaunch (s : State) (n c : Nat) (g : Launch → Launch) : (s.modLaunch n g).coreAt c = s.coreAt c :=
  State.coreAt_of_cores (State.cores_modLaunch s n g) c



/-! ### Every context changed -/

theorem State.coreAt_mapCtxs (s : State) (g : Ctx → Ctx) (c : Nat) : (s.mapCtxs g).coreAt c =
    { s.coreAt c with ctxs := (s.coreAt c).ctxs.map fun x => (x.1, g x.2) } :=
  Map.get_map s.cores (fun _ (k : Core) => { k with ctxs := k.ctxs.map fun x => (x.1, g x.2) }) c {} rfl

theorem State.ctxAt_mapCtxs (s : State) {g : Ctx → Ctx} (hg : g {} = {}) (c n : Nat) :
    ((s.mapCtxs g).coreAt c).ctxAt n = g ((s.coreAt c).ctxAt n) := by
  rw [State.coreAt_mapCtxs]
  exact Map.get_map (s.coreAt c).ctxs (fun _ => g) n {} hg

/-! ### Waits -/


/-- A wake changes nothing of a core but its contexts. -/
theorem coreAt_wake (p : WaitOn → Bool) (s : State) (c : Nat) : ∃ l, (wake p s).coreAt c = { s.coreAt c with ctxs := l } :=
  ⟨_, State.coreAt_mapCtxs s _ c⟩

/-- A wake changes nothing of a context but that its wait may have come true. -/
theorem ctxAt_wake (p : WaitOn → Bool) (s : State) (c n : Nat) :
    ∃ b, ((wake p s).coreAt c).ctxAt n = { (s.coreAt c).ctxAt n with woken := b } := by
  unfold wake
  rw [State.ctxAt_mapCtxs s (by simp [Ctx.deferred])]
  split
  · exact ⟨true, rfl⟩
  · exact ⟨_, rfl⟩

@[simp] theorem st_ctxAt_wake (p : WaitOn → Bool) (s : State) (c n : Nat) :
    (((wake p s).coreAt c).ctxAt n).st = ((s.coreAt c).ctxAt n).st := by
  obtain ⟨b, h⟩ := ctxAt_wake p s c n
  rw [h]

@[simp] theorem inst_ctxAt_wake (p : WaitOn → Bool) (s : State) (c n : Nat) :
    (((wake p s).coreAt c).ctxAt n).inst = ((s.coreAt c).ctxAt n).inst := by
  obtain ⟨b, h⟩ := ctxAt_wake p s c n
  rw [h]

@[simp] theorem sp_wake (p : WaitOn → Bool) (s : State) (c : Nat) : ((wake p s).coreAt c).sp = (s.coreAt c).sp := by
  obtain ⟨l, h⟩ := coreAt_wake p s c
  rw [h]

@[simp] theorem full_wake (p : WaitOn → Bool) (s : State) (c a : Nat) : ((wake p s).coreAt c).full a = (s.coreAt c).full a := by
  obtain ⟨l, h⟩ := coreAt_wake p s c
  rw [h]
  rfl

/-! ### Regions -/

@[simp] theorem launchAt_freeRegions (id : Nat) (s : State) (n : Nat) : (freeRegions id s).launchAt n = s.launchAt n := rfl

/-- What becomes of a region of core `c` when those of launch `id` are released. -/
def keptRegion (id c : Nat) (s : State) (r : Region) : Option Region :=
  if r.launch ≠ id then some r
  else if regionBusy id c s then some { r with keep := false, ended := true }
  else none

theorem coreAt_freeRegions (id : Nat) (s : State) (c : Nat) : (freeRegions id s).coreAt c =
    { s.coreAt c with regions := (s.coreAt c).regions.filterMap (keptRegion id c s) } :=
  Map.get_map s.cores (fun c (k : Core) => { k with regions := k.regions.filterMap (keptRegion id c s) }) c {} rfl

@[simp] theorem ctxAt_freeRegions (id : Nat) (s : State) (c n : Nat) :
    ((freeRegions id s).coreAt c).ctxAt n = (s.coreAt c).ctxAt n := by
  rw [coreAt_freeRegions]
  rfl

/-- A launch whose accesses to a core have all performed holds no region there when its regions are released. -/
theorem region?_freeRegions {id c : Nat} {s : State} (h : regionBusy id c s = false) :
    ((freeRegions id s).coreAt c).region? id = none := by
  rw [coreAt_freeRegions, Core.region?, List.find?_eq_none]
  intro r hr
  obtain ⟨r', -, hkept⟩ := List.mem_filterMap.1 hr
  simp only [keptRegion, h] at hkept
  split at hkept
  next hne => cases hkept; simpa using hne
  next => cases hkept

/-- The release of regions changes no access. -/
theorem regionBusy_freeRegions (id id' c : Nat) (s : State) : regionBusy id c (freeRegions id' s) = regionBusy id c s := by
  unfold regionBusy freeRegions
  simp only [List.any_map]
  rfl

end Sys2Proof.Machine
end

section
/-! The ends of stage instances and of deferral batches (R85, R293, R318). -/

namespace Sys2Proof.Machine

/-! ### Instances -/

/-- The records of a launch's instances read from its list of them alone. -/
theorem InstIs.of_insts {s t : State} {i : InstId} {p : InstRec → Prop} (hs : InstIs s i p)
    (h : (t.launchAt i.launch).map Launch.insts = (s.launchAt i.launch).map Launch.insts) : InstIs t i p := by
  obtain ⟨l, hl, r, hr, hp⟩ := hs
  rw [hl] at h
  obtain ⟨m, hm, hi⟩ := Option.map_eq_some_iff.1 h
  exact ⟨m, hm, r, hi ▸ hr, hp⟩

/-- One of the instances changed. -/
theorem InstIs.setInst {s : State} {i : InstId} {p q : InstRec → Prop} {g : InstRec → InstRec} (hs : InstIs s i p)
    (hg : ∀ r, p r → (g r).stage = r.stage ∧ (g r).num = r.num ∧ q (g r)) :
    InstIs (setInst i.launch i.stage i.num g s) i q := by
  obtain ⟨l, hl, r, hr, hst, hnum, hp⟩ := hs
  obtain ⟨hst', hnum', hq⟩ := hg r hp
  refine ⟨_, by rw [Machine.setInst, State.launchAt_modLaunch_self, hl]; rfl, g r, ?_, hst'.trans hst, hnum'.trans hnum, hq⟩
  exact List.mem_map.2 ⟨r, hr, if_pos ⟨hst, hnum⟩⟩

/-! ### The context freed -/

@[simp] theorem ctx_freeCtx (s : State) : (freeCtx s).ctx = { seq := s.ctx.seq } := by
  simp only [freeCtx, State.ctx_modCtx, State.ctx_modDev, State.ctx_modCore]
  rfl


/-! ### What leaves the seat of a context -/

/-- What the context in focus holds, and the instances of a launch, do not differ. -/
structure SameSeat (launch : Nat) (s t : State) : Prop where
  st : t.ctx.st = s.ctx.st
  inst : t.ctx.inst = s.ctx.inst
  insts : (t.launchAt launch).map Launch.insts = (s.launchAt launch).map Launch.insts

theorem SameSeat.refl (launch : Nat) (s : State) : SameSeat launch s s := ⟨rfl, rfl, rfl⟩

theorem SameSeat.trans {launch : Nat} {s t u : State} (h : SameSeat launch s t) (h' : SameSeat launch t u) :
    SameSeat launch s u := ⟨h'.st.trans h.st, h'.inst.trans h.inst, h'.insts.trans h.insts⟩

/-- A context reads as before a change of a core that leaves its contexts. -/
theorem State.ctx_modCoreAt_of_ctxs (s : State) (c : Nat) {g : Core → Core} (hg : ∀ k, (g k).ctxs = k.ctxs) :
    (s.modCoreAt c g).ctx = s.ctx := by
  show ((s.modCoreAt c g).coreAt s.foc.core).ctxAt s.foc.ctx = (s.coreAt s.foc.core).ctxAt s.foc.ctx
  by_cases h : s.foc.core = c
  · rw [h, State.coreAt_modCoreAt_self, Core.ctxAt, hg, Core.ctxAt]
  · rw [State.coreAt_modCoreAt_ne _ _ _ _ h]

theorem sameSeat_modCoreAt (launch : Nat) (s : State) (c : Nat) {g : Core → Core} (hg : ∀ k, (g k).ctxs = k.ctxs) :
    SameSeat launch s (s.modCoreAt c g) := by
  have hctx := State.ctx_modCoreAt_of_ctxs s c hg
  exact ⟨congrArg Ctx.st hctx, congrArg Ctx.inst hctx, rfl⟩

theorem sameSeat_wake (launch : Nat) (p : WaitOn → Bool) (s : State) : SameSeat launch s (wake p s) :=
  ⟨st_ctxAt_wake p s _ _, inst_ctxAt_wake p s _ _, rfl⟩

theorem sameSeat_modLaunch (s : State) (launch : Nat) {g : Launch → Launch} (hg : ∀ l, (g l).insts = l.insts) :
    SameSeat launch s (s.modLaunch launch g) := by
  have hctx : (s.modLaunch launch g).ctx = s.ctx := by simp [State.ctx, State.core]
  refine ⟨congrArg Ctx.st hctx, congrArg Ctx.inst hctx, ?_⟩
  rw [State.launchAt_modLaunch_self, Option.map_map]
  exact congrArg (fun f => (s.launchAt launch).map f) (funext hg)

theorem sameSeat_closeGroup (launch g : Nat) (s : State) : SameSeat launch s (closeGroup launch g s) := by
  unfold closeGroup
  split
  next => exact SameSeat.refl _ _
  next l _ =>
    dsimp only
    split
    next =>
      refine SameSeat.trans ?_ (sameSeat_wake _ _ _)
      exact sameSeat_modLaunch s launch fun _ => rfl
    next => exact SameSeat.refl _ _

theorem sameSeat_closeGroups (launch : Nat) (gs : List Nat) (s : State) :
    SameSeat launch s (gs.foldl (fun s g => closeGroup launch g s) s) := by
  induction gs generalizing s with
  | nil => exact SameSeat.refl _ _
  | cons g gs ih => exact (sameSeat_closeGroup launch g s).trans (ih _)

theorem sameSeat_regionEnds (launch c : Nat) (s : State) : SameSeat launch s (regionEnds launch c s) := by
  unfold regionEnds
  split
  · exact SameSeat.refl _ _
  · exact sameSeat_modCoreAt launch s c fun _ => rfl

theorem sameSeat_releaseRegion (launch c : Nat) (s : State) : SameSeat launch s (releaseRegion launch c s) := by
  unfold releaseRegion
  split
  · exact SameSeat.refl _ _
  · exact sameSeat_modCoreAt launch s c fun _ => rfl

/-! ### The ends -/

/-- What the context in focus ran has ended, its events are cleared, and the context is free. -/
theorem endInstance_frees {i : InstId} {s : State} (h : InstIs s i fun _ => True) :
    (endInstance i s).ctx.st = .free ∧ (endInstance i s).ctx.inst = none
      ∧ InstIs (endInstance i s) i fun r => r.st = .ended ∧ r.events = 0 := by
  unfold endInstance
  extract_lets c gone s1 s2 gs s3
  have hs1 : SameSeat i.launch s s1 := sameSeat_modLaunch s i.launch fun _ => rfl
  have h1 : InstIs s1 i fun _ => True := h.of_insts hs1.insts
  have h2 : InstIs s2 i fun r => r.st = .ended ∧ r.events = 0 := h1.setInst fun r _ => ⟨rfl, rfl, rfl, rfl⟩
  have h23 : SameSeat i.launch s2 s3 := by
    unfold s3
    split
    · exact SameSeat.refl _ _
    · exact sameSeat_modCoreAt _ _ _ fun _ => rfl
  have hrest := h23.trans ((sameSeat_closeGroups i.launch gs s3).trans ((sameSeat_regionEnds _ s3.foc.core _).trans
    (sameSeat_releaseRegion i.launch s3.foc.core _)))
  refine ⟨hrest.st.trans ?_, hrest.inst.trans ?_, h2.of_insts hrest.insts⟩
  · simp [s2]
  · simp [s2]

/-- Whether `i` is bound to the context in focus. -/
theorem boundHere_iff (i : InstId) (s : State) : (match s.launchAt i.launch with
    | some l => l.insts.any fun r => decide (r.stage = i.stage) && decide (r.num = i.num) && decide (r.st = .bound s.foc.core s.foc.ctx)
    | none => false) = true ↔ InstIs s i fun r => r.st = .bound s.foc.core s.foc.ctx := by
  unfold InstIs
  cases s.launchAt i.launch with
  | none => simp
  | some l => simp [and_assoc]

/-- A context that ran a batch of its own is the ended issuer again (R318). -/
theorem endBatch_own {i : InstId} {s : State} (h : InstIs s i fun r => r.st = .bound s.foc.core s.foc.ctx) :
    (endBatch i s.foc.ctx s).ctx.st = .ended ∧ (endBatch i s.foc.ctx s).ctx.inst = some { i with batch := none } := by
  unfold endBatch
  extract_lets own t
  have hown : own = true := (boundHere_iff i s).2 h
  have ht : t = s.modCtx fun c => { seq := c.seq, st := .ended, inst := some { i with batch := none } } := if_pos ⟨rfl, hown⟩
  refine ⟨(sameSeat_wake i.launch _ t).st.trans ?_, (sameSeat_wake i.launch _ t).inst.trans ?_⟩
  · simp [ht]
  · simp [ht]

/-- Any other context that ran a batch is free. -/
theorem endBatch_other {i : InstId} {o : Nat} {s : State}
    (h : ¬(o = s.foc.ctx ∧ InstIs s i fun r => r.st = .bound s.foc.core s.foc.ctx)) :
    (endBatch i o s).ctx.st = .free ∧ (endBatch i o s).ctx.inst = none := by
  unfold endBatch
  extract_lets own t
  have hown : ¬(o = s.foc.ctx ∧ own = true) := fun h' => h ⟨h'.1, (boundHere_iff i s).1 h'.2⟩
  have ht : t = regionEnds i.launch s.foc.core (freeCtx s) := if_neg hown
  have hfree : SameSeat i.launch (freeCtx s) t := ht ▸ sameSeat_regionEnds i.launch s.foc.core (freeCtx s)
  refine ⟨(sameSeat_wake i.launch _ t).st.trans (hfree.st.trans ?_), (sameSeat_wake i.launch _ t).inst.trans (hfree.inst.trans ?_)⟩
  · simp
  · simp

/-- The END of a context that runs no batch, and has deferred nothing that is not done. -/
theorem exec_stageInstanceEnd_instance {s : State} {i : InstId} (hst : s.ctx.st = .ended) (hi : s.ctx.inst = some i)
    (hthrough : through s = true) (hb : i.batch = none) (hdefq : ∀ e ∈ s.cores, ∀ d ∈ e.2.defq, d.inst ≠ i)
    (hlive : batchLive i s = false) : exec .stageInstanceEnd s = .next (endInstance i s) := by
  have hleft : defersLeft i s = false := by simpa [defersLeft] using fun c k hk d hd => hdefq (c, k) hk d hd
  show execStageInstanceEnd s = _
  simp [execStageInstanceEnd, hst, hi, hthrough, hb, hleft, hlive]

/-- The end of a batch, no access of its context being on an A path. -/
theorem exec_stageInstanceEnd_batch {s : State} {i : InstId} {p o : Nat} (hst : s.ctx.st = .ended) (hi : s.ctx.inst = some i)
    (hthrough : through s = true) (hb : i.batch = some (p, o))
    (hacc : ∀ a ∈ s.core.acc, a.ctx = s.foc.ctx → a.onPathA = false) :
    exec .stageInstanceEnd s = .next (endBatch i o s) := by
  have hnone : (s.core.acc.any fun a => decide (a.ctx = s.foc.ctx) && a.onPathA) = false := by simpa using hacc
  show execStageInstanceEnd s = _
  simp only [execStageInstanceEnd, hst, hi, hthrough, hb, hnone]
  rfl

end Sys2Proof.Machine
end

section
/-! The end of a launch, its completion word, kills and replays (R281, R294, R360, R372). -/

namespace Sys2Proof.Machine

/-! ### LAUNCH_COMPLETE (R294) -/

/-- Of a launch that is through no access is still to perform. -/
theorem regionBusy_of_through {id : Nat} {l : Launch} {s : State} (h : launchThrough id l s = true) (c : Nat) :
    regionBusy id c s = false := by
  simp only [launchThrough, Bool.and_eq_true, Bool.not_eq_true'] at h
  obtain ⟨⟨-, hwaiting⟩, -⟩ := h
  rw [List.any_eq_false] at hwaiting
  rw [regionBusy, List.any_eq_false]
  intro e he hany
  obtain ⟨a, ha, hmine⟩ := List.any_eq_true.1 hany
  rw [Bool.and_eq_true] at hmine
  exact hwaiting e he (List.any_eq_true.2 ⟨a, ha, hmine.1⟩)

/-- A launch that is through, neither killed nor shadowed, with no records kept, frees its regions and is complete. -/
theorem exec_launchComplete {s : State} {l : Launch} (hl : s.launchAt s.foc.id = some l) (hc : l.complete = false)
    (ht : launchThrough s.foc.id l s = true) (hk : l.killed = false) (hs : l.rc.shadow = false) (hlater : l.later = []) :
    exec .launchComplete s = .next ((freeRegions s.foc.id s).modLaunch s.foc.id fun x =>
      { x with complete := true, wordDue := true, later := [] }) := by
  show execLaunchComplete s = _
  simp [execLaunchComplete, hl, hc, ht, hk, hs, hlater]

/-! ### COMPLETION_WORD_WRITE (R294) -/

@[simp] theorem launchAt_forgetLaunch (id : Nat) (s : State) : (forgetLaunch id s).launchAt id = none :=
  Map.find?_drop_self s.dev.launches id


@[simp] theorem coreAt_forgetLaunch (id c : Nat) (s : State) : (forgetLaunch id s).coreAt c = s.coreAt c := rfl

/-- The status that a completion word takes. -/
def complStatus (l : Launch) : Nat := if l.killed then 2 else 1

theorem complStatus_mod (l : Launch) : complStatus l % 256 ^ 4 = complStatus l := by
  unfold complStatus
  split <;> rfl

theorem exec_completionWordWrite_global {s : State} {l : Launch} {h : Handle} (hl : s.launchAt s.foc.id = some l)
    (hd : l.wordDue = true) (hk : l.rc.compl.testBit 63 = false)
    (hw : walkPage s.dev l.asid (l.rc.compl % 2 ^ 52) = some h) (hwr : h.wr = true) :
    exec .completionWordWrite s = .next (forgetLaunch s.foc.id
      (homeWrite (h.pa + l.rc.compl % 2 ^ 52 % pageBytes h.psz) 4 (complStatus l) h.key l.vf s)) := by
  have hbits : bits l.rc.compl 51 0 = l.rc.compl % 2 ^ 52 := by simp [bits]
  have hkind : complKind l.rc.compl = false := hk
  show execCompletionWordWrite s = _
  simp only [execCompletionWordWrite, completionGlobal, hl, hd, hkind, hbits, hw, hwr]
  rfl

/-- What COMPLETION_WORD_WRITE does for a word in the scratchpad of core `c`, at byte `a` of its SRAM, where no pond is stored. -/
theorem exec_completionWordWrite_scratchpad {s : State} {l : Launch} {p : Nat} {r : Region} {c a : Nat}
    (hl : s.launchAt s.foc.id = some l) (hd : l.wordDue = true) (hk : l.rc.compl.testBit 63 = true) (hp : l.parent = some p)
    (hc : l.rc.compl / 2 ^ 22 % 2 ^ 8 = c) (hr : (s.coreAt c).region? p = some r) (ha : r.base + l.rc.compl % 2 ^ 22 = a)
    (hsize : l.rc.compl % 2 ^ 22 + 4 ≤ r.size) (hpond : pondSpace s c a 4 = none) :
    exec .completionWordWrite s = .next (if (s.coreAt c).full a then s else
      forgetLaunch s.foc.id (spSetFull c a true (spWrite c a 4 (complStatus l) s))) := by
  have hkind : complKind l.rc.compl = true := hk
  have hcore : bits l.rc.compl 29 22 = c := hc
  have hoff : bits l.rc.compl 21 0 = l.rc.compl % 2 ^ 22 := by simp [bits]
  have hfull : fullAtBank c a s = (s.coreAt c).full a := by simp [fullAtBank, hpond]
  have hspoil : spoilPonds c a 4 s = s := by simp [spoilPonds, hpond]
  show execCompletionWordWrite s = _
  simp only [execCompletionWordWrite, hl, hd, hkind, hp, hcore, hoff, Option.bind_some, hr, ha, hfull, hspoil,
    if_neg (Nat.not_lt.2 hsize)]
  cases (s.coreAt c).full a <;> rfl

/-- A word written to SRAM reads back. -/
theorem sp_read_spWrite (c a v : Nat) (s : State) : ((spWrite c a 4 v s).coreAt c).sp.read a 4 = v % 256 ^ 4 := by
  simp [spWrite, wakeWords, Mem.read_write]

@[simp] theorem sp_spSetFull (c a : Nat) (b : Bool) (s : State) : ((spSetFull c a b s).coreAt c).sp = (s.coreAt c).sp := by
  simp [spSetFull, wakeWords, Core.setFull]

theorem full_spSetFull (c a : Nat) (s : State) : ((spSetFull c a true s).coreAt c).full a = true := by
  rw [spSetFull, wakeWords, full_wake, State.coreAt_modCoreAt_self]
  simp [Core.setFull, Core.full]

/-! ### Kills and replays (R360, R372) -/

/-- A core without a launch's contexts: those of the launch are free, the others as they were. -/
theorem ctxAt_evict (k : Core) (id : Nat) (sent : Nat → Bool) (n : Nat) : (k.evict id sent).ctxAt n =
    if ofLaunch id (k.ctxAt n).inst then { seq := (k.ctxAt n).seq } else k.ctxAt n := by
  have hentry : (k.evict id sent).ctxs = k.ctxs.map fun e =>
      (e.1, if ofLaunch id (k.ctxAt e.1).inst then { seq := e.2.seq } else e.2) :=
    List.map_congr_left fun e _ => by split <;> rfl
  rw [Core.ctxAt, hentry]
  exact Map.get_map k.ctxs (fun n c => if ofLaunch id (k.ctxAt n).inst then { seq := c.seq } else c) n {} (by split <;> rfl)

/-- A core that lists nothing loses nothing. -/
theorem evict_empty (id : Nat) (sent : Nat → Bool) : ({} : Core).evict id sent = {} := rfl

/-- No context of a core runs a launch whose contexts are gone from it. -/
theorem ofLaunch_evict (k : Core) (id : Nat) (sent : Nat → Bool) (n : Nat) :
    ofLaunch id ((k.evict id sent).ctxAt n).inst = false := by
  rw [ctxAt_evict]
  split
  next => rfl
  next h => simpa using h

/-- No context runs a launch that has been stopped. -/
theorem evicted_stopLaunch (id : Nat) (s : State) : Evicted (stopLaunch id s) id := by
  intro c n
  unfold stopLaunch
  simp only [State.coreAt_modLaunch, State.coreAt_modDev, inst_ctxAt_wake]
  have hcore := Map.get_map s.cores (fun _ (k : Core) => k.evict id fun x => Config.freeBit (s.fresh.1 + 2 ^ 32 * x)) c {}
    (evict_empty id _)
  exact (congrArg (fun k : Core => ofLaunch id (k.ctxAt n).inst) hcore).trans (ofLaunch_evict _ id _ n)

theorem launchAt_stopLaunch (id : Nat) (s : State) : (stopLaunch id s).launchAt id = (s.launchAt id).map fun l => { l with
    insts := l.insts.map fun r => { r with st := .ended, saved := none }
    orphans := [], gens := [], ponds := [] } := by
  unfold stopLaunch
  exact State.launchAt_modLaunch_self _ _ _

@[simp] theorem springs_stopLaunch (id : Nat) (s : State) : (stopLaunch id s).dev.springs = s.dev.springs := by
  unfold stopLaunch
  exact State.springs_modLaunch _ _ _

/-- That a launch is evicted reads from what the contexts run. -/
theorem Evicted.of_ctxAt {s t : State} {id : Nat} (h : Evicted s id)
    (ht : ∀ c n, ((t.coreAt c).ctxAt n).inst = ((s.coreAt c).ctxAt n).inst) : Evicted t id := fun c n => by rw [ht, h c n]

/-- No context runs a launch whose contexts have ended at once. -/
theorem evicted_evictLaunch (id : Nat) (s : State) : Evicted (evictLaunch id s) id :=
  (evicted_stopLaunch id s).of_ctxAt fun c n => congrArg Ctx.inst (ctxAt_freeRegions id (stopLaunch id s) c n)

/-- A killed launch is evicted. -/
theorem evicted_killLaunch (id : Nat) (s : State) : Evicted (killLaunch id s) id := evicted_evictLaunch id _

/-- A killed launch holds no region that an access is not still to reach. -/
theorem region?_killLaunch {id c : Nat} {s : State} (h : regionBusy id c (killLaunch id s) = false) :
    ((killLaunch id s).coreAt c).region? id = none :=
  region?_freeRegions (regionBusy_freeRegions id id c _ ▸ h)

/-- A killed launch is marked so, and its instances have ended. -/
theorem launchAt_killLaunch {id : Nat} {s : State} {l : Launch} (h : s.launchAt id = some l) :
    ∃ m, (killLaunch id s).launchAt id = some m ∧ m.killed = true ∧ ∀ r ∈ m.insts, r.st = .ended := by
  refine ⟨_, (launchAt_stopLaunch id _).trans (by rw [State.launchAt_modLaunch_self, h]; rfl), rfl, fun r hr => ?_⟩
  obtain ⟨r', -, rfl⟩ := List.mem_map.1 hr
  rfl

/-! ### What a replay leaves (R372, R374) -/

@[simp] theorem springs_startToken (c : Nat) (s : State) : (startToken c s).dev.springs = s.dev.springs := rfl

@[simp] theorem springs_evictLaunch (id : Nat) (s : State) : (evictLaunch id s).dev.springs = s.dev.springs :=
  springs_stopLaunch id s

@[simp] theorem springs_discardShadow (id : Nat) (l : Launch) (s : State) :
    (discardShadow id l s).dev.springs = s.dev.springs := by
  unfold discardShadow
  rw [State.springs_modLaunch]
  split <;> rfl

@[simp] theorem springs_forgetLaunch (id : Nat) (s : State) : (forgetLaunch id s).dev.springs = s.dev.springs := rfl

theorem ctxAt_discardShadow (id : Nat) (l : Launch) (s : State) (c n : Nat) :
    ((discardShadow id l s).coreAt c).ctxAt n = (s.coreAt c).ctxAt n := by
  have hcore := Map.get_map s.cores (fun _ (k : Core) => { k with l1 := k.l1.filter fun x => x.ver ≠ some id }) c {} rfl
  have hctx := congrArg (fun k : Core => k.ctxAt n) hcore
  unfold discardShadow
  rw [State.coreAt_modLaunch]
  split
  · exact hctx
  · exact hctx

/-- A record enters its queue at the tail. -/
theorem springOf_enterSpring (r : QRec) (s : State) :
    springOf (enterSpring r s) r.rc.queue = springOf s r.rc.queue ++ [{ r with headAt := s.dev.base }] := by
  unfold enterSpring springOf
  exact Map.get_set_self _ _ _ _

/-- A replayed launch is evicted and forgotten, and its record is the last of its queue. -/
theorem replayLaunch_requeues (id : Nat) (l : Launch) (s : State) :
    Evicted (replayLaunch id l true s) id ∧ (replayLaunch id l true s).launchAt id = none
      ∧ ∃ q : QRec, springOf (replayLaunch id l true s) l.rc.queue = springOf s l.rc.queue ++ [q] ∧ q.rc = l.rc
        ∧ q.vf = l.vf ∧ q.asid = l.asid ∧ q.parent = l.parent ∧ q.replays = l.replays + 1 := by
  unfold replayLaunch
  extract_lets t u
  have hsprings : u.dev.springs = s.dev.springs := by
    rw [show u.dev.springs = t.dev.springs by simp [u]]
    exact foldl_leaves (fun s : State => s.dev.springs) (fun s (e : Nat × Nat) => springs_startToken e.1 s) _ s
  let q : QRec := { rc := l.rc, vf := l.vf, asid := l.asid, parent := l.parent, replays := l.replays + 1, headAt := u.dev.base }
  refine ⟨?evicted, launchAt_forgetLaunch id _, q, ?queued, rfl, rfl, rfl, rfl, rfl⟩
  case evicted => exact (evicted_evictLaunch id t).of_ctxAt fun c n => congrArg Ctx.inst (ctxAt_discardShadow id l _ c n)
  case queued =>
    refine (springOf_enterSpring _ u).trans ?_
    rw [springOf, hsprings]
    rfl

/-- What firmware does to a launch that is not replayed. -/
theorem endByFirmware_kill {id : Nat} {l : Launch} {s : State} (hl : s.launchAt id = some l) (hc : l.complete = false)
    (h : l.rc.shadow = false ∨ s.limit l.vf 3 < l.replays + 1) : endByFirmware id true s = killLaunch id s := by
  rcases h with h | h
  · simp [endByFirmware, hl, hc, h]
  · simp [endByFirmware, hl, hc, b2n, Nat.not_le.2 h]

/-- What it does to a shadowed one with a replay and a place in its queue left. -/
theorem endByFirmware_replay {id : Nat} {l : Launch} {s : State} (hl : s.launchAt id = some l) (hc : l.complete = false)
    (hs : l.rc.shadow = true) (hn : l.replays + 1 ≤ s.limit l.vf 3) (hq : (springOf s l.rc.queue).length < 256) :
    endByFirmware id true s = replayLaunch id l true s := by
  simp [endByFirmware, hl, hc, hs, b2n, hn, hq]

theorem exec_launchWatchdogExpiry {l : Launch} {s : State} (hl : s.launchAt s.foc.id = some l) (hd : watchdogDue l s = true) :
    exec .launchWatchdogExpiry s = .next (endByFirmware s.foc.id true s) := by
  show execLaunchWatchdogExpiry s = _
  simp [execLaunchWatchdogExpiry, hl, hd]

theorem exec_launchReplay {s : State} (h : s.foc.aux ≠ 1) :
    exec .launchReplay s = .next (endByFirmware s.foc.id true s) := congrArg _ (if_neg h)

/-- A watchdog expires of no launch that is complete. -/
theorem incomplete_of_watchdogDue {l : Launch} {s : State} (h : watchdogDue l s = true) : l.complete = false := by
  simp only [watchdogDue, Bool.and_eq_true, Bool.not_eq_true'] at h
  obtain ⟨⟨hc, -⟩, -⟩ := h
  exact hc

/-! ### RECORD_PRIO_CHANGE (R281) -/

/-- A record with another priority. -/
def QRec.withPrio (prio : Nat) (r : QRec) : QRec := { r with rc := { r.rc with prio := prio % 8 } }

/-- A queue after the change of its record at `pos`. -/
def changePrio (pos prio : Nat) (l : List QRec) : List QRec :=
  l.zipIdx.map fun x => if x.2 = pos then x.1.withPrio prio else x.1

theorem getElem?_changePrio (pos prio n : Nat) (l : List QRec) : (changePrio pos prio l)[n]? =
    if n = pos then l[n]?.map (QRec.withPrio prio) else l[n]? := by
  simp only [changePrio, List.getElem?_map, List.getElem?_zipIdx, Nat.zero_add, Option.map_map]
  split
  next h => simp [Function.comp_def, h]
  next h => simp [Function.comp_def, h]

theorem exec_recordPrioChange_queued {s : State} {q pos prio : Nat} (hid : s.foc.id = 0) (hq : springOf s q ≠ []) :
    exec (.recordPrioChange q pos prio) s = .next (s.modDev fun d => { d with
      springs := d.springs.set q (changePrio pos prio (springOf s q)) }) := by
  show execRecordPrioChange q pos prio s = _
  have hne : (changePrio pos prio (springOf s q)).isEmpty = false := by simpa [changePrio] using hq
  simp only [execRecordPrioChange, hid, ne_eq, not_true_eq_false, if_false]
  exact congrArg _ (if_neg (by simpa [changePrio] using hne))

theorem exec_recordPrioChange_selected (q pos prio : Nat) {s : State} (hid : s.foc.id ≠ 0) :
    exec (.recordPrioChange q pos prio) s =
      .next (s.modLaunch s.foc.id fun l => { l with rc := { l.rc with prio := prio % 8 } }) := by
  show execRecordPrioChange q pos prio s = _
  exact if_pos hid

theorem springOf_set (s : State) (q : Nat) (l : List QRec) :
    springOf (s.modDev fun d => { d with springs := d.springs.set q l }) q = l := Map.get_set_self _ _ _ _

/-! ### The statement of O50 -/

/-- Settles O50: each event by what it makes of a state that meets its conditions, of which the lemmas above read the contexts,
regions, launches and queues. -/
theorem launchEnds : Obligations.LaunchEnds := by
  unfold Obligations.LaunchEnds
  intro s id
  refine ⟨fun i hst hi hthrough => ⟨?seat, ?batch⟩, ?complete, fun l hl hd => ⟨?global, ?scratchpad⟩, ?watchdog, ?replay, ?kill,
    ?queued, ?selected⟩
  case seat =>
    intro hb hdefq hlive h
    exact ⟨_, exec_stageInstanceEnd_instance hst hi hthrough hb hdefq hlive, endInstance_frees h⟩
  case batch =>
    intro p o hb hacc own
    refine ⟨_, exec_stageInstanceEnd_batch hst hi hthrough hb hacc, ?_, fun h => endBatch_other h⟩
    rintro ⟨rfl, h⟩
    exact endBatch_own h
  case complete =>
    intro l hl hc ht hk hs hlater
    refine ⟨_, exec_launchComplete hl hc ht hk hs hlater, fun c => ?_, State.hbm_modLaunch _ _ _,
      { l with complete := true, wordDue := true, later := [] }, ?_, rfl, rfl, rfl⟩
    · rw [State.coreAt_modLaunch, region?_freeRegions (regionBusy_of_through ht c)]
    · rw [State.launchAt_modLaunch_self, launchAt_freeRegions, hl]
      rfl
  case global =>
    intro h hk hw hwr
    exact ⟨_, exec_completionWordWrite_global hl hd hk hw hwr, rfl, launchAt_forgetLaunch _ _⟩
  case scratchpad =>
    intro p r hk hp hr hsize c a hpond
    have hx := exec_completionWordWrite_scratchpad hl hd hk hp rfl hr rfl hsize hpond
    refine ⟨fun hempty => ⟨_, hx.trans (congrArg _ (if_neg (Bool.eq_false_iff.1 hempty))), ?_, full_spSetFull c a _,
      launchAt_forgetLaunch _ _⟩, fun hfull => hx.trans (congrArg _ (if_pos hfull))⟩
    rw [coreAt_forgetLaunch, sp_spSetFull, sp_read_spWrite]
    exact complStatus_mod l
  case watchdog =>
    intro l hl hdue hs
    have hkill := endByFirmware_kill hl (incomplete_of_watchdogDue hdue) (.inl hs)
    exact ⟨killLaunch id s, (exec_launchWatchdogExpiry hl hdue).trans (congrArg _ hkill), evicted_killLaunch id s,
      fun c => region?_killLaunch, launchAt_killLaunch hl⟩
  case replay =>
    intro l hl haux hc hs hn hq
    exact ⟨replayLaunch id l true s, (exec_launchReplay haux).trans (congrArg _ (endByFirmware_replay hl hc hs hn hq)),
      replayLaunch_requeues id l s⟩
  case kill =>
    intro l hl haux hc hs hn
    obtain ⟨m, hm, hk, -⟩ := launchAt_killLaunch hl
    exact ⟨killLaunch id s, (exec_launchReplay haux).trans (congrArg _ (endByFirmware_kill hl hc (.inr hn))),
      evicted_killLaunch id s, m, hm, hk⟩
  case queued =>
    intro q pos prio r hid hr
    have hq : springOf s q ≠ [] := fun h => by simp [h] at hr
    refine ⟨_, exec_recordPrioChange_queued hid hq, ?_, fun n hn => ?_⟩
    · rw [springOf_set, getElem?_changePrio, if_pos rfl, hr]
      rfl
    · rw [springOf_set, getElem?_changePrio, if_neg hn]
  case selected =>
    intro q pos prio l hid hl
    refine ⟨_, exec_recordPrioChange_selected q pos prio hid, (State.launchAt_modLaunch_self _ _ _).trans ?_⟩
    exact congrArg _ hl

end Sys2Proof.Machine
end

section
/-! What keeps the memories of a state in canonical form (log 4): the state's operations, HBM and the caches, translation, the gate. -/

namespace Sys2Proof.Machine

/-- HBM and the host's memory are in canonical form. -/
def DevOk (d : Dev) : Prop := Memory.wf d.hbm = true ∧ Memory.wf d.hostMem = true

theorem memoriesOk_iff (s : State) : MemoriesOk s ↔ DevOk s.dev ∧ ∀ e ∈ s.cores, Memory.wf e.2.sp = true := and_assoc.symm

theorem Map.mem_of_find? {α : Type} {m : Map α} {k : Nat} {x : α} (h : m.find? k = some x) : (k, x) ∈ m := by
  induction m with
  | nil => exact nomatch h
  | cons e r ih =>
    obtain ⟨j, y⟩ := e
    unfold Map.find? at h
    split at h
    · simp_all
    · exact List.mem_cons_of_mem _ (ih h)

theorem Map.mem_set {α : Type} {m : Map α} {k : Nat} {x : α} {e : Nat × α} (h : e ∈ m.set k x) : e = (k, x) ∨ e ∈ m := by
  induction m with
  | nil => simpa [Map.set] using h
  | cons f r ih =>
    obtain ⟨j, y⟩ := f
    unfold Map.set at h
    split at h
    · rcases List.mem_cons.1 h with h | h
      · exact .inl h
      · exact .inr (List.mem_cons_of_mem _ h)
    · split at h
      · exact (List.mem_cons.1 h).imp id id
      · rcases List.mem_cons.1 h with h | h
        · exact .inr (h ▸ List.mem_cons_self)
        · exact (ih h).imp id (List.mem_cons_of_mem _)

namespace MemoriesOk
variable {s : State}

theorem dev (h : MemoriesOk s) : DevOk s.dev := ((memoriesOk_iff s).1 h).1

theorem sp (h : MemoriesOk s) (c : Nat) : Memory.wf (s.coreAt c).sp = true := by
  unfold State.coreAt Map.get
  cases hf : s.cores.find? c with
  | none => rfl
  | some k => exact ((memoriesOk_iff s).1 h).2 _ (Map.mem_of_find? hf)

theorem modDev (h : MemoriesOk s) {g : Dev → Dev} (hg : DevOk s.dev → DevOk (g s.dev)) : MemoriesOk (s.modDev g) :=
  (memoriesOk_iff _).2 ⟨hg h.dev, ((memoriesOk_iff s).1 h).2⟩

theorem modCoreAt (h : MemoriesOk s) {c : Nat} {g : Core → Core}
    (hg : Memory.wf (s.coreAt c).sp = true → Memory.wf (g (s.coreAt c)).sp = true) : MemoriesOk (s.modCoreAt c g) :=
  (memoriesOk_iff _).2 ⟨h.dev, fun e he => by
    rcases Map.mem_set he with rfl | he
    · exact hg (h.sp c)
    · exact ((memoriesOk_iff s).1 h).2 e he⟩

theorem modCore (h : MemoriesOk s) {g : Core → Core}
    (hg : Memory.wf s.core.sp = true → Memory.wf (g s.core).sp = true) : MemoriesOk (s.modCore g) :=
  h.modCoreAt hg

theorem modCtxAt (h : MemoriesOk s) {c n : Nat} {g : Ctx → Ctx} : MemoriesOk (s.modCtxAt c n g) := h.modCoreAt fun h => h

theorem modCtx (h : MemoriesOk s) {g : Ctx → Ctx} : MemoriesOk (s.modCtx g) := h.modCoreAt fun h => h

theorem modArch (h : MemoriesOk s) {g : Arch → Arch} : MemoriesOk (s.modArch g) := h.modCtx

/-- Every core changed. -/
theorem mapCores (h : MemoriesOk s) {g : Nat × Core → Nat × Core}
    (hg : ∀ e, Memory.wf e.2.sp = true → Memory.wf (g e).2.sp = true) :
    MemoriesOk { s with cores := s.cores.map g } :=
  (memoriesOk_iff _).2 ⟨h.dev, fun e he => by
    obtain ⟨x, hx, rfl⟩ := List.mem_map.1 he
    exact hg x (((memoriesOk_iff s).1 h).2 x hx)⟩

theorem mapCtxs (h : MemoriesOk s) {g : Ctx → Ctx} : MemoriesOk (s.mapCtxs g) := h.mapCores (by exact fun _ h => h)

theorem ite (h : MemoriesOk s) {t : State} (h' : MemoriesOk t) {p : Prop} {_ : Decidable p} : MemoriesOk (if p then s else t) := by
  split
  · exact h
  · exact h'

theorem foldl (h : MemoriesOk s) {α : Type} {g : State → α → State} {l : List α}
    (hg : ∀ s x, MemoriesOk s → MemoriesOk (g s x)) : MemoriesOk (l.foldl g s) := by
  induction l generalizing s with
  | nil => exact h
  | cons x r ih => exact ih (hg s x h)

theorem fresh (h : MemoriesOk s) : MemoriesOk s.fresh.2 := h
theorem newId (h : MemoriesOk s) : MemoriesOk s.newId.2 := h

theorem modLaunch (h : MemoriesOk s) {n : Nat} {g : Launch → Launch} : MemoriesOk (s.modLaunch n g) := by
  unfold State.modLaunch
  split
  · exact h
  · exact h.modDev fun h => h

theorem wake (h : MemoriesOk s) {p : WaitOn → Bool} : MemoriesOk (wake p s) := h.mapCtxs
theorem wakeWords (h : MemoriesOk s) {c addr n : Nat} : MemoriesOk (wakeWords c addr n s) := h.wake
theorem spWrite (h : MemoriesOk s) {c addr n v : Nat} : MemoriesOk (spWrite c addr n v s) :=
  (h.modCoreAt fun hk => Mem.wf_write _ _ _ _ hk).wakeWords
theorem spSetFull (h : MemoriesOk s) {c addr : Nat} {full : Bool} : MemoriesOk (spSetFull c addr full s) :=
  (h.modCoreAt fun hk => by unfold Core.setFull; split <;> exact hk).wakeWords

theorem freshIf (h : MemoriesOk s) {b : Bool} : MemoriesOk (if b then s.fresh else (0, s)).2 := by
  split
  · exact h.fresh
  · exact h

theorem post (h : MemoriesOk s) {r : RegId} {lat : Nat} {v : Payload} : MemoriesOk (post r lat v s) := by
  unfold Machine.post
  split
  · exact h
  · exact h.freshIf.modCtx

theorem postS (h : MemoriesOk s) {n lat : Nat} {x : Word} : MemoriesOk (postS n lat x s) := h.post
theorem postV (h : MemoriesOk s) {n lat : Nat} {x : Vec} {t : BitVec 32} : MemoriesOk (postV n lat x t s) := h.post
theorem allocEntry (h : MemoriesOk s) {due : Option Nat} : MemoriesOk (allocEntry due s).2 := h.newId.modArch
theorem popEntry (h : MemoriesOk s) : MemoriesOk (popEntry s).2 := by
  unfold Machine.popEntry
  split
  · exact h
  · exact h.modArch
theorem leaveIssue (h : MemoriesOk s) : MemoriesOk (leaveIssue s) := (h.modCore fun h => h).ite h
theorem blockOn (h : MemoriesOk s) {w : WaitOn} : MemoriesOk (blockOn w s) := h.modCtx.leaveIssue
theorem killHere (h : MemoriesOk s) : MemoriesOk (killHere s) := h.modLaunch.modCtx.leaveIssue
theorem takeTrap (h : MemoriesOk s) {q : TrapReq} : MemoriesOk (takeTrap q s) := by
  unfold Machine.takeTrap
  dsimp only
  generalize Ctx.snapshot _ _ _ = snap
  split
  · exact h.modCtx.killHere
  · exact h.modCtx.modCtx.leaveIssue.ite (h.modCtx.killHere.ite h.modCtx.modCtx)
theorem startFault (h : MemoriesOk s) {i : Instr} {c : Nat} {info : Word} : MemoriesOk (startFault i c info s) := h.modCtx
theorem heldCycle (h : MemoriesOk s) : MemoriesOk (heldCycle s) := h.modCore fun h => h
theorem rewindCycle (h : MemoriesOk s) : MemoriesOk (rewindCycle s) := h.modCore fun h => h
end MemoriesOk

/-! ### HBM, the Mere and the L2 -/

namespace DevOk
variable {d : Dev}

theorem ite (h : DevOk d) {e : Dev} (h' : DevOk e) {p : Prop} {_ : Decidable p} : DevOk (if p then d else e) := by
  split
  · exact h
  · exact h'

theorem foldl (h : DevOk d) {α : Type} {g : Dev → α → Dev} {l : List α} (hg : ∀ d x, DevOk d → DevOk (g d x)) :
    DevOk (l.foldl g d) := by
  induction l generalizing d with
  | nil => exact h
  | cons x r ih => exact ih (hg d x h)

theorem hbmWrite (h : DevOk d) {a n v : Nat} {k : Map Nat} :
    DevOk { d with hbm := d.hbm.write a n v, blockKey := k } := ⟨Mem.wf_write _ _ _ _ h.1, h.2⟩

/-- A device with the same memories. -/
theorem same (h : DevOk d) {e : Dev} (hb : e.hbm = d.hbm := by rfl) (hm : e.hostMem = d.hostMem := by rfl) : DevOk e := by
  unfold DevOk
  rw [hb, hm]
  exact h

theorem hbmTake (h : DevOk d) {c : CLine} : DevOk (hbmTake c d) := h.foldl fun d i h => by
  split
  · exact h
  · exact h.hbmWrite

theorem mereFlush (h : DevOk d) {pa vf : Nat} : DevOk (mereFlush pa vf d) := by
  unfold Machine.mereFlush
  split
  · exact h
  · exact h.ite h.hbmTake.same

theorem mereRoom (h : DevOk d) {pa vf : Nat} : DevOk (mereRoom pa vf d) := by
  refine h.ite ?_
  split
  · exact h
  · exact h.mereFlush.same

theorem countMere (h : DevOk d) {pa vf i : Nat} : DevOk (countMere pa vf i d) := h

theorem mereDrop (h : DevOk d) {pa : Nat} : DevOk (mereDrop pa d) := h

theorem l2Drop (h : DevOk d) {pa : Nat} : DevOk (l2Drop pa d) := h

theorem mereLookup (h : DevOk d) {pa key vf : Nat} {w : Bool} : DevOk (mereLookup pa key vf w d) :=
  h.countMere.ite (DevOk.same h.countMere.mereFlush.mereDrop.mereRoom)

theorem l2Flush (h : DevOk d) {pa vf : Nat} : DevOk (l2Flush pa vf d) := by
  unfold Machine.l2Flush
  split
  · exact h
  · exact h.ite h.mereLookup.same

theorem l2Room (h : DevOk d) {pa vf : Nat} : DevOk (l2Room pa vf d) := by
  refine h.ite ?_
  split
  · exact h
  · exact h.l2Flush.same

theorem l2Touch (h : DevOk d) {pa key vf : Nat} : DevOk (l2Touch pa key vf d) :=
  h.ite (DevOk.same h.l2Flush.l2Drop.l2Room.mereLookup)

theorem touchAll (h : DevOk d) {pa n key vf : Nat} : DevOk (touchAll pa n key vf d) := h.ite (h.foldl fun _ _ h => h.l2Touch)

theorem homePut (h : DevOk d) {key pa b : Nat} : DevOk (homePut key pa b d) := by
  unfold Machine.homePut
  split
  · exact ⟨h.1, Mem.wf_put _ _ _ h.2⟩
  · exact h

theorem homePuts (n : Nat) : ∀ {key pa v : Nat} {d : Dev}, DevOk d → DevOk (homePuts key pa n v d) := by
  induction n with
  | zero => exact fun h => h
  | succ n ih => exact fun h => ih h.homePut
end DevOk

namespace MemoriesOk
variable {s : State}

theorem touchAll (h : MemoriesOk s) {pa n key vf : Nat} : MemoriesOk (s.modDev (touchAll pa n key vf)) :=
  h.modDev fun h => h.touchAll
theorem wakeGlobal (h : MemoriesOk s) {pa n : Nat} : MemoriesOk (wakeGlobal pa n s) := h.wake
theorem homeRead (h : MemoriesOk s) {pa n key vf : Nat} : MemoriesOk (homeRead pa n key vf s).2 := h.touchAll
theorem homeWrite (h : MemoriesOk s) {pa n v key vf : Nat} : MemoriesOk (homeWrite pa n v key vf s) :=
  (h.modDev (by exact fun h => DevOk.homePuts n h.touchAll)).wakeGlobal

theorem lowRead (h : MemoriesOk s) {ver : Option Nat} {pa n key vf : Nat} : MemoriesOk (lowRead ver pa n key vf s).2 := by
  unfold Machine.lowRead
  split
  · exact h.touchAll
  · exact h.homeRead

theorem lowWrite (h : MemoriesOk s) {ver : Option Nat} {pa n v key vf : Nat} : MemoriesOk (lowWrite ver pa n v key vf s) := by
  unfold Machine.lowWrite
  split
  · exact ((h.ite (h.modDev fun h => h)).modLaunch.touchAll.wakeGlobal).ite h.homeWrite
  · exact h.homeWrite

theorem writeDirty (h : MemoriesOk s) {x : L1Line} {vf : Nat} : MemoriesOk (writeDirty x vf s) :=
  h.foldl fun _ _ h => h.lowWrite.ite h
theorem l1Flush (h : MemoriesOk s) {c : Nat} {x : L1Line} : MemoriesOk (l1Flush c x s) := (h.ite h.writeDirty).modCoreAt fun h => h
theorem l1Drop (h : MemoriesOk s) {c : Nat} {x : L1Line} : MemoriesOk (l1Drop c x s) := h.modCoreAt fun h => h
theorem flushUpTo (h : MemoriesOk s) {c : Nat} {g : BitVec 16} : MemoriesOk (flushUpTo c g s) := h.foldl fun _ _ h => h.l1Flush
theorem promoteOldest (h : MemoriesOk s) {c : Nat} : MemoriesOk (promoteOldest c s) := by
  unfold Machine.promoteOldest
  split
  · exact h
  · exact h.flushUpTo.modCoreAt fun h => h
theorem promoteUpTo (h : MemoriesOk s) {c : Nat} {g : BitVec 16} : MemoriesOk (promoteUpTo c g s) :=
  h.foldl fun _ _ h => h.promoteOldest
theorem l1WriteBack (h : MemoriesOk s) {c : Nat} {x : L1Line} : MemoriesOk (l1WriteBack c x s) := h.ite h.promoteUpTo.l1Flush
theorem l1Clear (h : MemoriesOk s) {c pa key : Nat} {ver : Option Nat} : MemoriesOk (l1Clear c pa key ver s) := by
  unfold Machine.l1Clear
  split
  · exact h
  · exact h.l1WriteBack.l1Drop
theorem l1Read (h : MemoriesOk s) {c : Nat} {ver : Option Nat} {pa n key vf : Nat} :
    MemoriesOk (l1Read c ver pa n key vf s).2 := by
  unfold Machine.l1Read
  dsimp only
  split
  · exact h.l1Clear
  · exact h.l1Clear.lowRead.modCoreAt fun h => h
theorem l1Write (h : MemoriesOk s) {c : Nat} {ver : Option Nat} {pa n v key vf : Nat} :
    MemoriesOk (l1Write c ver pa n v key vf s) := h.l1Clear.modCoreAt fun h => h

/-- A fold that carries a value beside the state. -/
theorem foldl_snd (h : MemoriesOk s) {α β : Type} {g : β × State → α → β × State} {l : List α} {b : β}
    (hg : ∀ p x, MemoriesOk p.2 → MemoriesOk (g p x).2) : MemoriesOk (l.foldl g (b, s)).2 := by
  suffices H : ∀ p : β × State, MemoriesOk p.2 → MemoriesOk (l.foldl g p).2 from H _ h
  induction l with
  | nil => exact fun _ h => h
  | cons x r ih => exact fun p h => ih (g p x) (hg p x h)

theorem globalRead (h : MemoriesOk s) {c : Nat} {ca : Bool} {ver : Option Nat} {pa n key vf : Nat} :
    MemoriesOk (globalRead c ca ver pa n key vf s).2 := h.foldl_snd fun p x h => by
  obtain ⟨acc, s⟩ := p
  dsimp only
  split
  · exact h.l1Read
  · exact h.lowRead
theorem globalWrite (h : MemoriesOk s) {c : Nat} {ca : Bool} {ver : Option Nat} {pa n v key vf : Nat} :
    MemoriesOk (globalWrite c ca ver pa n v key vf s) := h.foldl fun _ _ h => h.l1Write.ite h.lowWrite
theorem l1Invalidate (h : MemoriesOk s) {c : Nat} : MemoriesOk (l1Invalidate c s) := h.modCoreAt fun h => h

/-! ### Translation -/

theorem walkDo (h : MemoriesOk s) {tower asid va : Nat} : MemoriesOk (walkDo tower asid va s).2 := by
  unfold Machine.walkDo
  dsimp only
  split
  · exact h
  · exact h.modDev fun h => DevOk.foldl (g := fun d p => Machine.touchAll p 8 0 _ d) h fun _ _ h => h.touchAll
theorem tlbFill (h : MemoriesOk s) {c va : Nat} {x : Handle} : MemoriesOk (tlbFill c va x s) := (h.modCoreAt fun h => h).modDev fun h => h
theorem translate (h : MemoriesOk s) {c asid va : Nat} : MemoriesOk (translate c asid va s).2 := by
  have hw : MemoriesOk (match tlbHit c asid va s with
    | some h => (some h, s)
    | none => Machine.walkDo (coreTower c) asid va s).2 := by
    split
    · exact h
    · exact h.walkDo
  unfold Machine.translate
  dsimp only
  split
  · exact hw
  · exact hw.tlbFill
theorem missBegins (h : MemoriesOk s) {u : Nat × Nat} {c vf asid va : Nat} : MemoriesOk (missBegins u c vf asid va s) :=
  h.ite (h.newId.modDev fun h => h)
theorem translateFor (h : MemoriesOk s) {u : Nat × Nat} {c asid va : Nat} : MemoriesOk (translateFor u c asid va s).2 := by
  unfold Machine.translateFor
  split
  · split
    · exact h
    · exact h.translate
  · exact h.translate
theorem missesLeave (h : MemoriesOk s) {u : Nat × Nat} : MemoriesOk (missesLeave u s) := h.modDev fun h => h
theorem setBankTable (h : MemoriesOk s) {sl : Bool} {i p : Nat} {w : Word} : MemoriesOk (setBankTable sl i p w s) :=
  (h.modDev fun h => h).ite (h.modCoreAt fun h => h)
theorem vaTouch (h : MemoriesOk s) {asid va n vf : Nat} : MemoriesOk (vaTouch asid va n vf s) := h.foldl fun _ _ h => by
  dsimp only
  split
  · exact h.touchAll.ite h
  · exact h

/-! ### The gate -/

theorem enterPath (h : MemoriesOk s) {a : Action} : MemoriesOk (enterPath a s) := by
  cases a with
  | job j => exact ((h.modDev fun h => h).modDev fun h => h).ite ((h.modDev fun h => h).modCore fun h => h)
  | launch r => exact (h.modCore fun h => h).modDev fun h => h
  | _ => exact h.modCore fun h => h
theorem submit (h : MemoriesOk s) {a : Action} : MemoriesOk (submit a s) := by
  unfold Machine.submit
  split
  · exact h.modCtx
  · exact h.enterPath
theorem journal (h : MemoriesOk s) {spill : Bool} {l : List Nat} : MemoriesOk (journal spill l s) := by
  unfold Machine.journal
  split
  · exact h
  · exact h.modCtx
theorem openSegment (h : MemoriesOk s) {o : Nat} : MemoriesOk (openSegment o s) := h.modCtx
theorem clearTags (h : MemoriesOk s) {x : Word} : MemoriesOk (clearTags x s) := h.modCtx
theorem restoreLine (h : MemoriesOk s) {e : JEntry} : MemoriesOk (restoreLine e s) :=
  h.modArch.ite (h.spWrite.foldl fun _ _ h => h.spSetFull)
theorem lockWait (h : MemoriesOk s) {g : Segment} : MemoriesOk (lockWait g s).2 := by
  unfold Machine.lockWait
  split
  · exact h.fresh
  · exact h
theorem rewind (h : MemoriesOk s) : MemoriesOk (rewind s) := by
  unfold Machine.rewind
  split
  · exact h
  · split
    · exact h.takeTrap.modCore fun h => h
    · exact MemoriesOk.modCore (MemoriesOk.modCtx (h.lockWait.foldl fun _ _ h => h.restoreLine)) fun h => h
theorem act (h : MemoriesOk s) {v : Verdict} {slot : Nat} : MemoriesOk (v.act slot s) := by
  cases v with
  | go => exact h
  | trap => exact h.takeTrap
  | deny => exact h.takeTrap
  | block => exact h.blockOn
  | hold => exact h.modCore fun h => h
  | ask => exact (h.modCore fun h => h).modCtx
  | rewind => exact h.rewind

theorem perform (h : MemoriesOk s) {i : Instr} {eff : State → State} (heff : ∀ s, MemoriesOk s → MemoriesOk (eff s)) :
    MemoriesOk (perform i eff s) := by
  refine (heff s h).ite (h.startFault.ite ?_)
  split
  · exact heff s h
  · exact h.rewind.ite h.startFault

/-! ### Accesses on their paths -/

theorem makeVersions (h : MemoriesOk s) {n : Nat} {els : List AEl} : MemoriesOk (makeVersions n els s) :=
  h.ite (h.foldl fun _ _ h => h.foldl fun _ _ h => by
    dsimp only
    split
    · exact h.lowWrite.ite h
    · exact h)
theorem takeBank (h : MemoriesOk s) {low : Bool} {b : Nat × Nat} : MemoriesOk (takeBank low b s) :=
  h.modCoreAt fun hk => by split <;> exact hk
theorem takeBanks (h : MemoriesOk s) {low : Bool} {l : List (Nat × Nat)} : MemoriesOk (takeBanks low l s) :=
  h.foldl fun _ _ h => h.takeBank
theorem keepOld (h : MemoriesOk s) {ctx ord : Nat} : MemoriesOk (keepOld ctx ord s) := h.modCtxAt.ite h
theorem keepOldFor (h : MemoriesOk s) {inst : InstId} {ctx ord : Nat} : MemoriesOk (keepOldFor inst ctx ord s) := h.keepOld.ite h
theorem spoilPonds (h : MemoriesOk s) {c addr n : Nat} : MemoriesOk (spoilPonds c addr n s) := by
  unfold Machine.spoilPonds
  split
  · exact h
  · exact h.fresh.modLaunch
theorem spTake (h : MemoriesOk s) {c a n : Nat} : MemoriesOk (spTake c a n s).2 := by
  unfold Machine.spTake
  split
  · exact h
  · exact h.fresh.spoilPonds
theorem spoilRead (h : MemoriesOk s) {c : Nat} {l : List Nat} : MemoriesOk (spoilRead c l s) := by
  unfold Machine.spoilRead
  split
  · exact h.spoilPonds
  · exact h
theorem elemRead (h : MemoriesOk s) {x : Access} {ver : Option Nat} {vf : Nat} {e : Elem} :
    MemoriesOk (elemRead x ver vf e s).2 := by
  unfold Machine.elemRead
  split
  · exact h.spTake
  · exact h.globalRead
theorem freeFull (h : MemoriesOk s) {c a n : Nat} : MemoriesOk (freeFull c a n s) := h.foldl fun _ _ h => h.fresh.spSetFull
theorem spoilBytes (h : MemoriesOk s) {c a n : Nat} : MemoriesOk (spoilBytes c a n s) := h.fresh.spWrite.freeFull
theorem elemWrite (h : MemoriesOk s) {x : Access} {ver : Option Nat} {vf : Nat} {e : Elem} {v : Nat} :
    MemoriesOk (elemWrite x ver vf e v s) := by
  unfold Machine.elemWrite
  split
  · exact h.spoilPonds.spoilBytes.ite h.spoilPonds.spWrite
  · exact h.globalWrite
theorem fillEntry (h : MemoriesOk s) {ctx : Nat} {entry : Option Nat} {data : Nat} {p : Option (Nat × Nat)} :
    MemoriesOk (fillEntry ctx entry data p s) := by
  unfold Machine.fillEntry
  split
  · exact h
  · exact h.freshIf.modCtxAt
theorem writeBackAll (h : MemoriesOk s) : MemoriesOk (writeBackAll s) := h.foldl fun _ _ h => h.l1WriteBack
theorem l1Evict (n : Nat) : ∀ {s : State} {x : Access}, MemoriesOk s → MemoriesOk (l1Evict x n s) := by
  induction n with
  | zero => exact fun h => h
  | succ n ih =>
    intro s x h
    unfold Machine.l1Evict
    dsimp only
    split
    · exact h
    · exact ih (h.l1WriteBack.l1Drop.modDev fun h => h)
theorem beforePerform (h : MemoriesOk s) {x : Access} : MemoriesOk (beforePerform x s) :=
  (MemoriesOk.l1Evict _ ((h.writeBackAll.ite h).foldl fun _ _ h => h.l1WriteBack.l1Drop)).foldl fun _ _ h => h.l1WriteBack
theorem logNarrow (h : MemoriesOk s) {x : Access} : MemoriesOk (logNarrow x s) := (h.modCore fun h => h).ite h
theorem dropAccess (h : MemoriesOk s) {x : Access} : MemoriesOk (dropAccess x s) := (h.modCore fun h => h).wake
end MemoriesOk
end Sys2Proof.Machine
end

section
/-! Memories kept by accesses, synchronisation, spill memory and the vector engine. -/

namespace Sys2Proof.Machine
namespace MemoriesOk
variable {s : State}

theorem refocus (h : MemoriesOk s) {f : Focus} : MemoriesOk { s with foc := f } := h

theorem performAccess (h : MemoriesOk s) {x : Access} : MemoriesOk (performAccess x s) := by
  unfold Machine.performAccess
  extract_lets ver vf foc t bad u written home w z
  have ht : MemoriesOk t := h.refocus.beforePerform
  have hu : MemoriesOk u := by
    unfold u
    split
    · exact ht
    · exact ht
    · exact ht.keepOld
  have hw : MemoriesOk w := by
    unfold w
    split
    · exact MemoriesOk.fillEntry (hu.foldl_snd fun p e h => by exact h.elemRead)
    · have hs : MemoriesOk written := hu.foldl fun _ _ h => h.elemWrite
      exact hs.writeBackAll.ite hs
    · split
      · exact hu
      · dsimp only
        exact MemoriesOk.fillEntry (hu.elemRead.elemWrite.ite hu.elemRead)
    · split
      · exact hu
      · exact MemoriesOk.wake (MemoriesOk.modCoreAt hu fun h => h)
    · exact hu.modLaunch.wake
    · exact MemoriesOk.modDev (hu.foldl_snd fun p e h => by exact h.elemRead) fun h => h
  refine MemoriesOk.logNarrow ?_
  unfold z
  split
  · exact hw.l1Invalidate.ite hw
  · exact hw
theorem performNow (h : MemoriesOk s) {x : Access} : MemoriesOk (performNow x s) :=
  h.dropAccess.ite h.dropAccess.takeBanks.performAccess
theorem begin (h : MemoriesOk s) {x : Access} : MemoriesOk (begin x s) := h.performNow.ite h.enterPath
theorem newAccess (h : MemoriesOk s) {n : Nat} {path : Path} {kind : AccKind} {els : List Elem} :
    MemoriesOk (newAccess n path kind els s).2 := MemoriesOk.freshIf h.newId
theorem loadOp (h : MemoriesOk s) {i : Instr} {n base : Nat} {check : List AEl} {els : List (Nat × Nat × Nat)}
    {acq : Option Nat} : MemoriesOk (loadOp i n base check els acq s) := by
  unfold Machine.loadOp
  split
  · exact h.startFault
  · exact h.startFault.ite h.allocEntry.newId.freshIf.begin
theorem storeOp (h : MemoriesOk s) {i : Instr} {n base : Nat} {check : List AEl} {els : List (Nat × Nat × Nat)} :
    MemoriesOk (storeOp i n base check els s) := by
  unfold Machine.storeOp
  split
  · exact h.startFault
  · extract_lets written
    split
    · exact h.startFault
    · have hx : MemoriesOk (Machine.newAccess n (aPath n) .store
          (els.map fun x => { loc := locOf (Machine.makeVersions n written s) n x.1 x.2.1, size := x.2.1, data := x.2.2 })
          (Machine.makeVersions n written s)).2 := h.makeVersions.newAccess
      refine MemoriesOk.ite (p := n = 0) ?_ (hx.startFault.ite hx.submit)
      split
      · exact hx.startFault
      · exact hx.journal.begin

/-! ### Full/empty operations, atomics, ordering, tags -/

theorem feOp (h : MemoriesOk s) {i : Instr} {f : ASlot} {need : Need} {g : Nat → Nat → State → State}
    (hg : ∀ c a s, MemoriesOk s → MemoriesOk (g c a s)) : MemoriesOk (feOp i f need g s) := by
  unfold Machine.feOp
  extract_lets off
  split
  · exact h.startFault
  · split
    · exact h
    · exact hg _ _ _ h.takeBank.spoilPonds
theorem feFill (h : MemoriesOk s) {i : Instr} {f : ASlot} {c a data : Nat} : MemoriesOk (feFill i f c a data s) := by
  refine h.startFault.ite ?_
  exact h.allocEntry.fillEntry
theorem setWord (h : MemoriesOk s) {c a : Nat} {full : Bool} : MemoriesOk (setWord c a full s) := h.spoilBytes.ite h.spSetFull
theorem setState (h : MemoriesOk s) {i : Instr} {f : ASlot} {full : Bool} : MemoriesOk (setState i f full s) :=
  h.feOp fun c a s h => by
    refine MemoriesOk.ite ?_ h.setWord
    split
    · exact h.startFault
    · exact h.journal.setWord
theorem amoOp (h : MemoriesOk s) {i : Instr} {f : ASlot} {status : Bool} : MemoriesOk (amoOp i f status s) := by
  unfold Machine.amoOp
  extract_lets n off w
  split
  · exact h.startFault
  · split
    · exact h.startFault
    · refine h.startFault.ite ?_
      exact h.makeVersions.allocEntry.newId.freshIf.enterPath
theorem pacqBegin (h : MemoriesOk s) {f : ASlot} : MemoriesOk (pacqBegin f s) :=
  h.modCtx.foldl fun _ _ h => h.newId.modCoreAt fun h => h
theorem pacqClear (h : MemoriesOk s) : MemoriesOk (pacqClear s) := h.mapCores (by exact fun _ h => h)
theorem drnAct (h : MemoriesOk s) {f : ASlot} : MemoriesOk (drnAct f s) := h.l1Invalidate.ite h
theorem tagStart (h : MemoriesOk s) {t : Nat} : MemoriesOk (tagStart t s) := h.modArch
theorem forInst (h : MemoriesOk s) {i : InstId} {g : Ctx → Ctx} {r : InstRec → InstRec} : MemoriesOk (forInst i g r s) :=
  h.mapCtxs.modLaunch
theorem dropClean (h : MemoriesOk s) : MemoriesOk (dropClean s) := h.foldl fun _ _ h => h.l1Invalidate
theorem fire (h : MemoriesOk s) {w : Watch} : MemoriesOk (w.fire s) := (h.dropClean.ite h).spoilPonds.spSetFull
theorem fireWatches (h : MemoriesOk s) {i : InstId} : MemoriesOk (fireWatches i s) :=
  h.forInst.modLaunch.foldl fun _ _ h => h.fire
theorem tagComplete (h : MemoriesOk s) {i : InstId} {t : Nat} : MemoriesOk (tagComplete i t s) := h.forInst.modLaunch.fireWatches
theorem tagFault (h : MemoriesOk s) {i : InstId} {t cause : Nat} {info : Word} : MemoriesOk (tagFault i t cause info s) :=
  h.forInst.modLaunch
theorem flagAccess (h : MemoriesOk s) {sc t f : Nat} {add : Bool} {v : BitVec 32} :
    MemoriesOk (flagAccess sc t f add v s).2 := h.newId.freshIf
theorem acquire (h : MemoriesOk s) {sc : Nat} : MemoriesOk (acquire sc s) := h.l1Invalidate.ite h

/-! ### Barriers and held services -/

theorem barOp (h : MemoriesOk s) {i : Instr} {f : ASlot} {need : Need} {limit : Nat} {g : Nat → Nat → State → State}
    (hg : ∀ c a s, MemoriesOk s → MemoriesOk (g c a s)) : MemoriesOk (barOp i f need limit g s) := by
  refine h.startFault.ite ?_
  split
  · exact h.startFault
  · split
    · exact h
    · exact h.startFault.ite (hg _ _ _ h.takeBank)
theorem barEntry (h : MemoriesOk s) {f : ASlot} {c a o : Nat} {flag : Bool} : MemoriesOk (barEntry f c a o flag s) :=
  h.allocEntry.fillEntry
theorem takeAnswer (h : MemoriesOk s) : MemoriesOk (takeAnswer s) := h.modCtx
theorem giveAnswer (h : MemoriesOk s) {ok : Bool} {x : Nat} : MemoriesOk (giveAnswer ok x s) := h.modCtx
theorem giveCorrupt (h : MemoriesOk s) {a b : Nat} : MemoriesOk (giveCorrupt a b s) := h.modCtx
theorem givePoolEmpty (h : MemoriesOk s) {x : Word} : MemoriesOk (givePoolEmpty x s) := h.modCtx
theorem setPond (h : MemoriesOk s) {q : Nat} {g : Pond → Pond} : MemoriesOk (setPond q g s) := h.modLaunch
theorem servePut (h : MemoriesOk s) {f : XSlot} : MemoriesOk (servePut f s) := by
  unfold Machine.servePut
  extract_lets q n
  split
  · exact h.setPond.wake.giveAnswer.ite h.giveAnswer
  · exact h.giveAnswer
theorem serveGet (h : MemoriesOk s) {f : XSlot} : MemoriesOk (serveGet f s) := by
  unfold Machine.serveGet
  extract_lets q n
  split
  · exact h.giveCorrupt.ite (h.setPond.wake.giveAnswer.acquire.ite h.giveAnswer)
  · exact h.giveAnswer
theorem closeGroup (h : MemoriesOk s) {l g : Nat} : MemoriesOk (closeGroup l g s) := by
  unfold Machine.closeGroup
  split
  · exact h
  · exact h.modLaunch.wake.ite h
theorem serveGroup (h : MemoriesOk s) {f : XSlot} : MemoriesOk (serveGroup f s) := by
  unfold Machine.serveGroup
  extract_lets g i
  split
  · exact h.giveAnswer
  · exact (h.ite h.modArch.modLaunch.closeGroup).giveAnswer.acquire.ite (h.ite h.modArch.modLaunch.closeGroup).giveAnswer
theorem serveWord (h : MemoriesOk s) {f : XSlot} : MemoriesOk (serveWord f s) := by
  unfold Machine.serveWord
  extract_lets n take
  split
  · refine h.giveCorrupt.ite (MemoriesOk.ite ?_ h.giveAnswer)
    exact (h.spTake.spSetFull.ite h.spTake).giveAnswer.acquire
  · have hl := fun {ver pa key vf} => h.lowRead (ver := ver) (pa := pa) (n := 4) (key := key) (vf := vf)
    exact hl.giveCorrupt.ite (hl.giveAnswer.ite (hl.givePoolEmpty.ite (hl.lowWrite.ite hl).giveAnswer.acquire))
  · exact h.giveAnswer
theorem serve (h : MemoriesOk s) {i : Instr} : MemoriesOk (serve i s) := by
  unfold Machine.serve
  split
  · exact h.servePut
  · exact h.serveGet
  · exact h.serveGroup
  · exact h.serveWord
  · exact h
theorem becomeWaiter (h : MemoriesOk s) {i : Instr} : MemoriesOk (becomeWaiter i s) := by
  unfold Machine.becomeWaiter
  split
  · exact h.modCtx
  · exact h
theorem wakeDefer (h : MemoriesOk s) {c : Nat} : MemoriesOk (wakeDefer c s) := h.wake
theorem formBatch (h : MemoriesOk s) {c x : Nat} {i : InstId} {p e n : Nat} : MemoriesOk (formBatch c x i p e n s) :=
  h.ite (h.modCoreAt fun h => h).wakeDefer
theorem postReply (h : MemoriesOk s) {n : Nat} {x : Word} : MemoriesOk (postReply n x s) := (h.modCore fun h => h).postS

/-! ### Spill memory, system registers and the vector engine -/

theorem spillWrite (h : MemoriesOk s) {off n v : Nat} : MemoriesOk (spillWrite off n v s) := h.freshIf.journal.modCtx
theorem sysWrite (h : MemoriesOk s) {n : Nat} {x : Word} : MemoriesOk (sysWrite n x s) := by
  unfold Machine.sysWrite
  split
  · exact h.clearTags
  · exact h.modCtx
  · exact h.modCtx.ite h
  · exact h.modCtx.ite h
  · exact h.modCtx.ite h
  · exact h.modCore fun h => h
  · exact h
theorem popIf (h : MemoriesOk s) {f : VSlot} : MemoriesOk (popIf f s) := h.popEntry.ite h
theorem writeLanes (h : MemoriesOk s) {f : VSlot} {lat : Nat} {tag : Option (BitVec 32)} {g : Nat → BitVec 32} :
    MemoriesOk (writeLanes f lat tag g s) := h.post
theorem writePred (h : MemoriesOk s) {f : VSlot} {lat : Nat} {g : Nat → Bool} : MemoriesOk (writePred f lat g s) := h.post
theorem domainFault (h : MemoriesOk s) {i : Instr} {x : Src} : MemoriesOk (domainFault i x s) := h.startFault
theorem vOp (h : MemoriesOk s) {i : Instr} {f : VSlot} {lat : Nat} {lin : Bool} {srcs : List Src} {fd : Nat}
    {g : Nat → BitVec 32} : MemoriesOk (vOp i f lat lin srcs fd g s) := by
  unfold Machine.vOp
  split
  · exact h.domainFault
  · exact h.popIf.writeLanes
theorem vf1 (h : MemoriesOk s) {i : Instr} {f : VSlot} {lin : Bool} {g : FVal → FVal} : MemoriesOk (vf1 i f lin g s) := h.vOp
theorem vf2 (h : MemoriesOk s) {i : Instr} {f : VSlot} {lin : Bool} {g : FVal → FVal → FVal} : MemoriesOk (vf2 i f lin g s) := h.vOp
theorem vf3 (h : MemoriesOk s) {i : Instr} {f : VSlot} {g : FVal → FVal → FVal → FVal} : MemoriesOk (vf3 i f g s) := h.vOp
theorem vCompare (h : MemoriesOk s) {i : Instr} {f : VSlot} {g : Nat → Bool} : MemoriesOk (vCompare i f g s) := by
  unfold Machine.vCompare
  split
  · exact h.domainFault
  · exact h.popIf.writePred
theorem vi2 (h : MemoriesOk s) {i : Instr} {f : VSlot} {u sat : Bool} {g : Nat → Int → Int → Int} :
    MemoriesOk (vi2 i f u sat g s) := h.vOp
theorem viBits (h : MemoriesOk s) {i : Instr} {f : VSlot} {u : Bool} {g : Nat → Nat → Nat → Nat} :
    MemoriesOk (viBits i f u g s) := h.vOp
theorem vMove (h : MemoriesOk s) {i : Instr} {f : VSlot} {srcs : List Src} {g : Vec → Nat → BitVec 32} :
    MemoriesOk (vMove i f srcs g s) := h.vOp
theorem vReduce (h : MemoriesOk s) {i : Instr} {f : VSlot} {lin : Bool} {x : BitVec 32} : MemoriesOk (vReduce i f lin x s) := by
  unfold Machine.vReduce
  extract_lets srcs
  split
  · exact h.domainFault
  · exact h.popIf.postV

/-! ### Holds of a start -/

theorem takePort (h : MemoriesOk s) {n : Nat} : MemoriesOk (takePort n s) := h.modCore fun h => h
theorem grantBus (h : MemoriesOk s) {i : Instr} : MemoriesOk (grantBus i s) := h.ite (h.modCore fun h => h)
theorem holdBegins (h : MemoriesOk s) {i : Instr} : MemoriesOk (holdBegins i s) := by
  unfold Machine.holdBegins
  split
  · exact h.ite h.pacqBegin
  · exact h.missBegins
  · exact h
end MemoriesOk
end Sys2Proof.Machine
end

section
/-! Memories kept by the function array and by control. -/

namespace Sys2Proof.Machine
namespace MemoriesOk
variable {s : State}

/-! ### The function array -/

theorem modArr (h : MemoriesOk s) {g : ArrayState → ArrayState} : MemoriesOk (s.modArr g) := h.modCore fun h => h
theorem spoilUses (h : MemoriesOk s) {l : List (Nat × Bool)} : MemoriesOk (spoilUses l s) := MemoriesOk.ite h.fresh.modArr h
theorem changeIn (h : MemoriesOk s) {n : Nat} {uses : List Nat} {c : ArrChange} : MemoriesOk (changeIn n uses c s) :=
  h.freshIf.modArr
theorem corruptStart (h : MemoriesOk s) {i : Instr} {a : Nat} : MemoriesOk (corruptStart i a s) := h.rewind.ite h.startFault
theorem takeSources (h : MemoriesOk s) {f : MSlot} {r : Nat} : MemoriesOk (takeSources f r s) := h.modArch.ite h
theorem gradTag (h : MemoriesOk s) {f : MSlot} {l : List (Option Nat × VReg)} : MemoriesOk (gradTag f l s).2 := by
  unfold Machine.gradTag
  split
  · split
    · exact h
    · split
      · exact h.fresh
      · exact h
  · exact h
theorem postRows (h : MemoriesOk s) {i : Instr} {f : MSlot} {id n c af len : Nat} {acc : Bool} {tag : BitVec 32} :
    MemoriesOk (postRows i f id n c af len acc tag s) := h.foldl fun _ _ h => h.foldl fun _ _ h => h.post
theorem spoilGrads (h : MemoriesOk s) {op : Instr} : MemoriesOk (spoilGrads op s) := by
  unfold Machine.spoilGrads
  split
  · exact h.fresh.modArr
  · exact h
theorem spoilPush (h : MemoriesOk s) {p : Push} : MemoriesOk (spoilPush p s) := h.fresh.modCtx.spoilGrads
theorem meetPort (h : MemoriesOk s) : MemoriesOk (meetPort s) := by
  unfold Machine.meetPort
  split
  · exact MemoriesOk.ite h.spoilPush.refocus h
  · exact h
theorem enterPush (h : MemoriesOk s) {p : Push} : MemoriesOk (enterPush p s) := h.modArr
theorem setPush (h : MemoriesOk s) {id : Nat} {g : Push → Push} : MemoriesOk (setPush id g s) := h.modArr
theorem loseRows (h : MemoriesOk s) {p : Push} {info : Word} : MemoriesOk (loseRows p info s) := h.modCtxAt.setPush
theorem pushRow (h : MemoriesOk s) {p : Push} : MemoriesOk (pushRow p s) := by
  have hcount {t : State} (ht : MemoriesOk t) {c : Prop} {_ : Decidable c} {g : ArrayState → ArrayState} :
      MemoriesOk (if c then t else t.modArr g) := ht.ite ht.modArr
  unfold Machine.pushRow
  dsimp only
  split
  · exact h.loseRows
  · refine MemoriesOk.setPush ?_
    split
    · exact hcount h.spoilRead.modCtxAt
    · exact hcount h.spoilRead.modCtxAt
    · exact hcount h.spoilRead.modCtxAt
    · exact (hcount h.spoilRead.modArr).spoilGrads.ite (hcount h.spoilRead.modArr)
    · exact h.spoilRead
theorem failLoad (h : MemoriesOk s) {l : FLoad} {f : MSlot} {n addr : Nat} : MemoriesOk (failLoad l f n addr s) :=
  h.modArr.modCtxAt
theorem beginLoad (h : MemoriesOk s) {l : FLoad} : MemoriesOk (beginLoad l s) := by
  unfold Machine.beginLoad
  split
  · dsimp only
    split
    · exact (h.ite h.spoilRead).modArr.failLoad
    · exact (h.ite h.spoilRead).modArr
  · exact h
theorem postRead (h : MemoriesOk s) {i : Instr} {row : Nat} {r : RegId} {lat : Nat} {v : Payload} :
    MemoriesOk (postRead i row r lat v s) := h.post
theorem applyChanges (h : MemoriesOk s) {grid : Bool} : MemoriesOk (applyChanges grid s) := h.modArr

/-! ### Control -/

theorem advanceHere (h : MemoriesOk s) : MemoriesOk (advanceHere s) := h.modCtx
theorem trapAfter (h : MemoriesOk s) {q : TrapReq} : MemoriesOk (trapAfter q s) := h.takeTrap
theorem enterService (h : MemoriesOk s) : MemoriesOk (enterService s) := h.modCtx.leaveIssue
theorem branchTo (h : MemoriesOk s) {t : Word} : MemoriesOk (branchTo t s) := h.modCtx
theorem branchIf (h : MemoriesOk s) {f : CSlot} {c : Nat → Nat → Nat → Bool} : MemoriesOk (branchIf f c s) := h.branchTo.ite h
end MemoriesOk
end Sys2Proof.Machine
end

section
/-! Memories kept by the copy engine, transducer jobs and the spring queues. -/

namespace Sys2Proof.Machine

theorem DevOk.flushLine {d : Dev} (h : DevOk d) {op key vf pa : Nat} {byKey : Bool} :
    DevOk (flushLine op key vf pa byKey d) := by
  unfold Machine.flushLine
  extract_lets mine d1 d2 mineMere d3 d4
  have h1 : DevOk d1 := h.l2Flush.ite h
  have h2 : DevOk d2 := h1.l2Drop.ite h1
  have h3 : DevOk d3 := h2.mereFlush.ite h2
  have h4 : DevOk d4 := h3.mereDrop.ite h3
  exact h4.countMere

theorem DevOk.flushFirst {d : Dev} (h : DevOk d) {c : FlushCmd} : DevOk (flushFirst c d) := h.flushLine.ite h

namespace MemoriesOk
variable {s : State}

/-- The state of a pair. -/
theorem of_eq {α : Type} {p : α × State} (h : MemoriesOk p.2) {a : α} {t : State} (e : p = (a, t)) : MemoriesOk t := by
  subst e
  exact h

theorem ite_snd {α : Type} {a b : α × State} (h : MemoriesOk a.2) (h' : MemoriesOk b.2) {p : Prop} {_ : Decidable p} :
    MemoriesOk (if p then a else b).2 := by
  split
  · exact h
  · exact h'

/-! ### The copy engine -/

theorem copyStart (h : MemoriesOk s) {i : Instr} {f : XSlot} : MemoriesOk (copyStart i f s) := by
  refine h.tagStart.tagComplete.ite ?_
  exact h.tagStart.newId.submit
theorem raiseOnce (h : MemoriesOk s) {i : InstId} {q : TrapReq} : MemoriesOk (raiseOnce i q s) := h.forInst
theorem copyPlace (h : MemoriesOk s) {id launch asid hn : Nat} {x : Handle} {w : Bool} {off : Word} {n : Nat} :
    MemoriesOk (copyPlace id launch asid hn x w off n s).2 := by
  unfold Machine.copyPlace
  extract_lets miss va
  split
  · split <;> exact h
  · split
    · exact h
    · split
      next p t hp =>
        have ht := h.translateFor.of_eq hp
        split
        · exact ht
        · exact ht.ite_snd ht
theorem placesMiss (h : MemoriesOk s) {id vf asid : Nat} {l : List Nat} : MemoriesOk (placesMiss id vf asid l s) :=
  h.foldl fun _ _ h => h.missBegins
theorem chunkPlaces (fuel : Nat) : ∀ {s : State} {c : CopyCmd} {asid : Nat} {a b : CopyPlace} {i : Nat}, MemoriesOk s →
    MemoriesOk (chunkPlaces c asid a b fuel i s).2 := by
  induction fuel with
  | zero => exact fun h => h
  | succ n ih =>
    intro s c asid a b i h
    unfold Machine.chunkPlaces
    split
    · exact h
    · split
      next x t hx =>
        split
        next y u hy =>
          have hu := (h.copyPlace.of_eq hx).copyPlace.of_eq hy
          split
          · split
            · exact ih hu
            · exact hu
          · exact hu
theorem copyRead (h : MemoriesOk s) {c : CopyCmd} {ver : Option Nat} {vf : Nat} {p : CopyPlace} :
    MemoriesOk (copyRead c ver vf p s).2 := h.elemRead
theorem copyWrite {acc : List (Loc × Nat) × State} (h : MemoriesOk acc.2) {c : CopyCmd} {srcs : List Loc} {ver : Option Nat}
    {vf key : Nat} {p : CopyPlace} {x : Nat} : MemoriesOk (copyWrite c srcs ver vf key p x acc).2 := h.elemWrite
theorem setCopy (h : MemoriesOk s) {id : Nat} {g : CopyCmd → CopyCmd} : MemoriesOk (setCopy id g s) := h.modCore fun h => h
theorem dropCopy (h : MemoriesOk s) {id : Nat} : MemoriesOk (dropCopy id s) := (h.modCore fun h => h).missesLeave
theorem copyFault (h : MemoriesOk s) {c : CopyCmd} {sub : Nat} : MemoriesOk (copyFault c sub s) := h.dropCopy.tagFault
theorem dropLines (h : MemoriesOk s) {l : List L1Line} : MemoriesOk (dropLines l s) := h.foldl fun _ _ h => h.l1WriteBack.l1Drop
theorem moveChunk (h : MemoriesOk s) {c : CopyCmd} {ver : Option Nat} {vf : Nat} {els : List (Nat × CopyPlace × CopyPlace)} :
    MemoriesOk (moveChunk c ver vf els s) := by
  unfold Machine.moveChunk
  extract_lets srcs
  split
  next data t ht =>
    have ht := (h.foldl_snd fun p x h => by exact h.copyRead).of_eq ht
    dsimp only
    exact MemoriesOk.missesLeave (MemoriesOk.setCopy (MemoriesOk.foldl_snd ht.fresh fun p x h => by exact h.copyWrite))
theorem doChunk (h : MemoriesOk s) {c : CopyCmd} {els : List (Nat × CopyPlace × CopyPlace)} : MemoriesOk (doChunk c els s) := by
  unfold Machine.doChunk
  extract_lets vf ver srcLocs dstLocs mine banks late
  refine h.copyFault.ite ((h.setCopy.modDev fun h => h).missesLeave.ite ?_)
  split
  · exact h.raiseOnce
  · exact h.ite h.dropLines.keepOldFor.takeBanks.moveChunk
theorem runChunk (h : MemoriesOk s) {c : CopyCmd} : MemoriesOk (runChunk c s) := by
  unfold Machine.runChunk
  extract_lets l asid wait
  refine h.copyFault.ite (h.placesMiss.ite ?_)
  split
  next a t ha =>
    split
    next b u hb =>
      have hu := (h.copyPlace.of_eq ha).copyPlace.of_eq hb
      split
      · exact hu.copyFault
      · exact hu.copyFault
      · exact hu.copyFault.ite (MemoriesOk.chunkPlaces _ hu).doChunk

/-! ### Transducer jobs -/

theorem jobWord (h : MemoriesOk s) {j : Job} {off : Nat} : MemoriesOk (jobWord j off s).2 := by
  unfold Machine.jobWord
  extract_lets l
  split
  · exact h
  · split
    next p t hp =>
      have ht := h.copyPlace.of_eq hp
      split
      · exact ht
      · refine ht.ite_snd (ht.ite_snd ?_)
        exact ht.elemRead
theorem jobWords (n : Nat) : ∀ {s : State} {j : Job} {off : Nat}, MemoriesOk s → MemoriesOk (jobWords j off n s).2 := by
  induction n with
  | zero => exact fun h => h
  | succ n ih =>
    intro s j off h
    unfold Machine.jobWords
    split
    next e t ht => exact h.jobWord.of_eq ht
    next x t ht =>
      have hw := ih (j := j) (off := off + 4) (h.jobWord.of_eq ht)
      split
      next e u hu => exact hw.of_eq hu
      next r u hu => exact hw.of_eq hu
theorem readingJob (h : MemoriesOk s) {j : Job} {off n : Nat} {late : Nat → State → State} {g : State → State}
    (hl : ∀ i s, MemoriesOk s → MemoriesOk (late i s)) (hg : ∀ s, MemoriesOk s → MemoriesOk (g s)) :
    MemoriesOk (readingJob j off n late g s) := by
  unfold Machine.readingJob
  extract_lets vf
  split
  · exact h.placesMiss
  · split
    · exact hg s h
    · exact (hl _ s h).ite ((hg s h).ite h)
theorem setJob (h : MemoriesOk s) {id : Nat} {g : Job → Job} : MemoriesOk (setJob id g s) := h.modDev fun h => h
theorem leaveLane (h : MemoriesOk s) {j : Job} : MemoriesOk (leaveLane j s) := h.modDev fun h => h
theorem jobFault (h : MemoriesOk s) {j : Job} {sub : Nat} : MemoriesOk (jobFault j sub s) := h.setJob.missesLeave.tagFault.leaveLane
theorem blockDone (h : MemoriesOk s) {id : Nat} : MemoriesOk (blockDone id s) := by
  unfold Machine.blockDone
  split
  · exact h
  · exact h.ite (h.jobFault.ite h.setJob)
theorem decodeUpTo (h : MemoriesOk s) {lack : Option (Nat × Nat)} {j : Job} {hd : List Nat} {tab : DTable} {nc nt : Nat}
    {w : List Nat} : MemoriesOk (decodeUpTo lack j hd tab nc nt w s) := h.setJob.blockDone.missesLeave
theorem decodeRest (h : MemoriesOk s) {j : Job} {hd : List Nat} {tab : DTable} : MemoriesOk (decodeRest j hd tab s) := by
  refine MemoriesOk.readingJob h (fun i s h => h.decodeUpTo) fun s h => ?_
  split
  next e t ht => exact ((MemoriesOk.jobWords _ h).of_eq ht).decodeUpTo
  next w t ht => exact ((MemoriesOk.jobWords _ h).of_eq ht).decodeUpTo
theorem decodeHead (h : MemoriesOk s) {j : Job} {hd : List Nat} : MemoriesOk (decodeHead j hd s) := by
  refine h.jobFault.ite (h.ite ?_)
  split
  · exact h.jobFault
  · exact h.jobFault.ite h.decodeRest
theorem setTable (h : MemoriesOk s) {l slot : Nat} {t : Option DTable} : MemoriesOk (setTable l slot t s) := h.modLaunch
theorem tableFault (h : MemoriesOk s) {j : Job} {sub : Nat} : MemoriesOk (tableFault j sub s) := h.setTable.jobFault
theorem tablePlace (h : MemoriesOk s) {j : Job} {sw n : Nat} {w : List Nat} : MemoriesOk (tablePlace j sw n w s) :=
  h.setTable.setJob.tagComplete.missesLeave.ite h.tableFault
theorem tableRest (h : MemoriesOk s) {j : Job} {hd : List Nat} : MemoriesOk (tableRest j hd s) := by
  refine h.tableFault.ite (h.readingJob (fun _ s h => h.tableFault) fun s h => ?_)
  split
  next e t ht => exact ((MemoriesOk.jobWords _ h).of_eq ht).tableFault
  next w t ht => exact ((MemoriesOk.jobWords _ h).of_eq ht).tablePlace
theorem newJob (h : MemoriesOk s) {j : Job} : MemoriesOk (newJob j s) := h.tagStart.newId.submit

/-! ### Spring queues and launches -/

theorem recordTouch (h : MemoriesOk s) {x vf asid : Nat} {host : Bool} : MemoriesOk (recordTouch x vf asid host s) :=
  h.vaTouch.vaTouch.ite h
theorem enterSpring (h : MemoriesOk s) {r : QRec} : MemoriesOk (enterSpring r s) := h.modDev fun h => h
theorem dropHead (h : MemoriesOk s) {q : Nat} : MemoriesOk (dropHead q s) := h.modDev fun h => h
theorem selectQueue (h : MemoriesOk s) {q : Nat} : MemoriesOk (selectQueue q s) := by
  unfold Machine.selectQueue
  split
  · exact h
  · exact h.dropHead.newId.modDev fun h => h
theorem dropLaunch (h : MemoriesOk s) {id : Nat} : MemoriesOk (dropLaunch id s) := h.modDev fun h => h
theorem launchFault (h : MemoriesOk s) {r : LaunchReq} {sub : Nat} : MemoriesOk (launchFault r sub s) := h.dropLaunch.tagFault
theorem enqueueRecord (h : MemoriesOk s) {r : LaunchReq} {v : Nat} {bad : Bool} {l : Launch} :
    MemoriesOk (enqueueRecord r v bad l s) := by
  refine h.launchFault.ite ?_
  split
  · exact (h.ite h.recordTouch).launchFault
  · exact h.recordTouch.modLaunch.dropLaunch.tagComplete.ite (h.ite h.recordTouch.enterSpring.dropLaunch.tagComplete)
end MemoriesOk
end Sys2Proof.Machine
end

section
/-! Memories kept by what binds, saves and ends contexts and launches, and by walks and errors. -/

namespace Sys2Proof.Machine
namespace MemoriesOk
variable {s : State}

/-- A core changed in one of two ways. -/
theorem modCoreAt_ite (h : MemoriesOk s) {c : Nat} {p : Core → Prop} {_ : ∀ k, Decidable (p k)} {a b : Core → Core}
    (ha : Memory.wf (s.coreAt c).sp = true → Memory.wf (a (s.coreAt c)).sp = true)
    (hb : Memory.wf (s.coreAt c).sp = true → Memory.wf (b (s.coreAt c)).sp = true) :
    MemoriesOk (s.modCoreAt c fun k => if p k then a k else b k) :=
  h.modCoreAt fun hk => by
    split
    · exact ha hk
    · exact hb hk

/-! ### Contexts bound, saved and freed -/

theorem becomeReady (h : MemoriesOk s) {c n : Nat} : MemoriesOk (becomeReady c n s) := 
  h.modCtxAt.modCoreAt_ite (fun h => h) fun h => h
theorem emptyL1 (h : MemoriesOk s) {c : Nat} : MemoriesOk (emptyL1 c s) :=
  MemoriesOk.modCoreAt (MemoriesOk.foldl (h.foldl fun _ _ h => h.promoteOldest) fun _ _ h => h.l1WriteBack)
    fun h => h
theorem changeFunction (h : MemoriesOk s) {c vf : Nat} : MemoriesOk (changeFunction c vf s) := h.ite (h.emptyL1.modCoreAt fun h => h)
theorem placeImage (h : MemoriesOk s) {c addr asid vf va n : Nat} : MemoriesOk (placeImage c addr asid vf va n s) :=
  h.vaTouch.foldl fun s x h => by
    dsimp only
    split
    · exact h.modCoreAt fun hk => Mem.wf_write _ _ _ _ hk
    · exact h
theorem formRegion (h : MemoriesOk s) {launch c : Nat} {l : Launch} : MemoriesOk (formRegion launch c l s) := by
  unfold Machine.formRegion
  split
  · refine MemoriesOk.placeImage (MemoriesOk.modCoreAt (h.ite h.emptyL1) fun hk => ?_)
    exact Mem.above_filter _ hk
  · exact h.modCoreAt fun h => h
theorem settlePonds (h : MemoriesOk s) {launch c st : Nat} {l : Launch} : MemoriesOk (settlePonds launch c st l s) :=
  h.foldl fun _ _ h => (h.modLaunch.modCoreAt fun h => h).ite h
theorem prepareCore (h : MemoriesOk s) {launch c st : Nat} {l : Launch} : MemoriesOk (prepareCore launch c st l s) := by
  unfold Machine.prepareCore
  extract_lets s1 s2 s3
  have h1 : MemoriesOk s1 := h.changeFunction
  have h2 : MemoriesOk s2 := h1.modCoreAt_ite (fun h => h) fun h => h
  have h3 : MemoriesOk s3 := h2.modCoreAt_ite (fun h => h) fun h => h
  exact h3.formRegion.settlePonds
theorem seatCtx (h : MemoriesOk s) {c n : Nat} {x : Ctx} : MemoriesOk (seatCtx c n x s) := h.modCtxAt.becomeReady
theorem setInst (h : MemoriesOk s) {l st n : Nat} {g : InstRec → InstRec} : MemoriesOk (setInst l st n g s) := h.modLaunch
theorem bindNew (h : MemoriesOk s) {l c n st num : Nat} : MemoriesOk (bindNew l c n st num s) := by
  unfold Machine.bindNew
  split
  · exact h
  · exact h.prepareCore.seatCtx.setInst
theorem startSave (h : MemoriesOk s) : MemoriesOk (startSave s) := h.modCtx.leaveIssue
theorem freeCtx (h : MemoriesOk s) : MemoriesOk (freeCtx s) := ((h.modCore fun h => h).modDev fun h => h).modCtx
theorem resumeOn (h : MemoriesOk s) {l c n : Nat} {r : InstRec} : MemoriesOk (resumeOn l c n r s) := by
  unfold Machine.resumeOn
  split
  · exact h.prepareCore.seatCtx.setInst
  · exact h
theorem takeCtx (h : MemoriesOk s) {l c n : Nat} : MemoriesOk (takeCtx l c n s) := by
  unfold Machine.takeCtx
  split
  · exact h
  · exact h.resumeOn.ite h.bindNew
theorem afterSave (h : MemoriesOk s) {w : Option SaveFor} {l : Nat} : MemoriesOk (afterSave w l s) := by
  refine h.ite ?_
  split
  · exact h.takeCtx.ite h
  · split
    · exact h
    · exact h.modLaunch.bindNew.ite h
  · exact h

/-! ### The ends of instances and launches -/

theorem formRest (h : MemoriesOk s) : MemoriesOk (formRest s) :=
  h.foldl fun _ _ h => h.foldl fun _ _ h => h.foldl fun _ _ h => h.formBatch.ite (h.modCoreAt fun h => h).wakeDefer
theorem regionEnds (h : MemoriesOk s) {l c : Nat} : MemoriesOk (regionEnds l c s) := h.ite (h.modCoreAt fun h => h)
theorem releaseRegion (h : MemoriesOk s) {l c : Nat} : MemoriesOk (releaseRegion l c s) := h.ite (h.modCoreAt fun h => h)
theorem endInstance (h : MemoriesOk s) {i : InstId} : MemoriesOk (endInstance i s) := by
  unfold Machine.endInstance
  extract_lets c gone s1 s2 gs s3
  have h1 : MemoriesOk s1 := h.modLaunch
  have h2 : MemoriesOk s2 := h1.setInst.freeCtx
  have h3 : MemoriesOk s3 := by 
    unfold s3
    exact h2.ite (h2.modCore fun h => h)
  have h4 : MemoriesOk (gs.foldl (fun s g => Machine.closeGroup i.launch g s) s3) := h3.foldl fun _ _ h => h.closeGroup
  exact h4.regionEnds.releaseRegion
theorem endBatch (h : MemoriesOk s) {i : InstId} {o : Nat} : MemoriesOk (endBatch i o s) :=
by
  unfold Machine.endBatch
  extract_lets own s1
  have h1 : MemoriesOk s1 := by
    unfold s1
    split
    · exact h.modCtx
    · exact h.freeCtx.regionEnds
  exact h1.wake
theorem commitShadow (h : MemoriesOk s) {id : Nat} {l : Launch} : MemoriesOk (commitShadow id l s) := by
  unfold Machine.commitShadow
  extract_lets s1 units s2 s3
  have h1 : MemoriesOk s1 := h.foldl fun _ _ h => h.foldl fun _ _ h => h.l1WriteBack.l1Drop
  have h2 : MemoriesOk s2 := h1.foldl fun _ _ h => h.foldl fun _ _ h => h.homeWrite.ite h
  clear_value s2
  have h3 : MemoriesOk s3 := h2.modDev fun h => h
  exact h3.modLaunch
theorem discardShadow (h : MemoriesOk s) {id : Nat} {l : Launch} : MemoriesOk (discardShadow id l s) :=
  ((h.mapCores (by exact fun _ h => h)).ite ((h.mapCores (by exact fun _ h => h)).modDev fun h => h)).modLaunch
theorem freeRegions (h : MemoriesOk s) {id : Nat} : MemoriesOk (freeRegions id s) := h.mapCores (by exact fun _ h => h)
theorem forgetLaunch (h : MemoriesOk s) {id : Nat} : MemoriesOk (forgetLaunch id s) := h.modDev fun h => h
theorem countEvent (h : MemoriesOk s) {vf : Nat} : MemoriesOk (countEvent vf s) := h.modDev fun h => h
theorem completionGlobal (h : MemoriesOk s) {l : Launch} {v : Nat} : MemoriesOk (completionGlobal l v s) := by
  unfold Machine.completionGlobal
  extract_lets w
  split
  · exact h.countEvent
  · exact h.homeWrite.ite h.countEvent
theorem stopLaunch (h : MemoriesOk s) {id : Nat} : MemoriesOk (stopLaunch id s) := ((h.fresh.mapCores (by exact fun _ h => h)).wake.modDev fun h => h).modLaunch
theorem evictLaunch (h : MemoriesOk s) {id : Nat} : MemoriesOk (evictLaunch id s) := h.stopLaunch.freeRegions
theorem killLaunch (h : MemoriesOk s) {id : Nat} : MemoriesOk (killLaunch id s) := h.modLaunch.evictLaunch
theorem setAttempt (h : MemoriesOk s) {c a : Nat} : MemoriesOk (setAttempt c a s) := h.modDev fun h => h
theorem sendTokens (h : MemoriesOk s) {c a b : Nat} : MemoriesOk (sendTokens c a b s) := h.modDev fun h => h
theorem startToken (h : MemoriesOk s) {c : Nat} : MemoriesOk (startToken c s) := h.setAttempt.sendTokens
theorem replayLaunch (h : MemoriesOk s) {id : Nat} {l : Launch} {b : Bool} : MemoriesOk (replayLaunch id l b s) :=
  (h.foldl fun _ _ h => h.startToken).evictLaunch.discardShadow.forgetLaunch.enterSpring
theorem endByFirmware (h : MemoriesOk s) {id : Nat} {b : Bool} : MemoriesOk (endByFirmware id b s) := by
  unfold Machine.endByFirmware
  split
  · exact h
  · exact h.ite ((h.replayLaunch.ite h).ite h.killLaunch)
theorem overCapacity (h : MemoriesOk s) {id : Nat} : MemoriesOk (overCapacity id s) := by
  unfold Machine.overCapacity
  split
  · exact h
  · exact h.ite (h.replayLaunch.ite h.killLaunch)
theorem raiseOver (h : MemoriesOk s) {id c : Nat} {info : Word} : MemoriesOk (raiseOver id c info s) :=
  (h.mapCores fun e he => by split <;> exact he).ite h.overCapacity

/-! ### Accesses, walks and errors -/

theorem performRow (h : MemoriesOk s) {r : AccRow} : MemoriesOk (performRow r s) := by
  unfold Machine.performRow
  split
  · exact h
  · exact h.performNow.ite h
theorem setPacq (h : MemoriesOk s) {id : Nat} {g : PacqReq → PacqReq} : MemoriesOk (setPacq id g s) := h.modCore fun h => h
theorem endWalk (h : MemoriesOk s) {w : Walk} : MemoriesOk (endWalk s w) := h.translate.modDev fun h => h
theorem countAt (h : MemoriesOk s) {sl : Bool} {i k p a : Nat} : MemoriesOk (countAt sl i k p a s) := h.setBankTable
theorem countError (h : MemoriesOk s) {sl : Bool} {i k l : Nat} : MemoriesOk (countError sl i k l s) := by
  unfold Machine.countError
  split
  · exact h
  · exact h.countAt
theorem countL2 (h : MemoriesOk s) {pa : Nat} : MemoriesOk (countL2 pa s) := MemoriesOk.ite h.fresh.countError h
end MemoriesOk
end Sys2Proof.Machine
end

section
/-! Memories kept by firmware, the host, the links and the resets. -/

namespace Sys2Proof.Machine
namespace DevOk
variable {d : Dev}

theorem loadKey (h : DevOk d) {i : Nat} {k : List Word} : DevOk (loadKey i k d) := by
  unfold Machine.loadKey
  dsimp only
  split
  · exact h
  · exact h
theorem cachesDropKey (h : DevOk d) {key : Nat} : DevOk (cachesDropKey key d) :=
  (h.foldl fun _ _ h => h.l2Flush.l2Drop).foldl fun _ _ h => h.mereFlush.mereDrop
end DevOk

namespace MemoriesOk
variable {s : State}

/-! ### Firmware -/

theorem kdErr (h : MemoriesOk s) : MemoriesOk (kdErr s) := h.modDev fun h => h
theorem l1DropKey (h : MemoriesOk s) {key : Nat} : MemoriesOk (l1DropKey key s) :=
  h.foldl fun _ _ h => h.foldl fun _ _ h => h.l1WriteBack.l1Drop
theorem invalidate (h : MemoriesOk s) {asid va n : Nat} {all : Bool} : MemoriesOk (invalidate asid va n all s) := (h.mapCores (by exact fun _ h => h)).modDev fun h => h
theorem revokeAll (h : MemoriesOk s) {p : Handle → Bool} {asid : Nat} {cut : List (Nat × Nat)} :
    MemoriesOk (revokeAll p asid cut s) := (h.mapCtxs.mapCores (by exact fun _ h => h)).modDev fun h => h
theorem writePagesBack (h : MemoriesOk s) {pages : List (Nat × Nat)} : MemoriesOk (writePagesBack pages s) :=
  h.foldl fun _ _ h => h.foldl fun _ _ h => h.l1WriteBack.l1Drop
theorem beginFlr (h : MemoriesOk s) {vf : Nat} : MemoriesOk (beginFlr vf s) :=
  ((h.modDev fun h => h).mapCores (by exact fun _ h => h)).foldl fun _ _ h => h.stopLaunch
theorem wf_sp_scrubCore {k : Core} (hk : Memory.wf k.sp = true) {vf : Nat} {ls : List Nat} :
    Memory.wf (scrubCore vf ls k).sp = true := by
  unfold scrubCore
  extract_lets mine inside k1
  split
  · exact Mem.above_filter _ hk
  · exact Mem.above_filter _ hk
theorem finishFlr (h : MemoriesOk s) {vf : Nat} : MemoriesOk (finishFlr vf s) := by
  unfold Machine.finishFlr
  extract_lets s1 ls s2 s3
  have h1 : MemoriesOk s1 := h.foldl fun _ _ h => h.invalidate.revokeAll.writePagesBack
  have h2 : MemoriesOk s2 := h1.mapCores fun e he => wf_sp_scrubCore he
  have h3 : MemoriesOk s3 := h2.foldl fun s x h => by
    split
    · exact h
    · exact (h.discardShadow.ite h.discardShadow.completionGlobal).forgetLaunch
  exact h3.modDev fun h => h
theorem markBank (h : MemoriesOk s) {sl : Bool} {i p st l : Nat} : MemoriesOk (markBank sl i p st l s) := h.setBankTable
theorem setRetire (h : MemoriesOk s) {sl : Bool} {i : Nat} {r : Option Retire} : MemoriesOk (setRetire sl i r s) :=
  (h.modDev fun h => h).ite (h.modCoreAt fun h => h)
theorem beginMove (h : MemoriesOk s) {sl : Bool} {i a b l : Nat} {sp : Bool} : MemoriesOk (beginMove sl i a b l sp s) :=
  h.markBank.markBank.setRetire
theorem waitRetire (h : MemoriesOk s) {i src : Nat} : MemoriesOk (waitRetire i src s) := h.setRetire
theorem loseGroup (h : MemoriesOk s) {i src : Nat} : MemoriesOk (loseGroup i src s) := by
  have hm {l : List Nat} : MemoriesOk (l.foldl (fun s p => Machine.markBank false i p 3 0xFF s)
      (Machine.emptyL1 i (Machine.setRetire false i none s))) := h.setRetire.emptyL1.foldl fun _ _ h => h.markBank
  have hg {l : List Nat} : MemoriesOk ((l.foldl (fun s p => Machine.markBank false i p 3 0xFF s)
      (Machine.emptyL1 i (Machine.setRetire false i none s))).modCoreAt i fun k => { k with spLog := k.spLog - 4 }) :=
    hm.modCoreAt fun h => h
  unfold Machine.loseGroup
  dsimp only
  split
  · exact hg.beginMove
  · exact hg
theorem loseRegisterBank (h : MemoriesOk s) {i src : Nat} : MemoriesOk (loseRegisterBank i src s) := by
  unfold Machine.loseRegisterBank
  extract_lets k
  split
  next c l vec hl =>
    extract_lets t
    have ht : MemoriesOk t := h.setRetire.modCoreAt_ite (fun h => h) fun h => h
    split
    · exact ht.markBank.ite ht.beginMove
    · exact ht
theorem loseNow (h : MemoriesOk s) {i : Nat} : MemoriesOk (loseNow i s) := by
  unfold Machine.loseNow
  split
  · exact (h.loseGroup.ite h.loseRegisterBank).ite h
  · exact h
theorem takeOver (h : MemoriesOk s) {i kind : Nat} : MemoriesOk (takeOver i kind s) := by
  unfold Machine.takeOver
  extract_lets k
  refine MemoriesOk.ite (h.foldl fun _ _ h => h.raiseOver) ?_
  split
  next c l vec hl =>
    split
    · exact h.raiseOver
    · exact h
theorem loseL2Bank (h : MemoriesOk s) {i src : Nat} : MemoriesOk (loseL2Bank i src s) :=
  MemoriesOk.modDev (MemoriesOk.markBank (h.modDev fun h => h.foldl fun _ _ h => h.l2Flush.l2Drop)) fun h => h
theorem retireBank (h : MemoriesOk s) {sl : Bool} {i p : Nat} : MemoriesOk (retireBank sl i p s) := by
  refine h.ite ?_
  split
  · exact h.beginMove
  · exact h.loseL2Bank.ite h.waitRetire.takeOver
theorem listRetired (h : MemoriesOk s) {sl : Bool} {i p : Nat} : MemoriesOk (listRetired sl i p s) := h.modDev fun h => h
theorem useSpare (h : MemoriesOk s) {r : Retire} {i : Nat} : MemoriesOk (useSpare r i s) :=
  h.ite ((h.modDev fun h => h).ite (h.modCoreAt_ite (fun h => h) fun h => h))
theorem endRetire (h : MemoriesOk s) {sl : Bool} {i : Nat} : MemoriesOk (endRetire sl i s) := by
  unfold Machine.endRetire
  split
  · exact h
  · exact h.markBank.setRetire.useSpare
theorem applyBanks (h : MemoriesOk s) : MemoriesOk (applyBanks s) := h.foldl fun _ _ h => h.retireBank.loseNow.endRetire
theorem applyRecord (h : MemoriesOk s) : MemoriesOk (applyRecord s) := (h.modDev fun h => h).ite ((h.applyBanks.modDev fun h => h).ite (h.modDev fun h => h))
theorem lineMoved (h : MemoriesOk s) {sl : Bool} {i : Nat} : MemoriesOk (lineMoved sl i s) := by
  unfold Machine.lineMoved
  split
  · exact h
  · exact h.setRetire.ite h.endRetire.listRetired
theorem moveAccess (h : MemoriesOk s) {i : Nat} {r : Retire} : MemoriesOk (moveAccess i r s) := h.takeBank.ite h
theorem lockAges (h : MemoriesOk s) {i : Nat} : MemoriesOk (lockAges i s) := by
  unfold Machine.lockAges
  split
  · exact h.ite (h.setRetire.ite h.moveAccess.lineMoved)
  · exact h

/-! ### The host, the links and the resets -/

theorem setQueue (h : MemoriesOk s) {q : Nat} {g : HostQueue → HostQueue} : MemoriesOk (setQueue q g s) := h.modDev fun h => h
theorem refuseEntry (h : MemoriesOk s) {q sub : Nat} : MemoriesOk (refuseEntry q sub s) := h.setQueue
theorem flushWord (h : MemoriesOk s) {n w : Nat} : MemoriesOk (flushWord n w s) :=
  ((h.modDev fun h => h).ite h.kdErr).ite ((h.modDev fun h => h).ite h.kdErr)
theorem cxlWrite (h : MemoriesOk s) {w : Nat} : MemoriesOk (cxlWrite w s) := h.modDev fun h => h
theorem setPort (h : MemoriesOk s) {p : Nat} {w : Word} : MemoriesOk (setPort p w s) := h.modDev fun h => h
theorem failPort (h : MemoriesOk s) {p : Nat} : MemoriesOk (failPort p s) := (h.setPort.modDev fun h => h).ite h
theorem reportSite (h : MemoriesOk s) {site x : Nat} : MemoriesOk (reportSite site x s) := h.modDev fun h => h
theorem eraseKeys (h : MemoriesOk s) : MemoriesOk (eraseKeys s) := h.foldl fun _ _ h => h.ite (h.newId.modDev fun h => h)

/-- The machine after reset, but for the device. -/
theorem ofDev {d : Dev} (h : DevOk d) {f : Focus} {inputs : List Event} {cur : Nat} {plan : List Nat} {n u : Nat} :
    MemoriesOk { cores := [], dev := d, foc := f, inputs := inputs, cur := cur, plan := plan, nfree := n, uid := u } :=
  ⟨h.1, h.2, fun _ h => nomatch h⟩

theorem warm (h : MemoriesOk s) : MemoriesOk (warm s) := by
  have hs : MemoriesOk (Machine.eraseKeys (s.modDev fun d => d.mere.foldl (fun d c => Machine.mereFlush c.pa 0 d) d)) :=
    MemoriesOk.eraseKeys (h.modDev fun h => h.foldl fun _ _ h => h.mereFlush)
  exact MemoriesOk.applyRecord (MemoriesOk.ofDev hs.dev.same)
end MemoriesOk
end Sys2Proof.Machine
end

section
/-! Memories kept by the parts of a compute cycle. -/

namespace Sys2Proof.Machine
namespace MemoriesOk
variable {s : State}

/-! ### The parts of a cycle -/

theorem alu (h : MemoriesOk s) {f : CSlot} {sg : Bool} {n : Nat} {g : Nat → Nat → Nat → Nat} : MemoriesOk (alu f sg n g s) := h.postS
theorem applyClear (h : MemoriesOk s) : MemoriesOk (applyClear s) := h.modCoreAt_ite (fun h => h) fun h => h
theorem focusOn (h : MemoriesOk s) {c n : Nat} : MemoriesOk (s.focusOn c n) := h.refocus
theorem addStart (h : MemoriesOk s) {e : Entry} : MemoriesOk (addStart e s) := h.modCtx
theorem addNow (h : MemoriesOk s) {e : Entry} : MemoriesOk (addNow e s) := h.modCore fun h => h
theorem executeIssue (h : MemoriesOk s) {l : List (Slot × Instr)} {es : List Entry} : MemoriesOk (executeIssue l es s) :=
  MemoriesOk.modCore (MemoriesOk.modCtx ((h.foldl fun _ _ h => h.addStart).foldl fun _ _ h => h.addNow)) fun h => h
theorem issueOps (h : MemoriesOk s) {l : Launch} {b : Header} {ops : List (Slot × Instr)} : MemoriesOk (issueOps l b ops s) := by
  unfold Machine.issueOps
  extract_lets again first es s1 meet
  have h1 : MemoriesOk s1 := h.modCtx.ite h
  split
  · exact MemoriesOk.executeIssue (h1.openSegment.ite h1)
  · exact h1.act
theorem issueBundle (h : MemoriesOk s) {l : Launch} : MemoriesOk (issueBundle l s) := by
  unfold Machine.issueBundle
  split
  · exact h.takeTrap
  · extract_lets s1
    have h1 : MemoriesOk s1 := h.modCtx
    split
    · exact h1.takeTrap
    · exact h1.issueOps
theorem fetchTouch (h : MemoriesOk s) : MemoriesOk (fetchTouch s) := by
  unfold Machine.fetchTouch
  split
  · exact h.vaTouch.ite h
  · exact h
theorem finishIssue (h : MemoriesOk s) : MemoriesOk (finishIssue s) := h.fetchTouch.advanceHere.modCtx.leaveIssue.ite h.fetchTouch.advanceHere
theorem startNow (h : MemoriesOk s) {l : List (Nat × Start)} : MemoriesOk (startNow l s) :=
  MemoriesOk.modCore (MemoriesOk.refocus (h.foldl fun _ _ h => h.refocus.grantBus)) fun h => h
theorem noteTurn (h : MemoriesOk s) : MemoriesOk (noteTurn s) := (h.modCore fun h => h).ite h
theorem closeDue (h : MemoriesOk s) {l : List (Nat × Start)} : MemoriesOk (closeDue l s) := h.foldl fun _ _ h => h.modCtxAt
theorem letLate (h : MemoriesOk s) {n : Nat} : MemoriesOk (letLate n s) := h.modCore fun h => h
theorem letEntries (h : MemoriesOk s) {n : Nat} : MemoriesOk (letEntries n s) := (h.modCore fun h => h).ite h
theorem holdAtBank (h : MemoriesOk s) {c : Nat} : MemoriesOk (holdAtBank c s) := (h.modCoreAt fun h => h).ite h
theorem holdAtRead (h : MemoriesOk s) {c : Nat} : MemoriesOk (holdAtRead c s) := (h.modCoreAt fun h => h).ite h
theorem raise (h : MemoriesOk s) {b : Bool} {q : TrapReq} : MemoriesOk (raise b q s) := h.trapAfter.ite h.modCtx
theorem settleTraps (h : MemoriesOk s) : MemoriesOk (settleTraps s) := by
  unfold Machine.settleTraps
  extract_lets c here s1
  have h1 : MemoriesOk s1 := h.modCtx
  split
  · exact h1.modCtx.raise
  · split
    · exact h1.raise
    · refine h1.enterService.ite ?_
      split
      · exact h1.rewind.ite h1.raise
      · exact h1
theorem tickBase (h : MemoriesOk s) {c : Nat} : MemoriesOk (tickBase c s) := (h.modDev fun h => h).ite h
theorem turnEnds (h : MemoriesOk s) {cur n : Nat} : MemoriesOk { s with cur := cur, nfree := n } := h
theorem nextCore (h : MemoriesOk s) : MemoriesOk (nextCore s) := MemoriesOk.turnEnds (h.modCoreAt fun h => h)
theorem releaseRegions (h : MemoriesOk s) {c : Nat} : MemoriesOk (releaseRegions c s) := h.foldl fun _ _ h => h.releaseRegion
theorem closeCycle (h : MemoriesOk s) {c : Nat} : MemoriesOk (closeCycle c s) := (h.releaseRegions.modCoreAt fun h => h).tickBase.nextCore
theorem countLag (h : MemoriesOk s) {c : Nat} : MemoriesOk (countLag c s) := h.modCoreAt fun h => h
end MemoriesOk
end Sys2Proof.Machine
end

section
/-! Events of services, the array and the engines: each answers a next state and keeps the memories. -/

namespace Sys2Proof.Machine

/-- An answer to a state: a next state, and canonical memories stay so. -/
def Keeps (s : State) (r : Result) : Prop := ∃ t, r = .next t ∧ (MemoriesOk s → MemoriesOk t)

namespace Keeps
variable {s t : State}

theorem next (h : MemoriesOk s → MemoriesOk t) : Keeps s (.next t) := ⟨t, rfl, h⟩
theorem self : Keeps s (.next s) := next id
theorem ite {r r' : Result} (h : Keeps s r) (h' : Keeps s r') {p : Prop} {_ : Decidable p} : Keeps s (if p then r else r') := by
  split
  · exact h
  · exact h'

/-- An answer to a state that has memories in canonical form when `s` does. -/
theorem of {r : Result} (h : Keeps t r) (hst : MemoriesOk s → MemoriesOk t) : Keeps s r :=
  let ⟨u, hu, hk⟩ := h
  ⟨u, hu, fun hs => hk (hst hs)⟩

/-! ### Services, the array and the engines -/

theorem execHeldServiceAnswer : Keeps s (execHeldServiceAnswer s) := by
  unfold Machine.execHeldServiceAnswer
  split
  · exact .ite (.next fun h => h.refocus.beforePerform.serve.becomeWaiter) .self
  · exact .self
theorem execArrayPushRow : Keeps s (execArrayPushRow s) := by
  unfold Machine.execArrayPushRow
  split
  · exact .ite (.next fun h => h.pushRow) .self
  · exact .self
theorem execFloadBegin : Keeps s (execFloadBegin s) := by
  unfold Machine.execFloadBegin
  split
  · exact .ite (.next fun h => h.beginLoad) .self
  · exact .self
theorem execCodebookTableRead : Keeps s (execCodebookTableRead s) := by
  unfold Machine.execCodebookTableRead
  split
  · split
    · refine .ite ?_ .self
      dsimp only
      split
      · exact .next fun h => h.spoilRead.fresh.failLoad
      · exact .next fun h => h.spoilRead.modArr
    · exact .self
  · exact .self
theorem execFloadComplete : Keeps s (execFloadComplete s) := by
  unfold Machine.execFloadComplete
  split
  · split
    · refine .ite ?_ .self
      extract_lets s1
      split
      extract_lets s2
      split
      next key s3 hs =>
        extract_lets s4
        have h3 (h : MemoriesOk s) : MemoriesOk s3 := (MemoriesOk.freshIf (MemoriesOk.modArr (MemoriesOk.modArr h))).of_eq hs
        have h4 (h : MemoriesOk s) : MemoriesOk s4 := (h3 h).modArr.ite (h3 h)
        exact .next fun h => (h4 h).ite (h4 h).modCtxAt
    · exact .self
  · exact .self
theorem execFgridSlotWrite : Keeps s (execFgridSlotWrite s) := .next fun h => h.applyChanges
theorem execCopyChunk : Keeps s (execCopyChunk s) := by
  unfold Machine.execCopyChunk
  split
  · exact .ite (.next fun h => h.runChunk) .self
  · exact .self
theorem execCopyComplete : Keeps s (execCopyComplete s) := by
  unfold Machine.execCopyComplete
  split
  · exact .ite (.next fun h => h.dropCopy.tagComplete) .self
  · exact .self
theorem execMflushComplete : Keeps s (execMflushComplete s) := by
  unfold Machine.execMflushComplete
  split
  · exact .self
  · extract_lets s1 s2
    have h1 (h : MemoriesOk s) : MemoriesOk s1 := MemoriesOk.modDev h fun h => DevOk.flushFirst h
    have h2 (h : MemoriesOk s) : MemoriesOk s2 := (h1 h).modCore fun h => h
    refine .ite (.next fun h => (h1 h).modCore fun h => h) ?_
    split
    · exact .next fun h => (h2 h).tagComplete
    · exact .next h2
theorem execJobDispatch : Keeps s (execJobDispatch s) := by
  unfold Machine.execJobDispatch
  split
  · exact .self
  · exact .next fun h => (h.fresh.modCore fun h => h).modDev fun h => h
theorem execBlockDecode : Keeps s (execBlockDecode s) := by
  unfold Machine.execBlockDecode
  split
  · exact .self
  · extract_lets s1 j
    have h1 (h : MemoriesOk s) : MemoriesOk s1 := MemoriesOk.setJob h.focusOn
    refine .ite .self (.next fun h => (h1 h).readingJob (fun _ _ h => h.jobFault) fun s h => ?_)
    split
    next e t ht => exact ((MemoriesOk.jobWords _ h).of_eq ht).jobFault
    next w t ht => exact ((MemoriesOk.jobWords _ h).of_eq ht).decodeHead
theorem execChunkWrite : Keeps s (execChunkWrite s) := by
  unfold Machine.execChunkWrite
  split
  · exact .self
  · refine .ite .self ?_
    split
    · exact .self
    · split
      · exact .next fun h => h.jobFault
      · extract_lets b more old s1
        have h1 (h : MemoriesOk s) : MemoriesOk s1 :=
          MemoriesOk.takeBank (MemoriesOk.spSetFull (MemoriesOk.spoilPonds (MemoriesOk.spWrite
            (MemoriesOk.refocus (MemoriesOk.keepOldFor h.focusOn)))))
        exact .ite .self (.ite (.next fun h => h.takeBank.setJob) (.next fun h => (h1 h).setJob.blockDone))
theorem execJobComplete : Keeps s (execJobComplete s) := by
  unfold Machine.execJobComplete
  split
  · exact .self
  · exact .ite .self (.next fun h => h.setJob.tagComplete.leaveLane)
theorem execJobSuspend : Keeps s (execJobSuspend s) := by
  unfold Machine.execJobSuspend
  split
  · exact .self
  · exact .ite (.next fun h => h.setJob.leaveLane) .self
theorem execJobResumption : Keeps s (execJobResumption s) := by
  unfold Machine.execJobResumption
  split
  · exact .self
  · exact .ite (.next fun h => h.setJob) .self
theorem execXdtComplete : Keeps s (execXdtComplete s) := by
  unfold Machine.execXdtComplete
  split
  · exact .self
  · refine .ite .self (.ite (.next fun h => h.setJob) (.next fun h =>
      h.focusOn.readingJob (fun _ _ h => h.tableFault) fun s h => ?_))
    split
    next e t ht => exact ((MemoriesOk.jobWords _ h).of_eq ht).tableFault
    next w t ht => exact ((MemoriesOk.jobWords _ h).of_eq ht).tableRest
end Keeps
end Sys2Proof.Machine
end

section
/-! Events of launches, contexts and accesses: each answers a next state and keeps the memories. -/

namespace Sys2Proof.Machine
namespace Keeps
variable {s t : State}

/-! ### Launches, contexts and accesses -/

theorem execRecordPrioChange {q pos prio : Nat} : Keeps s (execRecordPrioChange q pos prio s) :=
  .ite (.next fun h => h.modLaunch) (.next fun h => h.ite (h.modDev fun h => h))
theorem execLaunchEnqueue : Keeps s (execLaunchEnqueue s) := by
  unfold Machine.execLaunchEnqueue
  split
  · exact .self
  · split
    · exact .next fun h => h.dropLaunch
    · extract_lets s1
      have h1 (h : MemoriesOk s) : MemoriesOk s1 := h.focusOn
      split
      · split
        · exact .next fun h => (h1 h).performNow.ite (h1 h)
        · exact .next h1
      · exact .next fun h => (h1 h).enqueueRecord.ite (h1 h)
theorem execWaiterReady : Keeps s (execWaiterReady s) := .next fun h => h.becomeReady.ite h
theorem execInstanceBind : Keeps s (execInstanceBind s) := by
  unfold Machine.execInstanceBind
  split
  · exact .self
  · exact .ite (.next fun h => h.bindNew) .self
theorem execLaunchSelection : Keeps s (execLaunchSelection s) := by
  refine .ite ?_ .self
  split
  · exact .next fun h => h.selectQueue
  · exact .self
theorem execContextSave : Keeps s (execContextSave s) := by
  unfold Machine.execContextSave
  extract_lets c
  split
  · exact .self
  · refine .ite (.ite (.next fun h => ?_) .self) ?_
    · exact (h.foldl fun _ _ h => h.promoteOldest).setInst.freeCtx.afterSave
    · split
      · exact .ite (.next fun h => h.modCtx) (.ite (.next fun h => h.startSave) .self)
      · exact .ite (.next fun h => h.startSave) .self
      · exact .self
theorem execPreemption : Keeps s (execPreemption s) := by
  unfold Machine.execPreemption
  extract_lets c
  split
  · split
    · exact .ite (.next fun h => h.modCtx) .self
    · exact .self
  · exact .self
theorem execContextResume : Keeps s (execContextResume s) := by
  unfold Machine.execContextResume
  split
  · exact .self
  · split
    · exact .self
    · exact .ite (.next fun h => h.resumeOn) .self
theorem execRebalanceCheck : Keeps s (execRebalanceCheck s) := by
  refine .ite .self ?_
  split
  · exact .self
  · exact .next fun h => h.focusOn.modCtx.startSave.focusOn
theorem execDeferralBatchStart : Keeps s (execDeferralBatchStart s) := by
  unfold Machine.execDeferralBatchStart
  split
  · exact .self
  · split
    · exact .self
    · exact .ite .self (.next fun h => (h.modCore fun h => h).modLaunch.seatCtx)
theorem execStageInstanceEnd : Keeps s (execStageInstanceEnd s) := by
  unfold Machine.execStageInstanceEnd
  split
  · refine .ite .self ?_
    split
    · exact .next fun h => h.ite h.endBatch
    · exact .ite (.next fun h => h.formRest) (.ite .self (.next fun h => h.endInstance))
  · exact .self
theorem execLaunchComplete : Keeps s (execLaunchComplete s) := by
  unfold Machine.execLaunchComplete
  split
  · exact .self
  next l _ =>
    extract_lets id s1 s2
    have h1 (h : MemoriesOk s) : MemoriesOk s1 := h.discardShadow.ite (h.commitShadow.ite h)
    have h2 (h : MemoriesOk s) : MemoriesOk s2 := (h1 h).ite ((h1 h).foldl fun _ _ h => h.enterSpring)
    exact .ite .self (.next fun h => (h2 h).freeRegions.modLaunch)
theorem execCompletionWordWrite : Keeps s (execCompletionWordWrite s) := by
  unfold Machine.execCompletionWordWrite
  split
  · exact .self
  · refine .ite .self (.ite ?_ (.next fun h => h.completionGlobal.forgetLaunch))
    extract_lets c off
    split
    · exact .next fun h => h.countEvent.forgetLaunch
    · exact .ite (.next fun h => h.countEvent.forgetLaunch)
        (.ite .self (.next fun h => h.spoilPonds.spWrite.spSetFull.forgetLaunch))
theorem execLaunchWatchdogExpiry : Keeps s (execLaunchWatchdogExpiry s) := by
  unfold Machine.execLaunchWatchdogExpiry
  split
  · exact .self
  · exact .ite (.next fun h => h.endByFirmware) .self
theorem execLaunchReplay : Keeps s (execLaunchReplay s) := .next fun h => h.overCapacity.ite h.endByFirmware
theorem execBankService : Keeps s (execBankService s) := .next fun h => h.performRow
theorem execAccessPerform : Keeps s (execAccessPerform s) := .next fun h => h.performRow
theorem execReleasePerform : Keeps s (execReleasePerform s) := .next fun h => h.performRow
theorem execFlagOperationArrival : Keeps s (execFlagOperationArrival s) := .next fun h => h.performRow
theorem execEventSignalArrival : Keeps s (execEventSignalArrival s) := .next fun h => h.performRow
theorem execLoadDataFill : Keeps s (execLoadDataFill s) := .next fun h => h.modCtx
theorem execHeldEntryCommit : Keeps s (execHeldEntryCommit s) := by
  unfold Machine.execHeldEntryCommit
  split
  · exact .self
  · exact .ite (.next fun h => (h.modCtx.modCore fun h => h).enterPath) .self
theorem execDrnComplete : Keeps s (execDrnComplete s) := by
  unfold Machine.execDrnComplete
  split
  · exact .self
  · split
    · exact .ite (.next fun h => h.modCtx.drnAct) .self
    · exact .self
theorem execLogPromotion : Keeps s (execLogPromotion s) := by
  unfold Machine.execLogPromotion
  split
  · exact .self
  · exact .ite (.next fun h => h.promoteOldest) .self
theorem execL1WriteBack : Keeps s (execL1WriteBack s) := by
  unfold Machine.execL1WriteBack
  split
  · exact .self
  · exact .ite .self (.next fun h => h.l1WriteBack.l1Drop.ite h.l1WriteBack)
theorem execPacqRequestArrival : Keeps s (execPacqRequestArrival s) := .next fun h => h.setPacq
theorem execPacqReply : Keeps s (execPacqReply s) := .next fun h => h.setPacq
theorem execPageWalk : Keeps s (execPageWalk s) := by
  unfold Machine.execPageWalk
  split
  · exact .self
  · exact .next fun h => h.endWalk.ite ((h.foldl fun _ _ h => h.endWalk).ite ((h.modDev fun h => h).ite h))
theorem execErrorNotConsumed {line : Nat} : Keeps s (execErrorNotConsumed line s) := by
  refine .ite ?_ (.ite (.next fun h => h.modArch) (.ite ?_ (.ite (.next fun h => h.modCtx) (.ite (.next fun h => h.modArr)
    (.ite (.next fun h => h.countAt.ite h) (.ite (.next fun h => h.modArr) ?_))))))
  · extract_lets r s1
    have h1 (h : MemoriesOk s) : MemoriesOk s1 := by
      unfold s1
      split
      · exact h.countError
      · exact h
    exact .next fun h => (h1 h).modArch
  · refine .next fun h => ?_
    split
    · exact h.loseRows
    · exact h
  · extract_lets l s1 s2
    have h1 (h : MemoriesOk s) : MemoriesOk s1 := h.countError.ite h.countL2
    have h2 (h : MemoriesOk s) : MemoriesOk s2 := (h1 h).modDev fun h => by split <;> exact h
    exact .next fun h => (h2 h).ite (h2 h).endByFirmware
end Keeps
end Sys2Proof.Machine
end

section
/-! Events of firmware, the host, the links and the resets: each answers a next state and keeps the memories. -/

namespace Sys2Proof.Machine
namespace MemoriesOk

theorem setChannel {s : State} (h : MemoriesOk s) {c : Dev → Map Word} {u : Dev → Map Nat} :
    MemoriesOk (s.modDev fun d => { d with chans := c d, chanUse := u d }) := h.modDev fun h => h
end MemoriesOk

namespace Keeps
variable {s t : State}

/-! ### Firmware -/

theorem execAddressSpaceDescriptorWrite {i w : Nat} : Keeps s (execAddressSpaceDescriptorWrite i w s) :=
  .ite (.next fun h => h.kdErr) (.next fun h => h.modDev fun h => h)
theorem execKeySlotDescriptorWrite {i w : Nat} : Keeps s (execKeySlotDescriptorWrite i w s) :=
  .ite (.next fun h => h.kdErr) (.ite .self (.next fun h => h.modDev fun h => h))
theorem execKeyPortWrite {i w : Nat} : Keeps s (execKeyPortWrite i w s) :=
  .ite (.next fun h => h.kdErr) (.next fun h => h.modDev fun h => by
    split
    · exact h
    · exact DevOk.loadKey h)
theorem execKeySlotUnload {i : Nat} : Keeps s (execKeySlotUnload i s) := by
  unfold Machine.execKeySlotUnload
  extract_lets k
  refine .ite .self (.ite (.next fun h => h.modDev fun h => h) ?_)
  split
  next n t ht =>
    refine .next fun h => MemoriesOk.modDev (h.l1DropKey.newId.of_eq ht) fun hd => ?_
    exact DevOk.cachesDropKey hd
theorem execFunctionLimitsWrite {i w : Nat} : Keeps s (execFunctionLimitsWrite i w s) :=
  .ite (.next fun h => h.modDev fun h => h) (.next fun h => h.kdErr)
theorem execHostQueueGrantWrite {i w : Nat} : Keeps s (execHostQueueGrantWrite i w s) :=
  .ite (.next fun h => h.kdErr) (.next fun h => h.modDev fun h => h)
theorem execFlushCommand {w : Nat} : Keeps s (execFlushCommand w s) :=
  .ite (.next fun h => h.kdErr) (.next fun h => h.modDev fun h => h)
theorem execFlushCommandComplete : Keeps s (execFlushCommandComplete s) := by
  unfold Machine.execFlushCommandComplete
  split
  · exact .self
  · exact .next fun h => h.modDev fun h => DevOk.flushFirst h
theorem execShootDownCommand {asid all wb va n : Nat} : Keeps s (execShootDownCommand asid all wb va n s) :=
  .ite (.next fun h => h.kdErr) (.next fun h => h.invalidate.revokeAll.modDev fun h => h)
theorem execShootDownAcknowledge : Keeps s (execShootDownAcknowledge s) := by
  unfold Machine.execShootDownAcknowledge
  split
  · exact .self
  · exact .next fun h => (h.writePagesBack.ite h).modDev fun h => h
theorem execFunctionLevelReset {vf : Nat} : Keeps s (execFunctionLevelReset vf s) :=
  .ite .self (.ite (.next fun h => h.finishFlr.ite h) (.next fun h => h.beginFlr))
theorem execFunctionResetTimeout {vf : Nat} : Keeps s (execFunctionResetTimeout vf s) := .ite (.next fun h => h.modDev fun h => h) .self
theorem execPendingTrap {cause info : Nat} : Keeps s (execPendingTrap cause info s) := .ite .self (.next fun h => h.modCtx)
theorem execServiceAnswer {w : Nat} : Keeps s (execServiceAnswer w s) := by
  unfold Machine.execServiceAnswer
  split
  · exact .ite (.next fun h => h.modCtx.becomeReady) .self
  · exact .self
theorem execFirmwareTrapResume : Keeps s (execFirmwareTrapResume s) := by
  unfold Machine.execFirmwareTrapResume
  split
  · exact .ite (.next fun h => (h.modDev fun h => h).modCtx.becomeReady) .self
  · exact .self
theorem execFirmwareTrapForward : Keeps s (execFirmwareTrapForward s) := by
  unfold Machine.execFirmwareTrapForward
  split
  · exact .ite (.ite (.next fun h => h.killHere) (.next fun h => h.modCtx.becomeReady)) .self
  · exact .self
theorem execFirmwareSwapGo : Keeps s (execFirmwareSwapGo s) := by
  unfold Machine.execFirmwareSwapGo
  extract_lets d
  split
  · exact .next fun h => h.ite (h.modDev fun h => h)
  · exact .ite (.next fun h => h.modDev fun h => h) (.ite .self (.ite (.next fun h => h.modDev fun h => h) (.next fun h => h.modDev fun h => h)))
  · exact .next fun h => (h.modDev fun h => h).ite ((h.modDev fun h => h).ite h)
theorem execFirmwareSwapTimeout : Keeps s (execFirmwareSwapTimeout s) := .next fun h => (h.modDev fun h => h).ite h
theorem execWellheadRestart : Keeps s (execWellheadRestart s) := .ite (.next fun h => h.modDev fun h => h) (.next fun h => h.modDev fun h => h)
theorem execBankStatusWrite {i w : Nat} : Keeps s (execBankStatusWrite i w s) :=
  .ite (.next fun h => h.kdErr) (.next fun h => h.setBankTable)
theorem execRetirementCommand {i w : Nat} : Keeps s (execRetirementCommand i w s) := by
  unfold Machine.execRetirementCommand
  split
  extract_lets slice p busy serves s1 s2
  have h1 (h : MemoriesOk s) : MemoriesOk s1 := (h.modDev fun h => h).ite (h.modCoreAt fun h => h)
  have h2 (h : MemoriesOk s) : MemoriesOk s2 := (h1 h).retireBank
  exact .ite (.next fun h => h.kdErr) (.ite (.next h1) (.next fun h => (h2 h).listRetired.ite (h2 h)))
theorem execBankLineMove : Keeps s (execBankLineMove s) := by
  unfold Machine.execBankLineMove
  extract_lets slice i
  split
  · exact .self
  · exact .ite (.next fun h => h.loseNow.listRetired.ite h.loseNow) (.ite (.next fun h => h.lineMoved)
      (.ite (.next fun h => h.moveAccess.lineMoved) (.next fun h => h.moveAccess.setRetire)))

/-! ### The host and the links -/

theorem execQwcDoorbell {q n : Nat} : Keeps s (execQwcDoorbell q n s) :=
  .ite .self (.ite (.next fun h => h.setQueue) (.next fun h => h.setQueue))
theorem execQctlRst {q : Nat} : Keeps s (execQctlRst q s) := .next fun h => h.setQueue.ite h
theorem execQueueEntryConsume : Keeps s (execQueueEntryConsume s) := by
  unfold Machine.execQueueEntryConsume
  extract_lets n q
  split
  · split
    · exact .next fun h => (h.ite h.recordTouch).refuseEntry
    · exact .ite (.next fun h => h.setQueue) (.next fun h => h.recordTouch.setQueue.enterSpring)
  · exact .self
theorem execCollectiveChannelWrite {i w : Nat} : Keeps s (execCollectiveChannelWrite i w s) :=
  .ite (.next fun h => h.kdErr) (.next fun h => h.setAttempt.setChannel)
theorem execHostCompletionTimeout : Keeps s (execHostCompletionTimeout s) := by
  refine .ite (.next fun h => h.refuseEntry.ite h) ?_
  split
  · exact .self
  · refine .ite .self ?_
    extract_lets s1 line
    have h1 (h : MemoriesOk s) : MemoriesOk s1 := h.dropAccess
    split
    · exact .next fun h => (h1 h).fillEntry
    · exact .next fun h => (h1 h).modDev fun h => h
    · exact .next fun h => (h1 h).fillEntry.modDev fun h => h
    · exact .next fun h => (h1 h).modDev fun h => h
theorem execLinkFlitReceive {p g : Nat} : Keeps s (execLinkFlitReceive p g s) :=
  .ite .self (.next fun h => (h.setPort.modDev fun h => h).failPort)
theorem execLinkPortFail {p : Nat} : Keeps s (execLinkPortFail p s) := .next fun h => h.failPort.ite h
theorem execTarnLinkTraining {p st peer d : Nat} : Keeps s (execTarnLinkTraining p st peer d s) :=
  .ite .self (.next fun h => h.setPort.modDev fun h => h)
theorem execCollectivePacketReceive {c a d : Nat} : Keeps s (execCollectivePacketReceive c a d s) :=
  .ite .self (.ite (.next fun h => h.modDev fun h => h) (.ite (.next fun h => h.setAttempt.sendTokens.modDev fun h => h) (.next fun h => h.modDev fun h => h)))
theorem execAbortTokenStart {c : Nat} : Keeps s (execAbortTokenStart c s) := .next fun h => h.startToken.ite h
theorem execAbortTokenReceive {c a p : Nat} : Keeps s (execAbortTokenReceive c a p s) :=
  .next fun h => h.setAttempt.sendTokens.ite h
theorem execThrottle {t : Nat} : Keeps s (execThrottle t s) := .ite .self (.next fun h => h.reportSite.modDev fun h => h)
theorem execClockRecoveryStep {t : Nat} : Keeps s (execClockRecoveryStep t s) := .next fun h => (h.modDev fun h => h).ite h
theorem execCriticalTemperature {t : Nat} : Keeps s (execCriticalTemperature t s) := .next fun h => (h.reportSite.modDev fun h => h).ite h
theorem execColdReset : Keeps s (execColdReset s) :=
  .next fun h => MemoriesOk.applyRecord ⟨rfl, h.2.1, fun _ he => nomatch he⟩
theorem execWarmReset : Keeps s (execWarmReset s) := .next fun h => h.warm
theorem execHostCxlReset : Keeps s (execHostCxlReset s) := .next fun h => h.fresh.warm.modDev fun h => h
end Keeps
end Sys2Proof.Machine
end

section
/-! Register writes, host accesses and the events of a cycle: what each answers, and that it keeps the memories. -/

namespace Sys2Proof.Machine
namespace Keeps
variable {s t : State}

/-! ### Registers and the host's memory -/

theorem csrAccess {n : Nat} {act : State → Result} (h : Keeps s (act s)) : Keeps s (csrAccess n act s) :=
  .ite h (.next fun h => h.modDev fun h => h)
theorem kdWrite {n w : Nat} : Keeps s (kdWrite n w s) := by
  unfold Machine.kdWrite
  extract_lets sel i f s1
  have h1 (h : MemoriesOk s) : MemoriesOk s1 := h.refocus
  split
  · exact execAddressSpaceDescriptorWrite.of h1
  · exact execKeySlotDescriptorWrite.of h1
  · exact execKeyPortWrite.of h1
  · exact execBankStatusWrite.of h1
  · exact execRetirementCommand.of h1
  · exact .ite (execCollectiveChannelWrite.of fun h => (h1 h).refocus) (.next fun h => (h1 h).kdErr)
  · exact execFunctionLimitsWrite.of h1
  · exact execHostQueueGrantWrite.of h1
  · exact .ite (.next fun h => (h1 h).flushWord) (.ite (execFlushCommand.of h1) (.next fun h => (h1 h).kdErr))
  · exact .next fun h => (h1 h).kdErr
theorem queueWrite {q r w : Nat} : Keeps s (queueWrite q r w s) := by
  unfold Machine.queueWrite
  split
  · exact .next fun h => h.setQueue.ite h
  · exact .next fun h => h.setQueue.ite h
  · exact execQwcDoorbell
  · exact .self
theorem capWrite {o w : Nat} : Keeps s (capWrite o w s) := by
  unfold Machine.capWrite
  split
  · exact .self
  · exact .ite (.next fun h => h.modDev fun h => h) (.ite (execFirmwareSwapGo.of fun h => h.refocus) .self)
theorem execRegisterWrite {u i w : Nat} : Keeps s (execRegisterWrite u i w s) := by
  unfold Machine.execRegisterWrite
  split
  · exact .ite (csrAccess (by exact .next fun h => h.modDev fun h => h)) .self
  · exact queueWrite
  · exact queueWrite
  · exact .next fun h => h.modDev fun h => h
  · exact .next fun h => (h.modDev fun h => h).ite h.kdErr
  · exact .next fun h => h.flushWord
  · exact .next fun h => h.flushWord
  · exact .ite (csrAccess kdWrite) .self
  · exact .next fun h => h.cxlWrite
  · split
    · exact queueWrite
    · exact .ite capWrite .self
  · exact .next fun h => (h.modDev fun h => h).ite h
  · exact .next fun h => h.modDev fun h => h
  · exact .next fun h => (h.modDev fun h => h).ite h
  · exact .self

/-- A host access answers a next state, or the fault of an address outside HBM (R101, R382). -/
theorem execHostMemoryAccess {w a d : Nat} :
    Keeps s (execHostMemoryAccess w a d s) ∨ Machine.execHostMemoryAccess w a d s = .fault (.unbackedPhysical a) := by
  unfold Machine.execHostMemoryAccess
  extract_lets n
  split
  · exact .inl .self
  · split
    · exact .inr rfl
    · exact .inl (.ite (.next fun h => h.homeRead) (.next fun h => h.homeWrite))

/-! ### The cycle of a core -/

theorem execTxiRowWrite : Keeps s (execTxiRowWrite s) := .next fun h => h.modCore fun h => h
theorem execBundleIssue : Keeps s (execBundleIssue s) := by
  refine .ite .self ?_
  split
  · exact .self
  · refine .ite (.next fun h => h.startSave) ?_
    split
    · exact .next fun h => h.modCtx.takeTrap
    · exact .next fun h => h.issueBundle
theorem execOperationStart : Keeps s (execOperationStart s) := by
  unfold Machine.execOperationStart
  extract_lets l lost s1
  have h1 (h : MemoriesOk s) : MemoriesOk s1 := h.closeDue
  split
  · exact .next fun h => (MemoriesOk.modCore (MemoriesOk.holdBegins (h1 h).startNow.refocus) fun h => h).refocus
  · exact .ite (.next fun h => (h1 h).startNow.modCore fun h => h) (.next fun h => (h1 h).startNow)
theorem execResultLanding : Keeps s (execResultLanding s) := .next fun h => h.modCtx
theorem execContextSwitch : Keeps s (execContextSwitch s) := by
  unfold Machine.execContextSwitch
  split
  · exact .self
  · refine .ite .self ?_
    split
    · exact .next fun h => h.modCore fun h => h
    · exact .next fun h => (h.modCore fun h => h).modCtxAt
theorem execFreezeWatchdogExpiry : Keeps s (execFreezeWatchdogExpiry s) := by
  unfold Machine.execFreezeWatchdogExpiry
  split
  · exact .self
  · extract_lets lim iss s1
    have h1 (h : MemoriesOk s) : MemoriesOk s1 := (h.letLate.ite h).letEntries.modCore fun h => h
    refine .ite .self ?_
    split
    · exact .next h1
    · exact .next fun h => (h1 h).focusOn.takeTrap
end Keeps
end Sys2Proof.Machine
end

section
/-! Slot operations whose effect branches: each answers a next state and keeps the memories. -/

namespace Sys2Proof.Machine
namespace MemoriesOk
variable {s : State}

theorem checkedState (h : MemoriesOk s) {i : Instr} : MemoriesOk (checkedState i s) := h.modCtx.ite h
theorem newPush (h : MemoriesOk s) {i : Instr} {n c : Nat} : MemoriesOk (newPush i n c s).2 := h.newId
end MemoriesOk

namespace Keeps
variable {s : State}

/-- A slot operation whose effect keeps the memories. -/
theorem gated {i : Instr} {own : Verdict} {eff : State → State} (heff : ∀ s, MemoriesOk s → MemoriesOk (eff s)) :
    Keeps s (gated i own eff s) := by
  rw [gated_eq]
  refine .ite (.next fun h => h.checkedState.perform heff) ?_
  split
  · exact .next fun h => h.checkedState.perform heff
  · exact .next fun h => h.checkedState.act

/-! ### A-slot operations -/

theorem execLdf {f : ASlot} : Keeps s (execLdf f s) := .gated fun _ h => h.feOp fun _ _ _ h => by
  dsimp only
  exact h.spTake.startFault.ite (h.spTake.feFill.setWord.ite h.spTake.feFill)
theorem execSte {f : ASlot} : Keeps s (execSte f s) := .gated fun _ h => h.feOp fun _ _ _ h => h.keepOld.spWrite.setWord
theorem execTstf {f : ASlot} : Keeps s (execTstf f s) := .gated fun _ h => h.feOp fun _ _ _ h => h.spTake.feFill
theorem execXlt {f : ASlot} : Keeps s (execXlt f s) := .gated fun _ h => by
  refine h.startFault.ite ?_
  dsimp only
  split
  · exact h.translateFor.missesLeave.startFault
  · exact h.translateFor.missesLeave.post.postS
theorem execStrel {f : ASlot} : Keeps s (execStrel f s) := .gated fun _ h => by
  dsimp only
  split
  · exact h.startFault
  · split
    · exact h.startFault
    · exact h.startFault.ite (h.makeVersions.newAccess.submit.ite h.makeVersions.newAccess.begin)
theorem execPacq {f : ASlot} : Keeps s (execPacq f s) := .gated fun _ h => by
  dsimp only
  split
  · exact h.modCtx.startFault
  · exact MemoriesOk.loadOp (MemoriesOk.pacqClear h.modCtx)
theorem execFladd {f : ASlot} : Keeps s (execFladd f s) := .gated fun _ h => by
  refine h.startFault.ite (h.startFault.ite (h.startFault.ite ?_))
  extract_lets target
  split
  next x t ht => exact (h.flagAccess.of_eq ht).submit
theorem execFlset {f : ASlot} : Keeps s (execFlset f s) := .gated fun _ h => by
  refine h.startFault.ite ?_
  split
  · exact h.startFault
  · refine h.startFault.ite ?_
    split
    next l t ht =>
      refine (MemoriesOk.of_eq (h.foldl_snd fun p x hp => ?_) ht).submit
      exact hp.newId.freshIf
theorem execFlwait {f : ASlot} : Keeps s (execFlwait f s) := .gated fun _ h => by
  dsimp only
  exact h.startFault.ite (h.startFault.ite ((h.modCore fun h => h).wake.ite h).allocEntry.fillEntry.acquire)
theorem execBarv {f : ASlot} : Keeps s (execBarv f s) := .gated fun _ h => h.barOp fun _ _ _ h => by
  dsimp only
  exact (h.beforePerform.spTake.keepOld.spoilBytes.ite h.beforePerform.spTake.keepOld.spWrite).barEntry.acquire
theorem execBwait {f : ASlot} : Keeps s (execBwait f s) := .gated fun _ h => h.barOp fun _ _ _ h => h.spTake.barEntry.acquire
theorem execHst {f : ASlot} : Keeps s (execHst f s) := .gated fun _ h => by
  dsimp only
  split
  · exact h.startFault
  · split
    · exact h.startFault
    · exact h.storeOp.takePort.ite h.storeOp
theorem execHld {f : ASlot} : Keeps s (execHld f s) := .gated fun _ h => by
  dsimp only
  split
  · exact h.startFault
  · split
    · exact h.startFault
    · refine h.startFault.ite ?_
      split
      · exact h.startFault
      · exact (h.rewind.ite h.startFault).ite (MemoriesOk.takePort (h.foldl fun _ _ h => h.postV))

/-! ### X-slot operations -/

theorem execFfrdy {f : XSlot} : Keeps s (execFfrdy f s) := .gated fun _ h => by
  split
  · exact h
  · exact h.modCtx.fireWatches

/-! ### V-slot operations -/

theorem execVpack {f : VSlot} : Keeps s (execVpack f s) := .gated fun _ h => by
  dsimp only
  split
  · exact h.domainFault
  · exact h.popIf.post
theorem execVext {f : VSlot} : Keeps s (execVext f s) := .gated fun _ h => by
  dsimp only
  split
  · exact h.popIf.postS
  · exact h.popIf.post
  · exact h.popIf.post
theorem execHfwd {f : VSlot} : Keeps s (execHfwd f s) := .gated fun _ h => by
  refine h.startFault.ite ?_
  split
  · exact h.domainFault
  · exact h.popIf.writeLanes
theorem execHinv {f : VSlot} : Keeps s (execHinv f s) := .gated fun _ h => by
  refine h.startFault.ite ?_
  split
  · exact h.domainFault
  · exact h.popIf.writeLanes
theorem execSplv {f : VSlot} : Keeps s (execSplv f s) := .gated fun _ h => by
  dsimp only
  split
  · exact h.startFault
  · split
    · exact h.spillWrite.modArch
    · exact h.spillWrite
    · exact h.spillWrite
    · exact h.spillWrite
theorem execFilv {f : VSlot} : Keeps s (execFilv f s) := .gated fun _ h => by
  dsimp only
  split
  · exact h.postV
  · exact h.post
  · exact h.post
  · exact h.post

/-! ### M-slot operations -/

theorem execFgrid {f : MSlot} : Keeps s (execFgrid f s) := .gated fun _ h => by
  refine h.startFault.ite (h.startFault.ite ?_)
  split
  · refine h.spoilRead.corruptStart.ite ?_
    split
    · exact h.spoilRead.startFault
    · exact h.spoilRead.changeIn
  · exact h.startFault
theorem execFsel {f : MSlot} : Keeps s (execFsel f s) := .gated fun _ h => h.startFault.ite (h.popEntry.ite h).changeIn
theorem execFmx {f : MSlot} : Keeps s (execFmx f s) := .gated fun _ h => by
  dsimp only
  split
  · exact h.startFault
  · refine h.startFault.ite (MemoriesOk.ite ?_ (h.startFault.ite (h.startFault.ite ?_)))
    · split
      · exact h.startFault
      · exact h.meetPort.newPush.enterPush.postRows
    · exact h.takeSources.meetPort.newPush.enterPush.postRows
theorem execFmxHaar {f : MSlot} : Keeps s (execFmxHaar f s) := .gated fun _ h => by
  dsimp only
  refine h.startFault.ite ?_
  split
  · exact h.startFault
  · refine h.spoilRead.corruptStart.ite (h.spoilRead.startFault.ite ?_)
    split
    · exact h.spoilRead.startFault
    · exact h.spoilRead.meetPort.newPush.enterPush.postRows
theorem execFmxd {f : MSlot} : Keeps s (execFmxd f s) := .gated fun _ h => by
  dsimp only
  refine h.startFault.ite (MemoriesOk.ite ?_ (MemoriesOk.ite ?_ (h.startFault.ite ?_)))
  · split
    · exact h.startFault
    · exact h.meetPort.newPush.enterPush.postRows
  · exact h.gradTag.takeSources.meetPort.newPush.enterPush.postRows
  · split
    · exact h.startFault
    · exact h.takeSources.meetPort.newPush.enterPush.postRows
theorem execFmxc {f : MSlot} : Keeps s (execFmxc f s) := .gated fun _ h => by
  dsimp only
  split
  · exact h.startFault
  · refine h.startFault.ite ?_
    split
    · exact h.startFault
    · refine MemoriesOk.ite ?_ ?_
      · split
        · exact h.startFault
        · exact h.meetPort.newPush.enterPush
      · split
        · exact h.startFault
        · exact h.takeSources.meetPort.newPush.enterPush
theorem execFload {f : MSlot} : Keeps s (execFload f s) := .gated fun _ h => by
  refine h.startFault.ite ?_
  extract_lets align
  split
  · exact h.startFault
  · refine h.startFault.ite ?_
    exact h.newId.modArr.beginLoad.ite h.newId.modArr
theorem execFgout {f : MSlot} : Keeps s (execFgout f s) := .gated fun _ h =>
  h.startFault.ite (MemoriesOk.foldl h.modArr fun _ _ h => h.postRead)
theorem execFrdc {f : MSlot} : Keeps s (execFrdc f s) := .gated fun _ h =>
  h.startFault.ite (MemoriesOk.foldl h.modArr fun _ _ h => h.postRead)
theorem execFoog {f : MSlot} : Keeps s (execFoog f s) := .gated fun _ h => h.post.modArr.spoilUses.ite h.post
theorem execFknot {f : MSlot} : Keeps s (execFknot f s) := .gated fun _ h => by
  refine h.startFault.ite (h.startFault.ite ?_)
  split
  · exact h.allocEntry.modArr.fillEntry
  · refine MemoriesOk.ite ?_ ?_
    · exact h.allocEntry.fresh.fillEntry.post
    · exact h.allocEntry.modArr.spoilUses.fillEntry

/-! ### C- and T-slot operations -/

theorem execBpany {f : CSlot} : Keeps s (execBpany f s) := .gated fun _ h => h.branchTo.ite h
theorem execLoop {f : CSlot} : Keeps s (execLoop f s) := .gated fun _ h => h.modCtx.ite h.modCtx
theorem execTrap {f : CSlot} : Keeps s (execTrap f s) := .gated fun _ h => h.modCtx.ite h.advanceHere.trapAfter
theorem execTrapSys {f : CSlot} : Keeps s (execTrapSys f s) := .gated fun _ h =>
  h.modCtx.ite (MemoriesOk.enterService (MemoriesOk.advanceHere h.modCtx))
theorem execTxi {f : TSlot} : Keeps s (execTxi f s) := .gated fun _ h => h.startFault.ite (h.freshIf.modCore fun h => h)
theorem execTxc {f : TSlot} : Keeps s (execTxc f s) := .gated fun _ h => (h.fresh.modCore fun h => h).ite (h.modCore fun h => h)
end Keeps
end Sys2Proof.Machine
end

section
/-! Every instruction answers a next state and keeps the memories, but for a host access outside HBM. -/

namespace Sys2Proof.Machine
namespace Keeps
variable {s : State} {i : Instr}

theorem exec_cSlot (hi : i.slot? = some .c) : Keeps s (exec i s) := by
  cases i with
  | cnop f | chk f => exact .gated fun _ h => h
  | endInst f | lexit f | eret f => exact .gated fun _ h => h.modCtx
  | add f | sub f | mul f | mulh f | mulhn f | div f | divn f | rem f | remn f | and f | or f | xor f | andn f | shl f
    | shr f | sar f | rol f | min f | max f | minn f | maxn f | clz f | ctz f | popc f | seq f | slt f | sltn f | sel f
    | li f => exact .gated fun _ h => h.alu
  | lih f | lea f | fil f | mfs f => exact .gated fun _ h => h.postS
  | popq f => exact .gated fun _ h => h.popEntry.postS
  | br f | ret f | jmpr f => exact .gated fun _ h => h.branchTo
  | bpall f => exact .gated fun _ h => h.branchTo.ite h
  | call f => exact .gated fun _ h => h.postS.branchTo
  | beq f | bne f | blt f | bge f | bltn f | bgen f => exact .gated fun _ h => h.branchIf
  | bpany f => exact execBpany
  | loop f => exact execLoop
  | spl f => exact .gated fun _ h => h.spillWrite
  | mts f => exact .gated fun _ h => h.sysWrite
  | trap f => exact execTrap
  | trapSys f => exact execTrapSys
  | blend f | bret f => exact .gated fun _ h => h.modArch
  | _ => cases hi

theorem exec_aSlot (hi : i.slot? = some .a) : Keeps s (exec i s) := by
  cases i with
  | anop f => exact .gated fun _ h => h
  | hinfo f => exact .gated fun _ h => h.postS
  | ldq f | ldqv f | ldqg f | ldqs f | ldacq f => exact .gated fun _ h => h.loadOp
  | tld f => exact .gated fun _ h => h.startFault.ite h.loadOp
  | sts f | stv f | stvp f | stg f => exact .gated fun _ h => h.storeOp
  | tst f => exact .gated fun _ h => h.startFault.ite h.storeOp
  | ldf f => exact execLdf
  | ste f => exact execSte
  | setf f | sete f => exact .gated fun _ h => h.setState
  | tstf f => exact execTstf
  | xlt f => exact execXlt
  | hdrop f => exact .gated fun _ h => h.freshIf.modArch
  | hst f => exact execHst
  | hld f => exact execHld
  | amoadd f | amomin f | amomax f | amominn f | amomaxn f | amoand f | amoor f | amoxor f | amoswp f | amocas f
    | amoincw f | amobfa f | amofadd f => exact .gated fun _ h => h.amoOp
  | strel f => exact execStrel
  | pacq f => exact execPacq
  | drn f => exact .gated fun _ h => h.drnAct
  | barv f => exact execBarv
  | bwait f => exact execBwait
  | fladd f => exact execFladd
  | flset f => exact execFlset
  | flwait f => exact execFlwait
  | _ => cases hi

theorem exec_vSlot (hi : i.slot? = some .v) : Keeps s (exec i s) := by
  cases i with
  | vnop f => exact .gated fun _ h => h
  | pcnt f | pfirst f | htagRead f => exact .gated fun _ h => h.postS
  | hcmp f => exact .gated fun _ h => h.popIf.postS
  | vfadd f | vfsub f | vfmul f | vfmin f | vfmax f => exact .gated fun _ h => h.vf2
  | vfma f | vfms f | vfnma f => exact .gated fun _ h => h.vf3
  | vfabs f | vfneg f | vfspec f => exact .gated fun _ h => h.vf1
  | vfcmp f | vicmp f => exact .gated fun _ h => h.vCompare
  | vfclass f | vimad f | vcvt f | vunpk f | vscacc f | vscal f => exact .gated fun _ h => h.vOp
  | viadd f | visub f | vimul f | vimin f | vimax f => exact .gated fun _ h => h.vi2
  | viand f | vior f | vixor f | vishl f | vishr f | visar f => exact .gated fun _ h => h.viBits
  | vpack f => exact execVpack
  | vmov f | vsel f | vperm f | vrot f => exact .gated fun _ h => h.vMove
  | vbcast f => exact .gated fun _ h => h.writeLanes.ite h.vMove
  | vins f | htagSet f => exact .gated fun _ h => h.post
  | vext f => exact execVext
  | viota f | vli f => exact .gated fun _ h => h.writeLanes
  | hthr f => exact .gated fun _ h => h.startFault.ite h.popIf.writeLanes
  | vrsum f => exact .gated fun _ h => h.vReduce.ite h.vReduce
  | vrmax f | vrmin f => exact .gated fun _ h => h.vReduce
  | pset f | pand f | por f | pxor f | pnot f => exact .gated fun _ h => h.writePred
  | hfwd f => exact execHfwd
  | hinv f => exact execHinv
  | splv f => exact execSplv
  | filv f => exact execFilv
  | vchk f => exact .gated fun _ h => h.startFault.ite h
  | _ => cases hi

theorem exec_mSlot (hi : i.slot? = some .m) : Keeps s (exec i s) := by
  cases i with
  | mnop f => exact .gated fun _ h => h
  | fgrid f => exact execFgrid
  | fload f => exact execFload
  | fsel f => exact execFsel
  | fmx f => exact execFmx
  | fmxHaar f => exact execFmxHaar
  | fmxd f => exact execFmxd
  | fmxc f => exact execFmxc
  | fgout f => exact execFgout
  | fknot f => exact execFknot
  | foog f => exact execFoog
  | fclrBuffer f | fclrCounters f | fclrGrid f | fclrGrad f => exact .gated fun _ h => h.changeIn
  | frdc f => exact execFrdc
  | _ => cases hi

theorem exec_tSlot (hi : i.slot? = some .t) : Keeps s (exec i s) := by
  cases i with
  | tnop f => exact .gated fun _ h => h
  | txi f => exact execTxi
  | txo f => exact .gated fun _ h => h.postV
  | txc f => exact execTxc
  | _ => cases hi

theorem exec_xSlot (hi : i.slot? = some .x) : Keeps s (exec i s) := by
  cases i with
  | xnop f | waitall f => exact .gated fun _ h => h
  | waitany f => exact .gated fun _ h => h.postS
  | evwait f => exact .gated fun _ h => h.modLaunch.postS.acquire
  | copy f | copy2d f | copyt f => exact .gated fun _ h => h.copyStart
  | ffrdy f => exact execFfrdy
  | tagclr f => exact .gated fun _ h => h.clearTags
  | xdt f | xds f => exact .gated fun _ h => h.newJob
  | xdq f | cntrd f => exact .gated fun _ h => h.postReply
  | launch f => exact .gated fun _ h => h.tagStart.newId.freshIf.submit
  | evsig f => exact .gated fun _ h => h.newId.freshIf.submit
  | mflush f => exact .gated fun _ h => h.tagStart.newId.submit
  | lwait f | pget f => exact .gated fun _ h => h.postS.takeAnswer
  | pput f => exact .gated fun _ h => h.takeAnswer
  | grpbar f => exact .gated fun _ h => h.modArch.takeAnswer
  | defer f => exact .gated fun _ h => h.modCore fun h => h
  | defrun f => exact .gated fun _ h => h.formBatch.postS
  | _ => cases hi

theorem exec_event (hi : i.slot? = none) (hh : ∀ w a d, i ≠ .hostMemoryAccess w a d) : Keeps s (exec i s) := by
  cases i with
  | pendingTrap _ _ => exact execPendingTrap
  | functionLevelReset _ => exact execFunctionLevelReset
  | functionResetTimeout _ => exact execFunctionResetTimeout
  | shootDownCommand _ _ _ _ _ => exact execShootDownCommand
  | addressSpaceDescriptorWrite _ _ => exact execAddressSpaceDescriptorWrite
  | keySlotDescriptorWrite _ _ => exact execKeySlotDescriptorWrite
  | keyPortWrite _ _ => exact execKeyPortWrite
  | keySlotUnload _ => exact execKeySlotUnload
  | bankStatusWrite _ _ => exact execBankStatusWrite
  | retirementCommand _ _ => exact execRetirementCommand
  | collectiveChannelWrite _ _ => exact execCollectiveChannelWrite
  | functionLimitsWrite _ _ => exact execFunctionLimitsWrite
  | hostQueueGrantWrite _ _ => exact execHostQueueGrantWrite
  | flushCommand _ => exact execFlushCommand
  | registerWrite _ _ _ => exact execRegisterWrite
  | qwcDoorbell _ _ => exact execQwcDoorbell
  | qctlRst _ => exact execQctlRst
  | linkFlitReceive _ _ => exact execLinkFlitReceive
  | linkPortFail _ => exact execLinkPortFail
  | collectivePacketReceive _ _ _ => exact execCollectivePacketReceive
  | abortTokenStart _ => exact execAbortTokenStart
  | abortTokenReceive _ _ _ => exact execAbortTokenReceive
  | serviceAnswer _ => exact execServiceAnswer
  | throttle _ => exact execThrottle
  | clockRecoveryStep _ => exact execClockRecoveryStep
  | criticalTemperature _ => exact execCriticalTemperature
  | tarnLinkTraining _ _ _ _ => exact execTarnLinkTraining
  | recordPrioChange _ _ _ => exact execRecordPrioChange
  | errorNotConsumed _ => exact execErrorNotConsumed
  | bundleIssue => exact execBundleIssue
  | operationStart => exact execOperationStart
  | resultLanding => exact execResultLanding
  | loadDataFill => exact execLoadDataFill
  | bankService => exact execBankService
  | accessPerform => exact execAccessPerform
  | releasePerform => exact execReleasePerform
  | waiterReady => exact execWaiterReady
  | contextSwitch => exact execContextSwitch
  | freezeWatchdogExpiry => exact execFreezeWatchdogExpiry
  | heldEntryCommit => exact execHeldEntryCommit
  | arrayPushRow => exact execArrayPushRow
  | floadBegin => exact execFloadBegin
  | floadComplete => exact execFloadComplete
  | codebookTableRead => exact execCodebookTableRead
  | fgridSlotWrite => exact execFgridSlotWrite
  | txiRowWrite => exact execTxiRowWrite
  | copyChunk => exact execCopyChunk
  | copyComplete => exact execCopyComplete
  | mflushComplete => exact execMflushComplete
  | logPromotion => exact execLogPromotion
  | l1WriteBack => exact execL1WriteBack
  | pacqRequestArrival => exact execPacqRequestArrival
  | pacqReply => exact execPacqReply
  | drnComplete => exact execDrnComplete
  | heldServiceAnswer => exact execHeldServiceAnswer
  | flagOperationArrival => exact execFlagOperationArrival
  | eventSignalArrival => exact execEventSignalArrival
  | jobDispatch => exact execJobDispatch
  | blockDecode => exact execBlockDecode
  | chunkWrite => exact execChunkWrite
  | jobComplete => exact execJobComplete
  | jobSuspend => exact execJobSuspend
  | xdtComplete => exact execXdtComplete
  | launchEnqueue => exact execLaunchEnqueue
  | launchSelection => exact execLaunchSelection
  | instanceBind => exact execInstanceBind
  | preemption => exact execPreemption
  | contextSave => exact execContextSave
  | contextResume => exact execContextResume
  | rebalanceCheck => exact execRebalanceCheck
  | deferralBatchStart => exact execDeferralBatchStart
  | stageInstanceEnd => exact execStageInstanceEnd
  | launchComplete => exact execLaunchComplete
  | completionWordWrite => exact execCompletionWordWrite
  | launchWatchdogExpiry => exact execLaunchWatchdogExpiry
  | launchReplay => exact execLaunchReplay
  | shootDownAcknowledge => exact execShootDownAcknowledge
  | pageWalk => exact execPageWalk
  | bankLineMove => exact execBankLineMove
  | flushCommandComplete => exact execFlushCommandComplete
  | queueEntryConsume => exact execQueueEntryConsume
  | hostCompletionTimeout => exact execHostCompletionTimeout
  | firmwareTrapResume => exact execFirmwareTrapResume
  | firmwareTrapForward => exact execFirmwareTrapForward
  | firmwareSwapGo => exact execFirmwareSwapGo
  | firmwareSwapTimeout => exact execFirmwareSwapTimeout
  | wellheadRestart => exact execWellheadRestart
  | coldReset => exact execColdReset
  | warmReset => exact execWarmReset
  | hostCxlReset => exact execHostCxlReset
  | jobResumption => exact execJobResumption
  | hostMemoryAccess w a d => exact absurd rfl (hh w a d)
  | _ => cases hi

/-- Every instruction and event but a host access answers a next state that keeps the memories. -/
theorem exec (hh : ∀ w a d, i ≠ .hostMemoryAccess w a d) : Keeps s (exec i s) := by
  cases hi : i.slot? with
  | none => exact exec_event hi hh
  | some sl =>
    cases sl with
    | c => exact exec_cSlot hi
    | a => exact exec_aSlot hi
    | v => exact exec_vSlot hi
    | m => exact exec_mSlot hi
    | t => exact exec_tSlot hi
    | x => exact exec_xSlot hi
end Keeps
end Sys2Proof.Machine
end

section
/-! Every step keeps the memories (O59), and every instruction and event answers (O55). -/

namespace Sys2Proof.Machine

/-- Whatever next state is answered has its memories in canonical form. -/
def AnswersOk (r : Result) : Prop := ∀ t, r = .next t → MemoriesOk t

theorem Keeps.answersOk {s : State} {r : Result} (h : Keeps s r) (hs : MemoriesOk s) : AnswersOk r := by
  obtain ⟨t, rfl, ht⟩ := h
  rintro _ ⟨⟩
  exact ht hs

namespace MemoriesOk
variable {s : State}

theorem focus (h : MemoriesOk s) (e : Event) : MemoriesOk (e.focus s) := h

theorem exec (h : MemoriesOk s) {i : Instr} : AnswersOk (exec i s) := by
  by_cases hh : ∀ w a d, i ≠ .hostMemoryAccess w a d
  · exact (Keeps.exec hh).answersOk h
  · push Not at hh
    obtain ⟨w, a, d, rfl⟩ := hh
    obtain hk | hf := Keeps.execHostMemoryAccess (s := s) (w := w) (a := a) (d := d)
    · exact hk.answersOk h
    · intro t ht
      cases hf.symm.trans ht
end MemoriesOk

namespace AnswersOk
variable {s : State}

theorem next (h : MemoriesOk s) : AnswersOk (.next s) := by
  rintro _ ⟨⟩
  exact h
theorem ite {r r' : Result} (h : AnswersOk r) (h' : AnswersOk r') {p : Prop} {_ : Decidable p} : AnswersOk (if p then r else r') := by
  split
  · exact h
  · exact h'
theorem andThen {r : Result} {g : State → Result} (h : AnswersOk r) (hg : ∀ s, MemoriesOk s → AnswersOk (g s)) :
    AnswersOk (andThen r g) := by
  cases r with
  | next s => exact hg s (h s rfl)
  | fault f => exact fun _ ht => nomatch ht
  | refused x => exact fun _ ht => nomatch ht
theorem runEach {α : Type} {g : α → State → Result} (hg : ∀ x s, MemoriesOk s → AnswersOk (g x s)) (l : List α)
    (h : MemoriesOk s) : AnswersOk (runEach g l s) := by
  induction l generalizing s with
  | nil => exact .next h
  | cons x r ih => exact (hg x s h).andThen fun _ h => ih h

/-! ### The parts of a core's cycle -/

theorem runTodo {c : Nat} (n : Nat) (h : MemoriesOk s) : AnswersOk (runTodo exec c n s) := by
  induction n generalizing s with
  | zero => exact .next h
  | succ n ih =>
    unfold Machine.runTodo
    split
    · exact .next h
    · exact (MemoriesOk.exec (MemoriesOk.refocus (h.modCoreAt fun h => h))).andThen fun _ h => ih h
theorem runAll {c : Nat} (h : MemoriesOk s) : AnswersOk (runAll exec c s) := runTodo _ h
theorem performDue {c : Nat} (h : MemoriesOk s) : AnswersOk (performDue exec c s) := runEach (fun _ _ h => h.refocus.exec) _ h
theorem landAll {c : Nat} (h : MemoriesOk s) : AnswersOk (landAll exec c s) := runEach (fun _ _ h => h.focusOn.exec) _ h
theorem arrayBegin {c : Nat} (h : MemoriesOk s) : AnswersOk (arrayBegin exec c s) :=
  .ite (.next h) (h.focusOn.applyChanges.exec.andThen fun _ h => h.exec.andThen fun _ h => h.exec)
theorem arrayRows {c : Nat} (h : MemoriesOk s) : AnswersOk (arrayRows exec c s) := by
  refine .andThen (runEach (fun _ _ h => h.refocus.exec) _ h.focusOn.noteTurn.takeBanks) fun s h => ?_
  split
  · exact .ite h.focusOn.exec (.next h)
  · exact .next h
theorem issuePhase {c : Nat} (h : MemoriesOk s) : AnswersOk (issuePhase exec c s) := by
  unfold Machine.issuePhase
  split
  · exact .next h
  · exact .ite (.next h) (h.focusOn.exec.andThen fun s h =>
      .ite ((runAll h).andThen fun s h => .next h.focusOn.finishIssue) (.next h))
theorem startRounds {c : Nat} (n : Nat) (h : MemoriesOk s) : AnswersOk (startRounds exec c n s) := by
  induction n generalizing s with
  | zero => exact .next h
  | succ n ih => exact h.focusOn.exec.andThen fun s h => (runAll h).andThen fun s h => .ite (.next h) (ih h)
theorem startPhase {c : Nat} (h : MemoriesOk s) : AnswersOk (startPhase exec c s) :=
  (startRounds 4 h).andThen fun _ h => .next h.holdAtBank.holdAtRead
theorem rebalance {c : Nat} (h : MemoriesOk s) : AnswersOk (rebalance exec c s) := .ite h.focusOn.exec (.next h)
theorem endPhase {c : Nat} (h : MemoriesOk s) : AnswersOk (endPhase exec c s) := by
  unfold Machine.endPhase
  extract_lets s0
  have h0 : MemoriesOk s0 := h.modCoreAt fun h => h
  refine h0.focusOn.exec.andThen fun s h => ?_
  have hs : MemoriesOk ((heldCtxs s c).foldl (fun s n => settleTraps (s.focusOn c n)) (applyClear s)) :=
    h.applyClear.foldl fun _ _ h => h.focusOn.settleTraps
  exact hs.focusOn.exec.andThen fun s h => (rebalance h).andThen fun s h => .next h.closeCycle
theorem heldPhase {c : Nat} (h : MemoriesOk s) : AnswersOk (heldPhase exec c s) := by
  unfold Machine.heldPhase
  extract_lets s1 on
  have h1 : MemoriesOk s1 := h.focusOn
  have hon : MemoriesOk on := h1.modCore fun h => h
  refine .andThen (.ite ((arrayBegin hon).andThen fun _ h => arrayRows h) (.next h1)) fun s h => ?_
  refine (rebalance h).andThen fun s h => ?_
  exact (MemoriesOk.exec (MemoriesOk.heldCycle (h.focusOn.modCore fun h => h))).andThen fun s h => .next h.tickBase.nextCore
theorem unlessHeld {c : Nat} {g : State → Result} (hg : ∀ s, MemoriesOk s → AnswersOk (g s)) (h : MemoriesOk s) :
    AnswersOk (unlessHeld exec c g s) := .ite (heldPhase h) (hg s h)
theorem issueOrHold {c : Nat} (h : MemoriesOk s) : AnswersOk (issueOrHold exec c s) := .ite h.focusOn.exec (issuePhase h)
theorem liveCycle {c : Nat} (h : MemoriesOk s) : AnswersOk (liveCycle exec c s) := by
  refine (performDue h).andThen fun s h => ?_
  split
  · exact heldPhase (h.modCoreAt fun h => h)
  · refine (landAll (h.modCoreAt fun h => h)).andThen fun s h => (arrayBegin h).andThen fun s h => (issueOrHold h).andThen fun s h => ?_
    refine unlessHeld (fun s h => (startPhase h).andThen fun s h => ?_) h
    exact unlessHeld (fun s h => (arrayRows h).andThen fun s h => endPhase h) h
theorem ageWaiters {c : Nat} (h : MemoriesOk s) : AnswersOk (ageWaiters exec c s) :=
  runEach (fun _ _ h => .ite (.ite h.focusOn.exec (.next (MemoriesOk.modCtx h.focusOn))) (.next h)) _ h
theorem endHits {c : Nat} (h : MemoriesOk s) : AnswersOk (endHits exec c s) := runEach (fun _ _ h => h.refocus.exec) _ h
theorem coreCycle {c : Nat} (h : MemoriesOk s) : AnswersOk (coreCycle exec c s) := by
  refine .ite (.next h.countLag.nextCore) ?_
  refine (ageWaiters h.countLag.lockAges).andThen fun s h => (endHits h).andThen fun s h => .ite ?_ (liveCycle h)
  exact (rebalance h).andThen fun s h => .next h.focusOn.rewindCycle.tickBase.nextCore

theorem step (h : MemoriesOk s) : AnswersOk (step s) := by
  unfold Machine.step Machine.stepWith
  split
  next e r _ =>
    extract_lets s1
    have h1 : MemoriesOk s1 := h
    exact .ite (.next h1) (h1.focus e).exec
  · split
    · exact (MemoriesOk.focus (MemoriesOk.turnEnds h) _).exec
    · extract_lets s1
      have h1 : MemoriesOk s1 := by
        unfold s1
        split
        · exact h
        · exact h
      exact coreCycle h1
end AnswersOk

/-- Settles O59: every part of a step keeps the memories in canonical form. -/
theorem memoriesKept : Obligations.MemoriesKept := fun _ _ h ht => AnswersOk.step h _ ht

/-- Settles O55: but for a host access every instruction and event answers a next state. -/
theorem everyInstructionAnswers : Obligations.EveryInstructionAnswers := by
  refine ⟨fun i s hh => ?_, fun s w a d => ?_⟩
  · obtain ⟨t, ht, -⟩ := Keeps.exec (s := s) hh
    exact ⟨t, ht⟩
  · exact Keeps.execHostMemoryAccess.imp_left fun ⟨t, ht, _⟩ => ⟨t, ht⟩
end Sys2Proof.Machine
end

section
/-! Throttling (R394), and what taking banks out of service leaves of a machine that a reset has scrubbed (R108). -/

namespace Sys2Proof.Machine

/-! ### Throttling (R394) -/

theorem capWord_site (t : State) {n : Nat} (hn : n < 10) : capWord t 2 (2 + n) = siteWord n t := by
  have h : capWord t 2 (2 + n) = if 2 ≤ 2 + n ∧ 2 + n < 12 then siteWord (2 + n - 2) t else 0 := by
    interval_cases n <;> rfl
  rw [h, if_pos (by omega), Nat.add_sub_cancel_left]

/-- The word of a site that has reported: its temperature, and whether the report is a cause to throttle (R393). -/
theorem siteWord_reported {t : State} {n x : Nat} {b : Bool} (hx : x < 2 ^ 16) (ht : t.dev.temps.find? n = some x)
    (hb : t.dev.thrSites.contains n = b) :
    (siteWord n t).toNat % 2 ^ 16 = x ∧ (siteWord n t).getLsbD 40 = b := by
  have hw : siteWord n t =
      BitVec.ofNat 64 (b2n b * 2 ^ 40 + bits (measuredNow (2 + n) t).toNat 39 16 * 65536 + x % 65536) := by
    unfold siteWord
    rw [ht, hb]
  have hy : bits (measuredNow (2 + n) t).toNat 39 16 < 2 ^ 24 := Nat.mod_lt _ (by decide)
  rw [hw]
  generalize bits (measuredNow (2 + n) t).toNat 39 16 = y at hy
  have hlt : b2n b * 2 ^ 40 + y * 65536 + x % 65536 < 2 ^ 64 := by
    cases b
    · simp only [b2n, Bool.false_eq_true, if_false]
      omega
    · simp only [b2n, if_true]
      omega
  rw [BitVec.getLsbD, BitVec.toNat_ofNat, Nat.mod_eq_of_lt hlt, Nat.testBit_eq_decide_div_mod_eq]
  cases b
  · simp only [b2n, Bool.false_eq_true, if_false]
    exact ⟨by omega, decide_eq_false (by omega)⟩
  · simp only [b2n, if_true]
    exact ⟨by omega, decide_eq_true (by omega)⟩

theorem temps_reportSite (site x : Nat) (s : State) : (reportSite site x s).dev.temps.find? site = some x :=
  Map.find?_set_self _ _ _

theorem contains_reportSite (site x : Nat) (s : State) : (reportSite site x s).dev.thrSites.contains site = tooHot site x s := by
  change (s.dev.thrSites.filter (fun i => i ≠ site) ++ (if tooHot site x s then [site] else [])).contains site = _
  cases tooHot site x s <;> simp

theorem exec_throttle {s : State} {n : Nat} (h : siteOf s.foc.id n = true) : exec (.throttle n) s =
    .next ((reportSite s.foc.id s.foc.aux s).modDev fun d => { d with
      thr := d.thr.set n (min 9 (d.thr.get n 0 + if tooHot s.foc.id s.foc.aux s then 1 else 0))
      thrAt := if (if tooHot s.foc.id s.foc.aux s then 1 else 0) = 1 || d.thrSites.contains s.foc.id
        || s.dev.thrSites.contains s.foc.id then d.thrAt.set n d.base else d.thrAt }) := by
  change execThrottle n s = _
  unfold execThrottle
  simp only [h, Bool.not_true, Bool.false_eq_true, if_false]

theorem throttle_steps {s : State} {n : Nat} (h : siteOf s.foc.id n = true) : Answers (.throttle n) s fun t => t.cores = s.cores
    ∧ t.dev.thr.get n 0 = min 9 (s.dev.thr.get n 0 + if tooHot s.foc.id s.foc.aux s then 1 else 0)
    ∧ (s.foc.id < 10 → s.foc.aux < 2 ^ 16 → (capWord t 2 (2 + s.foc.id)).toNat % 2 ^ 16 = s.foc.aux
      ∧ (capWord t 2 (2 + s.foc.id)).getLsbD 40 = decide (s.dev.throt ≤ s.foc.aux)) := by
  refine ⟨_, exec_throttle h, rfl, Map.get_set_self _ _ _ _, fun hs hx => ?_⟩
  have hhot : tooHot s.foc.id s.foc.aux s = decide (s.dev.throt ≤ s.foc.aux) := if_neg (by omega)
  rw [capWord_site _ hs, ← hhot]
  exact siteWord_reported hx (temps_reportSite _ _ s) (contains_reportSite _ _ s)

theorem exec_clockRecoveryStep (s : State) (n : Nat) : exec (.clockRecoveryStep n) s =
    .next (if mayRecover n s then
      s.modDev fun d => { d with thr := d.thr.set n (d.thr.get n 0 - 1), thrAt := d.thrAt.set n d.base } else s) := rfl

theorem exec_criticalTemperature (s : State) (n : Nat) : exec (.criticalTemperature n) s =
    .next (if siteOf s.foc.id n && decide (s.foc.id ≠ 10) && decide (880 ≤ s.foc.aux) then
      (reportSite s.foc.id s.foc.aux s).modDev fun d => { d with stopped := d.stopped.set n true, ladder := max d.ladder 5 }
      else s) := rfl

theorem criticalTemperature_stops {s : State} {n : Nat} (h : siteOf s.foc.id n = true) (hs : s.foc.id < 10)
    (hx : 880 ≤ s.foc.aux) :
    Answers (.criticalTemperature n) s fun t => t.dev.stopped.get n false = true ∧ 5 ≤ t.dev.ladder := by
  refine ⟨_, (exec_criticalTemperature s n).trans (congrArg _ (if_pos ?_)), Map.get_set_self _ _ _ _, Nat.le_max_right _ _⟩
  rw [h, decide_eq_true (by omega), decide_eq_true hx]
  rfl

/-! ### What a reset leaves of the device (R337, R395) -/

/-- A core of which a reset has left nothing. -/
def CoreBlank (k : Core) : Prop :=
  k.ctxs = [] ∧ k.regions = [] ∧ k.sp = [] ∧ k.acc = [] ∧ k.l1 = [] ∧ k.plog = []

/-- The device `e` differs from `d` in its tables of L2 banks at most. -/
def BanksDiffer (d e : Dev) : Prop :=
  { e with l2Log := d.l2Log, l2Spare := d.l2Spare, l2Banks := d.l2Banks, l2Ret := d.l2Ret } = d

/-- After a reset: every core is blank, and of the device `d` the tables of banks alone have changed. -/
def Scrubbed (d : Dev) (s : State) : Prop := BanksDiffer d s.dev ∧ ∀ c, CoreBlank (s.coreAt c)

namespace Scrubbed
variable {d : Dev} {s : State}

theorem modDev (h : Scrubbed d s) {g : Dev → Dev} (hg : ∀ e, BanksDiffer d e → BanksDiffer d (g e)) : Scrubbed d (s.modDev g) :=
  ⟨hg _ h.1, h.2⟩

theorem modCoreAt (h : Scrubbed d s) {c : Nat} {g : Core → Core} (hg : ∀ k, CoreBlank k → CoreBlank (g k)) :
    Scrubbed d (s.modCoreAt c g) := by
  refine ⟨h.1, fun n => ?_⟩
  by_cases hn : n = c
  · rw [hn, State.coreAt_modCoreAt_self]
    exact hg _ (h.2 c)
  · rw [State.coreAt_modCoreAt_ne _ _ _ _ hn]
    exact h.2 n

theorem setBankTable (h : Scrubbed d s) {sl : Bool} {i p : Nat} {w : Word} : Scrubbed d (setBankTable sl i p w s) := by
  unfold Machine.setBankTable
  split
  · exact h.modDev fun _ he => he
  · exact h.modCoreAt fun k hk => hk
theorem markBank (h : Scrubbed d s) {sl : Bool} {i p st l : Nat} : Scrubbed d (markBank sl i p st l s) := h.setBankTable
theorem setRetire (h : Scrubbed d s) {sl : Bool} {i : Nat} {r : Option Retire} : Scrubbed d (setRetire sl i r s) := by
  unfold Machine.setRetire
  split
  · exact h.modDev fun _ he => he
  · exact h.modCoreAt fun k hk => hk
theorem beginMove (h : Scrubbed d s) {sl : Bool} {i a b l : Nat} {sp : Bool} : Scrubbed d (beginMove sl i a b l sp s) :=
  h.markBank.markBank.setRetire
theorem useSpare (h : Scrubbed d s) {r : Retire} {i : Nat} : Scrubbed d (useSpare r i s) := by
  unfold Machine.useSpare
  split
  · exact h
  · split
    · exact h.modDev fun _ he => he
    · exact h.modCoreAt fun k hk => by split <;> exact hk
theorem endRetire (h : Scrubbed d s) {sl : Bool} {i : Nat} : Scrubbed d (endRetire sl i s) := by
  unfold Machine.endRetire
  split
  · exact h
  · exact h.markBank.setRetire.useSpare
theorem emptyL1 (h : Scrubbed d s) {c : Nat} : Scrubbed d (emptyL1 c s) := by
  obtain ⟨-, -, -, -, hl1, hlog⟩ := h.2 c
  have he : Machine.emptyL1 c s = s.modCoreAt c fun k => { k with l1 := [] } := by
    unfold Machine.emptyL1
    rw [hlog]
    dsimp only [List.foldl_nil]
    rw [hl1]
    rfl
  rw [he]
  exact h.modCoreAt fun k ⟨h1, h2, h3, h4, _, h6⟩ => ⟨h1, h2, h3, h4, rfl, h6⟩
theorem foldl (h : Scrubbed d s) {α : Type} {g : State → α → State} {l : List α}
    (hg : ∀ s x, Scrubbed d s → Scrubbed d (g s x)) : Scrubbed d (l.foldl g s) := by
  induction l generalizing s with
  | nil => exact h
  | cons x r ih => exact ih (hg s x h)
theorem loseGroup (h : Scrubbed d s) {i src : Nat} : Scrubbed d (loseGroup i src s) := by
  have hm {l : List Nat} : Scrubbed d (l.foldl (fun s p => Machine.markBank false i p 3 0xFF s)
      (Machine.emptyL1 i (Machine.setRetire false i none s))) := h.setRetire.emptyL1.foldl fun _ _ h => h.markBank
  have hg {l : List Nat} : Scrubbed d ((l.foldl (fun s p => Machine.markBank false i p 3 0xFF s)
      (Machine.emptyL1 i (Machine.setRetire false i none s))).modCoreAt i fun k => { k with spLog := k.spLog - 4 }) :=
    hm.modCoreAt fun _ h => h
  unfold Machine.loseGroup
  dsimp only
  split
  · exact hg.beginMove
  · exact hg
theorem loseRegisterBank (h : Scrubbed d s) {i src : Nat} : Scrubbed d (loseRegisterBank i src s) := by
  unfold Machine.loseRegisterBank
  extract_lets k
  split
  extract_lets t
  have ht : Scrubbed d t := h.setRetire.modCoreAt fun k hk => by split <;> exact hk
  split
  · split
    · exact ht.markBank
    · exact ht.beginMove
  · exact ht
theorem loseNow (h : Scrubbed d s) {i : Nat} : Scrubbed d (loseNow i s) := by
  unfold Machine.loseNow
  split
  · split
    · split
      · exact h.loseGroup
      · exact h.loseRegisterBank
    · exact h
  · exact h

/-- Nothing is bound that a bank's loss could take from. -/
theorem takeOver_eq (h : Scrubbed d s) (i kind : Nat) : takeOver i kind s = s := by
  obtain ⟨hctxs, hregions, -⟩ := h.2 i
  unfold takeOver
  extract_lets k
  have hl : topLaunches k = [] := by unfold topLaunches; rw [hregions]; rfl
  have hi (n : Nat) : (k.ctxAt n).inst = none := by unfold Core.ctxAt; rw [hctxs]; rfl
  rw [hl]
  simp [hi]
theorem loseL2Bank (h : Scrubbed d s) (hl2 : d.l2 = []) {i src : Nat} : Scrubbed d (loseL2Bank i src s) := by
  unfold Machine.loseL2Bank
  extract_lets s1
  have h1 : Scrubbed d s1 := h.modDev fun e he => by
    rw [show e.l2 = [] from (congrArg Dev.l2 he).trans hl2]
    exact he
  exact h1.markBank.modDev fun _ he => he
theorem retireBank (h : Scrubbed d s) (hl2 : d.l2 = []) {sl : Bool} {i p : Nat} : Scrubbed d (retireBank sl i p s) := by
  unfold Machine.retireBank
  dsimp only
  split
  · exact h
  · split
    · exact h.beginMove
    · split
      · exact h.loseL2Bank hl2
      · have hw : Scrubbed d (waitRetire i p s) := h.setRetire
        rw [hw.takeOver_eq]
        exact hw
theorem applyBanks (h : Scrubbed d s) (hl2 : d.l2 = []) : Scrubbed d (applyBanks s) :=
  h.foldl fun _ _ h => (h.retireBank hl2).loseNow.endRetire
end Scrubbed
end Sys2Proof.Machine
end

section
/-! Cold and warm resets (R337, R395). -/

namespace Sys2Proof.Machine

/-! ### The repair record applied (R108, R389) -/

/-- What a reset leaves of the device `d` when the repair record has been applied: the tables of banks and the registers of the
repair alone differ, every core is blank, and with an empty record none is listed. -/
structure ResetTo (d : Dev) (t : State) : Prop where
  dev : { t.dev with l2Log := d.l2Log, l2Spare := d.l2Spare, l2Banks := d.l2Banks, l2Ret := d.l2Ret
                     repair := d.repair, repairN := d.repairN, soft := d.soft } = d
  soft : t.dev.soft = if Config.recordOk d.record d.softRec then d.softRec else []
  cores : d.record = [] → t.cores = []
  blank : ∀ c, CoreBlank (t.coreAt c)

theorem scrubbed_of_cores {s : State} (h : s.cores = []) : Scrubbed s.dev s := by
  refine ⟨rfl, fun c => ?_⟩
  unfold State.coreAt
  rw [h]
  exact ⟨rfl, rfl, rfl, rfl, rfl, rfl⟩

theorem applyBanks_empty {s : State} (h : s.dev.record = []) : applyBanks s = s := by
  unfold applyBanks
  rw [h]
  rfl

theorem applyRecord_resetTo {s : State} (hc : s.cores = []) (hl2 : s.dev.l2 = []) : ResetTo s.dev (applyRecord s) := by
  have hs := scrubbed_of_cores hc
  unfold applyRecord
  dsimp only
  split
  next h =>
    obtain ⟨-, hsoft⟩ := Bool.and_eq_true_iff.1 h
    refine ⟨rfl, ?_, fun _ => hc, hs.2⟩
    rw [List.isEmpty_iff.1 hsoft, ite_self]
    rfl
  · split
    next hok =>
      have hb := hs.applyBanks hl2
      have hdev := congrArg (fun e : Dev => { e with repair := s.dev.repair, repairN := s.dev.repairN, soft := s.dev.soft }) hb.1
      refine ⟨hdev, ?_, fun hr => ?_, hb.2⟩
      · rw [if_pos hok]
        have hsoft := congrArg Dev.softRec hb.1
        exact hsoft
      · rw [State.cores_modDev, applyBanks_empty hr]
        exact hc
    next hok =>
      refine ⟨rfl, ?_, fun _ => hc, hs.2⟩
      rw [if_neg hok]
      rfl

/-! ### What a warm reset keeps (R395) -/

/-- A device but for the data of HBM, their keys and the Mere. -/
def Dev.butMere (d : Dev) : Dev := { d with hbm := [], blockKey := [], mere := [], mereCnt := [] }

/-- A device but for the numbers of keys. -/
def Dev.butKeyNames (d : Dev) : Dev := { d with blockKey := [], oldKeys := [], launches := [] }

theorem hbmTake_butMere (c : CLine) (d : Dev) : (hbmTake c d).butMere = d.butMere := by
  refine foldl_leaves Dev.butMere (fun e i => ?_) _ _
  split
  · rfl
  · rfl

theorem mereFlush_butMere (pa vf : Nat) (d : Dev) : (mereFlush pa vf d).butMere = d.butMere := by
  unfold mereFlush
  split
  · rfl
  · split
    · rfl
    next c _ _ =>
      have h := hbmTake_butMere c d
      generalize hbmTake c d = e at h ⊢
      exact h

theorem mereFlushes_butMere (l : List CLine) (d : Dev) : (l.foldl (fun d c => mereFlush c.pa 0 d) d).butMere = d.butMere :=
  foldl_leaves (step := fun d (c : CLine) => mereFlush c.pa 0 d) Dev.butMere (fun d c => mereFlush_butMere c.pa 0 d) l d

theorem eraseKeys_butKeyNames (s : State) : (eraseKeys s).dev.butKeyNames = s.dev.butKeyNames := by
  refine foldl_leaves (fun t : State => t.dev.butKeyNames) (fun t e => ?_) _ _
  dsimp only
  split
  · rfl
  · rfl

/-- The state whose device a warm reset keeps: the Mere written back, and the keys erased (R337, R395). -/
def warmKept (s : State) : State := eraseKeys (s.modDev fun d => d.mere.foldl (fun d c => mereFlush c.pa 0 d) d)

/-- The state that a warm reset leaves before the repair record is applied. -/
def warmStart (s : State) : State :=
  let d := (warmKept s).dev
  { State.reset with
    inputs := (warmKept s).inputs, nfree := (warmKept s).nfree, uid := (warmKept s).uid, dev := { State.reset.dev with
      hbm := d.hbm, blockKey := d.blockKey, oldKeys := d.oldKeys, hostMem := d.hostMem, keys := [(0, d.keys.get 0 {})]
      badLines := d.badLines.filter fun l => match l with | .gm _ => true | .sp _ _ => false
      fwRun := d.fwRun, fwImage := d.fwImage, record := d.record, softRec := d.softRec, temps := d.temps
      stages := d.stages, cxl := d.cxl, linkErr := d.linkErr, base := d.base } }

theorem warm_resetTo (s : State) : ResetTo (warmStart s).dev (warm s) := applyRecord_resetTo rfl rfl

/-- What neither the write-back of the Mere nor the loss of keys touches. -/
theorem warmKept_dev {α : Type} (read : Dev → α) (hread : ∀ d : Dev, read d.butMere.butKeyNames = read d) (s : State) :
    read (warmKept s).dev = read s.dev := by
  have h := congrArg Dev.butMere (eraseKeys_butKeyNames (s.modDev fun d => d.mere.foldl (fun d c => mereFlush c.pa 0 d) d))
  have h' := congrArg Dev.butKeyNames (mereFlushes_butMere s.dev.mere s.dev)
  rw [← hread (warmKept s).dev, ← hread s.dev]
  exact congrArg read (h.trans h')

theorem warmKept_hbm (s : State) : (warmKept s).dev.hbm = (s.dev.mere.foldl (fun d c => mereFlush c.pa 0 d) s.dev).hbm := by
  have h := congrArg Dev.hbm (eraseKeys_butKeyNames (s.modDev fun d => d.mere.foldl (fun d c => mereFlush c.pa 0 d) d))
  exact h

/-- What a warm reset keeps and what it scrubs (R395). -/
theorem warm_keeps (s : State) : (s.dev.record = [] → (warm s).cores = [])
    ∧ (∀ c, ((warm s).coreAt c).ctxs = [] ∧ ((warm s).coreAt c).regions = [] ∧ ((warm s).coreAt c).sp = []
      ∧ ((warm s).coreAt c).acc = [])
    ∧ (warm s).dev.launches = [] ∧ (warm s).dev.springs = [] ∧ (warm s).dev.asd = [] ∧ (warm s).dev.tlb2 = []
    ∧ (warm s).dev.l2 = [] ∧ (warm s).dev.mere = [] ∧ (warm s).dev.hostMem = s.dev.hostMem
    ∧ (warm s).dev.keys = [(0, s.dev.keys.get 0 {})] ∧ (warm s).dev.fwRun = s.dev.fwRun ∧ (warm s).dev.thr = []
    ∧ (warm s).dev.base = s.dev.base ∧ (warm s).dev.record = s.dev.record
    ∧ (s.dev.mere = [] → (warm s).dev.hbm = s.dev.hbm)
    ∧ (warm s).dev.soft = if Config.recordOk s.dev.record s.dev.softRec then s.dev.softRec else [] := by
  obtain ⟨hdev, hsoft, hcores, hblank⟩ := warm_resetTo s
  have hrecord : (warmStart s).dev.record = s.dev.record := warmKept_dev Dev.record (fun _ => rfl) s
  have hsoftRec : (warmStart s).dev.softRec = s.dev.softRec := warmKept_dev Dev.softRec (fun _ => rfl) s
  have hhost : (warmStart s).dev.hostMem = s.dev.hostMem := warmKept_dev Dev.hostMem (fun _ => rfl) s
  have hrun : (warmStart s).dev.fwRun = s.dev.fwRun := warmKept_dev Dev.fwRun (fun _ => rfl) s
  have hbase : (warmStart s).dev.base = s.dev.base := warmKept_dev Dev.base (fun _ => rfl) s
  have hkeys : (warmStart s).dev.keys = [(0, s.dev.keys.get 0 {})] :=
    warmKept_dev (fun d => [(0, d.keys.get 0 {})]) (fun _ => rfl) s
  rw [hrecord, hsoftRec] at hsoft
  refine ⟨fun hr => hcores (hrecord.trans hr), fun c => ?_, congrArg Dev.launches hdev, congrArg Dev.springs hdev,
    congrArg Dev.asd hdev, congrArg Dev.tlb2 hdev, congrArg Dev.l2 hdev, congrArg Dev.mere hdev,
    (congrArg Dev.hostMem hdev).trans hhost, (congrArg Dev.keys hdev).trans hkeys, (congrArg Dev.fwRun hdev).trans hrun,
    congrArg Dev.thr hdev, (congrArg Dev.base hdev).trans hbase, (congrArg Dev.record hdev).trans hrecord, fun hm => ?_, hsoft⟩
  · obtain ⟨h1, h2, h3, h4, -, -⟩ := hblank c
    exact ⟨h1, h2, h3, h4⟩
  · refine (congrArg Dev.hbm hdev).trans ((warmKept_hbm s).trans ?_)
    rw [hm]
    rfl

/-! ### Dirty lines of the Mere (R395) -/

/-- A line's block `i` written to HBM, where it is dirty. -/
def CLine.toHbm (c : CLine) (d : Dev) (i : Nat) : Dev :=
  match c.dirtyBlock i with
  | none => d
  | some x => { d with hbm := d.hbm.write (c.pa + 16 * i) 16 x, blockKey := d.blockKey.set (c.pa / 16 + i) c.key }

theorem CLine.toHbm_clean {c : CLine} {i : Nat} (h : c.dirtyBlock i = none) (d : Dev) : c.toHbm d i = d := by
  unfold CLine.toHbm
  rw [h]

theorem CLine.hbm_toHbm_dirty {c : CLine} {i x : Nat} (h : c.dirtyBlock i = some x) (d : Dev) :
    (c.toHbm d i).hbm = d.hbm.write (c.pa + 16 * i) 16 x := by
  unfold CLine.toHbm
  rw [h]

theorem hbmTake_eq_foldl (c : CLine) (d : Dev) : hbmTake c d = (List.range 8).foldl c.toHbm d := rfl

/-- The data of HBM after a line's dirty blocks have been written, the blocks listed. -/
theorem hbm_read_blocks (c : CLine) {b : Nat} (hb : b < 8) (hd : c.dirty.getLsbD b = true) (l : List Nat) : ∀ d : Dev,
    (b ∈ l ∨ d.hbm.read (c.pa + 16 * b) 16 = c.data.toNat / 2 ^ (128 * b) % 2 ^ 128) →
      (l.foldl c.toHbm d).hbm.read (c.pa + 16 * b) 16 = c.data.toNat / 2 ^ (128 * b) % 2 ^ 128 := by
  have hblock : c.dirtyBlock b = some (c.data.toNat / 2 ^ (128 * b) % 2 ^ 128) := by
    unfold CLine.dirtyBlock elemOf
    rw [Nat.mod_eq_of_lt hb, if_pos hd]
  induction l with
  | nil => exact fun d h => h.resolve_left (by simp)
  | cons i r ih =>
    refine fun d h => ih (c.toHbm d i) ?_
    by_cases hi : i = b
    · refine .inr ?_
      rw [hi, CLine.hbm_toHbm_dirty hblock, Mem.read_write]
      exact Nat.mod_eq_of_lt (Nat.mod_lt _ (Nat.two_pow_pos 128))
    · refine h.imp (fun hm => (List.mem_cons.1 hm).resolve_left (Ne.symm hi)) fun hr => ?_
      cases hc : c.dirtyBlock i with
      | none => exact (CLine.toHbm_clean hc d).symm ▸ hr
      | some x =>
        rw [CLine.hbm_toHbm_dirty hc, Mem.read_write_outside _ _ _ _ _ _ (by omega)]
        exact hr

theorem hbm_mereFlush_dirty {d : Dev} {c : CLine} {pa : Nat} (hc : findLine d.mere pa = some c) (h : c.dirty ≠ 0) (vf : Nat) :
    (mereFlush pa vf d).hbm = (hbmTake c d).hbm := by
  unfold mereFlush
  rw [hc]
  dsimp only
  rw [if_neg h]
  rfl

theorem findLine_singleton {c : CLine} (hpa : c.pa % 128 = 0) : findLine [c] c.pa = some c := by
  have hline : c.pa = lineOf c.pa := by unfold lineOf; omega
  rw [findLine, List.find?_cons_of_pos (by simpa using hline)]

theorem ne_zero_of_getLsbD {w : Nat} {x : BitVec w} {b : Nat} (h : x.getLsbD b = true) : x ≠ 0#w := by
  rintro rfl
  rw [BitVec.getLsbD_zero] at h
  exact Bool.false_ne_true h

theorem hbm_mereFlush {d : Dev} {c : CLine} (hm : d.mere = [c]) (hpa : c.pa % 128 = 0) {b : Nat} (hb : b < 8)
    (hd : c.dirty.getLsbD b = true) :
    (mereFlush c.pa 0 d).hbm.read (c.pa + 16 * b) 16 = c.data.toNat / 2 ^ (128 * b) % 2 ^ 128 := by
  have hfind : findLine d.mere c.pa = some c := (congrArg (findLine · c.pa) hm).trans (findLine_singleton hpa)
  have hdirty : c.dirty ≠ 0 := ne_zero_of_getLsbD hd
  rw [hbm_mereFlush_dirty hfind hdirty, hbmTake_eq_foldl]
  exact hbm_read_blocks c hb hd _ d (.inl (List.mem_range.2 hb))

/-- Settles O54: each reset by what it keeps of the device, of which the lemmas above read the parts. -/
theorem resets : Obligations.Resets := by
  unfold Obligations.Resets
  intro s n
  refine ⟨fun _ => ⟨fun h => ⟨?_, ?_⟩, throttle_steps, fun h => ?_, fun h => ?_, criticalTemperature_stops, fun h => ?_⟩,
    ⟨_, rfl, rfl⟩, fun i hi => ?_, fun c hm hpa b hb hd => ?_⟩
  · change execThrottle n s = _
    unfold execThrottle
    simp only [h, Bool.not_false, if_true]
  · rw [exec_criticalTemperature, h]
    rfl
  · exact ⟨_, (exec_clockRecoveryStep s n).trans (congrArg _ (if_pos h)), Map.get_set_self _ _ _ _, rfl⟩
  · exact (exec_clockRecoveryStep s n).trans (congrArg _ (if_neg (Bool.eq_false_iff.1 h)))
  · rw [exec_criticalTemperature, decide_eq_false (by omega : ¬ 880 ≤ s.foc.aux), Bool.and_false]
    rfl
  · rw [List.mem_cons, List.mem_singleton] at hi
    obtain rfl | rfl := hi
    · exact ⟨_, rfl, warm_keeps s⟩
    · exact ⟨_, rfl, warm_keeps s.fresh.2⟩
  · refine ⟨_, rfl, ?_⟩
    have hh : (warm s).dev.hbm = (mereFlush c.pa 0 s.dev).hbm := by
      refine (congrArg Dev.hbm (warm_resetTo s).dev).trans ((warmKept_hbm s).trans ?_)
      rw [hm]
      rfl
    dsimp only
    rw [hh]
    exact hbm_mereFlush hm hpa hb hd
end Sys2Proof.Machine
end

section
/-! LAUNCH, MFLUSH, CNTRD and transducer jobs (R103, R104, R264 to R266, R311), and the check of a coded block (R262). -/

namespace Sys2Proof.Machine

/-! ### Tags and identifiers -/

theorem oneBit_eq_shift (t : Nat) : oneBit t = 1#64 <<< t := by
  apply BitVec.eq_of_toNat_eq
  simp [oneBit, Nat.shiftLeft_eq]

theorem tagStart_eq_opens (t : Nat) (s : State) : tagStart t s = s.opens t := by
  unfold tagStart State.opens Arch.tagOpen
  rw [oneBit_eq_shift]

/-- The state in which a command of the X slot enters its path: its tag is open, and the next identifier is taken. -/
def State.commanding (s : State) (t : Nat) : State := { s.opens t with uid := s.uid + 1 }

theorem newId_opens (t : Nat) (s : State) : (s.opens t).newId = (s.uid, s.commanding t) := rfl

theorem ctx_commanding (s : State) (t : Nat) : (s.commanding t).ctx = { s.ctx with a := { s.ctx.a with
    tagPend := s.ctx.a.tagPend ||| (1#64 <<< t), tagDone := s.ctx.a.tagDone &&& ~~~(1#64 <<< t) } } := by
  change (s.opens t).ctx = _
  unfold State.opens
  rw [State.ctx_modArch]

theorem launch?_commanding (s : State) (t : Nat) : (s.commanding t).launch? = s.launch? := by
  unfold State.launch? State.launchOf
  rw [ctx_commanding]
  rfl
theorem lid_commanding (s : State) (t : Nat) : (s.commanding t).lid = s.lid := by
  unfold State.lid
  rw [ctx_commanding]
theorem instHere_commanding (s : State) (t : Nat) : (s.commanding t).instHere = s.instHere := by
  unfold State.instHere
  rw [ctx_commanding]
theorem vfid_commanding (s : State) (t : Nat) : (s.commanding t).vfid = s.vfid := by
  unfold State.vfid
  rw [launch?_commanding]
theorem asid_commanding (s : State) (t : Nat) : (s.commanding t).asid = s.asid := by
  unfold State.asid
  rw [launch?_commanding]
theorem verOf_commanding (s : State) (t : Nat) : verOf (s.commanding t) = verOf s := by
  unfold verOf
  rw [launch?_commanding, lid_commanding]
theorem handleOf_commanding {s : State} (h : s.ctx.a.check = true) (t n : Nat) : handleOf (s.commanding t) n = handleOf s n := by
  unfold handleOf rdH State.unsure
  rw [ctx_commanding]
  simp [h]
theorem rdS_commanding {s : State} (h : s.ctx.a.check = true) (t n : Nat) : rdS (s.commanding t) n = s.ctx.a.sReg n := by
  rw [rdS_certain]
  · rw [ctx_commanding]
    rfl
  · rw [ctx_commanding]
    exact h
/-! ### LAUNCH, MFLUSH and CNTRD (R103, R104, R311) -/

/-- LAUNCH reads its record by an access of its own (R311). -/
theorem exec_launch {f : XSlot} {s : State} (ha : Accepted (.launch f) s) (hsure : Certain s) : exec (.launch f) s =
    .next (submit (.launch { id := s.uid, core := s.foc.core, ctx := s.foc.ctx, inst := s.instHere, ord := s.foc.ord
                             tag := f.tag.toNat, loc := handleOf s f.h.toNat, hn := f.h.toNat, read := recordAccess f s })
      (s.commanding f.tag.toNat)) := by
  obtain ⟨hcheck, hbad⟩ := hsure
  have hbad' : (s.commanding f.tag.toNat).foc.bad = false := hbad
  rw [accepted_x rfl ha rfl rfl, checkedState_open rfl, tagStart_eq_opens]
  dsimp only [newAccess]
  rw [newId_opens]
  simp only [hbad', Bool.false_eq_true, if_false, handleOf_commanding hcheck, lid_commanding, verOf_commanding, vfid_commanding,
    asid_commanding, instHere_commanding, rdS_certain hcheck]
  rfl

theorem exec_mflush {f : XSlot} {s : State} (ha : Accepted (.mflush f) s) (hsure : Certain s) : exec (.mflush f) s =
    .next (submit (.flush { id := s.uid, hn := f.h.toNat, tag := f.tag.toNat, inst := some s.instHere, vf := s.vfid
                            pa := (handleOf s f.h.toNat).pa + (s.ctx.a.sReg f.sa.toNat).toNat
                            len := (s.ctx.a.sReg f.sb.toNat).toNat, key := (handleOf s f.h.toNat).key, op := f.imm.toNat % 4 })
      (s.commanding f.tag.toNat)) := by
  rw [accepted_x rfl ha rfl rfl, checkedState_open rfl, tagStart_eq_opens]
  dsimp only
  rw [newId_opens]
  simp only [vfid_commanding, instHere_commanding, rdS_commanding hsure.1]

theorem postReply_certain {s : State} (h : s.foc.bad = false) (n : Nat) (x : Word) :
    postReply n x s = s.awaits.landsS n 24 x :=
  postS_certain (s := s.awaits) h n 24 x

theorem exec_cntrd {f : XSlot} {s : State} (ha : Accepted (.cntrd f) s) (hsure : Certain s) : exec (.cntrd f) s =
    .next (s.awaits.landsS f.sa.toNat 24 (counterOf (if f.imm.getLsbD 5 then 1 else 0) (f.imm.toNat % 32)
      (if f.imm.getLsbD 6 then none else some s.vfid) s.dev)) := by
  rw [accepted_x rfl ha rfl rfl, checkedState_open rfl]
  exact congrArg _ (postReply_certain hsure.2 _ _)

/-! ### Transducer jobs (R264 to R266) -/

theorem jobOf_certain {s : State} (h : s.ctx.a.check = true) (f : XSlot) : jobOf f s = { jobMade f s with id := 0 } := by
  unfold jobOf jobMade
  rw [rdS_certain h]

/-- A job enters its path under the identifier that its issue takes. -/
theorem newJob_eq (j : Job) (s : State) : newJob j s = submit (.job { j with id := s.uid }) (s.commanding j.tag) := by
  unfold newJob
  rw [tagStart_eq_opens]
  rfl

theorem exec_xdt {f : XSlot} {s : State} (ha : Accepted (.xdt f) s) (hsure : Certain s) : exec (.xdt f) s =
    .next (submit (.job { jobMade f s with isXdt := true, slot := f.imm.toNat % 16, st := .running, free := 8 * s.dev.base })
      (s.commanding f.tag.toNat)) := by
  rw [accepted_x rfl ha rfl rfl, checkedState_open rfl, newJob_eq, jobOf_certain hsure.1]
  rfl

theorem exec_xds {f : XSlot} {s : State} (ha : Accepted (.xds f) s) (hsure : Certain s) : exec (.xds f) s =
    .next (submit (.job { jobMade f s with dstH := f.h2.toNat, io := (s.ctx.a.sReg f.sb.toNat).toNat
                                           tabo := (s.ctx.a.sReg f.scc.toNat).toNat % 2 ^ 32
                                           chunk := (s.ctx.a.sReg f.scc.toNat).toNat / 2 ^ 32
                                           nblk := f.imm.toNat % 1024 + 1, sc := f.sc.toNat })
      (s.commanding f.tag.toNat)) := by
  rw [accepted_x rfl ha rfl rfl, checkedState_open rfl]
  dsimp only
  rw [newJob_eq, jobOf_certain hsure.1, rdS_certain hsure.1, rdS_certain hsure.1]
  rfl

theorem exec_xdq {f : XSlot} {s : State} (ha : Accepted (.xdq f) s) (hsure : Certain s) : exec (.xdq f) s =
    .next (s.awaits.landsS f.sa.toNat 24 (jobWordOf (latestJob f.tag.toNat s))) := by
  rw [accepted_x rfl ha rfl rfl, checkedState_open rfl]
  exact congrArg _ (postReply_certain hsure.2 _ _)

/-- Of the jobs met, the latest is one of them and none is later. -/
theorem laterJob_foldl (l : List Job) : ∀ (a : Option Job) (j : Job), l.foldl laterJob a = some j →
    (a = some j ∨ j ∈ l) ∧ (∀ y ∈ l, y.id ≤ j.id) ∧ ∀ y, a = some y → y.id ≤ j.id := by
  induction l with
  | nil =>
    rintro a j rfl
    refine ⟨.inl rfl, by simp, ?_⟩
    rintro y ⟨⟩
    exact le_rfl
  | cons x r ih =>
    intro a j h
    obtain ⟨hmem, hle, ha⟩ := ih _ _ h
    cases a with
    | none =>
      refine ⟨.inr ?_, ?_, fun y hy => nomatch hy⟩
      · exact hmem.elim (fun e => List.mem_cons.2 (.inl (Option.some.inj e).symm)) (List.mem_cons_of_mem _)
      · exact List.forall_mem_cons.2 ⟨ha x rfl, hle⟩
    | some y =>
      by_cases hlt : y.id < x.id
      · have hl : laterJob (some y) x = some x := if_pos hlt
        rw [hl] at hmem ha
        have hx := ha x rfl
        refine ⟨.inr ?_, List.forall_mem_cons.2 ⟨hx, hle⟩, ?_⟩
        · exact hmem.elim (fun e => List.mem_cons.2 (.inl (Option.some.inj e).symm)) (List.mem_cons_of_mem _)
        · rintro z ⟨⟩
          omega
      · have hl : laterJob (some y) x = some y := if_neg hlt
        rw [hl] at hmem ha
        have hy := ha y rfl
        refine ⟨hmem.imp_right (List.mem_cons_of_mem _), List.forall_mem_cons.2 ⟨by omega, hle⟩, ?_⟩
        rintro z ⟨⟩
        exact hy

/-- The job that XDQ reports is the latest of its tag in the queues (R266). -/
theorem latestJob_spec {t : Nat} {s : State} {j : Job} (h : latestJob t s = some j) : j.inst = s.instHere ∧ j.tag = t
    ∧ ∀ e ∈ s.cores, ∀ y ∈ e.2.jobq, y.inst = s.instHere → y.tag = t → y.id ≤ j.id := by
  obtain ⟨hmem, hle, -⟩ := laterJob_foldl _ _ _ h
  have hj := List.of_mem_filter (hmem.resolve_left (fun h => nomatch h))
  rw [Bool.and_eq_true, decide_eq_true_iff, decide_eq_true_iff] at hj
  refine ⟨hj.1, hj.2, fun e he y hy hi ht => hle y (List.mem_filter.2 ⟨?_, by simp [hi, ht]⟩)⟩
  exact List.mem_append.2 (.inl (List.mem_append.2 (.inr (List.mem_flatMap.2 ⟨e, he, hy⟩))))

/-- What a job that enters its path leaves of the jobs of its tag is live (R264). -/
theorem live_of_enterPath {j y : Job} {s : State} (hy : y ∈ (enterPath (.job j) s).dev.jobs) (hne : y ≠ j)
    (hi : y.inst = j.inst) (ht : y.tag = j.tag) : y.live = true := by
  have hold : y ∈ forgetEnded j s.dev.jobs := by
    unfold enterPath at hy
    dsimp only at hy
    split at hy
    · exact (List.mem_append.1 hy).resolve_right fun h => hne (List.mem_singleton.1 h)
    · exact hy
  have hf := List.of_mem_filter hold
  simpa [hi, ht] using hf

/-! ### The check of a coded block (R262) -/

theorem crcBit_xor (x y : Nat) : crcBit (x ^^^ y) = crcBit x ^^^ crcBit y := by
  have hdiv : (x ^^^ y) / 2 = x / 2 ^^^ y / 2 := by
    simpa [Nat.shiftRight_eq_div_pow] using Nat.shiftRight_xor_distrib (a := x) (b := y) (i := 1)
  unfold crcBit
  rw [Nat.xor_mod_two_eq, hdiv]
  rcases Nat.mod_two_eq_zero_or_one x with hx | hx <;> rcases Nat.mod_two_eq_zero_or_one y with hy | hy
  · rw [if_neg (by omega), if_neg (by omega), if_neg (by omega)]
  · rw [if_pos (by omega), if_neg (by omega), if_pos hy, Nat.xor_assoc]
  · rw [if_pos (by omega), if_pos hx, if_neg (by omega), Nat.xor_assoc, Nat.xor_assoc, Nat.xor_comm (y / 2)]
  · rw [if_neg (by omega), if_pos hx, if_pos hy, Nat.xor_left_comm, Nat.xor_assoc (x / 2), Nat.xor_self, Nat.xor_zero,
      Nat.xor_comm]

/-- The eight shifts of a byte are linear. -/
theorem crcShift_xor (l : List Nat) : ∀ x y : Nat, l.foldl (fun c _ => crcBit c) (x ^^^ y) =
    l.foldl (fun c _ => crcBit c) x ^^^ l.foldl (fun c _ => crcBit c) y := by
  induction l with
  | nil => exact fun _ _ => rfl
  | cons i r ih =>
    intro x y
    rw [List.foldl_cons, List.foldl_cons, List.foldl_cons, crcBit_xor, ih]

/-- Eight shifts lose no byte. -/
theorem crcByte_ne_zero : ∀ d : Fin 256, d ≠ 0 → (List.range 8).foldl (fun c _ => crcBit c) d.val ≠ 0 := by decide +kernel

theorem crcByte_injective {x b c : Nat} (hb : b < 256) (hc : c < 256) (h : crcByte x b = crcByte x c) : b = c := by
  have hd : b ^^^ c < 256 := Nat.xor_lt_two_pow (n := 8) hb hc
  by_contra hne
  have h0 : b ^^^ c ≠ 0 := fun h0 => hne (Nat.xor_eq_zero_iff.1 h0)
  refine crcByte_ne_zero ⟨b ^^^ c, hd⟩ (fun e => h0 (congrArg Fin.val e)) ?_
  have hxor : b ^^^ c = (x ^^^ b) ^^^ (x ^^^ c) := by
    rw [Nat.xor_comm x b, Nat.xor_assoc, ← Nat.xor_assoc x x, Nat.xor_self, Nat.zero_xor]
  dsimp only
  rw [hxor, crcShift_xor]
  exact Nat.xor_eq_zero_iff.2 h

/-- CRC-32C tells two blocks apart that differ in their last byte alone. -/
theorem crc32c_last (l : List Nat) {b c : Nat} (hc : c < 256) (hb : b < 256) (hne : b ≠ c) :
    crc32c (l ++ [b]) ≠ crc32c (l ++ [c]) := by
  intro h
  refine hne (crcByte_injective (x := l.foldl crcByte 0xFFFFFFFF) hb hc ?_)
  unfold crc32c at h
  rw [List.foldl_append, List.foldl_append] at h
  exact Nat.xor_left_injective h
end Sys2Proof.Machine
end

section
/-! Deferral (R315 to R317), and O43. -/

namespace Sys2Proof.Machine

/-! ### Deferral (R315 to R317) -/

theorem core_defq_modCtx (s : State) (g : Ctx → Ctx) : (s.modCtx g).core.defq = s.core.defq := by rw [State.core_modCtx]
theorem core_batches_modCtx (s : State) (g : Ctx → Ctx) : (s.modCtx g).core.batches = s.core.batches := by rw [State.core_modCtx]
theorem core_mark_modCtx (s : State) (g : Ctx → Ctx) : (s.modCtx g).core.mark = s.core.mark := by rw [State.core_modCtx]

theorem commit_inst (c : Ctx) : c.commit.inst = c.inst := by unfold Ctx.commit; split <;> rfl

theorem checkedState_closing {i : Instr} (h : closing i = true) (s : State) : checkedState i s = s.modCtx Ctx.commit := if_pos h

theorem instHere_checkedState (i : Instr) (s : State) : (checkedState i s).instHere = s.instHere := by
  unfold checkedState
  split
  · unfold State.instHere
    rw [State.ctx_modCtx, commit_inst]
  · rfl

theorem exec_defer {f : XSlot} {s : State} (ha : Accepted (.defer f) s) (hsure : Certain s) : exec (.defer f) s =
    .next ((checkedState (.defer f) s).modCore fun k => { k with
      defq := k.defq ++ ((List.range 128).filter fun n => (s.ctx.a.pReg (bits f.imm.toNat 10 8)).getLsbD n).map fun n =>
        { inst := s.instHere, path := bits f.imm.toNat 17 11
          lane := BitVec.ofNat 32 ((s.ctx.a.sReg f.sa.toNat).toNat + n)
          vals := ((List.range (bits f.imm.toNat 7 6 + 1)).map fun j => (s.ctx.a.vReg (f.imm.toNat % 64 + j)).bits).map
            fun v => lane v n } }) := by
  have hcheck : (checkedState (.defer f) s).ctx.a.check = true := by
    rw [checkedState_a]
    exact hsure.1
  rw [accepted_x rfl ha rfl rfl]
  simp only [rdS_certain hcheck, rdP_certain hcheck, rdV_certain hcheck, checkedState_a, instHere_checkedState]

/-- Whether an entry of a deferral queue is of a thread and a path. -/
def DefEntry.isOf (i : InstId) (path : Nat) (e : DefEntry) : Bool := decide (e.inst = i) && decide (e.path = path)

/-- The oldest entries of a thread and path are gone, and the others of them stay in their order. -/
theorem filter_dropEntries (i : InstId) (path : Nat) (l : List DefEntry) : ∀ n,
    (dropEntries i path n l).filter (DefEntry.isOf i path) = (l.filter (DefEntry.isOf i path)).drop n := by
  induction l with
  | nil => intro n; cases n <;> rfl
  | cons e r ih =>
    intro n
    cases n with
    | zero => rfl
    | succ n =>
      by_cases h : e.isOf i path = true
      · rw [List.filter_cons_of_pos h, List.drop_succ_cons, ← ih n]
        exact congrArg _ (if_pos h)
      · rw [List.filter_cons_of_neg h, ← ih (n + 1), ← List.filter_cons_of_neg (l := dropEntries i path (n + 1) r) h]
        exact congrArg _ (if_neg h)

/-- The entries of other threads and paths stay. -/
theorem filter_not_dropEntries (i : InstId) (path : Nat) (l : List DefEntry) : ∀ n,
    (dropEntries i path n l).filter (fun e => !e.isOf i path) = l.filter fun e => !e.isOf i path := by
  induction l with
  | nil => intro n; cases n <;> rfl
  | cons e r ih =>
    intro n
    cases n with
    | zero => rfl
    | succ n =>
      by_cases h : e.isOf i path = true
      · rw [List.filter_cons_of_neg (by simp [h]), ← ih n]
        exact congrArg _ (if_pos h)
      · rw [List.filter_cons_of_pos (by simp [h]), ← ih (n + 1),
          ← List.filter_cons_of_pos (p := fun e => !e.isOf i path) (l := dropEntries i path (n + 1) r) (by simp [h])]
        exact congrArg _ (if_neg h)

/-- How many entries DEFRUN takes: a warp's 128 where there are so many or where it is told to take less (R317). -/
def batchSize (f : XSlot) (s : State) : Nat :=
  let e := (defEntries s.core s.instHere (f.imm.toNat % 128)).length
  if 128 ≤ e ∨ f.imm.getLsbD 7 = true then min e 128 else 0

/-- The state with DEFRUN's batch formed, of the context in focus. -/
def batchFormed (f : XSlot) (s : State) : State :=
  formBatch s.foc.core s.foc.ctx s.instHere (f.imm.toNat % 128) (pathWord s.ctx.a (f.imm.toNat % 128) % 2 ^ 22) (batchSize f s) s

theorem formBatch_zero (core ctx : Nat) (i : InstId) (path entry : Nat) (s : State) : formBatch core ctx i path entry 0 s = s := rfl

theorem foc_formBatch (core ctx : Nat) (i : InstId) (path entry n : Nat) (s : State) :
    (formBatch core ctx i path entry n s).foc = s.foc := by
  unfold formBatch
  split <;> rfl

/-- A core with a batch of the oldest `n` entries of a thread and path, which leave its queue. -/
def Core.withBatch (ctx : Nat) (i : InstId) (path entry n : Nat) (k : Core) : Core := { k with
  batches := k.batches ++ [{ ctx := ctx, inst := i, mark := k.mark, path := path, entry := entry
                             ents := (defEntries k i path).take n }]
  defq := dropEntries i path n k.defq }

theorem formBatch_pos {n : Nat} (hn : n ≠ 0) (core ctx : Nat) (i : InstId) (path entry : Nat) (s : State) :
    formBatch core ctx i path entry n s = wakeDefer core (s.modCoreAt core (Core.withBatch ctx i path entry n)) := if_neg hn

/-- What the core has once a batch is formed. -/
theorem coreAt_formBatch {n : Nat} (hn : n ≠ 0) (core ctx : Nat) (i : InstId) (path entry : Nat) (s : State) :
    ∃ l, (formBatch core ctx i path entry n s).coreAt core =
      { (s.coreAt core).withBatch ctx i path entry n with ctxs := l } := by
  rw [formBatch_pos hn]
  obtain ⟨l, hl⟩ := coreAt_wake (fun w => w = .deferQueue core) (s.modCoreAt core (Core.withBatch ctx i path entry n)) core
  rw [State.coreAt_modCoreAt_self] at hl
  exact ⟨l, hl⟩

/-- A batch that is formed wakes contexts and does no more to them. -/
theorem ctx_formBatch {n : Nat} (hn : n ≠ 0) (core ctx : Nat) (i : InstId) (path entry : Nat) (s : State) :
    ∃ b, (formBatch core ctx i path entry n s).ctx = { s.ctx with woken := b } := by
  rw [formBatch_pos hn]
  obtain ⟨b, hb⟩ := ctxAt_wake (fun w => w = .deferQueue core) (s.modCoreAt core (Core.withBatch ctx i path entry n))
    s.foc.core s.foc.ctx
  have hctx := State.ctx_modCoreAt_of_ctxs s core (g := Core.withBatch ctx i path entry n) fun _ => rfl
  exact ⟨b, hb.trans (congrArg (fun c : Ctx => { c with woken := b }) hctx)⟩

theorem exec_defrun {f : XSlot} {s : State} (ha : Accepted (.defrun f) s) (hsure : Certain s) :
    let d := checkedState (.defrun f) s
    exec (.defrun f) s = .next ((batchFormed f d).landsS f.sb.toNat 1 (BitVec.ofNat 64 (batchSize f d))) := by
  have hbad : (batchFormed f (checkedState (.defrun f) s)).foc.bad = false := by
    unfold batchFormed
    rw [foc_formBatch, checkedState_foc]
    exact hsure.2
  intro d
  rw [accepted_x rfl ha rfl rfl, ← postS_certain hbad]
  rfl

theorem batchSize_checkedState (f : XSlot) (s : State) : batchSize f (checkedState (.defrun f) s) = batchSize f s := by
  have hq : (checkedState (.defrun f) s).core.defq = s.core.defq := core_defq_modCtx s _
  unfold batchSize defEntries
  rw [hq, instHere_checkedState]

/-- DEFRUN with too few entries to take answers 0 (R317). -/
theorem exec_defrun_none {f : XSlot} {s : State} (ha : Accepted (.defrun f) s) (hsure : Certain s) (hn : batchSize f s = 0) :
    exec (.defrun f) s = .next ((checkedState (.defrun f) s).landsS f.sb.toNat 1 0) := by
  rw [exec_defrun ha hsure]
  unfold batchFormed
  rw [batchSize_checkedState, hn, formBatch_zero]
  rfl

theorem core_landsS (s : State) (n lat : Nat) (x : Word) :
    ∃ l, (s.landsS n lat x).core = { s.core with ctxs := l } := by
  unfold State.landsS State.lands
  split
  · exact ⟨s.core.ctxs, rfl⟩
  · exact ⟨_, State.core_modCtx _ _⟩

theorem ctx_a_landsS (s : State) (n lat : Nat) (x : Word) : (s.landsS n lat x).ctx.a = s.ctx.a := by
  unfold State.landsS State.lands
  split
  · rfl
  · rw [State.ctx_modCtx]

theorem flight_landsS {s t : State} (hf : s.ctx.flight = t.ctx.flight) (hc : s.cyc = t.cyc) (hfoc : s.foc = t.foc)
    (hm : s.ctx.hmode = t.ctx.hmode) (n lat : Nat) (x : Word) : (s.landsS n lat x).ctx.flight = (t.landsS n lat x).ctx.flight := by
  unfold State.landsS State.lands
  split
  · exact hf
  · rw [State.ctx_modCtx, State.ctx_modCtx]
    dsimp only
    rw [hf, hc, hfoc, hm]

/-- DEFRUN's batch: its entries, what the queue keeps, and the count in flight (R317). -/
theorem exec_defrun_some {f : XSlot} {s : State} (ha : Accepted (.defrun f) s) (hsure : Certain s) (hn : 0 < batchSize f s) :
    ∃ t, exec (.defrun f) s = .next t
      ∧ t.core.batches = s.core.batches ++ [{
          ctx := s.foc.ctx, inst := s.instHere, mark := s.core.mark, path := f.imm.toNat % 128
          entry := pathWord s.ctx.a (f.imm.toNat % 128) % 2 ^ 22
          ents := (defEntries s.core s.instHere (f.imm.toNat % 128)).take (batchSize f s) }]
      ∧ t.core.defq = dropEntries s.instHere (f.imm.toNat % 128) (batchSize f s) s.core.defq
      ∧ t.ctx.flight
        = ((checkedState (.defrun f) s).landsS f.sb.toNat 1 (BitVec.ofNat 64 (batchSize f s))).ctx.flight
      ∧ t.ctx.a = s.ctx.a := by
  have hexec := exec_defrun ha hsure
  have hsize := batchSize_checkedState f s
  have hinst := instHere_checkedState (.defrun f) s
  have hfoc := checkedState_foc (.defrun f) s
  have harch := checkedState_a (.defrun f) s
  have hclose : checkedState (.defrun f) s = s.modCtx Ctx.commit := checkedState_closing rfl s
  have hdefq : (checkedState (.defrun f) s).core.defq = s.core.defq := hclose ▸ core_defq_modCtx s _
  have hbatches : (checkedState (.defrun f) s).core.batches = s.core.batches := hclose ▸ core_batches_modCtx s _
  have hmark : (checkedState (.defrun f) s).core.mark = s.core.mark := hclose ▸ core_mark_modCtx s _
  generalize checkedState (.defrun f) s = d at *
  dsimp only at hexec
  rw [hsize] at hexec
  have hformed : (batchFormed f d).foc = d.foc := foc_formBatch _ _ _ _ _ _ _
  obtain ⟨l, hl⟩ := coreAt_formBatch (Nat.ne_of_gt hn) d.foc.core d.foc.ctx d.instHere (f.imm.toNat % 128)
    (pathWord d.ctx.a (f.imm.toNat % 128) % 2 ^ 22) d
  obtain ⟨b, hb⟩ := ctx_formBatch (Nat.ne_of_gt hn) d.foc.core d.foc.ctx d.instHere (f.imm.toNat % 128)
    (pathWord d.ctx.a (f.imm.toNat % 128) % 2 ^ 22) d
  rw [← hsize] at hl hb
  have hcore : (batchFormed f d).core = { d.core.withBatch d.foc.ctx d.instHere (f.imm.toNat % 128)
      (pathWord d.ctx.a (f.imm.toNat % 128) % 2 ^ 22) (batchSize f d) with ctxs := l } :=
    (congrArg (fun x : Focus => (batchFormed f d).coreAt x.core) hformed).trans hl
  have hctx : (batchFormed f d).ctx = { d.ctx with woken := b } := hb
  obtain ⟨l', hlands⟩ := core_landsS (batchFormed f d) f.sb.toNat 1 (BitVec.ofNat 64 (batchSize f s))
  have hcyc : (batchFormed f d).cyc = d.cyc := by
    unfold State.cyc
    rw [hcore]
    rfl
  refine ⟨_, hexec, ?_, ?_, ?_, ?_⟩
  · rw [hlands, hcore, hsize, hfoc, hinst, harch]
    unfold Core.withBatch defEntries
    dsimp only
    rw [hmark, hbatches, hdefq]
  · rw [hlands, hcore, hsize, hinst, ← hdefq]
    rfl
  · exact flight_landsS (by rw [hctx]) hcyc hformed (by rw [hctx]) _ _ _
  · rw [ctx_a_landsS, hctx]
    exact harch

/-- The check value of CRC-32C: that of the digits 1 to 9. -/
theorem crc32c_digits : crc32c [0x31, 0x32, 0x33, 0x34, 0x35, 0x36, 0x37, 0x38, 0x39] = 0xE3069283 := by decide +kernel

/-- Settles O43: each operation by its own lemma. -/
theorem workAndJobs : Obligations.WorkAndJobs := by
  unfold Obligations.WorkAndJobs
  refine ⟨fun f s => ⟨exec_launch, ?_, exec_defrun_none, fun ha hsure hn => ?_, exec_mflush, exec_cntrd⟩,
    fun f s => ⟨exec_xdt, exec_xds, exec_xdq, fun j h => latestJob_spec h, fun j y hy hne hi ht => live_of_enterPath hy hne hi ht,
      crc32c_digits, fun l b c hc hb hne => crc32c_last l hc hb hne⟩⟩
  · exact exec_defer
  · obtain ⟨t, hexec, hbatches, hdefq, hflight, ha⟩ := exec_defrun_some ha hsure hn
    refine ⟨t, hexec, hbatches, ?_, ?_, hflight, ha⟩
    · rw [hdefq]
      exact filter_dropEntries _ _ _ _
    · rw [hdefq]
      exact filter_not_dropEntries _ _ _ _
end Sys2Proof.Machine
end

section
/-! A store beside an array operation of its issue (R145): the counterexample to O46. -/

namespace Sys2Proof.Machine

/-! ### A global store beside an array operation that still reads (R142, R145) -/

/-- A store of a word to global memory, started by issue 1 of context 0. -/
def storeBesidePush : Access :=
  { id := 1, ctx := 0, ord := 8, path := .ctxls, kind := .store, els := [{ loc := .gm 0x100, size := 4 }] }

/-- An FMX of eight rows of the scratchpad. -/
def fmxRows : Instr := .fmx {
  aux := 0, h := 0, spn := 0, cbf := 0, n := 8, vs := 0, q := 0, src := 1, sb := 0, sa := 0, md := 0, af := 0, inf := 0, mode := 0
  b := 0, rsv := 0, sdly := 0 }

/-- That FMX, started by the same issue: none of its rows has been read. -/
def pushBesideStore : Push := { id := 2, op := fmxRows, ctx := 0, ord := 13, start := 0, n := 8, c := 0, sp := true }

/-- The store may perform while the push still reads. -/
def storeWhilePushReads : State :=
  { cores := [(0, { acc := [storeBesidePush], arr := { pushes := [pushBesideStore] } })], foc := { id := 1 } }

/-- How many copies of the SRAM the context keeps for array operations of its earlier issues (R145). -/
def oldsKept (r : Host.Outcome State Fault Refusal) : Nat :=
  match r with
  | .next t => (t.core.ctxAt 0).olds.length
  | _ => 0

theorem arrives_storeWhilePushReads : Arrives .perform storeBesidePush storeWhilePushReads := by
  refine ⟨by decide, ?_, ?_, ?_, ?_⟩
  all_goals decide +kernel

theorem oneGlobal_storeWhilePushReads :
    OneGlobal storeBesidePush { loc := .gm 0x100, size := 4 } 0x100 4 storeWhilePushReads := by
  unfold OneGlobal
  decide +kernel

theorem oldsKept_exec : oldsKept (exec .accessPerform storeWhilePushReads) = 1 := by decide +kernel

/-- Refutes O46: a store to global memory whose issue has an FMX still to read the scratchpad. The store performs, and the
context keeps the SRAM as it stood for that FMX (R145), which the clause of ACCESS_PERFORM leaves out. -/
theorem not_accessEvents : ¬ Obligations.AccessEvents := by
  unfold Obligations.AccessEvents
  intro h
  obtain ⟨-, hperform, -⟩ := h storeWhilePushReads storeBesidePush { loc := .gm 0x100, size := 4 }
  obtain ⟨-, hstore⟩ := hperform 0x100 4 arrives_storeWhilePushReads oneGlobal_storeWhilePushReads ⟨rfl, rfl, rfl, rfl⟩
  have hkept := congrArg oldsKept (hstore rfl)
  rw [oldsKept_exec] at hkept
  revert hkept
  decide +kernel
end Sys2Proof.Machine
end

section
/-! What leaves the commands, the jobs and the tables at work as they are, and a tag that is DONE (R138). -/

namespace Sys2Proof.Machine

/-! ### What leaves the commands at work as they are -/

/-- `t` has the commands, the jobs and the tables of `s`, and its focus. -/
structure SameWork (s t : State) : Prop where
  foc : t.foc = s.foc
  jobs : t.dev.jobs = s.dev.jobs
  copyq (c : Nat) : (t.coreAt c).copyq = (s.coreAt c).copyq
  flushq (c : Nat) : (t.coreAt c).flushq = (s.coreAt c).flushq
  tables (l : Nat) : (t.launchAt l).map Launch.dtabs = (s.launchAt l).map Launch.dtabs

/-- Besides, every context has the register file that it had. -/
structure Quiet (s t : State) : Prop extends SameWork s t where
  arch (c n : Nat) : ((t.coreAt c).ctxAt n).a = ((s.coreAt c).ctxAt n).a

/-- Contexts are read from what a core has of contexts alone. -/
theorem State.ctxAt_modCoreAt_of_ctxs (s : State) (c : Nat) {g : Core → Core} (hg : ∀ k, (g k).ctxs = k.ctxs) (k n : Nat) :
    ((s.modCoreAt c g).coreAt k).ctxAt n = (s.coreAt k).ctxAt n := by
  by_cases h : k = c
  · rw [h, State.coreAt_modCoreAt_self, Core.ctxAt, hg, Core.ctxAt]
  · rw [State.coreAt_modCoreAt_ne _ _ _ _ h]

theorem launchAt_modLaunch_map {α : Type} (s : State) (n l : Nat) {g : Launch → Launch} {p : Launch → α} (hg : ∀ x, p (g x) = p x) :
    ((s.modLaunch n g).launchAt l).map p = (s.launchAt l).map p := by
  by_cases h : l = n
  · rw [h, State.launchAt_modLaunch_self, Option.map_map]
    exact congrArg (fun f => (s.launchAt n).map f) (funext hg)
  · unfold State.modLaunch
    split
    · rfl
    · exact congrArg (Option.map p) (Map.find?_set_ne _ _ _ _ h)

namespace SameWork

theorem refl (s : State) : SameWork s s := ⟨rfl, rfl, fun _ => rfl, fun _ => rfl, fun _ => rfl⟩

theorem trans {s t u : State} (h : SameWork s t) (k : SameWork t u) : SameWork s u where
  foc := k.foc.trans h.foc
  jobs := k.jobs.trans h.jobs
  copyq c := (k.copyq c).trans (h.copyq c)
  flushq c := (k.flushq c).trans (h.flushq c)
  tables l := (k.tables l).trans (h.tables l)

theorem modCoreAt (s : State) (n : Nat) {g : Core → Core} (hc : ∀ k, (g k).copyq = k.copyq) (hf : ∀ k, (g k).flushq = k.flushq) :
    SameWork s (s.modCoreAt n g) where
  foc := rfl
  jobs := rfl
  copyq c := by
    by_cases h : c = n
    · rw [h, State.coreAt_modCoreAt_self, hc]
    · rw [State.coreAt_modCoreAt_ne _ _ _ _ h]
  flushq c := by
    by_cases h : c = n
    · rw [h, State.coreAt_modCoreAt_self, hf]
    · rw [State.coreAt_modCoreAt_ne _ _ _ _ h]
  tables _ := rfl

theorem modLaunch (s : State) (n : Nat) {g : Launch → Launch} (hg : ∀ l, (g l).dtabs = l.dtabs) : SameWork s (s.modLaunch n g) where
  foc := State.foc_modLaunch s n g
  jobs := by unfold State.modLaunch; split <;> rfl
  copyq c := by rw [State.coreAt_modLaunch]
  flushq c := by rw [State.coreAt_modLaunch]
  tables l := launchAt_modLaunch_map s n l hg

theorem mapCtxs (s : State) (g : Ctx → Ctx) : SameWork s (s.mapCtxs g) where
  foc := rfl
  jobs := rfl
  copyq c := by rw [State.coreAt_mapCtxs]
  flushq c := by rw [State.coreAt_mapCtxs]
  tables _ := rfl

theorem modCtxAt (s : State) (c n : Nat) (g : Ctx → Ctx) : SameWork s (s.modCtxAt c n g) :=
  modCoreAt s c (fun _ => rfl) fun _ => rfl

theorem forInst (s : State) (i : InstId) (g : Ctx → Ctx) (r : InstRec → InstRec) : SameWork s (forInst i g r s) :=
  (mapCtxs s _).trans (modLaunch _ _ fun l => by split <;> rfl)

theorem takeBank (s : State) (low : Bool) (b : Nat × Nat) : SameWork s (takeBank low b s) :=
  modCoreAt s b.1 (fun k => by split <;> rfl) fun k => by split <;> rfl

/-- A fold of steps that leave the commands at work leaves them. -/
theorem foldl {α : Type} {step : State → α → State} (h : ∀ s a, SameWork s (step s a)) (l : List α) :
    ∀ s, SameWork s (l.foldl step s) := by
  induction l with
  | nil => exact refl
  | cons a r ih => exact fun s => (h s a).trans (ih _)

theorem takeBanks (s : State) (low : Bool) (l : List (Nat × Nat)) : SameWork s (takeBanks low l s) :=
  foldl (fun s b => takeBank s low b) l s

theorem keepOldFor (s : State) (i : InstId) (ctx ord : Nat) : SameWork s (keepOldFor i ctx ord s) := by
  unfold Machine.keepOldFor Machine.keepOld
  split
  · split
    · exact modCtxAt s _ _ _
    · exact refl s
  · exact refl s

end SameWork

namespace Quiet

theorem refl (s : State) : Quiet s s := ⟨.refl s, fun _ _ => rfl⟩

theorem trans {s t u : State} (h : Quiet s t) (k : Quiet t u) : Quiet s u :=
  ⟨h.toSameWork.trans k.toSameWork, fun c n => (k.arch c n).trans (h.arch c n)⟩

theorem modCoreAt (s : State) (n : Nat) {g : Core → Core} (hc : ∀ k, (g k).copyq = k.copyq) (hf : ∀ k, (g k).flushq = k.flushq)
    (hx : ∀ k, (g k).ctxs = k.ctxs) : Quiet s (s.modCoreAt n g) where
  toSameWork := .modCoreAt s n hc hf
  arch c m := by rw [State.ctxAt_modCoreAt_of_ctxs s n hx]

theorem modLaunch (s : State) (n : Nat) {g : Launch → Launch} (hg : ∀ l, (g l).dtabs = l.dtabs) : Quiet s (s.modLaunch n g) where
  toSameWork := .modLaunch s n hg
  arch c m := by rw [State.coreAt_modLaunch]

theorem mapCtxs (s : State) {g : Ctx → Ctx} (h0 : g {} = {}) (hg : ∀ c, (g c).a = c.a) : Quiet s (s.mapCtxs g) where
  toSameWork := .mapCtxs s g
  arch c m := by rw [State.ctxAt_mapCtxs s h0, hg]

theorem wake (s : State) (p : WaitOn → Bool) : Quiet s (wake p s) :=
  mapCtxs s (by simp [Ctx.deferred]) fun c => by split <;> rfl

theorem forInst (s : State) (i : InstId) {g : Ctx → Ctx} (r : InstRec → InstRec) (hg : ∀ c, (g c).a = c.a) :
    Quiet s (forInst i g r s) :=
  (mapCtxs s (g := fun c => if c.inst = some i then g c else c) rfl fun c => by split; exacts [hg c, rfl]).trans
    (modLaunch _ _ fun l => by split <;> rfl)

theorem fresh (s : State) : Quiet s s.fresh.2 := ⟨⟨rfl, rfl, fun _ => rfl, fun _ => rfl, fun _ => rfl⟩, fun _ _ => rfl⟩

theorem foldl {α : Type} {step : State → α → State} (h : ∀ s a, Quiet s (step s a)) (l : List α) :
    ∀ s, Quiet s (l.foldl step s) := by
  induction l with
  | nil => exact refl
  | cons a r ih => exact fun s => (h s a).trans (ih _)

theorem spWrite (c a n v : Nat) (s : State) : Quiet s (spWrite c a n v s) :=
  (modCoreAt s c (by exact fun _ => rfl) (by exact fun _ => rfl) (by exact fun _ => rfl)).trans (wake _ _)

theorem spSetFull (c a : Nat) (b : Bool) (s : State) : Quiet s (spSetFull c a b s) :=
  (modCoreAt s c (by exact fun _ => rfl) (by exact fun _ => rfl) (by exact fun _ => rfl)).trans (wake _ _)

theorem spoilPonds (c a n : Nat) (s : State) : Quiet s (spoilPonds c a n s) := by
  unfold Machine.spoilPonds
  split
  · exact refl s
  · exact (fresh s).trans (modLaunch _ _ fun _ => rfl)

theorem l1Invalidate (c : Nat) (s : State) : Quiet s (l1Invalidate c s) :=
  modCoreAt s c (by exact fun _ => rfl) (by exact fun _ => rfl) (by exact fun _ => rfl)

theorem dropClean (s : State) : Quiet s (dropClean s) :=
  foldl (step := fun s (e : Nat × Core) => Machine.l1Invalidate e.1 s) (fun s e => l1Invalidate e.1 s) s.cores s

theorem fire (w : Watch) (s : State) : Quiet s (w.fire s) := by
  unfold Watch.fire
  split
  · exact (dropClean s).trans ((spoilPonds _ _ _ _).trans (spSetFull _ _ _ _))
  · exact (spoilPonds _ _ _ _).trans (spSetFull _ _ _ _)

theorem fireWatches (i : InstId) (s : State) : Quiet s (fireWatches i s) :=
  ((forInst s i _ (by exact fun _ => rfl)).trans (modLaunch _ _ (by exact fun _ => rfl))).trans (foldl (fun s w => fire w s) _ _)

end Quiet

/-! ### A command's tag is DONE (R138) -/

/-- What a context has of a tag that has completed. -/
def Ctx.tagCompletes (t : Nat) (c : Ctx) : Ctx :=
  { (c.both fun a => a.tagClose t true).wakeTags with tagNew := c.tagNew ||| oneBit t }

/-- What the record of a saved thread has of it. -/
def InstRec.tagCompletes (t : Nat) (r : InstRec) : InstRec := { r with saved := r.saved.map fun a => a.tagClose t true }

theorem a_tagCompletes (t : Nat) (c : Ctx) : (c.tagCompletes t).a = c.a.tagClose t true := by
  unfold Ctx.tagCompletes Ctx.wakeTags Ctx.both
  split <;> rfl

theorem tagDone_tagClose (a : Arch) {t : Nat} (ht : t < 64) : (a.tagClose t true).tagDone.getLsbD t = true := by
  unfold Arch.tagClose
  rw [if_pos rfl, BitVec.getLsbD_or, oneBit_eq_shift]
  simp [ht]

/-- What TAG_COMPLETE leaves to the watches is quiet. -/
theorem quiet_tagComplete (i : InstId) (t : Nat) (s : State) : 
    Quiet (forInst i (Ctx.tagCompletes t) (InstRec.tagCompletes t) s) (tagComplete i t s) :=
  (Quiet.modLaunch _ _ (by exact fun _ => rfl)).trans (Quiet.fireWatches i _)

theorem sameWork_tagComplete (i : InstId) (t : Nat) (s : State) : SameWork s (tagComplete i t s) :=
  (SameWork.forInst s i _ _).trans (quiet_tagComplete i t s).toSameWork

/-- Every context of the thread finds the tag DONE. -/
theorem tagDone_tagComplete {i : InstId} {t : Nat} (ht : t < 64) {s : State} {k n : Nat}
    (hi : ((s.coreAt k).ctxAt n).inst = some i) : (((tagComplete i t s).coreAt k).ctxAt n).a.tagDone.getLsbD t = true := by
  have hctx : ((forInst i (Ctx.tagCompletes t) (InstRec.tagCompletes t) s).coreAt k).ctxAt n = ((s.coreAt k).ctxAt n).tagCompletes t := by
    unfold forInst
    rw [State.coreAt_modLaunch, State.ctxAt_mapCtxs s rfl, if_pos hi]
  rw [(quiet_tagComplete i t s).arch, hctx, a_tagCompletes]
  exact tagDone_tagClose _ ht

end Sys2Proof.Machine
end

section
/-! What leaves the scratchpads as they are, and the places of a copy between them (R135). -/

namespace Sys2Proof.Machine

/-! ### Bytes and words -/

theorem elemOf_succ (x j : Nat) : elemOf x (j + 1) 8 = elemOf (x / 256) j 8 := by
  unfold elemOf
  rw [Nat.div_div_eq_div_mul, Nat.mul_succ, Nat.add_comm, Nat.pow_add]

/-- The bytes of a number, put together again. -/
theorem packElems_elemOf (n : Nat) : ∀ x, packElems 8 ((List.range n).map fun j => elemOf x j 8) = x % 256 ^ n := by
  induction n with
  | zero => exact fun x => (Nat.mod_one x).symm
  | succ n ih =>
    intro x
    have htail : ((List.range n).map Nat.succ).map (fun j => elemOf x j 8) = (List.range n).map fun j => elemOf (x / 256) j 8 := by
      rw [List.map_map]
      exact List.map_congr_left fun j _ => elemOf_succ x j
    have hhead : elemOf x 0 8 = x % 256 := by
      unfold elemOf
      rw [Nat.mul_zero, Nat.pow_zero, Nat.div_one]
      rfl
    rw [List.range_succ_eq_map, List.map_cons, htail, packElems, ih, hhead, pow_succ' 256 n, Nat.mod_mul (a := 256)]
    exact congrArg (· + _) (Nat.mod_mod x 256)

theorem Mem.read_lt (m : Mem) (n : Nat) : ∀ a, m.read a n < 256 ^ n := by
  induction n with
  | zero => exact fun a => Nat.zero_lt_one
  | succ n ih =>
    intro a
    have hb : (m.byte a).toNat < 256 := (m.byte a).isLt
    have hr := ih (a + 1)
    rw [Nat.pow_succ']
    unfold Mem.read
    omega

/-! ### What leaves the scratchpads as they are -/

/-- `t` has the SRAM of every core of `s`, its full/empty bits and its regions. -/
structure SameSram (s t : State) : Prop where
  sp (c : Nat) : (t.coreAt c).sp = (s.coreAt c).sp
  empt (c : Nat) : (t.coreAt c).empt = (s.coreAt c).empt
  regions (c : Nat) : (t.coreAt c).regions = (s.coreAt c).regions

namespace SameSram

theorem of_cores {s t : State} (h : t.cores = s.cores) : SameSram s t where
  sp c := by rw [State.coreAt_of_cores h]
  empt c := by rw [State.coreAt_of_cores h]
  regions c := by rw [State.coreAt_of_cores h]

theorem trans {s t u : State} (h : SameSram s t) (k : SameSram t u) : SameSram s u where
  sp c := (k.sp c).trans (h.sp c)
  empt c := (k.empt c).trans (h.empt c)
  regions c := (k.regions c).trans (h.regions c)

theorem modCoreAt (s : State) (n : Nat) {g : Core → Core} (hs : ∀ k, (g k).sp = k.sp) (he : ∀ k, (g k).empt = k.empt)
    (hr : ∀ k, (g k).regions = k.regions) : SameSram s (s.modCoreAt n g) := by
  refine ⟨fun c => ?_, fun c => ?_, fun c => ?_⟩ <;> by_cases h : c = n
  · rw [h, State.coreAt_modCoreAt_self, hs]
  · rw [State.coreAt_modCoreAt_ne _ _ _ _ h]
  · rw [h, State.coreAt_modCoreAt_self, he]
  · rw [State.coreAt_modCoreAt_ne _ _ _ _ h]
  · rw [h, State.coreAt_modCoreAt_self, hr]
  · rw [State.coreAt_modCoreAt_ne _ _ _ _ h]

theorem mapCtxs (s : State) (g : Ctx → Ctx) : SameSram s (s.mapCtxs g) where
  sp c := by rw [State.coreAt_mapCtxs]
  empt c := by rw [State.coreAt_mapCtxs]
  regions c := by rw [State.coreAt_mapCtxs]

theorem modLaunch (s : State) (n : Nat) (g : Launch → Launch) : SameSram s (s.modLaunch n g) := of_cores (State.cores_modLaunch s n g)

theorem takeBank (s : State) (low : Bool) (b : Nat × Nat) : SameSram s (takeBank low b s) :=
  modCoreAt s b.1 (fun k => by split <;> rfl) (fun k => by split <;> rfl) fun k => by split <;> rfl

theorem missesLeave (s : State) (u : Nat × Nat) : SameSram s (missesLeave u s) := of_cores rfl

theorem setJob (s : State) (id : Nat) (g : Job → Job) : SameSram s (setJob id g s) := of_cores rfl

theorem setCopy (s : State) (id : Nat) (g : CopyCmd → CopyCmd) : SameSram s (setCopy id g s) := by
  unfold Machine.setCopy State.modCore
  exact modCoreAt s s.foc.core (by exact fun _ => rfl) (by exact fun _ => rfl) (by exact fun _ => rfl)

theorem takeBanks (low : Bool) (l : List (Nat × Nat)) : ∀ s, SameSram s (takeBanks low l s) := by
  induction l with
  | nil => exact fun s => of_cores rfl
  | cons b r ih => exact fun s => (takeBank s low b).trans (ih _)

theorem keepOldFor (s : State) (i : InstId) (ctx ord : Nat) : SameSram s (keepOldFor i ctx ord s) := by
  unfold Machine.keepOldFor Machine.keepOld
  split
  · split
    · exact modCoreAt s _ (by exact fun _ => rfl) (by exact fun _ => rfl) (by exact fun _ => rfl)
    · exact of_cores rfl
  · exact of_cores rfl

theorem spoilPonds (c a n : Nat) (s : State) : SameSram s (spoilPonds c a n s) := by
  unfold Machine.spoilPonds
  split
  · exact of_cores rfl
  · exact of_cores (State.cores_modLaunch _ _ _)

theorem tagFault (s : State) (i : InstId) (t cause : Nat) (info : Word) : SameSram s (tagFault i t cause info s) :=
  ((mapCtxs s _).trans (modLaunch _ _ _)).trans (modLaunch _ _ _)

theorem jobFault (s : State) (j : Job) (sub : Nat) : SameSram s (jobFault j sub s) := by
  unfold Machine.jobFault leaveLane
  refine SameSram.trans (SameSram.trans ?_ (tagFault _ _ _ _ _)) (of_cores rfl)
  exact of_cores rfl

theorem blockDone (s : State) (id : Nat) : SameSram s (blockDone id s) := by
  unfold Machine.blockDone
  split
  · exact of_cores rfl
  · split
    · exact of_cores rfl
    · split
      · exact jobFault s _ _
      · exact of_cores rfl

theorem full {s t : State} (h : SameSram s t) (c a : Nat) : (t.coreAt c).full a = (s.coreAt c).full a := by
  unfold Core.full
  rw [h.empt]

/-- The same regions of the same launches hold the ponds. -/
theorem pondSpace {s t : State} (h : SameSram s t) (hdev : t.dev = s.dev) (c addr n : Nat) : pondSpace t c addr n = pondSpace s c addr n := by
  unfold Machine.pondSpace State.launchAt
  rw [h.regions, hdev]

theorem spPlace {s t : State} (h : SameSram s t) (core launch hn off n : Nat) : spPlace t core launch hn off n = spPlace s core launch hn off n := by
  unfold Machine.spPlace Core.region?
  dsimp only
  rw [h.regions]

end SameSram

theorem dev_takeBanks (low : Bool) (l : List (Nat × Nat)) (s : State) : (takeBanks low l s).dev = s.dev :=
  foldl_leaves (step := fun s b => takeBank low b s) State.dev (fun _ _ => rfl) l s

theorem dev_keepOldFor (s : State) (i : InstId) (ctx ord : Nat) : (keepOldFor i ctx ord s).dev = s.dev := by
  unfold keepOldFor keepOld
  split
  · split <;> rfl
  · rfl

/-- Bytes outside those written stay. -/
theorem byte_spWrite_outside {c a n v d z : Nat} (h : d ≠ c ∨ z < a ∨ a + n ≤ z) (s : State) :
    ((spWrite c a n v s).coreAt d).sp.byte z = (s.coreAt d).sp.byte z := by
  unfold spWrite wakeWords
  rw [sp_wake]
  by_cases hd : d = c
  · rw [hd, State.coreAt_modCoreAt_self]
    exact Mem.byte_write_outside _ _ _ _ _ (h.resolve_left fun hne => hne hd)
  · rw [State.coreAt_modCoreAt_ne _ _ _ _ hd]

theorem read_spWrite (c a n v : Nat) (s : State) : ((spWrite c a n v s).coreAt c).sp.read a n = v % 256 ^ n := by
  unfold spWrite wakeWords
  rw [sp_wake, State.coreAt_modCoreAt_self, Mem.read_write]

theorem spTake_dry {s : State} {c a n : Nat} (h : pondSpace s c a n = none) : spTake c a n s = ((s.coreAt c).sp.read a n, s) := by
  unfold spTake
  rw [h]
  rfl

theorem spoilPonds_dry {s : State} {c a n : Nat} (h : pondSpace s c a n = none) : spoilPonds c a n s = s := by
  unfold spoilPonds
  rw [h]

/-! ### A copy of one element between scratchpads (R137, R138) -/

theorem copyPlace_window {id launch asid hn size c a : Nat} {h : Handle} {write : Bool} {off : Word} {s : State} (hh : hn < 3)
    (hp : spPlace s s.foc.core launch hn off.toNat size = some (c, a)) :
    copyPlace id launch asid hn h write off size s = (.ok { loc := .sp c a }, s) := by
  unfold copyPlace
  dsimp only
  rw [if_pos hh, hp]

theorem vaCut_window {cut : List (Nat × Nat)} {hn : Nat} (hh : hn < 3) (h : Handle) (off : Word) (n : Nat) : vaCut cut hn h off n = false := by
  unfold vaCut
  rw [decide_eq_false (Nat.not_le.2 hh)]
  rfl

theorem placesWait_windows {c : CopyCmd} (hs : c.srcH < 3) (hd : c.dstH < 3) (id asid i : Nat) (s : State) :
    placesWait id asid (c.ends i) s = [] := by
  unfold placesWait CopyCmd.ends
  rw [List.filterMap_cons_none, List.filterMap_cons_none, List.filterMap_nil]
  · dsimp only
    rw [decide_eq_false (Nat.not_le.2 hd)]
    rfl
  · dsimp only
    rw [decide_eq_false (Nat.not_le.2 hs)]
    rfl

/-- A scratchpad word as a copy's element. -/
def spPlaceOf (c a : Nat) : CopyPlace := { loc := .sp c a }

theorem sources_window {c : CopyCmd} {s : State} {p x : Nat} (hone : c.count = 1) (hs : c.srcH < 3)
    (hp : spPlace s s.foc.core c.inst.launch c.srcH (c.srcOff 0).toNat (fmtSize c.fs) = some (p, x)) (asid : Nat) :
    c.sources asid s = [.sp p x] := by
  unfold CopyCmd.sources
  rw [hone, List.range_one, List.filterMap_cons_some, List.filterMap_nil]
  rw [copyPlace_window hs hp]

theorem copyRead_window {c : CopyCmd} {s : State} {p x : Nat} (holds : c.olds = []) (hdry : pondSpace s p x (fmtSize c.fs) = none)
    (ver : Option Nat) (vf : Nat) : copyRead c ver vf (spPlaceOf p x) s = ((s.coreAt p).sp.read x (fmtSize c.fs), s) := by
  unfold copyRead elemRead spPlaceOf
  dsimp only
  rw [spTake_dry hdry, holds]
  refine Prod.ext ?_ rfl
  exact (packElems_elemOf _ _).trans (Nat.mod_eq_of_lt (Mem.read_lt _ _ _))

/-- Bytes that are not of the source are not freed by a copy's write. -/
theorem within_apart {p q x y n j : Nat} (h : p ≠ q ∨ x + n ≤ y ∨ y + n ≤ x) (hj : j < n) :
    (Loc.sp q y).within j (.sp p x) n = false := by
  unfold Loc.within
  simp only [Bool.and_eq_false_iff, decide_eq_false_iff_not]
  omega

theorem copyWrite_window {c : CopyCmd} {s : State} {p q x y : Nat} (hf : c.fs = c.fd)
    (hapart : p ≠ q ∨ x + fmtSize c.fs ≤ y ∨ y + fmtSize c.fs ≤ x) (hdry : pondSpace s q y (fmtSize c.fs) = none)
    (ver : Option Nat) (vf key v : Nat) (olds : List (Loc × Nat)) :
    (copyWrite c [.sp p x] ver vf key (spPlaceOf q y) v (olds, s)).2 = spWrite q y (fmtSize c.fs) (v % 256 ^ fmtSize c.fs) s := by
  have hbytes : (List.range (fmtSize c.fs)).map (fun j =>
      if [Loc.sp p x].any (fun l => (spPlaceOf q y).loc.within j l (fmtSize c.fs)) = true
        then (Config.freeWord (key + 2 ^ 32 * j)).toNat % 256 else elemOf v j 8)
      = (List.range (fmtSize c.fs)).map fun j => elemOf v j 8 := by
    refine List.map_congr_left fun j hj => if_neg ?_
    rw [List.any_cons, List.any_nil, Bool.or_false]
    exact Bool.eq_false_iff.1 (within_apart hapart (List.mem_range.1 hj))
  unfold copyWrite elemWrite
  dsimp only
  rw [← hf, hbytes, packElems_elemOf]
  unfold spPlaceOf
  dsimp only
  rw [spoilPonds_dry hdry, if_neg (by exact Bool.false_ne_true)]

end Sys2Proof.Machine
end

section
/-! The copy engine (R137, R138). -/

namespace Sys2Proof.Machine

/-- What is changed of the entries of a key is found changed. -/
theorem find?_map_key {α : Type} (key : α → Nat) (id : Nat) {g : α → α} (hg : ∀ x, key (g x) = key x) (l : List α) :
    (l.map fun x => if key x = id then g x else x).find? (fun x => decide (key x = id)) = (l.find? fun x => decide (key x = id)).map g := by
  induction l with
  | nil => rfl
  | cons x r ih =>
    rw [List.map_cons]
    by_cases h : key x = id
    · rw [if_pos h, List.find?_cons_of_pos (by simpa [hg] using h), List.find?_cons_of_pos (by simpa using h)]
      rfl
    · rw [if_neg h, List.find?_cons_of_neg (by simpa using h), List.find?_cons_of_neg (by simpa using h), ih]

/-- A command copies one element between scratchpads, in one format, from `x` of core `p` to `y` of core `q`, and may move it now:
nothing of it is corrupt or holds ponds, no read of its issue is left, and its banks are free. -/
structure CopiesWord (c : CopyCmd) (p x q y : Nat) (s : State) : Prop where
  one : c.count = 1
  done : c.done = 0
  olds : c.olds = []
  fmt : c.fs = c.fd
  live : c.src.st ≠ .revoked
  srcH : c.srcH < 3
  dstH : c.dstH < 3
  src : spPlace s s.foc.core c.inst.launch c.srcH (c.srcOff 0).toNat (fmtSize c.fs) = some (p, x)
  dst : spPlace s s.foc.core c.inst.launch c.dstH (c.dstOff 0).toNat (fmtSize c.fs) = some (q, y)
  apart : p ≠ q ∨ x + fmtSize c.fs ≤ y ∨ y + fmtSize c.fs ≤ x
  good : badSp s p x (fmtSize c.fs) = false
  drySrc : pondSpace s p x (fmtSize c.fs) = none
  dryDst : pondSpace s q y (fmtSize c.fs) = none
  turn : readsLeft c.ctx c.inst c.ord s = false
  banks : ∀ b ∈ spBanks p x (fmtSize c.fs) ++ spBanks q y (fmtSize c.fs), bankFree true b s = true

namespace CopiesWord

variable {c : CopyCmd} {p x q y : Nat} {s : State}

/-- The chunk is the one element. -/
theorem runChunk_eq (h : CopiesWord c p x q y s) : runChunk c s = doChunk c [(0, spPlaceOf p x, spPlaceOf q y)] s := by
  have hwait : ∀ asid, placesWait c.id asid (c.ends 0) s = [] := fun asid => placesWait_windows h.srcH h.dstH _ _ _ _
  have hsrc : ∀ asid, copyPlace c.id c.inst.launch asid c.srcH c.src false (c.srcOff 0) (fmtSize c.fs) s = (.ok (spPlaceOf p x), s) :=
    fun asid => copyPlace_window h.srcH h.src
  have hdst : ∀ asid, copyPlace c.id c.inst.launch asid c.dstH c.dst true (c.dstOff 0) (fmtSize c.fd) s = (.ok (spPlaceOf q y), s) :=
    fun asid => copyPlace_window h.dstH (h.fmt ▸ h.dst)
  have hchunk : ∀ asid, chunkPlaces c asid (spPlaceOf p x) (spPlaceOf q y) 1 0 s = ([(0, spPlaceOf p x, spPlaceOf q y)], s) := by
    intro asid
    unfold chunkPlaces
    rw [if_neg (by simp [hwait]), hsrc asid]
    dsimp only
    rw [hdst asid]
    rfl
  unfold runChunk
  rw [h.done, h.one]
  dsimp only
  rw [vaCut_window h.srcH, vaCut_window h.dstH, if_neg (by simp [h.live]), if_neg (by simp [hwait]), hsrc]
  dsimp only
  rw [hdst]
  dsimp only
  rw [if_neg (by exact Bool.false_ne_true), hchunk]

/-- The state in which the element moves: its banks are taken. -/
def taken (c : CopyCmd) (p x q y : Nat) (s : State) : State :=
  takeBanks true (placeBanks [.sp p x] (fmtSize c.fs) ++ placeBanks [.sp q y] (fmtSize c.fd)).eraseDups
    (keepOldFor c.inst c.ctx c.ord s)

theorem placeBanks_singleton (p x n : Nat) : placeBanks [.sp p x] n = (spBanks p x n).eraseDups := by
  unfold placeBanks
  rw [List.flatMap_cons, List.flatMap_nil, List.append_nil]

theorem doChunk_eq (h : CopiesWord c p x q y s) : doChunk c [(0, spPlaceOf p x, spPlaceOf q y)] s =
    moveChunk c (launchVer s c.inst.launch) (launchVf s c.inst.launch) [(0, spPlaceOf p x, spPlaceOf q y)] (taken c p x q y s) := by
  have hfree : allFree true (placeBanks [.sp p x] (fmtSize c.fs) ++ placeBanks [.sp q y] (fmtSize c.fd)).eraseDups s = true := by
    refine List.all_eq_true.2 fun b hb => h.banks b ?_
    rw [List.mem_eraseDups, List.mem_append, placeBanks_singleton, placeBanks_singleton, List.mem_eraseDups, List.mem_eraseDups,
      ← h.fmt] at hb
    exact List.mem_append.2 hb
  unfold doChunk
  extract_lets vf ver srcLocs dstLocs mine banks late
  have hmine : mine = [] := by
    change s.core.l1.filter (fun y => false || false) ++ s.core.l1.filter (fun y => false || false) = []
    simp
  have hfree' : allFree true banks s = true := hfree
  refine (if_neg ?_).trans ((if_neg ?_).trans ((if_neg ?_).trans ?_))
  · change ¬ ((badSp s p x (fmtSize c.fs) || false) || (late && false)) = true
    simp [h.good]
  · change ¬ (late && false) = true
    simp
  · change ¬ (readsLeft c.ctx c.inst c.ord s || !mine.all (mayLeave s.core) || !allFree true banks s || (false && !s.hostUp)) = true
    simp [h.turn, hmine, hfree']
  · rw [hmine]
    rfl

/-- The element moves: its bytes are written, and the command has it done. -/
theorem moveChunk_eq (h : CopiesWord c p x q y s) {t : State} (hram : SameSram s t) (hdev : t.dev = s.dev) (hfoc : t.foc = s.foc)
    (ver : Option Nat) (vf : Nat) : ∃ olds since,
      moveChunk c ver vf [(0, spPlaceOf p x, spPlaceOf q y)] t = missesLeave (0, c.id) (setCopy c.id
        (fun c => { c with done := c.done + 1, olds := olds, since := since })
        (spWrite q y (fmtSize c.fs) ((s.coreAt p).sp.read x (fmtSize c.fs)) t.fresh.2)) := by
  have hsrcs : ∀ asid, c.sources asid t = [.sp p x] := fun asid => by
    refine sources_window h.one h.srcH ?_ asid
    rw [hram.spPlace, hfoc]
    exact h.src
  have hread : copyRead c ver vf (spPlaceOf p x) t = ((s.coreAt p).sp.read x (fmtSize c.fs), t) := by
    rw [copyRead_window h.olds ((hram.pondSpace hdev _ _ _).trans h.drySrc), hram.sp]
  have hdry : pondSpace t.fresh.2 q y (fmtSize c.fs) = none := (hram.pondSpace hdev q y _).trans h.dryDst
  have hconv : ∀ v, c.convert v = v := fun v => if_pos h.fmt
  have hwrite := fun key => copyWrite_window (v := (s.coreAt p).sp.read x (fmtSize c.fs)) h.fmt h.apart hdry ver vf key c.olds
  rw [Nat.mod_eq_of_lt (Mem.read_lt _ _ _)] at hwrite
  unfold moveChunk
  rw [hsrcs]
  dsimp only [List.foldl_cons, List.foldl_nil]
  rw [hread]
  dsimp only [List.nil_append, List.zipIdx_cons, List.zipIdx_nil, List.foldl_cons, List.foldl_nil]
  rw [hconv]
  have hkey := hwrite (t.fresh.1 + 2 ^ 40 * 0)
  exact ⟨_, _, congrArg (fun u => missesLeave (0, c.id) (setCopy c.id _ u)) hkey⟩

end CopiesWord

theorem copyq_setCopy (id : Nat) (g : CopyCmd → CopyCmd) (s : State) :
    (setCopy id g s).core.copyq = s.core.copyq.map fun x => if x.id = id then g x else x := by
  unfold setCopy
  rw [State.core_modCore]

theorem copyq_dropCopy (id : Nat) (s : State) : (dropCopy id s).core.copyq = s.core.copyq.filter fun x => x.id ≠ id := by
  have h := State.core_modCore s fun k => { k with copyq := k.copyq.filter fun x => x.id ≠ id }
  exact congrArg Core.copyq h

theorem ctxAt_dropCopy (id : Nat) (s : State) (k n : Nat) : ((dropCopy id s).coreAt k).ctxAt n = (s.coreAt k).ctxAt n :=
  State.ctxAt_modCoreAt_of_ctxs s s.foc.core (g := fun k => { k with copyq := k.copyq.filter fun x => x.id ≠ id }) (fun _ => rfl) k n

/-- COPY_CHUNK of one element between scratchpads (R137, R138). -/
theorem copyChunk_word {c : CopyCmd} {p x q y : Nat} {s : State} (hc : s.core.copyq.find? (fun c => c.id = s.foc.id) = some c)
    (h : CopiesWord c p x q y s) : Answers .copyChunk s fun t =>
      (t.coreAt q).sp.read y (fmtSize c.fs) = (s.coreAt p).sp.read x (fmtSize c.fs)
      ∧ (∀ d z, d ≠ q ∨ z < y ∨ y + fmtSize c.fs ≤ z → (t.coreAt d).sp.byte z = (s.coreAt d).sp.byte z)
      ∧ (t.core.copyq.find? fun x => x.id = c.id).map (fun x => x.done) = some 1 := by
  have hram : SameSram s (CopiesWord.taken c p x q y s) := (SameSram.keepOldFor s _ _ _).trans (SameSram.takeBanks _ _ _)
  have hwork : SameWork s (CopiesWord.taken c p x q y s) := (SameWork.keepOldFor s _ _ _).trans (SameWork.takeBanks _ _ _)
  have hdev : (CopiesWord.taken c p x q y s).dev = s.dev := (dev_takeBanks _ _ _).trans (dev_keepOldFor _ _ _ _)
  obtain ⟨olds, since, hmove⟩ := h.moveChunk_eq hram hdev hwork.foc (launchVer s c.inst.launch) (launchVf s c.inst.launch)
  have hexec : exec .copyChunk s = .next (runChunk c s) := by
    change execCopyChunk s = _
    unfold execCopyChunk
    rw [hc]
    dsimp only
    rw [if_pos (by rw [h.done, h.one]; exact Nat.zero_lt_one)]
  rw [h.runChunk_eq, h.doChunk_eq, hmove] at hexec
  generalize CopiesWord.taken c p x q y s = u at *
  generalize hv : (s.coreAt p).sp.read x (fmtSize c.fs) = v at hexec ⊢
  have hset : SameSram (spWrite q y (fmtSize c.fs) v u.fresh.2) (missesLeave (0, c.id) (setCopy c.id
      (fun c => { c with done := c.done + 1, olds := olds, since := since }) (spWrite q y (fmtSize c.fs) v u.fresh.2))) :=
    (SameSram.setCopy _ _ _).trans (SameSram.missesLeave _ _)
  have hid : c.id = s.foc.id := by simpa using List.find?_some hc
  refine ⟨_, hexec, ?_, fun d z hz => ?_, ?_⟩
  · rw [hset.sp, read_spWrite, ← hv]
    exact Nat.mod_eq_of_lt (Mem.read_lt _ _ _)
  · rw [hset.sp, byte_spWrite_outside hz]
    exact congrArg (fun m : Mem => m.byte z) (hram.sp d)
  · have hwrote := (hwork.trans (Quiet.fresh u).toSameWork).trans (Quiet.spWrite q y (fmtSize c.fs) v u.fresh.2).toSameWork
    have hq : (spWrite q y (fmtSize c.fs) v u.fresh.2).core.copyq = s.core.copyq := by
      unfold State.core
      rw [hwrote.copyq, hwrote.foc]
    have hset : (missesLeave (0, c.id) (setCopy c.id (fun c => { c with done := c.done + 1, olds := olds, since := since })
        (spWrite q y (fmtSize c.fs) v u.fresh.2))).core.copyq = s.core.copyq.map fun x =>
          if x.id = c.id then { x with done := x.done + 1, olds := olds, since := since } else x := by
      rw [← hq]
      exact copyq_setCopy _ _ _
    rw [hset, find?_map_key CopyCmd.id c.id (by exact fun _ => rfl), hid, hc]
    exact congrArg (fun n => some (n + 1)) h.done

/-- COPY_CHUNK through a revoked handle (R137). -/
theorem copyChunk_revoked {c : CopyCmd} {s : State} (hc : s.core.copyq.find? (fun c => c.id = s.foc.id) = some c)
    (hd : c.done < c.rows * c.cols) (hr : c.src.st = .revoked) : exec .copyChunk s = .next (copyFault c 4 s) := by
  change execCopyChunk s = _
  unfold execCopyChunk
  rw [hc]
  dsimp only
  rw [if_pos (show c.done < c.count from hd)]
  unfold runChunk
  dsimp only
  rw [if_pos (by simp [hr])]

/-- COPY_COMPLETE (R138). -/
theorem copyComplete_done {c : CopyCmd} {s : State} (hc : s.core.copyq.find? (fun c => c.id = s.foc.id) = some c)
    (hd : c.done = c.rows * c.cols) (ht : c.tag < 64) : Answers .copyComplete s fun t => (∀ x ∈ t.core.copyq, x.id ≠ c.id)
      ∧ ∀ k n, ((s.coreAt k).ctxAt n).inst = some c.inst → ((t.coreAt k).ctxAt n).a.tagDone.getLsbD c.tag = true := by
  have hexec : exec .copyComplete s = .next (tagComplete c.inst c.tag (dropCopy c.id s)) := by
    change execCopyComplete s = _
    unfold execCopyComplete
    rw [hc]
    exact if_pos hd
  have hwork := sameWork_tagComplete c.inst c.tag (dropCopy c.id s)
  refine ⟨_, hexec, fun x hx => ?_, fun k n hi => tagDone_tagComplete ht ?_⟩
  · have hq : (tagComplete c.inst c.tag (dropCopy c.id s)).core.copyq = s.core.copyq.filter fun x => x.id ≠ c.id := by
      unfold State.core
      rw [hwork.copyq, hwork.foc]
      exact copyq_dropCopy c.id s
    rw [hq] at hx
    exact of_decide_eq_true (List.mem_filter.1 hx).2
  · rw [← hi]
    exact congrArg Ctx.inst (ctxAt_dropCopy c.id s k n)
end Sys2Proof.Machine
end

section
/-! MFLUSH (R103), the dispatch of jobs, their end, suspension and resumption (R257, R263, R265), and the decoding of a block (R260, R261). -/

namespace Sys2Proof.Machine

/-! ### MFLUSH's lines and the dispatch of jobs (R103, R257) -/

theorem mflushComplete_more {c : FlushCmd} {s : State} (hc : s.core.flushq.find? (fun c => c.id = s.foc.id) = some c)
    (hl : 128 < c.len) : Answers .mflushComplete s fun t => t.core.flushq = s.core.flushq.map fun x =>
      if x.id = c.id then { x with pa := x.pa + 128, len := x.len - 128 } else x := by
  have hexec : exec .mflushComplete s = .next ((s.modDev (flushFirst c)).modCore fun k => { k with
      flushq := k.flushq.map fun x => if x.id = c.id then { x with pa := x.pa + 128, len := x.len - 128 } else x }) := by
    change execMflushComplete s = _
    unfold execMflushComplete
    rw [hc]
    exact if_pos hl
  refine ⟨_, hexec, ?_⟩
  dsimp only
  rw [State.core_modCore, State.core_modDev]

/-- A flush command leaves the core in focus. -/
def dropFlush (id : Nat) (s : State) : State := s.modCore fun k => { k with flushq := k.flushq.filter fun x => x.id ≠ id }

theorem flushq_dropFlush (id : Nat) (s : State) : (dropFlush id s).core.flushq = s.core.flushq.filter fun x => x.id ≠ id := by
  unfold dropFlush
  rw [State.core_modCore]

theorem ctxAt_dropFlush (id : Nat) (s : State) (k n : Nat) : ((dropFlush id s).coreAt k).ctxAt n = (s.coreAt k).ctxAt n :=
  State.ctxAt_modCoreAt_of_ctxs s s.foc.core (g := fun k => { k with flushq := k.flushq.filter fun x => x.id ≠ id }) (fun _ => rfl) k n

theorem mflushComplete_last {c : FlushCmd} {i : InstId} {s : State} (hc : s.core.flushq.find? (fun c => c.id = s.foc.id) = some c)
    (hi : c.inst = some i) (hl : c.len ≤ 128) (ht : c.tag < 64) : Answers .mflushComplete s fun t => (∀ x ∈ t.core.flushq, x.id ≠ c.id)
      ∧ ∀ k n, ((s.coreAt k).ctxAt n).inst = some i → ((t.coreAt k).ctxAt n).a.tagDone.getLsbD c.tag = true := by
  have hexec : exec .mflushComplete s = .next (tagComplete i c.tag (dropFlush c.id (s.modDev (flushFirst c)))) := by
    change execMflushComplete s = _
    unfold execMflushComplete
    rw [hc]
    dsimp only
    rw [if_neg (Nat.not_lt.2 hl), hi]
    rfl
  have hwork := sameWork_tagComplete i c.tag (dropFlush c.id (s.modDev (flushFirst c)))
  refine ⟨_, hexec, fun x hx => ?_, fun k n hk => tagDone_tagComplete ht ?_⟩
  · have hq : (tagComplete i c.tag (dropFlush c.id (s.modDev (flushFirst c)))).core.flushq = s.core.flushq.filter fun x => x.id ≠ c.id := by
      unfold State.core
      rw [hwork.flushq, hwork.foc]
      exact flushq_dropFlush c.id _
    rw [hq] at hx
    exact of_decide_eq_true (List.mem_filter.1 hx).2
  · rw [ctxAt_dropFlush]
    exact hk

/-- JOB_DISPATCH (R257): a lane of the 1,024 is chosen. -/
theorem jobDispatch_lane {j : Job} {r : List Job} {s : State} (h : s.core.jobq = j :: r) : Answers .jobDispatch s fun t =>
    t.core.jobq = r ∧ ∃ n < 1024, t.dev.jobs = s.dev.jobs ++ [{ j with lane := n, st := .queued, free := 8 * s.dev.base }] := by
  have hexec : exec .jobDispatch s = .next ((s.fresh.2.modCore fun k => { k with jobq := r }).modDev fun d =>
      { d with jobs := d.jobs ++ [{ j with lane := Config.choice s.fresh.1 % 1024, st := .queued, free := 8 * d.base }] }) := by
    change execJobDispatch s = _
    unfold execJobDispatch
    rw [h]
  refine ⟨_, hexec, ?_, _, Nat.mod_lt (Config.choice s.fresh.1) (by decide), rfl⟩
  rw [State.core_modDev, State.core_modCore]

/-! ### Jobs changed -/

theorem SameWork.job? {s t : State} (h : SameWork s t) : t.job? = s.job? := by
  unfold State.job?
  rw [h.jobs, h.foc]

theorem id_of_job? {s : State} {j : Job} (h : s.job? = some j) : j.id = s.foc.id := by
  unfold State.job? at h
  simpa using List.find?_some h

theorem find?_setJob {id : Nat} {g : Job → Job} (hg : ∀ j, (g j).id = j.id) (s : State) :
    (setJob id g s).dev.jobs.find? (fun j => j.id = id) = (s.dev.jobs.find? fun j => j.id = id).map g :=
  find?_map_key Job.id id hg _

/-- The job in focus changed. -/
theorem job?_setJob {s : State} {j : Job} (h : s.job? = some j) {g : Job → Job} (hg : ∀ j, (g j).id = j.id) :
    (setJob j.id g s).job? = some (g j) := by
  have hfind := find?_setJob (id := j.id) hg s
  unfold State.job? at h ⊢
  rw [id_of_job? h] at hfind ⊢
  exact hfind.trans (congrArg (Option.map g) h)

/-- What a job has once another has left its lane. -/
def Job.freed (t lane : Nat) (x : Job) : Job := if !x.isXdt && x.lane = lane then { x with free := max x.free t } else x

theorem id_freed (t lane : Nat) (x : Job) : (x.freed t lane).id = x.id := by unfold Job.freed; split <;> rfl

theorem job?_leaveLane (j : Job) (s : State) : (leaveLane j s).job? = s.job?.map (Job.freed (8 * s.dev.base) j.lane) := by
  have hjobs : (leaveLane j s).dev.jobs = s.dev.jobs.map (Job.freed (8 * s.dev.base) j.lane) := rfl
  unfold State.job?
  rw [hjobs, List.find?_map]
  refine congrArg (Option.map _) (congrArg (List.find? · s.dev.jobs) (funext fun x => ?_))
  exact congrArg (fun n => decide (n = s.foc.id)) (id_freed _ _ x)

theorem freed_progress (t lane : Nat) (x : Job) : ((x.freed t lane).st, (x.freed t lane).out, (x.freed t lane).chunk) = (x.st, x.out, x.chunk) := by
  unfold Job.freed
  split <;> rfl

/-! ### The end, the suspension and the resumption of a job (R263, R265) -/

theorem jobComplete_done {s : State} {j : Job} (hj : s.job? = some j) (hx : j.isXdt = false) (hst : j.st = .running)
    (hout : j.out = []) (hblk : j.nblk ≤ j.blk) (ht : j.tag < 64) : Answers .jobComplete s fun t =>
      t.job?.map (fun x => x.st) = some .done
      ∧ ∀ k n, ((s.coreAt k).ctxAt n).inst = some j.inst → ((t.coreAt k).ctxAt n).a.tagDone.getLsbD j.tag = true := by
  have hexec : exec .jobComplete s = .next (leaveLane j (tagComplete j.inst j.tag
      (setJob j.id (fun j => { j with st := .done }) s))) := by
    change execJobComplete s = _
    unfold execJobComplete
    rw [hj]
    dsimp only
    rw [if_neg]
    simp [hx, hst, hout, hblk]
  refine ⟨_, hexec, ?_, fun k n hi => ?_⟩
  · rw [job?_leaveLane, (sameWork_tagComplete _ _ _).job?, job?_setJob hj (by exact fun _ => rfl)]
    exact congrArg (fun x => some x.1) (freed_progress _ _ _)
  · exact tagDone_tagComplete (s := setJob j.id (fun j => { j with st := .done }) s) ht hi

theorem jobSuspend_suspended {s : State} {j : Job} (hj : s.job? = some j) (hx : j.isXdt = false) (hp : jobParked j s = true)
    (hm : j.mid = false) (hl : j.live = true) (hb : j.begun = true) (hst : j.st ≠ .suspended) : Answers .jobSuspend s fun t =>
      t.job?.map (fun x => (x.st, x.out, x.chunk)) = some (.suspended, [], j.chunk) := by
  have hexec : exec .jobSuspend s = .next (leaveLane j
      (setJob j.id (fun j => { j with st := .suspended, out := [], sub := 0, tid := none }) s)) := by
    change execJobSuspend s = _
    unfold execJobSuspend
    rw [hj]
    dsimp only
    rw [if_pos]
    simp [hx, hp, hm, hl, hb, hst]
  refine ⟨_, hexec, ?_⟩
  dsimp only
  rw [job?_leaveLane, job?_setJob hj (by exact fun _ => rfl)]
  exact congrArg some (freed_progress _ _ _)

theorem jobResumption_running {s : State} {j : Job} (hj : s.job? = some j) (hst : j.st = .suspended) (hp : jobParked j s = false)
    (hl : laneBusy j s.dev.jobs = false) : Answers .jobResumption s fun t =>
      t.job?.map (fun x => (x.st, x.chunk)) = some (.running, j.chunk) := by
  have hexec : exec .jobResumption s = .next (setJob j.id (fun j => { j with st := .running }) s) := by
    change execJobResumption s = _
    unfold execJobResumption
    rw [hj]
    dsimp only
    rw [if_pos]
    simp [hst, hp, hl]
  refine ⟨_, hexec, ?_⟩
  dsimp only
  rw [job?_setJob hj (by exact fun _ => rfl)]
  rfl

/-! ### Blocks and tables (R258 to R264) -/

/-- A job whose words can all be read goes on. -/
theorem readingJob_reads {j : Job} {off n : Nat} {s : State} (h : Reads j off n s) (late : Nat → State → State) (g : State → State) :
    readingJob j off n late g s = g s := by
  obtain ⟨hmiss, hhost⟩ := h
  unfold readingJob
  dsimp only
  rw [hmiss, hhost]

/-- A job may read and decode its next block. -/
structure Decodes (j : Job) (s : State) : Prop where
  job : s.job? = some j
  xds : j.isXdt = false
  state : j.st = .queued ∨ j.st = .running
  out : j.out = []
  block : j.blk < j.nblk
  lane : laneBusy j s.dev.jobs = false
  go : j.mayGo s = true
  time : mayDecode j s = true

/-- BLOCK_DECODE once the header has been read. -/
theorem exec_blockDecode {s s2 : State} {j : Job} {h : List Nat} (hd : Decodes j s)
    (hr : Reads j.run j.pos 8 (setJob j.id Job.run (s.focusOn j.core j.ctx)))
    (hw : jobWords j.run j.pos 8 (setJob j.id Job.run (s.focusOn j.core j.ctx)) = (.ok h, s2)) :
    exec .blockDecode s = .next (decodeHead j.run h s2) := by
  change execBlockDecode s = _
  unfold execBlockDecode
  rw [hd.job]
  dsimp only
  have hstate : (decide (j.st = .queued) || decide (j.st = .running)) = true := by simpa using hd.state
  rw [if_neg (by simp [hd.xds, hstate, hd.out, hd.block, hd.lane, hd.go, hd.time])]
  have hread := readingJob_reads hr (fun _ s => jobFault j.run 7 s) fun s => match jobWords j.run j.pos 8 s with
    | (.error e, s) => jobFault j.run e s
    | (.ok h, s) => decodeHead j.run h s
  rw [hw] at hread
  exact congrArg Host.Outcome.next hread

theorem blockDecode_badHead {s s2 : State} {j : Job} {h : List Nat} (hd : Decodes j s)
    (hr : Reads j.run j.pos 8 (setJob j.id Job.run (s.focusOn j.core j.ctx)))
    (hw : jobWords j.run j.pos 8 (setJob j.id Job.run (s.focusOn j.core j.ctx)) = (.ok h, s2)) (hbad : headOk h = false) :
    exec .blockDecode s = .next (jobFault j.run 3 s2) := by
  rw [exec_blockDecode hd hr hw]
  unfold decodeHead
  dsimp only
  rw [if_pos (by simp [hbad])]

/-- A block whose words are still to be written stays. -/
theorem blockDone_waits {s : State} {id : Nat} {j : Job} (h : s.dev.jobs.find? (fun j => j.id = id) = some j) (ho : j.out ≠ []) :
    blockDone id s = s := by
  unfold blockDone
  rw [h]
  exact if_pos ho

/-- The words of code and the words of tables that follow a block's header (R260). -/
def codeWords (h : List Nat) : Nat := (h.getD 1 0 + 31) / 32
def tableWords (h : List Nat) : Nat := if bit (h.getD 3 0) 4 then bits (h.getD 3 0) 31 16 * 2 ^ bhSW h / 2 else 0

/-- A good header of a table that the launch has: the block is read and decoded. -/
theorem decodeHead_well {s2 s3 : State} {j : Job} {h w : List Nat} {l : Launch} {tab : DTable} (hok : headOk h = true)
    (hslot : slotWaits j.inst.launch (bits (h.getD 3 0) 3 0) s2 = false) (hl : s2.launchAt j.inst.launch = some l)
    (ht : l.dtabs.find? (bits (h.getD 3 0) 3 0) = some tab) (hsw : tab.sw = bhSW h)
    (hr : Reads j (j.pos + 32) (codeWords h + tableWords h) s2)
    (hw : jobWords j (j.pos + 32) (codeWords h + tableWords h) s2 = (.ok w, s3)) :
    decodeHead j h s2 = decodeUpTo none j h tab (codeWords h) (tableWords h) w s3 := by
  unfold decodeHead
  dsimp only
  rw [if_neg (by simp [hok]), hslot, if_neg (by exact Bool.false_ne_true), hl, Option.bind_some, ht]
  dsimp only
  rw [if_neg (by simp [hsw])]
  have hread := readingJob_reads hr
    (fun i s => decodeUpTo (some (7, ((firstWords j (j.pos + 32) (codeWords h + tableWords h) s).take i).length)) j h tab
      (codeWords h) (tableWords h) ((firstWords j (j.pos + 32) (codeWords h + tableWords h) s).take i) s)
    fun s => match jobWords j (j.pos + 32) (codeWords h + tableWords h) s with
      | (.error e, s') => decodeUpTo (some (e, (firstWords j (j.pos + 32) (codeWords h + tableWords h) s).length)) j h tab
        (codeWords h) (tableWords h) (firstWords j (j.pos + 32) (codeWords h + tableWords h) s) s'
      | (.ok w, s) => decodeUpTo none j h tab (codeWords h) (tableWords h) w s
  rw [hw] at hread
  exact hread

/-- What a block that has been read leaves of its job. -/
theorem find?_decodeUpTo {s3 : State} {j x : Job} {h w : List Nat} {tab : DTable} {nc nt : Nat}
    {out : List (Nat × Nat × BitVec 32)} {sub nch ob : Nat}
    (hb : blockUpTo none j h tab (packElems 32 (w.take nc)) (w.drop nc) = (out, sub, nch, ob)) (ho : out ≠ [])
    (hx : (s3.dev.jobs.find? fun y => y.id = j.id) = some x) :
    ∃ y, ((decodeUpTo none j h tab nc nt w s3).dev.jobs.find? fun y => y.id = j.id) = some y
      ∧ y.out = out ∧ y.sub = sub ∧ y.tid = some (bits (h.getD 3 0) 3 0) := by
  have hset := find?_setJob (id := j.id) (g := Job.take (bits (h.getD 3 0) 3 0) (j.pos + 32 + 4 * (nc + nt)) ob nt out sub nch)
    (fun _ => rfl) s3
  rw [hx] at hset
  refine ⟨Job.take (bits (h.getD 3 0) 3 0) (j.pos + 32 + 4 * (nc + nt)) ob nt out sub nch x, ?_, rfl, rfl, rfl⟩
  unfold decodeUpTo
  rw [if_neg (by exact Bool.false_ne_true), hb]
  dsimp only
  rw [blockDone_waits hset ho]
  exact hset

end Sys2Proof.Machine
end

section
/-! A job's words (R263), a table's placement (R264), and O48. -/

namespace Sys2Proof.Machine

/-! ### A chunk's words are written (R263) -/

/-- A job's next word, at byte `a` of core `d`'s SRAM, may be written or tested now. -/
structure WritesWord (j : Job) (c off : Nat) (w : BitVec 32) (r : List (Nat × Nat × BitVec 32)) (d a : Nat) (s : State) : Prop where
  job : s.job? = some j
  state : j.st = .running ∨ j.st = .waiting
  out : j.out = (c, off, w) :: r
  go : j.mayGo s = true
  time : mayWrite j s = true
  turn : readsLeft j.ctx j.inst j.ord (s.focusOn j.core j.ctx) = false
  place : spPlace s j.core j.inst.launch j.dstH (BitVec.ofNat 64 off).toNat 4 = some (d, a)
  bank : bankFree true (d, lineOf a) s = true

namespace WritesWord

variable {j : Job} {c off d a : Nat} {w : BitVec 32} {r : List (Nat × Nat × BitVec 32)} {s : State}

/-- What CHUNK_WRITE does then: it tests the word, and writes it where it is EMPTY. -/
theorem exec_eq (h : WritesWord j c off w r d a s) : ∃ old g, exec .chunkWrite s = .next (
    if (s.coreAt d).full a then setJob j.id (fun j => { j with st := .waiting }) (takeBank true (d, lineOf a) s)
    else blockDone j.id (setJob j.id g (takeBank true (d, lineOf a)
      (spSetFull d a true (spoilPonds d a 4 (spWrite d a 4 w.toNat old)))))) := by
  refine ⟨{ keepOldFor j.inst j.ctx j.ord (s.focusOn j.core j.ctx) with foc := s.foc }, fun x => { x with
    st := .running
    free := max x.free (8 * (takeBank true (d, lineOf a) (spSetFull d a true (spoilPonds d a 4 (spWrite d a 4 w.toNat
      { keepOldFor j.inst j.ctx j.ord (s.focusOn j.core j.ctx) with foc := s.foc })))).dev.base) + 1
    out := r, mid := r.any fun y => y.1 = c, chunk := if r.any fun y => y.1 = c then x.chunk else c + 1 }, ?_⟩
  have hstate : (decide (j.st = .running) || decide (j.st = .waiting)) = true := by simpa using h.state
  change execChunkWrite s = _
  unfold execChunkWrite
  rw [h.job]
  dsimp only
  rw [if_neg (by simp [hstate, h.go, h.time, h.turn]), h.out]
  dsimp only
  rw [h.place]
  dsimp only
  rw [if_neg (by simp [h.bank])]
  split <;> rfl

theorem empty_written (h : WritesWord j c off w r d a s) (he : (s.coreAt d).full a = false) : Answers .chunkWrite s fun t =>
    (t.coreAt d).sp.read a 4 = w.toNat ∧ (t.coreAt d).full a = true := by
  obtain ⟨old, g, hexec⟩ := h.exec_eq
  rw [he, if_neg (by exact Bool.false_ne_true)] at hexec
  have hdone : ∀ u, SameSram u (blockDone j.id (setJob j.id g (takeBank true (d, lineOf a) u))) := fun u =>
    ((SameSram.takeBank u _ _).trans (SameSram.setJob _ _ _)).trans (SameSram.blockDone _ _)
  have hspoil : SameSram (spWrite d a 4 w.toNat old) (spoilPonds d a 4 (spWrite d a 4 w.toNat old)) := SameSram.spoilPonds _ _ _ _
  refine ⟨_, hexec, ?_, ?_⟩
  · rw [(hdone _).sp, sp_spSetFull, hspoil.sp, sp_read_spWrite]
    exact Nat.mod_eq_of_lt w.isLt
  · rw [(hdone _).full, full_spSetFull]

theorem full_waits (h : WritesWord j c off w r d a s) (hf : (s.coreAt d).full a = true) : Answers .chunkWrite s fun t =>
    t.job?.map (fun x => x.st) = some .waiting ∧ ∀ d, (t.coreAt d).sp = (s.coreAt d).sp := by
  obtain ⟨old, g, hexec⟩ := h.exec_eq
  rw [if_pos hf] at hexec
  have hjob : (takeBank true (d, lineOf a) s).job? = some j := (SameWork.takeBank s true _).job?.trans h.job
  refine ⟨_, hexec, ?_, (SameSram.takeBank s _ _).sp⟩
  rw [job?_setJob hjob (by exact fun _ => rfl)]
  rfl

end WritesWord

/-! ### A table is placed (R264) -/

/-- XDT_COMPLETE of a good image. -/
theorem exec_xdtComplete {s s2 s3 : State} {j : Job} {h w : List Nat} (hj : s.job? = some j) (hx : j.isXdt = true)
    (hl : j.live = true)
    (hidle : (s.dev.jobs.any fun x => decide (x.inst.launch = j.inst.launch) && decide (x.tid = some j.slot)) = false)
    (hr : Reads j 0 4 (s.focusOn j.core j.ctx)) (hw : jobWords j 0 4 (s.focusOn j.core j.ctx) = (.ok h, s2))
    (hok : tableHeadOk h = true) (hr2 : Reads j 16 (16 * bits (h.headD 0) 10 0) s2)
    (hw2 : jobWords j 16 (16 * bits (h.headD 0) 10 0) s2 = (.ok w, s3)) :
    exec .xdtComplete s = .next (tablePlace j (bits (h.headD 0) 13 11) (bits (h.headD 0) 10 0) w s3) := by
  have hhead := readingJob_reads hr (fun _ s => tableFault j 7 s) fun s => match jobWords j 0 4 s with
    | (.error e, s) => tableFault j e s
    | (.ok h, s) => tableRest j h s
  have hrest := readingJob_reads hr2 (fun _ s => tableFault j 7 s) fun s => match jobWords j 16 (16 * bits (h.headD 0) 10 0) s with
    | (.error e, s) => tableFault j e s
    | (.ok w, s) => tablePlace j (bits (h.headD 0) 13 11) (bits (h.headD 0) 10 0) w s
  rw [hw] at hhead
  rw [hw2] at hrest
  have htable : tableRest j h s2 = tablePlace j (bits (h.headD 0) 13 11) (bits (h.headD 0) 10 0) w s3 := by
    unfold tableRest
    dsimp only
    rw [if_neg (by simp [hok])]
    exact hrest
  change execXdtComplete s = _
  unfold execXdtComplete
  rw [hj]
  dsimp only
  rw [if_neg (by simp [hx, hl]), hidle, if_neg (by exact Bool.false_ne_true), ← htable]
  exact congrArg Host.Outcome.next hhead

/-- A job's table is in its slot, and the job has ended. -/
def tablePlaced (j : Job) (tab : DTable) (s : State) : State :=
  setJob j.id (fun j => { j with st := .done }) (setTable j.inst.launch j.slot (some tab) s)

theorem launchAt_tablePlaced (j : Job) (tab : DTable) {s : State} {l : Launch} (hl : s.launchAt j.inst.launch = some l) :
    (tablePlaced j tab s).launchAt j.inst.launch = some { l with dtabs := l.dtabs.set j.slot tab } := by
  change (setTable j.inst.launch j.slot (some tab) s).launchAt j.inst.launch = _
  unfold setTable
  rw [State.launchAt_modLaunch_self, hl]
  rfl

theorem coreAt_tablePlaced (j : Job) (tab : DTable) (s : State) (c : Nat) : (tablePlaced j tab s).coreAt c = s.coreAt c := by
  change (setTable j.inst.launch j.slot (some tab) s).coreAt c = _
  unfold setTable
  rw [State.coreAt_modLaunch]

theorem launchAt_missesLeave (u : Nat × Nat) (s : State) (l : Nat) : (missesLeave u s).launchAt l = s.launchAt l := rfl
theorem coreAt_missesLeave (u : Nat × Nat) (s : State) (c : Nat) : (missesLeave u s).coreAt c = s.coreAt c := rfl

/-- A good table is in its slot, and its tag is DONE. -/
theorem tablePlace_well {s : State} {j : Job} {sw n : Nat} {w : List Nat} {l : Launch} (hok : w.all (entryOk sw n) = true)
    (hl : s.launchAt j.inst.launch = some l) (ht : j.tag < 64) :
    (∃ m, (tablePlace j sw n w s).launchAt j.inst.launch = some m ∧ m.dtabs.find? j.slot = some { sw := sw, entries := w })
    ∧ ∀ k n', ((s.coreAt k).ctxAt n').inst = some j.inst → (((tablePlace j sw n w s).coreAt k).ctxAt n').a.tagDone.getLsbD j.tag = true := by
  have hplace : tablePlace j sw n w s = missesLeave (0, j.id) (tagComplete j.inst j.tag
      (tablePlaced j { sw := sw, entries := w } s)) := if_pos hok
  have htabs := (sameWork_tagComplete j.inst j.tag (tablePlaced j { sw := sw, entries := w } s)).tables j.inst.launch
  rw [launchAt_tablePlaced j _ hl, Option.map_some] at htabs
  obtain ⟨m, hm, hd⟩ := Option.map_eq_some_iff.1 htabs
  rw [hplace]
  refine ⟨⟨m, (launchAt_missesLeave _ _ _).trans hm, ?_⟩, fun k n' hi => ?_⟩
  · rw [hd, Map.find?_set_self]
  · rw [coreAt_missesLeave]
    refine tagDone_tagComplete ht ?_
    rw [coreAt_tablePlaced]
    exact hi

/-! ### The obligation -/

theorem bits_zero (x hi : Nat) : bits x hi 0 = x % 2 ^ (hi + 1) := by
  unfold bits
  rw [Nat.pow_zero, Nat.div_one, Nat.sub_zero]

theorem engineEvents_copies (s : State) (c : CopyCmd) (hc : s.core.copyq.find? (fun c => c.id = s.foc.id) = some c) :
    (∀ p q n x y, c.rows * c.cols = 1 → c.done = 0 → c.olds = [] → c.fs = c.fd → n = fmtSize c.fs → c.src.st ≠ .revoked →
      c.srcH < 3 → c.dstH < 3 → spPlace s s.foc.core c.inst.launch c.srcH (c.srcOff 0).toNat n = some (p, x) →
      spPlace s s.foc.core c.inst.launch c.dstH (c.dstOff 0).toNat n = some (q, y) → (p ≠ q ∨ x + n ≤ y ∨ y + n ≤ x) →
      badSp s p x n = false → pondSpace s p x n = none → pondSpace s q y n = none →
      readsLeft c.ctx c.inst c.ord s = false → (∀ b ∈ spBanks p x n ++ spBanks q y n, bankFree true b s = true) →
      Answers .copyChunk s fun t => (t.coreAt q).sp.read y n = (s.coreAt p).sp.read x n
        ∧ (∀ d z, d ≠ q ∨ z < y ∨ y + n ≤ z → (t.coreAt d).sp.byte z = (s.coreAt d).sp.byte z)
        ∧ (t.core.copyq.find? fun x => x.id = c.id).map (fun x => x.done) = some 1) := by
  rintro p q n x y hone hdone holds hfmt rfl hlive hsrcH hdstH hsrc hdst hapart hgood hdrySrc hdryDst hturn hbanks
  exact copyChunk_word hc ⟨hone, hdone, holds, hfmt, hlive, hsrcH, hdstH, hsrc, hdst, hapart, hgood, hdrySrc, hdryDst, hturn, hbanks⟩

/-- Settles O48: each event by its own lemma, from what a copy, a flush, a decoding step or a written word leaves as it is. -/
theorem engineEventsHold : Obligations.EngineEvents := by
  unfold Obligations.EngineEvents
  intro s
  refine ⟨fun c hc => ⟨engineEvents_copies s c hc, copyChunk_revoked hc, copyComplete_done hc⟩,
    fun c i hc hi => ⟨mflushComplete_more hc, mflushComplete_last hc hi⟩, fun j r h => jobDispatch_lane h, fun j hj => ?_⟩
  refine ⟨?_, ?_, jobComplete_done hj, jobSuspend_suspended hj, jobResumption_running hj, ?_⟩
  · intro h s2 hx hst hout hblk hlane hgo htime u hr hw
    have hd : Decodes j s := ⟨hj, hx, hst, hout, hblk, hlane, hgo, htime⟩
    refine ⟨blockDecode_badHead hd hr hw, ?_⟩
    intro l tab w s3 out sub nch ob id sw nc nt hok hslot hl ht hsw hr2 hw2 hb ho hfind
    have hid : bits (h.getD 3 0) 3 0 = id := bits_zero _ _
    have hwell := decodeHead_well (j := j.run) (tab := tab) hok (hid ▸ hslot) hl (hid ▸ ht) hsw hr2 hw2
    obtain ⟨x, hx, hxout, hxsub, hxtid⟩ := find?_decodeUpTo (nt := nt) hb ho hfind
    exact ⟨_, (exec_blockDecode hd hr hw).trans (congrArg _ hwell), x, hx, hxout, hxsub, hid ▸ hxtid⟩
  · intro c off w r d a hst hout hgo htime hturn hplace hbank
    have hw : WritesWord j c off w r d a s := ⟨hj, hst, hout, hgo, htime, hturn, hplace, hbank⟩
    exact ⟨hw.empty_written, hw.full_waits⟩
  · intro h w s2 s3 l hx hl hidle hr hw hok n sw hr2 hw2 hlaunch ht hall
    have hn : bits (h.headD 0) 10 0 = n := bits_zero _ _
    have hexec := exec_xdtComplete hj hx hl hidle hr hw hok (hn ▸ hr2) (hn ▸ hw2)
    rw [hn] at hexec
    exact ⟨_, hexec, tablePlace_well hall hlaunch ht⟩
end Sys2Proof.Machine
end

section
/-! What an access takes from the state that it starts in (R54, R94, R110, R125, R168, R332), and what leaves that as it is. -/

namespace Sys2Proof.Machine

/-! ### The terms of an access -/

/-- What a launch gives its accesses: its record, its function and its address space (R168, R332). -/
def Launch.terms (l : Launch) : LaunchRec × Nat × Nat := (l.rc, l.vf, l.asid)

/-- `t` gives an access of the context in focus all that `s` gives it: handles, regions and the terms of its launch. -/
structure SameTerms (s t : State) : Prop where
  foc : t.foc = s.foc
  base : t.dev.base = s.dev.base
  cyc : t.cyc = s.cyc
  inst : t.ctx.inst = s.ctx.inst
  check : t.ctx.a.check = s.ctx.a.check
  handles : t.ctx.a.h = s.ctx.a.h
  regions (c : Nat) : (t.coreAt c).regions = (s.coreAt c).regions
  launches (l : Nat) : (t.launchAt l).map Launch.terms = (s.launchAt l).map Launch.terms

namespace SameTerms

theorem refl (s : State) : SameTerms s s := ⟨rfl, rfl, rfl, rfl, rfl, rfl, fun _ => rfl, fun _ => rfl⟩

theorem trans {s t u : State} (h : SameTerms s t) (k : SameTerms t u) : SameTerms s u where
  foc := k.foc.trans h.foc
  base := k.base.trans h.base
  cyc := k.cyc.trans h.cyc
  inst := k.inst.trans h.inst
  check := k.check.trans h.check
  handles := k.handles.trans h.handles
  regions c := (k.regions c).trans (h.regions c)
  launches l := (k.launches l).trans (h.launches l)

theorem setUid (s : State) (n : Nat) : SameTerms s { s with uid := n } := ⟨rfl, rfl, rfl, rfl, rfl, rfl, fun _ => rfl, fun _ => rfl⟩

theorem modCtx {s : State} {g : Ctx → Ctx} (hi : (g s.ctx).inst = s.ctx.inst) (hc : (g s.ctx).a.check = s.ctx.a.check)
    (hh : (g s.ctx).a.h = s.ctx.a.h) : SameTerms s (s.modCtx g) where
  foc := rfl
  base := rfl
  cyc := State.cyc_modCtx s g
  inst := by rw [State.ctx_modCtx, hi]
  check := by rw [State.ctx_modCtx, hc]
  handles := by rw [State.ctx_modCtx, hh]
  regions c := by
    unfold State.modCtx State.modCtxAt
    by_cases h : c = s.foc.core
    · rw [h, State.coreAt_modCoreAt_self]
    · rw [State.coreAt_modCoreAt_ne _ _ _ _ h]
  launches _ := rfl

theorem modArch {s : State} {g : Arch → Arch} (hc : (g s.ctx.a).check = s.ctx.a.check) (hh : (g s.ctx.a).h = s.ctx.a.h) :
    SameTerms s (s.modArch g) := by
  unfold State.modArch
  exact modCtx rfl hc hh

theorem checkedState (i : Instr) (s : State) : SameTerms s (checkedState i s) := by
  unfold Machine.checkedState
  split
  · exact modCtx (by unfold Ctx.commit; split <;> rfl) (by rw [commit_a]) (by rw [commit_a])
  · exact refl s

theorem entered (s : State) (n : Nat) (due : Option Nat) : SameTerms s (s.entered n due) := by
  unfold State.entered
  exact (setUid s _).trans (modArch rfl rfl)

variable {s t : State}

theorem certain (h : SameTerms s t) (hs : Certain s) : Certain t := ⟨h.check.trans hs.1, by rw [h.foc]; exact hs.2⟩

theorem lid (h : SameTerms s t) : t.lid = s.lid := by
  unfold State.lid
  rw [h.inst]

theorem instHere (h : SameTerms s t) : t.instHere = s.instHere := by
  unfold State.instHere
  rw [h.inst]

theorem launch? (h : SameTerms s t) : t.launch?.map Launch.terms = s.launch?.map Launch.terms := by
  unfold State.launch? State.launchOf
  rw [h.inst]
  cases s.ctx.inst with
  | none => rfl
  | some i => exact h.launches i.launch

theorem vfid (h : SameTerms s t) : t.vfid = s.vfid := by
  have hv := congrArg (fun o => (o.map fun x => x.2.1).getD 0) h.launch?
  rw [Option.map_map, Option.map_map] at hv
  exact hv

theorem asid (h : SameTerms s t) : t.asid = s.asid := by
  have ha := congrArg (fun o => (o.map fun x => x.2.2).getD 0) h.launch?
  rw [Option.map_map, Option.map_map] at ha
  exact ha

/-- The version that accesses see, from what the launch gives them. -/
theorem verOf_eq (s : State) : verOf s = (s.launch?.map Launch.terms).bind fun x => if x.1.shadow then some s.lid else none := by
  unfold verOf
  cases s.launch? <;> rfl

theorem verOf (h : SameTerms s t) : verOf t = verOf s := by
  rw [verOf_eq, verOf_eq, h.launch?, h.lid]

theorem handleOf (h : SameTerms s t) (hs : s.ctx.a.check = true) (n : Nat) : handleOf t n = handleOf s n := by
  unfold Machine.handleOf rdH State.unsure
  rw [h.check, h.handles, hs]
  rfl

theorem spPlace (h : SameTerms s t) (core launch hn off n : Nat) : spPlace t core launch hn off n = spPlace s core launch hn off n := by
  unfold Machine.spPlace Core.region?
  dsimp only
  rw [h.regions]

theorem placeEl (h : SameTerms s t) (n : Nat) (p : Handle) (off size : Nat) : placeEl t n p off size = placeEl s n p off size := by
  unfold Machine.placeEl
  rw [h.spPlace, h.foc, h.lid]

theorem locOf (h : SameTerms s t) (hs : s.ctx.a.check = true) (n off size : Nat) : locOf t n off size = locOf s n off size := by
  unfold Machine.locOf
  rw [h.placeEl, h.handleOf hs]

theorem elemAt (h : SameTerms s t) (hs : s.ctx.a.check = true) (n size off pos data : Nat) :
    elemAt t n size off pos data = elemAt s n size off pos data := by
  unfold Machine.elemAt
  rw [h.locOf hs]

theorem accessCheck (h : SameTerms s t) (hs : s.ctx.a.check = true) (n : Nat) (need : Need) (base : Nat) (els : List AEl) :
    accessCheck t n need base els = accessCheck s n need base els := by
  unfold Machine.accessCheck
  simp only [h.handleOf hs, h.placeEl]

end SameTerms

/-! ### Accesses made -/

/-- The access number `id` that an operation whose results are certain makes in `s`. -/
def accessMade (id n : Nat) (path : Path) (kind : AccKind) (els : List Elem) (s : State) : Access :=
  { id := id, ctx := s.foc.ctx, ord := s.foc.ord, h := n, path := path, kind := kind, els := els, ca := (handleOf s n).ca
    key := (handleOf s n).key, launch := s.lid, shadow := (verOf s).isSome, vf := s.vfid, asid := s.asid, since := s.dev.base }

theorem newAccess_certain {s : State} (h : s.foc.bad = false) (n : Nat) (path : Path) (kind : AccKind) (els : List Elem) :
    newAccess n path kind els s = (accessMade s.uid n path kind els s, { s with uid := s.uid + 1 }) := by
  have hnew : s.newId.2.foc.bad = false := h
  unfold newAccess
  dsimp only
  simp only [hnew, Bool.false_eq_true, if_false]
  rfl

theorem SameTerms.accessMade {s t : State} (h : SameTerms s t) (hs : s.ctx.a.check = true) (id n : Nat) (path : Path) (kind : AccKind)
    (els : List Elem) : accessMade id n path kind els t = accessMade id n path kind els s := by
  unfold Machine.accessMade
  rw [h.foc, h.handleOf hs, h.lid, h.verOf, h.vfid, h.asid, h.base]

theorem loadAccess_eq (f : ASlot) (els : List Elem) (acq : Option Nat) (s : State) : loadAccess f els acq s =
    { accessMade (s.uid + 1) f.h.toNat (aPath f.h.toNat) .load els s with
      acq := acq, entry := some s.uid, due := (handleLat f.h.toNat).map (s.cyc + ·) } := rfl

/-- A load's access is the same from a state of the same terms and number. -/
theorem SameTerms.loadAccess {s t : State} (h : SameTerms s t) (hs : s.ctx.a.check = true) (hu : t.uid = s.uid) (f : ASlot)
    (els : List Elem) (acq : Option Nat) : loadAccess f els acq t = loadAccess f els acq s := by
  rw [loadAccess_eq, loadAccess_eq, h.accessMade hs, hu, h.cyc]

/-! ### Offsets -/

theorem offA_certain {s : State} (h : s.ctx.a.check = true) (f : ASlot) (size : Nat) : offA f size s = offsetOf f size s := by
  unfold offA offsetOf
  rw [rdS_certain h]
  rfl

/-- A word cut to the width of an access. -/
theorem truncate_toNat (x : Word) (w : BitVec 2) : (x.truncate (widthBits w)).toNat = x.toNat % 2 ^ widthBits w := BitVec.toNat_setWidth _ _

end Sys2Proof.Machine
end

section
/-! The loads (R110 to R115, R120, R130), and O14. -/

namespace Sys2Proof.Machine

/-! ### What loadOp answers -/

theorem loadOp_fault {i : Instr} {n base c : Nat} {info : Word} {check : List AEl} {s : State}
    (h : accessCheck s n .rd base check = some (c, info)) (els : List (Nat × Nat × Nat)) (acq : Option Nat) :
    loadOp i n base check els acq s = startFault i c info s := by
  unfold loadOp
  rw [h]

theorem loadOp_full {i : Instr} {n base : Nat} {check : List AEl} {s : State} (h : accessCheck s n .rd base check = none)
    (hq : 16 ≤ s.ctx.a.queue.length) (els : List (Nat × Nat × Nat)) (acq : Option Nat) :
    loadOp i n base check els acq s = startFault i 6 (opInfo i 0 0 0 s) s := by
  unfold loadOp
  rw [h]
  exact if_pos hq

/-- A load whose checks pass allocates its entry and starts its access (R110, R111). -/
theorem loadOp_starts {i : Instr} {f : ASlot} {base : Nat} {check : List AEl} {s : State} (hs : Certain s)
    (h : accessCheck s f.h.toNat .rd base check = none) (hq : s.ctx.a.queue.length < 16) (els : List (Nat × Nat × Nat))
    (acq : Option Nat) : loadOp i f.h.toNat base check els acq s =
      begin (loadAccess f (els.map fun e => elemAt s f.h.toNat e.2.1 e.1 e.2.2 0) acq s)
        (s.entered 2 ((handleLat f.h.toNat).map (s.cyc + ·))) := by
  have hsame := SameTerms.entered s 1 ((handleLat f.h.toNat).map (s.cyc + ·))
  unfold loadOp
  rw [h]
  dsimp only
  rw [if_neg (Nat.not_le.2 hq)]
  change begin { (newAccess _ _ _ _ (s.entered 1 _)).1 with acq := acq, entry := some s.uid, due := _ }
    (newAccess _ _ _ _ (s.entered 1 _)).2 = _
  rw [newAccess_certain (hsame.certain hs).2, hsame.accessMade hs.1, loadAccess_eq]
  have hels : (els.map fun e => ({ loc := locOf (s.entered 1 ((handleLat f.h.toNat).map (s.cyc + ·))) f.h.toNat e.1 e.2.1
                                   size := e.2.1, pos := e.2.2 } : Elem))
      = els.map fun e => elemAt s f.h.toNat e.2.1 e.1 e.2.2 0 :=
    List.map_congr_left fun e _ => hsame.elemAt hs.1 f.h.toNat e.2.1 e.1 e.2.2 0
  rw [← hels]
  rfl

/-- An operation whose effect is a load does what a load does. -/
theorem loads_of_loadOp {i : Instr} {f : ASlot} {eff : State → State} {bad : State → Bool} {base : State → Nat}
    {check : State → List AEl} {els : State → List (Nat × Nat × Nat)} {acq : Option Nat} (hc : closing i = false)
    (hx : ∀ s, exec i s = gated i (ownOf i s) eff s)
    (he : ∀ s, Certain s → bad s = false → eff s = loadOp i f.h.toNat (base s) (check s) (els s) acq s) :
    Loads i f bad base check els acq := by
  intro s hr hb
  rw [ready_engine_open (hx s) hr rfl hc, he s hr.2.2 hb]
  exact ⟨fun h hq => congrArg _ (loadOp_starts hr.2.2 h hq _ _), fun c info h => congrArg _ (loadOp_fault h _ _),
    fun h hq => congrArg _ (loadOp_full h hq _ _)⟩

/-! ### The statement of O14 -/

/-- Settles O14: the effect of each is `loadOp` on its elements, and `loadOp` faults by the first check that fails, faults on a
full queue, or starts the access of its elements into a new entry. -/
theorem loadInstructions : Obligations.LoadInstructions := by
  unfold Obligations.LoadInstructions
  intro f
  refine ⟨?ldq, ?ldacq, ?ldqv, ?ldqg, ?ldqs, ?tld⟩
  case ldq =>
    refine loads_of_loadOp rfl (fun _ => rfl) fun s hs _ => ?_
    dsimp only
    rw [offA_certain hs.1, oneEl]
  case ldacq =>
    refine loads_of_loadOp rfl (fun _ => rfl) fun s hs _ => ?_
    dsimp only
    rw [offA_certain hs.1, oneEl]
  case ldqv =>
    refine loads_of_loadOp rfl (fun _ => rfl) fun s hs _ => ?_
    dsimp only
    rw [offA_certain hs.1, oneEl]
  case ldqg =>
    refine loads_of_loadOp rfl (fun _ => rfl) fun s hs _ => ?_
    dsimp only
    rw [offA_certain hs.1, rdV_certain hs.1, manyEl, laneEls]
    rfl
  case ldqs =>
    refine loads_of_loadOp rfl (fun _ => rfl) fun s hs _ => ?_
    dsimp only
    rw [offA_certain hs.1, rdS_certain hs.1, manyEl, laneEls]
  case tld =>
    refine loads_of_loadOp rfl (fun _ => rfl) fun s _ hb => ?_
    rw [if_neg (by rw [hb]; exact Bool.false_ne_true)]

end Sys2Proof.Machine
end

section
/-! The elements of a shape record (R119 to R121), and O15. -/

namespace Sys2Proof.Machine

/-- Without a permutation an offset stays as it is (R121). -/
theorem permute_zero (a : Word) (c1 : Int) : permute a c1 0 = a := by
  have hb : (((bits a.toNat 8 7 : Nat) : Int) + (0 : Nat) * c1) % 4 = (bits a.toNat 8 7 : Nat) := by
    have : bits a.toNat 8 7 < 4 := Nat.mod_lt _ (by decide)
    omega
  have hle : bits a.toNat 8 7 * 128 ≤ a.toNat := by
    unfold bits
    omega
  apply BitVec.eq_of_toNat_eq
  unfold permute
  dsimp only
  rw [hb, BitVec.toNat_ofNat, Int.toNat_natCast, Nat.sub_add_cancel hle, Nat.mod_eq_of_lt a.isLt]

/-- The part of OFF that offsets the elements of a shape record (R120). -/
theorem sintOf_low (x : BitVec 26) : sintOf 23 x.toNat = (x.extractLsb' 0 23).toInt := by
  rw [← sintOf_toNat (by decide : 0 < 23)]
  unfold sintOf
  simp

/-- Coordinate `j` of the first lane of a TLD or TST (R120). -/
def tensorCoord (f : ASlot) (s : State) (j : Nat) : Int :=
  (if f.xs.toNat = 0 then 0 else (s.ctx.a.sReg (f.xs.toNat + j)).toInt) + (if j = 0 then s.foc.k * f.step.toInt else 0)

/-- The record that a TLD or TST names. -/
def tensorRecord (f : ASlot) (s : State) : Nat := (s.ctx.a.sh.get (f.off.toNat / 2 ^ 23 % 8) 0).toNat

/-- The dimensions of the record beyond the first. -/
def tensorOuter (f : ASlot) (s : State) : List Nat := (List.range (shRank (tensorRecord f s))).filter (1 ≤ ·)

/-- Lane n of a TLD or TST is in bounds at an offset, for a record without a permutation: its own coordinate is in the extent of
dimension 0, the outer ones in theirs, and the offset is BASE + OFF and the coordinates times their strides (R119, R120). -/
theorem mem_tensorEls {f : ASlot} {s : State} (hs : Certain s) (hp : shPerm (tensorRecord f s) = 0) (n : Nat) (off : Word) :
    (n, off) ∈ tensorEls f s ↔ n < 128 ∧ 0 ≤ tensorCoord f s 0 + n ∧ tensorCoord f s 0 + n ≤ shExt (tensorRecord f s) 0
      ∧ (∀ j ∈ tensorOuter f s, 0 ≤ tensorCoord f s j ∧ tensorCoord f s j ≤ shExt (tensorRecord f s) j)
      ∧ off = BitVec.ofInt 64 (shBase (tensorRecord f s) + (f.off.extractLsb' 0 23).toInt + fmtSize (shFmt (tensorRecord f s))
        * (tensorCoord f s 0 + n + ((tensorOuter f s).map fun j => tensorCoord f s j * shStr (tensorRecord f s) j).sum)) := by
  have hx : f.xs = 0 ↔ f.xs.toNat = 0 := ⟨fun h => by rw [h]; rfl, fun h => BitVec.eq_of_toNat_eq h⟩
  have hr : (rdSh s (f.off.toNat / 2 ^ 23 % 8)).toNat = tensorRecord f s := by rw [rdSh_certain hs.1]; rfl
  unfold tensorEls tensorCoord tensorOuter
  simp only [hr, hx, rdS_certain hs.1, hp, permute_zero, sintOf_low, List.mem_filterMap, List.mem_range,
    Option.ite_none_right_eq_some, Bool.and_eq_true, decide_eq_true_iff, List.all_eq_true, Option.some.injEq, Prod.mk.injEq]
  constructor
  · rintro ⟨i, hi, ⟨⟨hout, hlo⟩, hhi⟩, rfl, rfl⟩
    exact ⟨hi, hlo, hhi, hout, rfl⟩
  · rintro ⟨hi, hlo, hhi, hout, rfl⟩
    exact ⟨n, hi, ⟨⟨hout, hlo⟩, hhi⟩, rfl, rfl⟩

/-- Settles O15: a record of rank 1 has no outer coordinate, one of rank 2 has c(1) with its extent and stride. -/
theorem tensorElements : Obligations.TensorElements := by
  unfold Obligations.TensorElements
  intro f s hs r c base size ext hp
  have hrec : tensorRecord f s = r := rfl
  refine ⟨fun hrank n off => ?_, fun hrank n off => ?_⟩
  · have houter : tensorOuter f s = [] := by
      unfold tensorOuter
      rw [show shRank (tensorRecord f s) = 1 from hrank]
      decide
    rw [mem_tensorEls hs hp, houter]
    simp [hrec, base, size, ext, c, tensorCoord, shBase, shExt, shFmt, bits]
  · have houter : tensorOuter f s = [1] := by
      unfold tensorOuter
      rw [show shRank (tensorRecord f s) = 2 from hrank]
      decide
    rw [mem_tensorEls hs hp, houter]
    simp [hrec, base, size, ext, c, tensorCoord, shBase, shExt, shStr, shFmt, bits, and_assoc]

end Sys2Proof.Machine
end

section
/-! The stores (R110, R113 to R115, R120, R371), STREL (R130, R149, R363), and O16 and O17. -/

namespace Sys2Proof.Machine

/-! ### What passing the caches leaves (R99, R102) -/

/-- The device `e` has the clock and the launches of `d`. -/
structure SameLaunches (d e : Dev) : Prop where
  base : e.base = d.base
  launches : e.launches = d.launches

namespace SameLaunches
variable {d e : Dev}

theorem refl (d : Dev) : SameLaunches d d := ⟨rfl, rfl⟩

theorem same (h : SameLaunches d e) {e' : Dev} (hb : e'.base = e.base := by rfl) (hl : e'.launches = e.launches := by rfl) :
    SameLaunches d e' := ⟨hb.trans h.base, hl.trans h.launches⟩

theorem ite (h : SameLaunches d e) {e' : Dev} (h' : SameLaunches d e') {p : Prop} {_ : Decidable p} :
    SameLaunches d (if p then e else e') := by
  split
  · exact h
  · exact h'

theorem foldl (h : SameLaunches d e) {α : Type} {g : Dev → α → Dev} {l : List α}
    (hg : ∀ e x, SameLaunches d e → SameLaunches d (g e x)) : SameLaunches d (l.foldl g e) := by
  induction l generalizing e with
  | nil => exact h
  | cons x r ih => exact ih (hg e x h)

theorem hbmTake (h : SameLaunches d e) (c : CLine) : SameLaunches d (hbmTake c e) := h.foldl fun e i h => by
  split
  · exact h
  · exact h.same

theorem mereFlush (h : SameLaunches d e) (pa vf : Nat) : SameLaunches d (mereFlush pa vf e) := by
  unfold Machine.mereFlush
  split
  · exact h
  · exact h.ite (h.hbmTake _).same

theorem mereRoom (h : SameLaunches d e) (pa vf : Nat) : SameLaunches d (mereRoom pa vf e) := by
  refine h.ite ?_
  split
  · exact h
  · exact (h.mereFlush _ _).same

theorem mereLookup (h : SameLaunches d e) (pa key vf : Nat) (w : Bool) : SameLaunches d (mereLookup pa key vf w e) := by
  have hcount : SameLaunches d (countMere pa vf ((if w then 2 else 0) + (if
      (match findLine e.mere pa with | some c => decide (c.key = key) | none => false) then 0 else 1)) e) := h.same
  exact hcount.ite (same (((hcount.mereFlush pa vf).same : SameLaunches d (mereDrop pa _)).mereRoom pa vf))

theorem l2Flush (h : SameLaunches d e) (pa vf : Nat) : SameLaunches d (l2Flush pa vf e) := by
  unfold Machine.l2Flush
  split
  · exact h
  · exact h.ite (h.mereLookup _ _ _ _).same

theorem l2Room (h : SameLaunches d e) (pa vf : Nat) : SameLaunches d (l2Room pa vf e) := by
  refine h.ite ?_
  split
  · exact h
  · exact (h.l2Flush _ _).same

theorem l2Touch (h : SameLaunches d e) (pa key vf : Nat) : SameLaunches d (l2Touch pa key vf e) :=
  h.ite (same ((((h.l2Flush pa vf).same : SameLaunches d (l2Drop pa _)).l2Room pa vf).mereLookup pa key vf false))

theorem touchAll (h : SameLaunches d e) (pa n key vf : Nat) : SameLaunches d (touchAll pa n key vf e) :=
  h.ite (h.foldl fun _ _ h => h.l2Touch _ _ _)

end SameLaunches

/-! ### What making versions changes (R371) -/

/-- `t` is `s` but for what the making of versions changes: the memories of the device, the versions of launches, and which contexts
have been woken. -/
structure OnlyVersions (s t : State) : Prop where
  foc : t.foc = s.foc
  uid : t.uid = s.uid
  base : t.dev.base = s.dev.base
  core (c : Nat) : ∃ l, t.coreAt c = { s.coreAt c with ctxs := l }
  ctx (c n : Nat) : ∃ b, (t.coreAt c).ctxAt n = { (s.coreAt c).ctxAt n with woken := b }
  launches (l : Nat) : (t.launchAt l).map Launch.terms = (s.launchAt l).map Launch.terms

namespace OnlyVersions

theorem refl (s : State) : OnlyVersions s s := ⟨rfl, rfl, rfl, fun _ => ⟨_, rfl⟩, fun _ _ => ⟨_, rfl⟩, fun _ => rfl⟩

theorem trans {s t u : State} (h : OnlyVersions s t) (k : OnlyVersions t u) : OnlyVersions s u where
  foc := k.foc.trans h.foc
  uid := k.uid.trans h.uid
  base := k.base.trans h.base
  core c := by
    obtain ⟨l, hl⟩ := h.core c
    obtain ⟨m, hm⟩ := k.core c
    exact ⟨m, by rw [hm, hl]⟩
  ctx c n := by
    obtain ⟨b, hb⟩ := h.ctx c n
    obtain ⟨d, hd⟩ := k.ctx c n
    exact ⟨d, by rw [hd, hb]⟩
  launches l := (k.launches l).trans (h.launches l)

theorem foldl {α : Type} {step : State → α → State} (h : ∀ s a, OnlyVersions s (step s a)) (l : List α) :
    ∀ s, OnlyVersions s (l.foldl step s) := by
  induction l with
  | nil => exact refl
  | cons a r ih => exact fun s => (h s a).trans (ih _)

theorem modDev (s : State) {g : Dev → Dev} (hg : SameLaunches s.dev (g s.dev)) : OnlyVersions s (s.modDev g) :=
  ⟨rfl, rfl, hg.base, fun _ => ⟨_, rfl⟩, fun _ _ => ⟨_, rfl⟩, fun l => by
    unfold State.launchAt
    rw [State.dev_modDev_eq, hg.launches]⟩

theorem wake (s : State) (p : WaitOn → Bool) : OnlyVersions s (wake p s) :=
  ⟨rfl, rfl, rfl, coreAt_wake p s, ctxAt_wake p s, fun _ => rfl⟩

theorem modLaunch (s : State) (n : Nat) {g : Launch → Launch} (hg : ∀ l, (g l).terms = l.terms) :
    OnlyVersions s (s.modLaunch n g) where
  foc := State.foc_modLaunch s n g
  uid := by unfold State.modLaunch; split <;> rfl
  base := by unfold State.modLaunch; split <;> rfl
  core c := ⟨_, by rw [State.coreAt_modLaunch]⟩
  ctx c n := ⟨_, by rw [State.coreAt_modLaunch]⟩
  launches l := launchAt_modLaunch_map s n l hg

/-- The version of a unit written: it comes from the pool where there is none (R371), and passes the caches. -/
theorem lowWrite (s : State) {l pa : Nat} (n v key vf : Nat) (hpa : inHBM pa = true) :
    OnlyVersions s (lowWrite (some l) pa n v key vf s) := by
  unfold Machine.lowWrite
  dsimp only
  rw [if_pos hpa]
  have hpool : OnlyVersions s (if (versionOf s (some l) pa).isSome then s else
      s.modDev fun d => { d with pool := d.pool.set vf (s.poolOf vf - 1) }) := by
    split
    · exact refl s
    · exact modDev s ⟨rfl, rfl⟩
  exact ((hpool.trans (modLaunch _ _ (by exact fun _ => rfl))).trans (modDev _ ((SameLaunches.refl _).touchAll _ _ _ _))).trans
    (wake _ _)

theorem makeVersions (s : State) (n : Nat) (els : List AEl) : OnlyVersions s (makeVersions n els s) := by
  unfold Machine.makeVersions
  dsimp only
  split
  · exact refl s
  · refine foldl (fun s e => foldl (fun s x => ?_) _ s) _ s
    cases hv : verOf s with
    | none => exact refl s
    | some l =>
      dsimp only
      split
      next hpa => exact lowWrite s 0 0 _ _ hpa
      next => exact refl s

variable {s t : State}

theorem sameTerms (h : OnlyVersions s t) : SameTerms s t where
  foc := h.foc
  base := h.base
  cyc := by
    obtain ⟨l, hl⟩ := h.core s.foc.core
    unfold State.cyc State.core
    rw [h.foc, hl]
  inst := by
    obtain ⟨b, hb⟩ := h.ctx s.foc.core s.foc.ctx
    unfold State.ctx State.core
    rw [h.foc, hb]
  check := by
    obtain ⟨b, hb⟩ := h.ctx s.foc.core s.foc.ctx
    unfold State.ctx State.core
    rw [h.foc, hb]
  handles := by
    obtain ⟨b, hb⟩ := h.ctx s.foc.core s.foc.ctx
    unfold State.ctx State.core
    rw [h.foc, hb]
  regions c := by
    obtain ⟨l, hl⟩ := h.core c
    rw [hl]
  launches := h.launches

theorem seg (h : OnlyVersions s t) : t.ctx.seg = s.ctx.seg := by
  obtain ⟨b, hb⟩ := h.ctx s.foc.core s.foc.ctx
  unfold State.ctx State.core
  rw [h.foc, hb]

theorem heldFull (h : OnlyVersions s t) : heldFull t = heldFull s := by
  unfold Machine.heldFull
  rw [h.seg]

theorem journalFull (h : OnlyVersions s t) (spill : Bool) (l : List Nat) : journalFull spill l t = journalFull spill l s := by
  unfold Machine.journalFull
  rw [h.seg]

end OnlyVersions

/-! ### What storeOp answers -/

theorem storeOp_fault {i : Instr} {n base c : Nat} {info : Word} {check : List AEl} {s : State}
    (h : accessCheck s n .wr base check = some (c, info)) (els : List (Nat × Nat × Nat)) :
    storeOp i n base check els s = startFault i c info s := by
  unfold storeOp
  rw [h]

/-- The elements of a store as the checks see them (R110, R371). -/
def writtenEls (els : List (Nat × Nat × Nat)) : List AEl := els.map fun e => { off := e.1, size := e.2.1, align := 1 }

/-- The elements of a store placed, each with its value. -/
def storedEls (n : Nat) (els : List (Nat × Nat × Nat)) (s : State) : List Elem := els.map fun e => elemAt s n e.2.1 e.1 0 e.2.2

theorem SameTerms.storedEls {s t : State} (h : SameTerms s t) (hs : s.ctx.a.check = true) (n : Nat) (els : List (Nat × Nat × Nat)) :
    storedEls n els t = storedEls n els s := List.map_congr_left fun _ _ => h.elemAt hs _ _ _ _ _

/-- The access that a store makes once the versions that it writes are made. -/
theorem newAccess_makeVersions {s : State} (hs : Certain s) (n k : Nat) (path : Path) (kind : AccKind) (written : List AEl)
    (els : List Elem) : newAccess n path kind els (makeVersions k written s) =
      (accessMade s.uid n path kind els s, { makeVersions k written s with uid := s.uid + 1 }) := by
  have hv := OnlyVersions.makeVersions s k written
  rw [newAccess_certain (hv.sameTerms.certain hs).2, hv.sameTerms.accessMade hs.1, hv.uid]

/-- A store whose checks pass, with room for what it journals or holds, makes its versions and its access (R110, R363, R371). -/
theorem storeOp_starts {i : Instr} {f : ASlot} {base : Nat} {check : List AEl} {els : List (Nat × Nat × Nat)} {s : State}
    (hs : Certain s) (h : accessCheck s f.h.toNat .wr base check = none) (hv : shadowFault s f.h.toNat (writtenEls els) = none)
    (hj : f.h.toNat = 0 → journalFull false (spLines (storedEls f.h.toNat els s)) s = none)
    (hh : f.h.toNat ≠ 0 → heldFull s = false) : storeOp i f.h.toNat base check els s =
      storing (storeSlots i els) f.h.toNat (writtenEls els) (storeAccess f (storedEls f.h.toNat els s) s) s := by
  have hm := OnlyVersions.makeVersions s f.h.toNat (writtenEls els)
  have hw : (els.map fun e => ({ off := e.1, size := e.2.1, align := 1 } : AEl)) = writtenEls els := rfl
  have hels : (els.map fun e => ({ loc := locOf (makeVersions f.h.toNat (writtenEls els) s) f.h.toNat e.1 e.2.1
                                   size := e.2.1, data := e.2.2 } : Elem)) = storedEls f.h.toNat els s :=
    hm.sameTerms.storedEls hs.1 f.h.toNat els
  unfold storeOp
  rw [h]
  dsimp only
  rw [hw, hv]
  dsimp only
  rw [newAccess_makeVersions hs, hels]
  unfold storing
  dsimp only
  by_cases hn : f.h.toNat = 0
  · rw [if_pos hn, if_pos hn]
    split
    next used hused => exact nomatch (hused.symm.trans (hm.journalFull false _)).trans (hj hn)
    next => rfl
  · rw [if_neg hn, if_neg hn]
    split
    next hfull => exact nomatch (hfull.symm.trans hm.heldFull).trans (hh hn)
    next => rfl

/-- An operation whose effect is a store does what a store does, with the slots of `storeSlots`. -/
theorem exec_store {i : Instr} {f : ASlot} {eff : State → State} {base : Nat} {check : List AEl} {els : List (Nat × Nat × Nat)}
    {s : State} (hc : closing i = false) (hx : exec i s = gated i (ownOf i s) eff s) (hr : Ready i s)
    (he : eff s = storeOp i f.h.toNat base check els s) :
    (accessCheck s f.h.toNat .wr base check = none → shadowFault s f.h.toNat (writtenEls els) = none →
      (f.h.toNat = 0 → journalFull false (spLines (storedEls f.h.toNat els s)) s = none) → (f.h.toNat ≠ 0 → heldFull s = false) →
      exec i s = .next (storing (storeSlots i els) f.h.toNat (writtenEls els) (storeAccess f (storedEls f.h.toNat els s) s) s))
    ∧ (∀ c info, accessCheck s f.h.toNat .wr base check = some (c, info) → exec i s = .next (startFault i c info s)) := by
  rw [ready_engine_open hx hr rfl hc, he]
  exact ⟨fun h hv hj hh => congrArg _ (storeOp_starts hr.2.2 h hv hj hh), fun c info h => congrArg _ (storeOp_fault h _)⟩

/-! ### The statement of O16 -/

/-- The lanes that a predicate names, each with what it stores. -/
theorem filterMap_range_pred (p : Pred) (g : Nat → Nat × Nat × Nat) :
    ((List.range 128).filterMap fun n => if p.getLsbD n then some (g n) else none)
      = ((List.range 128).filter fun n => p.getLsbD n).map g := by
  rw [← List.filterMap_eq_map, List.filterMap_filter]
  rfl

/-- Settles O16: the effect of each is `storeOp` on its elements, and `storeOp` faults by the first check that fails, or makes its
versions and its access. -/
theorem storeInstructions : Obligations.StoreInstructions := by
  unfold Obligations.StoreInstructions
  intro f
  refine ⟨?sts, ?stv, ?stvp, ?stg, ?tst⟩
  case sts =>
    refine fun s hr _ => exec_store rfl rfl hr ?_
    have hs := hr.2.2.1
    dsimp only
    rw [offA_certain hs, rdS_certain hs, oneEl, truncate_toNat]
  case stv =>
    refine fun s hr _ => exec_store rfl rfl hr ?_
    have hs := hr.2.2.1
    dsimp only
    rw [offA_certain hs, rdV_certain hs, oneEl]
  case stvp =>
    refine fun s hr _ => exec_store rfl rfl hr ?_
    have hs := hr.2.2.1
    dsimp only
    rw [if_neg (by rw [hr.2.2.2]; exact Bool.false_ne_true), rdP_certain hs, rdV_certain hs, oneEl, filterMap_range_pred]
    rfl
  case stg =>
    refine fun s hr _ => exec_store rfl rfl hr ?_
    have hs := hr.2.2.1
    dsimp only
    rw [offA_certain hs, rdV_certain hs, rdV_certain hs, manyEl]
    rfl
  case tst =>
    refine fun s hr hb => exec_store rfl rfl hr ?_
    dsimp only
    rw [if_neg (by rw [hb]; exact Bool.false_ne_true), rdV_certain hr.2.2.1]

/-! ### The statement of O17 -/

/-- Settles O17: past its checks, STREL makes its versions and an access that is a release, which an open segment holds. -/
theorem releasingStore : Obligations.ReleasingStore := by
  unfold Obligations.ReleasingStore
  intro f s hr size off el x t
  have hs := hr.2.2
  have hm := OnlyVersions.makeVersions s f.h.toNat el
  rw [ready_engine_open (own := .go) rfl hr rfl rfl]
  dsimp only
  rw [offA_certain hs.1, rdS_certain hs.1, ← truncate_toNat]
  have hel : oneEl (offsetOf f (sizeW f) s) (sizeW f) (sizeW f) = el := rfl
  rw [hel]
  refine ⟨fun hc hv hh => ?_, fun c info hc => ?_⟩
  · rw [hc]
    dsimp only
    rw [hv]
    dsimp only
    rw [if_neg (by rw [hh]; exact Bool.false_ne_true), newAccess_makeVersions hs]
    have hseg : t.ctx.seg = s.ctx.seg := hm.seg
    rw [← hseg]
    rfl
  · rw [hc]

end Sys2Proof.Machine
end

section
/-! The full/empty operations (R91, R117, R118), and O19. -/

namespace Sys2Proof.Machine

/-! ### What closing the segment and taking a bank leave -/

@[simp] theorem dev_checkedState (i : Instr) (s : State) : (checkedState i s).dev = s.dev := by
  unfold checkedState
  split <;> rfl

@[simp] theorem uid_checkedState (i : Instr) (s : State) : (checkedState i s).uid = s.uid := by
  unfold checkedState
  split <;> rfl

theorem SameSram.modCtx (s : State) (g : Ctx → Ctx) : SameSram s (s.modCtx g) := by
  unfold State.modCtx State.modCtxAt
  exact SameSram.modCoreAt s _ (by exact fun _ => rfl) (by exact fun _ => rfl) (by exact fun _ => rfl)

theorem SameSram.checkedState (i : Instr) (s : State) : SameSram s (checkedState i s) := by
  unfold Machine.checkedState
  split
  · exact SameSram.modCtx s _
  · exact SameSram.of_cores rfl

/-- No segment is open in the checked state where none was. -/
theorem seg_checkedState {i : Instr} {s : State} (h : s.ctx.seg = none) : (checkedState i s).ctx.seg = none := by
  unfold checkedState
  split
  · rw [State.ctx_modCtx]
    unfold Ctx.commit
    rw [h]
  · exact h

theorem offsetOf_of_arch {s t : State} (ha : t.ctx.a = s.ctx.a) (hf : t.foc = s.foc) (f : ASlot) (size : Nat) :
    offsetOf f size t = offsetOf f size s := by
  unfold offsetOf
  rw [ha, hf]

/-- The state in which the bank of a full/empty operation's word serves it. -/
def atBank (i : Instr) (c a : Nat) (s : State) : State := takeBank false (c, lineOf a) (checkedState i s)

theorem ctx_atBank (i : Instr) (c a : Nat) (s : State) : (atBank i c a s).ctx = (checkedState i s).ctx :=
  State.ctx_modCoreAt_of_ctxs _ _ (by exact fun _ => rfl)

@[simp] theorem arch_atBank (i : Instr) (c a : Nat) (s : State) : (atBank i c a s).ctx.a = s.ctx.a := by
  rw [ctx_atBank, checkedState_a]

@[simp] theorem foc_atBank (i : Instr) (c a : Nat) (s : State) : (atBank i c a s).foc = s.foc := checkedState_foc i s

@[simp] theorem dev_atBank (i : Instr) (c a : Nat) (s : State) : (atBank i c a s).dev = s.dev := dev_checkedState i s

@[simp] theorem uid_atBank (i : Instr) (c a : Nat) (s : State) : (atBank i c a s).uid = s.uid := uid_checkedState i s

theorem sameSram_atBank (i : Instr) (c a : Nat) (s : State) : SameSram s (atBank i c a s) :=
  (SameSram.checkedState i s).trans (SameSram.takeBank _ _ _)

@[simp] theorem cyc_atBank (i : Instr) (c a : Nat) (s : State) : (atBank i c a s).cyc = s.cyc := by
  have hcyc : (atBank i c a s).cyc = (checkedState i s).cyc := by
    unfold State.cyc State.core atBank takeBank
    by_cases h : (checkedState i s).foc.core = c
    · rw [State.foc_modCoreAt, h, State.coreAt_modCoreAt_self]
      rfl
    · rw [State.foc_modCoreAt, State.coreAt_modCoreAt_ne _ _ _ _ h]
  rw [hcyc, (SameTerms.checkedState i s).cyc]

@[simp] theorem badSp_atBank (i : Instr) (c a : Nat) (s : State) (d b n : Nat) : badSp (atBank i c a s) d b n = badSp s d b n := by
  unfold badSp
  rw [dev_atBank]

/-! ### The effect of a full/empty operation -/

/-- An access of one element that passes its checks is aligned (R110). -/
theorem aligned_of_accessCheck {s : State} {n base : Nat} {need : Need} {off : Word} {size align : Nat}
    (h : accessCheck s n need base (oneEl off size align) = none) : off.toNat % align = 0 := by
  by_contra hne
  unfold accessCheck at h
  dsimp only at h
  split at h
  · exact nomatch h
  · split at h
    · exact nomatch h
    · simp [oneEl, hne] at h

/-- The checks of a full/empty operation pass on the word at `a` of core `c`, which lies in no pond. -/
structure FeServed (f : ASlot) (need : Need) (c a : Nat) (s : State) : Prop where
  certain : Certain s
  passes : accessCheck s f.h.toNat need (offsetOf f 4 s).toNat (oneEl (offsetOf f 4 s) 4 4) = none
  place : spPlace s s.foc.core s.lid f.h.toNat (offsetOf f 4 s).toNat 4 = some (c, a)
  dry : pondSpace s c a 4 = none

/-- Past its checks, a full/empty operation acts at the word's bank (R90, R118). -/
theorem feOp_serves {i : Instr} {f : ASlot} {need : Need} {s : State} {c a : Nat} (h : FeServed f need c a s)
    (g : Nat → Nat → State → State) : feOp i f need g (checkedState i s) = g c a (atBank i c a s) := by
  obtain ⟨hs, hc, hp, hd⟩ := h
  have ht := SameTerms.checkedState i s
  have hoff : offA f 4 (checkedState i s) = offsetOf f 4 s := by
    rw [offA_certain (ht.certain hs).1, offsetOf_of_arch (checkedState_a i s) ht.foc]
  have hword : feWord f (checkedState i s) = some (c, a) := by
    unfold feWord
    dsimp only
    rw [hoff, if_neg (not_not.2 (aligned_of_accessCheck hc)), ht.spPlace, ht.foc, ht.lid, hp]
  have hdry : pondSpace (atBank i c a s) c a 4 = none := by rw [(sameSram_atBank i c a s).pondSpace (dev_atBank i c a s), hd]
  unfold feOp
  dsimp only
  rw [hoff, ht.accessCheck hs.1, hc]
  dsimp only
  rw [hword]
  exact congrArg (g c a) (spoilPonds_dry hdry)

theorem foc_fillEntry (ctx : Nat) (entry : Option Nat) (data : Nat) (poison : Option (Nat × Nat)) (s : State) :
    (fillEntry ctx entry data poison s).foc = s.foc := by
  unfold fillEntry
  split
  · rfl
  · dsimp only
    split <;> rfl

/-- A word delivered to a new entry (R118). -/
theorem feFill_fills {i : Instr} {f : ASlot} {s : State} (hq : s.ctx.a.queue.length < 16) (c a data : Nat) :
    feFill i f c a data s = fillEntry s.foc.ctx (some s.uid) data (if badSp s c a 4 then some (2, lineOf a) else none)
      (s.entered 1 ((handleLat f.h.toNat).map (s.cyc + ·))) := by
  unfold feFill
  rw [if_neg (Nat.not_le.2 hq)]
  rfl

theorem setWord_certain {s : State} (h : s.foc.bad = false) (c a : Nat) (full : Bool) : setWord c a full s = spSetFull c a full s := by
  unfold setWord
  rw [h]
  rfl

/-- The state of a word after it is set, and of every other (R91). -/
theorem full_spSetFull_iff (c a : Nat) (b : Bool) (s : State) (x : Nat) :
    ((spSetFull c a b s).coreAt c).full x = if x / 4 = a / 4 then b else (s.coreAt c).full x := by
  unfold spSetFull wakeWords
  rw [full_wake, State.coreAt_modCoreAt_self]
  unfold Core.full Core.setFull
  cases b <;> by_cases h : x / 4 = a / 4 <;> simp [h]

/-! ### The five operations served (R118) -/

section
variable {f : ASlot} {s : State} {c a : Nat}

theorem dry_atBank (i : Instr) (hd : pondSpace s c a 4 = none) : pondSpace (atBank i c a s) c a 4 = none := by
  rw [(sameSram_atBank i c a s).pondSpace (dev_atBank i c a s), hd]

theorem exec_ldf (hr : Ready (.ldf f) s) (h : FeServed f .rd c a s) (hq : s.ctx.a.queue.length < 16) :
    let t := fillEntry s.foc.ctx (some s.uid) ((s.coreAt c).sp.read a 4) (if badSp s c a 4 then some (2, lineOf a) else none)
      ((atBank (.ldf f) c a s).entered 1 ((handleLat f.h.toNat).map (s.cyc + ·)))
    exec (.ldf f) s = .next (if f.dr.getLsbD 0 then spSetFull c a false t else t) := by
  obtain ⟨ha, hstart, hs⟩ := hr
  have hq' : (atBank (.ldf f) c a s).ctx.a.queue.length < 16 := by rw [arch_atBank]; exact hq
  rw [accepted_engine rfl ha hstart rfl, feOp_serves h]
  dsimp only
  rw [spTake_dry (dry_atBank (.ldf f) h.dry), (sameSram_atBank (.ldf f) c a s).sp]
  dsimp only
  rw [if_neg (Nat.not_le.2 hq'), feFill_fills hq', badSp_atBank, uid_atBank, cyc_atBank, foc_atBank, setWord_certain]
  rw [foc_fillEntry]
  exact (congrArg Focus.bad (foc_atBank (.ldf f) c a s)).trans hs.2

theorem exec_tstf (hr : Ready (.tstf f) s) (h : FeServed f .rd c a s) (hq : s.ctx.a.queue.length < 16) :
    exec (.tstf f) s = .next (fillEntry s.foc.ctx (some s.uid)
      ((s.coreAt c).sp.read a 4 + if (s.coreAt c).full a then 2 ^ 64 else 0) (if badSp s c a 4 then some (2, lineOf a) else none)
      ((atBank (.tstf f) c a s).entered 1 ((handleLat f.h.toNat).map (s.cyc + ·)))) := by
  obtain ⟨ha, hstart, hs⟩ := hr
  have hdry := dry_atBank (.tstf f) h.dry
  have hq' : (atBank (.tstf f) c a s).ctx.a.queue.length < 16 := by rw [arch_atBank]; exact hq
  have hfull : fullAtBank c a (atBank (.tstf f) c a s) = (s.coreAt c).full a := by
    unfold fullAtBank
    rw [hdry]
    exact (sameSram_atBank (.tstf f) c a s).full c a
  rw [accepted_engine rfl ha hstart rfl, feOp_serves h]
  dsimp only
  rw [spTake_dry hdry, (sameSram_atBank (.tstf f) c a s).sp, hfull]
  dsimp only
  rw [feFill_fills hq', badSp_atBank, uid_atBank, cyc_atBank, foc_atBank]
  cases (s.coreAt c).full a <;> rfl

theorem exec_ste (hr : Ready (.ste f) s) (h : FeServed f .wr c a s) : exec (.ste f) s = .next (spSetFull c a true
    (spWrite c a 4 ((s.ctx.a.sReg f.dr.toNat).truncate 32 : BitVec 32).toNat
      (keepOld s.foc.ctx s.foc.ord (atBank (.ste f) c a s)))) := by
  obtain ⟨ha, hstart, hs⟩ := hr
  have hcheck : (atBank (.ste f) c a s).ctx.a.check = true := by rw [arch_atBank]; exact hs.1
  have hkeep : ∀ x y t, (keepOld x y t).foc = t.foc := fun x y t => by
    unfold keepOld
    split <;> rfl
  rw [accepted_engine rfl ha hstart rfl, feOp_serves h]
  rw [rdS_certain hcheck, arch_atBank, foc_atBank, setWord_certain, BitVec.truncate_eq_setWidth, BitVec.toNat_setWidth]
  change (keepOld _ _ _).foc.bad = false
  rw [hkeep, foc_atBank]
  exact hs.2

/-- SETF and SETE, where no segment is open (R118). -/
theorem setState_serves {i : Instr} (h : FeServed f .wr c a s) (hseg : s.ctx.seg = none) (full : Bool) :
    setState i f full (checkedState i s) = spSetFull c a full (atBank i c a s) := by
  have hopen : (atBank i c a s).ctx.seg = none := by rw [ctx_atBank]; exact seg_checkedState hseg
  have hfull : journalFull false [lineOf a] (atBank i c a s) = none := by
    unfold journalFull
    rw [hopen]
    rfl
  have hjournal : journal false [lineOf a] (atBank i c a s) = atBank i c a s := by
    unfold journal
    rw [hopen]
  have hset : setWord c a full (atBank i c a s) = spSetFull c a full (atBank i c a s) :=
    setWord_certain ((congrArg Focus.bad (foc_atBank i c a s)).trans h.certain.2) c a full
  unfold setState
  rw [feOp_serves h, hfull, hjournal, hset]
  exact ite_self _

theorem exec_setf (hr : Ready (.setf f) s) (h : FeServed f .wr c a s) (hseg : s.ctx.seg = none) :
    exec (.setf f) s = .next (spSetFull c a true (atBank (.setf f) c a s)) := by
  obtain ⟨ha, hstart, -⟩ := hr
  rw [accepted_engine rfl ha hstart rfl, setState_serves h hseg]

theorem exec_sete (hr : Ready (.sete f) s) (h : FeServed f .wr c a s) (hseg : s.ctx.seg = none) :
    exec (.sete f) s = .next (spSetFull c a false (atBank (.sete f) c a s)) := by
  obtain ⟨ha, hstart, -⟩ := hr
  rw [accepted_engine rfl ha hstart rfl, setState_serves h hseg]

/-- A full/empty operation blocks on a word that is not in the state it needs (R117). -/
theorem ownFE_blocks (hs : Certain s) (hal : (offsetOf f 4 s).toNat % 4 = 0)
    (hp : spPlace s s.foc.core s.lid f.h.toNat (offsetOf f 4 s).toNat 4 = some (c, a)) (hd : pondSpace s c a 4 = none)
    (hh : feHeld f (c, a) s = false) {b : Bool} (hb : (s.coreAt c).full a ≠ b) : ownFE f (some b) s = .block (.word c a) := by
  have hword : feWord f s = some (c, a) := by
    unfold feWord
    dsimp only
    rw [offA_certain hs.1, if_neg (not_not.2 hal), hp]
  have hfull : fullAtBank c a s = (s.coreAt c).full a := by
    unfold fullAtBank
    rw [hd]
  unfold ownFE
  rw [hword]
  dsimp only
  rw [hh, hfull]
  exact if_neg hb

end

/-- An engine operation whose own entry decides on a block, past the checks of R63, blocks (R52). -/
theorem exec_blocks {i : Instr} {own : Verdict} {eff : State → State} {s : State} {w : WaitOn} (hx : exec i s = gated i own eff s)
    (hslot : i.slot? = some .a) (hp : s.foc.pre = false) (h5 : verdict5 i (checkedState i s) = .go)
    (h6 : verdict6 i (checkedState i s) = .go) (ho : own = .block w) : exec i s = .next (blockOn w (checkedState i s)) := by
  have hv : verdictOf i own (checkedState i s) = .block w := by
    unfold verdictOf otherVerdict
    rw [h5, h6, hslot, ho]
    rfl
  rw [hx, gated_act hp hv (by exact fun h => nomatch h)]
  rfl

/-! ### The statement of O19 -/

/-- Settles O19: past its checks each acts on its word at its bank, which lies in no pond; LDF and STE block by their own entry. -/
theorem fullEmpty : Obligations.FullEmpty := by
  unfold Obligations.FullEmpty
  intro f s c a off el due poison s' b'
  refine ⟨?answers, fun hp hd => ⟨?ldf, ?ste, ?setf, ?sete, ?tstf, ?state, ?ldfBlocks, ?steBlocks⟩⟩
  case answers =>
    intro i hi _ _
    simp only [List.mem_cons, List.not_mem_nil, or_false] at hi
    obtain rfl | rfl | rfl | rfl | rfl := hi <;> exact gated_next _ _ _ _
  case ldf => exact fun hr hc hq => exec_ldf hr ⟨hr.2.2, hc, hp, hd⟩ hq
  case ste => exact fun hr hc => exec_ste hr ⟨hr.2.2, hc, hp, hd⟩
  case setf => exact fun hr hc hseg => exec_setf hr ⟨hr.2.2, hc, hp, hd⟩ hseg
  case sete => exact fun hr hc hseg => exec_sete hr ⟨hr.2.2, hc, hp, hd⟩ hseg
  case tstf => exact fun hr hc hq => exec_tstf hr ⟨hr.2.2, hc, hp, hd⟩ hq
  case state => exact fun b x => full_spSetFull_iff c a b s x
  case ldfBlocks =>
    exact fun hpre hs hal hh h5 h6 hf => exec_blocks (i := .ldf f) rfl rfl hpre h5 h6
      (ownFE_blocks hs hal hp hd hh (by rw [hf]; exact Bool.false_ne_true))
  case steBlocks =>
    exact fun hpre hs hal hh h5 h6 hf => exec_blocks (i := .ste f) rfl rfl hpre h5 h6
      (ownFE_blocks hs hal hp hd hh (by rw [hf]; exact fun h => nomatch h))

end Sys2Proof.Machine
end

section
/-! XLT, HDROP and HINFO (R123 to R125), and O20. -/

namespace Sys2Proof.Machine

/-! ### What a translation leaves (R328) -/

/-- A walk changes nothing but the device. -/
theorem walkDo_eq (tower asid va : Nat) (s : State) : ∃ d, (walkDo tower asid va s).2 = { s with dev := d } := by
  unfold walkDo
  dsimp only
  split <;> exact ⟨_, rfl⟩

theorem foc_translate (c asid va : Nat) (s : State) : (translate c asid va s).2.foc = s.foc := by
  obtain ⟨d, hd⟩ := walkDo_eq (coreTower c) asid va s
  unfold translate
  cases tlbHit c asid va s with
  | some h => rfl
  | none =>
    dsimp only
    split
    · rw [hd]
    · change (walkDo (coreTower c) asid va s).2.foc = _
      rw [hd]

/-- A translation that faults changes nothing but the device. -/
theorem translate_faults {c asid va : Nat} {s : State} (h : (translate c asid va s).1 = none) :
    ∃ d, (translate c asid va s).2 = { s with dev := d } := by
  unfold translate at h ⊢
  cases hit : tlbHit c asid va s with
  | some x => rw [hit] at h; exact nomatch h
  | none =>
    rw [hit] at h
    dsimp only at h ⊢
    cases hw : (walkDo (coreTower c) asid va s).1 with
    | some x => rw [hw] at h; exact nomatch h
    | none => exact walkDo_eq _ _ _ _

theorem foc_translateFor (user : Nat × Nat) (c asid va : Nat) (s : State) : (translateFor user c asid va s).2.foc = s.foc := by
  unfold translateFor
  split
  · split
    · rfl
    · exact foc_translate c asid va s
  · exact foc_translate c asid va s

theorem translateFor_faults {user : Nat × Nat} {c asid va : Nat} {s : State} (h : (translateFor user c asid va s).1 = none) :
    ∃ d, (translateFor user c asid va s).2 = { s with dev := d } := by
  unfold translateFor at h ⊢
  cases hw : walkFor user asid va s with
  | none =>
    rw [hw] at h
    exact translate_faults h
  | some w =>
    rw [hw] at h
    dsimp only at h ⊢
    split at h
    next hbad => rw [if_pos hbad]; exact ⟨_, rfl⟩
    next hok => rw [if_neg hok]; exact translate_faults h

/-- A miss that has not ended in a fault is translated. -/
theorem translateFor_walks {user : Nat × Nat} {c asid va : Nat} {s : State} {w : Walk} (hw : walkFor user asid va s = some w)
    (h : w.bad = false ∨ w.done = false) : translateFor user c asid va s = translate c asid va s := by
  unfold translateFor
  rw [hw]
  refine if_neg ?_
  obtain h | h := h <;> simp [h]

theorem translateFor_new {user : Nat × Nat} {c asid va : Nat} {s : State} (hw : walkFor user asid va s = none) :
    translateFor user c asid va s = translate c asid va s := by
  unfold translateFor
  rw [hw]

/-! ### XLT (R123) -/

/-- The virtual address that an XLT translates. -/
def xltAddress (f : ASlot) (s : State) : Word := s.ctx.a.sReg f.xs.toNat + f.off.signExtend 64

/-- What an XLT finds of its address. -/
def xltFinds (f : ASlot) (s : State) : Option Handle × State := translateFor (xltUser s) s.foc.core s.asid (xltAddress f s).toNat s

/-- What an XLT that may act answers: a page fault, or the state of the translation with its misses gone and, where there is a page, its
handle and offset on their way (R123). -/
theorem exec_xlt {f : ASlot} {s : State} (hr : Ready (.xlt f) s) : exec (.xlt f) s = .next (
    if 2 ^ 52 ≤ (xltAddress f s).toNat then startFault (.xlt f) 0x0B (xltAddress f s) s
    else match (xltFinds f s).1 with
      | none => startFault (.xlt f) 0x0B (xltAddress f s) (missesLeave (xltUser s) (xltFinds f s).2)
      | some h => ((missesLeave (xltUser s) (xltFinds f s).2).lands ⟨.h, f.h.toNat⟩ 8 (.handle h)).landsS (f.dr.toNat % 32) 8
          (BitVec.ofNat 64 ((xltAddress f s).toNat % pageBytes h.psz))) := by
  have hs := hr.2.2
  have hfoc : (xltFinds f s).2.foc = s.foc := foc_translateFor _ _ _ _ _
  have huser : xltUser (xltFinds f s).2 = xltUser s := by
    unfold xltUser
    rw [hfoc]
  have hva : rdS s f.xs.toNat + sext f.off = xltAddress f s := by
    rw [rdS_certain hs.1]
    rfl
  rw [ready_engine_open (own := .go) rfl hr rfl rfl]
  dsimp only
  rw [hva]
  refine congrArg _ (if_congr Iff.rfl rfl ?_)
  change (match (xltFinds f s).1 with
    | none => startFault _ _ _ (missesLeave (xltUser (xltFinds f s).2) (xltFinds f s).2)
    | some h => postS _ _ _ (post _ _ _ (missesLeave (xltUser (xltFinds f s).2) (xltFinds f s).2))) = _
  rw [huser]
  cases (xltFinds f s).1 with
  | none => rfl
  | some h =>
    have hbad : (missesLeave (xltUser s) (xltFinds f s).2).foc.bad = false := (congrArg Focus.bad hfoc).trans hs.2
    dsimp only
    rw [post_certain hbad _ _ _ (by simp), postS_certain]
    exact hbad

/-! ### HINFO (R125) -/

theorem toNat_handleWord (h : Handle) : (handleWord h).toNat =
    (match h.st with | .empty => 0 | .valid => 1 | .revoked => 2) * 2 ^ 62 + h.psz % 4 * 2 ^ 60 + b2n h.rd * 2 ^ 59
      + b2n h.wr * 2 ^ 58 + b2n h.amo * 2 ^ 57 + b2n h.ca * 2 ^ 56 + h.lay % 4 * 2 ^ 54 + h.key % 1024 * 2 ^ 44 := by
  have := b2n_le h.rd
  have := b2n_le h.wr
  have := b2n_le h.amo
  have := b2n_le h.ca
  unfold handleWord
  rw [BitVec.toNat_ofNat]
  refine Nat.mod_eq_of_lt ?_
  cases h.st <;> dsimp only <;> omega

/-- A field of a word, from its place in the number. -/
theorem extractLsb'_of_div {x : Word} {lo len : Nat} {y : BitVec len} (h : x.toNat / 2 ^ lo % 2 ^ len = y.toNat) :
    x.extractLsb' lo len = y := by
  apply BitVec.eq_of_toNat_eq
  rw [BitVec.extractLsb'_toNat, Nat.shiftRight_eq_div_pow, h]

theorem getLsbD_of_div {x : Word} {i : Nat} {b : Bool} (h : x.toNat / 2 ^ i % 2 = b2n b) : x.getLsbD i = b := by
  rw [BitVec.getLsbD, Nat.testBit_eq_decide_div_mod_eq, h]
  cases b <;> rfl

/-- The fields of HINFO's word (R125). -/
theorem handleWord_fields (h : Handle) :
    (handleWord h).extractLsb' 62 2 = (match h.st with | .empty => 0#2 | .valid => 1#2 | .revoked => 2#2)
      ∧ (handleWord h).extractLsb' 60 2 = BitVec.ofNat 2 h.psz
      ∧ (handleWord h).getLsbD 59 = h.rd ∧ (handleWord h).getLsbD 58 = h.wr
      ∧ (handleWord h).getLsbD 57 = h.amo ∧ (handleWord h).getLsbD 56 = h.ca
      ∧ (handleWord h).extractLsb' 54 2 = BitVec.ofNat 2 h.lay
      ∧ (handleWord h).extractLsb' 44 10 = BitVec.ofNat 10 h.key ∧ (handleWord h).extractLsb' 0 44 = 0 := by
  have hw := toNat_handleWord h
  have hst : ∃ k ≤ 2, (match h.st with | .empty => 0 | .valid => 1 | .revoked => 2) = k ∧
      (match h.st with | .empty => 0#2 | .valid => 1#2 | .revoked => 2#2).toNat = k := by
    cases h.st
    · exact ⟨0, by decide, rfl, rfl⟩
    · exact ⟨1, by decide, rfl, rfl⟩
    · exact ⟨2, by decide, rfl, rfl⟩
  obtain ⟨k, hk, hk1, hk2⟩ := hst
  rw [hk1] at hw
  have := b2n_le h.rd
  have := b2n_le h.wr
  have := b2n_le h.amo
  have := b2n_le h.ca
  refine ⟨extractLsb'_of_div ?_, extractLsb'_of_div ?_, getLsbD_of_div ?_, getLsbD_of_div ?_, getLsbD_of_div ?_, getLsbD_of_div ?_,
    extractLsb'_of_div ?_, extractLsb'_of_div ?_, extractLsb'_of_div ?_⟩
  · rw [hw, hk2]
    omega
  · rw [hw, BitVec.toNat_ofNat]
    omega
  · rw [hw]
    omega
  · rw [hw]
    omega
  · rw [hw]
    omega
  · rw [hw]
    omega
  · rw [hw, BitVec.toNat_ofNat]
    omega
  · rw [hw, BitVec.toNat_ofNat]
    omega
  · rw [hw, Nat.pow_zero, Nat.div_one]
    change _ = 0
    omega

/-! ### The statement of O20 -/

/-- Settles O20: XLT answers what `translateFor` finds, HDROP sets its own handle alone, and HINFO's word is made of its fields. -/
theorem handles : Obligations.Handles := by
  unfold Obligations.Handles
  intro f s va walked
  refine ⟨fun w hw h => translateFor_walks hw h, translateFor_new, ?page, ?outside, ?fault, ?hdrop, ?hinfo⟩
  case page =>
    intro hr h hva hfound t
    have hin : ¬2 ^ 52 ≤ (xltAddress f s).toNat := Nat.not_le.2 hva
    have hx := exec_xlt hr
    rw [if_neg hin, show (xltFinds f s).1 = some h from hfound] at hx
    exact hx
  case outside =>
    intro hr hva
    have hout : 2 ^ 52 ≤ (xltAddress f s).toNat := hva
    rw [exec_xlt hr, if_pos hout]
    rfl
  case fault =>
    intro hr hva hnone
    have hin : ¬2 ^ 52 ≤ (xltAddress f s).toNat := Nat.not_le.2 hva
    have hx := exec_xlt hr
    obtain ⟨d, hd⟩ := translateFor_faults hnone
    have hd' : (xltFinds f s).2 = { s with dev := d } := hd
    rw [if_neg hin, show (xltFinds f s).1 = none from hnone] at hx
    refine ⟨_, hx, ?_, ?_⟩
    · unfold startFault
      rw [State.ctx_modCtx, hd']
      rfl
    · unfold startFault
      rw [State.ctx_modCtx, hd']
      rfl
  case hdrop =>
    intro hr
    have hbad : s.foc.bad = false := hr.2.2.2
    refine ⟨s.modArch fun a => { a with h := a.h.set f.h.toNat {} }, ?_, ?_, ?_⟩
    · rw [ready_engine_open (own := .go) rfl hr rfl rfl]
      simp only [hbad, Bool.false_eq_true, if_false]
    · rw [State.ctx_modArch, Map.get_set_self]
    · intro n hn
      rw [State.ctx_modArch]
      exact Map.get_set_ne _ _ _ _ _ hn
  case hinfo =>
    intro hr
    refine ⟨handleWord (handleOf s f.h.toNat), ?_, handleWord_fields _⟩
    rw [ready_engine_open (own := .go) rfl hr rfl rfl]
    exact congrArg _ (postS_certain hr.2.2.2 _ _ _)

end Sys2Proof.Machine
end

section
/-! The atomics (R127 to R129, R148), and O22. -/

namespace Sys2Proof.Machine

/-! ### The start of an atomic (R127) -/

theorem shadowFault_checkedState {s : State} (hs : s.ctx.a.check = true) (i : Instr) (n : Nat) (els : List AEl) :
    shadowFault (checkedState i s) n els = shadowFault s n els := by
  have ht := SameTerms.checkedState i s
  have hpool : ∀ v a, poolEmpty (checkedState i s) v a = poolEmpty s v a := fun v a => by
    unfold poolEmpty versionOf State.launchAt State.poolOf
    rw [dev_checkedState]
  unfold shadowFault
  rw [ht.handleOf hs, ht.verOf]
  simp only [hpool]

/-- The element of an atomic (R127). -/
def atomicEl (f : ASlot) (s : State) : List AEl := oneEl (offsetOf f 0 s) (sizeW f) (sizeW f)

theorem oneEl_atomic (f : ASlot) (s : State) : oneEl (offsetOf f 0 s) (sizeW f) (sizeW f) = atomicEl f s := rfl

theorem allocEntry_eq (due : Option Nat) (s : State) : allocEntry due s = (s.uid, s.entered 1 due) := rfl

theorem atomicAccess_eq (i : Instr) (f : ASlot) (status : Bool) (s : State) : atomicAccess i f status s =
    { accessMade (s.uid + 1) f.h.toNat .atom
        (.amo i.opcode (atomicOperand f f.dr.toNat s) (if status then atomicOperand f (f.dr.toNat + 1) s else 0))
        [elemAt s f.h.toNat (sizeW f) (offsetOf f 0 s).toNat 0 0] s with
      acq := if f.sc.toNat = 0 then none else some f.sc.toNat, rel := if f.sc.toNat = 0 then none else some f.sc.toNat
      entry := some s.uid, status := status, due := (handleLat f.h.toNat).map (s.cyc + 2 + ·) } := rfl

section
variable {i : Instr} {f : ASlot} {status : Bool} {s : State}

theorem offA_checkedState (hs : Certain s) (size : Nat) : offA f size (checkedState i s) = offsetOf f size s := by
  have ht := SameTerms.checkedState i s
  rw [offA_certain (ht.certain hs).1, offsetOf_of_arch (checkedState_a i s) ht.foc]

theorem amoOp_fault (hs : Certain s) {c : Nat} {info : Word}
    (hc : accessCheck s f.h.toNat .amo (offsetOf f 0 s).toNat (atomicEl f s) = some (c, info)) :
    amoOp i f status (checkedState i s) = startFault i c info (checkedState i s) := by
  unfold amoOp
  dsimp only
  rw [offA_checkedState hs, oneEl_atomic, (SameTerms.checkedState i s).accessCheck hs.1, hc]

/-- Past its checks an atomic allocates its entry and its access enters path ATOM (R111, R127, R148). -/
theorem amoOp_starts (hs : Certain s) (hc : accessCheck s f.h.toNat .amo (offsetOf f 0 s).toNat (atomicEl f s) = none)
    (hv : shadowFault s f.h.toNat (atomicEl f s) = none) (hq : s.ctx.a.queue.length < 16) :
    amoOp i f status (checkedState i s) = enterPath (.access (atomicAccess i f status s))
      ((makeVersions f.h.toNat (atomicEl f s) (checkedState i s)).entered 2 ((handleLat f.h.toNat).map (s.cyc + 2 + ·))) := by
  have ht := SameTerms.checkedState i s
  have hm := OnlyVersions.makeVersions (checkedState i s) f.h.toNat (atomicEl f s)
  generalize hu : makeVersions f.h.toNat (atomicEl f s) (checkedState i s) = u at hm
  have hsu := ht.trans hm.sameTerms
  have hent := hsu.trans (SameTerms.entered u 1 ((handleLat f.h.toNat).map (s.cyc + 2 + ·)))
  have huid : u.uid = s.uid := hm.uid.trans (uid_checkedState i s)
  have hq' : ¬(checkedState i s).ctx.a.queue.length ≥ 16 := by rw [checkedState_a]; exact Nat.not_le.2 hq
  have hsc : f.sc = 0 ↔ f.sc.toNat = 0 := ⟨fun h => by rw [h]; rfl, fun h => BitVec.eq_of_toNat_eq h⟩
  unfold amoOp
  dsimp only
  rw [offA_checkedState hs, oneEl_atomic, ht.accessCheck hs.1, shadowFault_checkedState hs.1, hc]
  dsimp only
  rw [hv]
  dsimp only
  rw [if_neg hq', hu, hsu.cyc, allocEntry_eq]
  dsimp only
  rw [newAccess_certain (hent.certain hs).2, hent.accessMade hs.1]
  rw [rdS_certain (ht.certain hs).1, rdS_certain (ht.certain hs).1, checkedState_a]
  rw [hent.locOf hs.1, atomicAccess_eq, ← huid]
  unfold atomicOperand
  rw [truncate_toNat, truncate_toNat]
  simp only [hsc]
  rfl

end

/-- An operation that closes the segment and whose effect is an atomic does what an atomic does. -/
theorem atomically_of_amoOp {i : Instr} {f : ASlot} {status : Bool} (hx : ∀ s, exec i s = gated i (ownOf i s) (amoOp i f status) s) :
    Atomically i f status := by
  intro s hr
  obtain ⟨ha, hstart, hs⟩ := hr
  rw [accepted_engine (hx s) ha hstart rfl]
  exact ⟨fun hc hv hq => congrArg _ (amoOp_starts hs hc hv hq), fun c info hc => congrArg _ (amoOp_fault hs hc)⟩

/-! ### The values of R128 and R129 -/

theorem add_toNat_of_le {w : Nat} {old a b : BitVec w} (h : old.toNat + a.toNat ≤ b.toNat) : (old + a).toNat = old.toNat + a.toNat := by
  rw [BitVec.toNat_add]
  exact Nat.mod_eq_of_lt (Nat.lt_of_le_of_lt h b.isLt)

theorem sintOf_le_iff_sle {w : Nat} (hw : 0 < w) (a b : BitVec w) : sintOf w a.toNat ≤ sintOf w b.toNat ↔ a.sle b = true := by
  rw [sintOf_toNat hw, sintOf_toNat hw]
  exact BitVec.sle_iff_toInt_le.symm

/-- A sum of which a term is NaN is the canonical NaN (R177). -/
theorem fadd_nan {x y : FVal} (h : x = .nan ∨ y = .nan) : fadd 0 x y = .nan := by
  rcases h with rfl | rfl
  · rfl
  · cases x <;> rfl

/-! ### The statement of O22 -/

/-- Settles O22: each atomic's effect is `amoOp`, and its value is that of R128 and R129 on words of width w. -/
theorem atomicValues : Obligations.AtomicValues := by
  unfold Obligations.AtomicValues
  refine ⟨fun f => ?start, fun w old a b f hw => ?value⟩
  case start =>
    exact ⟨atomically_of_amoOp fun _ => rfl, atomically_of_amoOp fun _ => rfl, atomically_of_amoOp fun _ => rfl,
      atomically_of_amoOp fun _ => rfl, atomically_of_amoOp fun _ => rfl, atomically_of_amoOp fun _ => rfl,
      atomically_of_amoOp fun _ => rfl, atomically_of_amoOp fun _ => rfl, atomically_of_amoOp fun _ => rfl,
      atomically_of_amoOp fun _ => rfl, atomically_of_amoOp fun _ => rfl, atomically_of_amoOp fun _ => rfl,
      atomically_of_amoOp fun _ => rfl⟩
  case value =>
    have hw0 : 0 < w := by omega
    intro new
    refine ⟨?add, ?min, ?max, ?minn, ?maxn, ?and, ?or, ?xor, ?swp, ?cas, ?incw, ?bfa, ?fadd, ?nan⟩
    case add =>
      change ((old.toNat + a.toNat) % 2 ^ w, false, true) = _
      rw [BitVec.toNat_add]
    case min =>
      change (if sintOf w old.toNat ≤ sintOf w a.toNat then old.toNat else a.toNat, false, true) = _
      rw [apply_ite BitVec.toNat]
      simp only [sintOf_le_iff_sle hw0]
    case max =>
      change (if sintOf w old.toNat ≤ sintOf w a.toNat then a.toNat else old.toNat, false, true) = _
      rw [apply_ite BitVec.toNat]
      simp only [sintOf_le_iff_sle hw0]
    case minn =>
      change (min old.toNat a.toNat, false, true) = _
      rw [apply_ite BitVec.toNat, Nat.min_def]
      rfl
    case maxn =>
      change (max old.toNat a.toNat, false, true) = _
      rw [apply_ite BitVec.toNat, Nat.max_def]
      rfl
    case and => rfl
    case or => rfl
    case xor => rfl
    case swp => rfl
    case cas =>
      change (if old.toNat = a.toNat then (b.toNat, true, true) else (old.toNat, false, false)) = _
      simp only [BitVec.toNat_inj]
    case incw =>
      change (if a.toNat ≤ old.toNat then 0 else old.toNat + 1, false, true) = _
      by_cases h : a ≤ old
      · rw [if_pos h, if_pos (BitVec.le_def.1 h)]
      · have hlt : old.toNat < a.toNat := Nat.lt_of_not_le h
        have hone : (1 : BitVec w).toNat = 1 := by obtain rfl | rfl := hw <;> rfl
        rw [if_neg h, if_neg (Nat.not_le.2 hlt), add_toNat_of_le (b := a) (by omega), hone]
    case bfa =>
      change (if old.toNat + a.toNat ≤ b.toNat then (old.toNat + a.toNat, true, true) else (old.toNat, false, false)) = _
      by_cases h : old.toNat + a.toNat ≤ b.toNat
      · rw [if_pos h, if_pos h, add_toNat_of_le h]
      · rw [if_neg h, if_neg h]
    case fadd => exact fun _ _ _ => rfl
    case nan =>
      intro x y h
      change roundFmt (fadd 0 (decodeF 0 x.toNat) (decodeF 0 y.toNat)) 0 0 false = _
      rw [fadd_nan h]
      decide

end Sys2Proof.Machine
end

section
/-! PACQ and DRN (R131, R132, R152, R156, R163), and O23. -/

namespace Sys2Proof.Machine

/-! ### PACQ (R131, R156) -/

/-- Withdrawing the answered requests changes nothing else of a core. -/
theorem coreAt_pacqClear (s : State) (c : Nat) : (pacqClear s).coreAt c =
    { s.coreAt c with pacq := (s.coreAt c).pacq.filter fun r => r.core ≠ s.foc.core || !r.done } :=
  Map.get_map s.cores (fun _ (k : Core) => { k with pacq := k.pacq.filter fun r => r.core ≠ s.foc.core || !r.done }) c {} rfl

theorem ctx_pacqClear (s : State) : (pacqClear s).ctx = s.ctx := by
  unfold State.ctx State.core
  rw [coreAt_pacqClear]
  rfl

theorem SameTerms.pacqClear (s : State) : SameTerms s (pacqClear s) where
  foc := rfl
  base := rfl
  cyc := by
    unfold State.cyc State.core
    rw [coreAt_pacqClear]
    rfl
  inst := by rw [ctx_pacqClear]
  check := by rw [ctx_pacqClear]
  handles := by rw [ctx_pacqClear]
  regions c := by rw [coreAt_pacqClear]
  launches _ := rfl

/-- The state in which a PACQ whose targets have answered goes on (R131). -/
def pacqState (f : ASlot) (s : State) : State := (checkedState (.pacq f) s).modCtx fun c => { c with begun := false }

section
variable {f : ASlot} {s : State}

theorem sameTerms_pacqState (f : ASlot) (s : State) : SameTerms s (pacqState f s) :=
  (SameTerms.checkedState _ s).trans (SameTerms.modCtx rfl rfl rfl)

theorem arch_pacqState (f : ASlot) (s : State) : (pacqState f s).ctx.a = s.ctx.a := by
  unfold pacqState
  rw [State.ctx_modCtx]
  exact checkedState_a _ s

theorem groupCores_pacqState (f : ASlot) (s : State) (g : Nat) : groupCores g (pacqState f s) = groupCores g s := by
  have hl : (pacqState f s).launch? = s.launch? := by
    unfold State.launch? State.launchOf State.launchAt
    rw [(sameTerms_pacqState f s).inst]
    rfl
  unfold groupCores
  rw [hl]

/-- The targets of a PACQ, its scalar read as it stands (R131). -/
theorem pacqTargets_certain {t : State} (h : t.ctx.a.check = true) : pacqTargets f t =
    if 256 ≤ (t.ctx.a.sReg (f.dr.toNat % 32)).toNat then none
    else if f.dr.getLsbD 5 then groupCores (t.ctx.a.sReg (f.dr.toNat % 32)).toNat t else some [(t.ctx.a.sReg (f.dr.toNat % 32)).toNat] := by
  unfold pacqTargets
  rw [rdS_certain h]

theorem pacqTargets_pacqState (hs : Certain s) : pacqTargets f (pacqState f s) = pacqTargets f s := by
  rw [pacqTargets_certain ((sameTerms_pacqState f s).certain hs).1, pacqTargets_certain hs.1, arch_pacqState, groupCores_pacqState]

/-- A PACQ whose scalar is refused faults (R131). -/
theorem exec_pacq_refused (hr : Ready (.pacq f) s) (ht : pacqTargets f s = none) : exec (.pacq f) s =
    .next (startFault (.pacq f) 6 (opInfo (.pacq f) 0 (f.dr.toNat % 32) 0 (pacqState f s)) (pacqState f s)) := by
  obtain ⟨ha, hstart, hs⟩ := hr
  rw [accepted_engine (own := .go) rfl ha hstart rfl]
  change Host.Outcome.next (match pacqTargets f (pacqState f s) with | none => _ | some _ => _) = _
  rw [pacqTargets_pacqState hs, ht]
  rfl

/-- A PACQ whose targets have answered reads its flag as an acquire (R131). -/
theorem exec_pacq_reads (hr : Ready (.pacq f) s) (ht : (pacqTargets f s).isSome)
    (hc : accessCheck s f.h.toNat .rd (offsetOf f (sizeW f) s).toNat (oneEl (offsetOf f (sizeW f) s) (sizeW f) (sizeW f)) = none)
    (hq : s.ctx.a.queue.length < 16) : exec (.pacq f) s =
      .next (begin (loadAccess f [elemAt s f.h.toNat (sizeW f) (offsetOf f (sizeW f) s).toNat 0 0] (some f.sc.toNat) s)
        ((pacqClear (pacqState f s)).entered 2 ((handleLat f.h.toNat).map (s.cyc + ·)))) := by
  obtain ⟨ha, hstart, hs⟩ := hr
  obtain ⟨l, hl⟩ := Option.isSome_iff_exists.1 ht
  have hsame := (sameTerms_pacqState f s).trans (SameTerms.pacqClear _)
  have hoff : offA f (sizeW f) (checkedState (.pacq f) s) = offsetOf f (sizeW f) s := offA_checkedState hs _
  have hq' : (pacqClear (pacqState f s)).ctx.a.queue.length < 16 := by rw [ctx_pacqClear, arch_pacqState]; exact hq
  rw [accepted_engine (own := .go) rfl ha hstart rfl]
  change Host.Outcome.next (match pacqTargets f (pacqState f s) with
    | none => _
    | some _ => loadOp _ _ (offA f (sizeW f) (checkedState (.pacq f) s)).toNat (oneEl (offA f (sizeW f) (checkedState (.pacq f) s)) _ _)
        [((offA f (sizeW f) (checkedState (.pacq f) s)).toNat, _, _)] _ (pacqClear (pacqState f s))) = _
  rw [pacqTargets_pacqState hs, hl, hoff]
  dsimp only
  rw [loadOp_starts (hsame.certain hs) ((hsame.accessCheck hs.1 _ _ _ _).trans hc) hq', hsame.loadAccess hs.1 rfl, hsame.cyc]
  dsimp only [List.map]
  rw [hsame.elemAt hs.1]

/-- PACQ sends one request to the core that it names (R156). -/
theorem pacqBegin_one (hs : Certain s) (h5 : f.dr.getLsbD 5 = false) (hx : (s.ctx.a.sReg (f.dr.toNat % 32)).toNat < 256) :
    let x := (s.ctx.a.sReg (f.dr.toNat % 32)).toNat
    ((pacqBegin f s).coreAt x).pacq = (s.coreAt x).pacq ++ [{ id := s.uid, core := s.foc.core, target := x, vf := s.vfid }]
      ∧ ∀ c, c ≠ x → ((pacqBegin f s).coreAt c).pacq = (s.coreAt c).pacq := by
  intro x
  have hpacq : ∀ c, ((s.modCtx fun k => { k with begun := true }).coreAt c).pacq = (s.coreAt c).pacq := fun c => by
    unfold State.modCtx State.modCtxAt
    by_cases h : c = s.foc.core
    · rw [h, State.coreAt_modCoreAt_self]
    · rw [State.coreAt_modCoreAt_ne _ _ _ _ h]
  have hsame : SameTerms s (s.modCtx fun k => { k with begun := true }) := SameTerms.modCtx rfl rfl rfl
  have htargets : pacqTargets f (s.modCtx fun k => { k with begun := true }) = some [x] := by
    have hx' : ¬256 ≤ x := Nat.not_le.2 hx
    rw [pacqTargets_certain (hsame.certain hs).1, State.ctx_modCtx]
    dsimp only
    rw [if_neg hx', h5]
    rfl
  have hbegin : pacqBegin f s = ({ s.modCtx fun k => { k with begun := true } with uid := s.uid + 1 } : State).modCoreAt x fun k =>
      { k with pacq := k.pacq ++ [{ id := s.uid, core := s.foc.core, target := x, vf := s.vfid }] } := by
    unfold pacqBegin
    dsimp only
    rw [htargets, ← hsame.vfid]
    rfl
  rw [hbegin]
  refine ⟨?_, fun c hc => ?_⟩
  · rw [State.coreAt_modCoreAt_self]
    exact congrArg (· ++ _) (hpacq x)
  · rw [State.coreAt_modCoreAt_ne _ _ _ _ hc]
    exact hpacq c

end

/-! ### DRN (R132, R152) -/

/-- A DRN is held by the port, and else until its earlier mask is drained (R152). -/
theorem holdA_drn (f : ASlot) (b : Bool) (s : State) : holdA (.drn f) b s =
    if s.core.clk < s.core.portTo then some 8
    else if drained (f.off.toNat % 256) f.sc.toNat s then none else some 5 := by
  have hmask : bits f.off.toNat 7 0 = f.off.toNat % 256 := bits_zero _ _
  have hheld : goesHeld (.drn f) s = false := Bool.and_false _
  have hbus : busWait (.drn f) s = 0 := rfl
  unfold holdA
  rw [hheld, hbus, ← hmask]
  by_cases hport : s.core.clk < s.core.portTo
  · rw [if_pos hport, if_pos ⟨hport, rfl⟩]
  · rw [if_neg hport, if_neg (fun h => hport h.1)]
    rfl

/-- A DRN that need not hold has its earlier mask drained. -/
theorem drained_of_holdA {f : ASlot} {b : Bool} {s : State} (h : holdA (.drn f) b s = none) :
    drained (f.off.toNat % 256) f.sc.toNat s = true := by
  rw [holdA_drn] at h
  split at h
  · exact nomatch h
  · split at h
    · assumption
    · exact nomatch h

/-- Of a path that the mask names, the condition holds. -/
theorem of_masked {b p : Bool} (h : (!b || p) = true) (hb : b = true) : p = true := by
  rw [hb] at h
  exact h

/-- No element that passes a filter has what none of the filtered has. -/
theorem not_of_filter {α : Type} {l : List α} {q p : α → Bool} (h : (!(l.filter q).any p) = true) {a : α} (ha : a ∈ l)
    (hq : q a = true) : p a = false := by
  rw [Bool.not_eq_true', List.any_eq_false] at h
  exact Bool.eq_false_iff.2 (h a (List.mem_filter.2 ⟨ha, hq⟩))

/-- What a drained mask says of each path (R152): for the accesses of the context before the mark, the lines of the L1, the copies and
jobs of the thread, and the array's pushes and loads. -/
structure Drained (mask sc : Nat) (s : State) : Prop where
  ctxls : bit mask 0 = true → ∀ a ∈ s.core.waiting, a.ctx = s.foc.ctx → a.id < s.core.mark → a.path ≠ .ctxls
  clean : bit mask 0 = true → 2 ≤ sc → ∀ y ∈ s.core.l1, y.dirty = 0
  copies : bit mask 1 = true → ∀ k ∈ s.cores, ∀ c ∈ k.2.copyq, ¬(s.ctx.inst = some c.inst ∧ c.id < s.core.mark)
  pushes : bit mask 2 = true → ∀ p ∈ s.core.arr.pushes, p.ctx = s.foc.ctx → p.id < s.core.mark → p.sp = true → p.n ≤ p.k
  loads : bit mask 2 = true → ∀ p ∈ s.core.arr.loads, ¬(p.ctx = s.foc.ctx ∧ p.id < s.core.mark)
  jobs : bit mask 3 = true → ∀ k ∈ s.cores, ∀ j ∈ k.2.jobq, j.live = true → ¬(s.ctx.inst = some j.inst ∧ j.id < s.core.mark)
  atom : bit mask 4 = true → ∀ a ∈ s.core.waiting, a.ctx = s.foc.ctx → a.id < s.core.mark → a.path ≠ .atom
  vert : bit mask 5 = true → ∀ a ∈ s.core.waiting, a.ctx = s.foc.ctx → a.id < s.core.mark → a.path ≠ .vert
  host : bit mask 7 = true → ∀ a ∈ s.core.waiting, a.ctx = s.foc.ctx → a.id < s.core.mark → a.toHost = false
  hostLines : bit mask 7 = true → ∀ y ∈ s.core.l1, inHost y.pa = true → y.dirty = 0

theorem Drained.of_drained {mask sc : Nat} {s : State} (h : drained mask sc s = true) : Drained mask sc s := by
  unfold drained at h
  simp only [Bool.and_eq_true] at h
  obtain ⟨⟨⟨⟨⟨⟨h0, h1⟩, h2⟩, h3⟩, h4⟩, h5⟩, h7⟩ := h
  have hpath : ∀ {p : Path}, (!(s.core.waiting.filter fun a => decide (a.ctx = s.foc.ctx) && decide (a.id < s.core.mark)).any
      fun a => decide (a.path = p)) = true → ∀ a ∈ s.core.waiting, a.ctx = s.foc.ctx → a.id < s.core.mark → a.path ≠ p :=
    fun h a ha hc hm => of_decide_eq_false (not_of_filter h ha (by simp [hc, hm]))
  refine ⟨fun hb => ?ctxls, fun hb hsc y hy => ?clean, fun hb k hk c hc hown => ?copies, fun hb p hp hc hm hsp => ?pushes,
    fun hb p hp hown => ?loads, fun hb k hk j hj hlive hown => ?jobs, fun hb => hpath (of_masked h4 hb), fun hb => hpath (of_masked h5 hb),
    fun hb a ha hc hm => ?host, fun hb y hy hin => ?hostLines⟩
  case ctxls => exact hpath (Bool.and_eq_true_iff.1 (of_masked h0 hb)).1
  case clean =>
    have hl1 := (Bool.and_eq_true_iff.1 (of_masked h0 hb)).2
    rw [decide_eq_false (Nat.not_lt.2 hsc), Bool.false_or, List.all_eq_true] at hl1
    exact of_decide_eq_true (hl1 y hy)
  case copies =>
    have hnone := List.isEmpty_iff.1 (Bool.and_eq_true_iff.1 (of_masked h1 hb)).1
    rw [List.flatMap_eq_nil_iff] at hnone
    exact List.filter_eq_nil_iff.1 (hnone k hk) c hc (by simp [hown])
  case pushes =>
    have hnone := (Bool.and_eq_true_iff.1 (of_masked h2 hb)).1
    rw [Bool.not_eq_true', List.any_eq_false] at hnone
    simpa [hc, hm, hsp] using hnone p hp
  case loads =>
    have hnone := (Bool.and_eq_true_iff.1 (of_masked h2 hb)).2
    rw [Bool.not_eq_true', List.any_eq_false] at hnone
    exact hnone p hp (by simp [hown])
  case jobs =>
    have hnone := (Bool.and_eq_true_iff.1 (of_masked h3 hb)).1
    rw [Bool.not_eq_true', List.any_eq_false] at hnone
    exact hnone j (List.mem_append_left _ (List.mem_flatMap.2 ⟨k, hk, hj⟩)) (by simp [hlive, hown])
  case host =>
    have hpart := Bool.and_eq_true_iff.1 (Bool.and_eq_true_iff.1 (Bool.and_eq_true_iff.1 (of_masked h7 hb)).1).1
    exact not_of_filter hpart.1 ha (by simp [hc, hm])
  case hostLines =>
    have hpart := Bool.and_eq_true_iff.1 (Bool.and_eq_true_iff.1 (Bool.and_eq_true_iff.1 (of_masked h7 hb)).1).1
    simpa [hin] using List.all_eq_true.1 hpart.2 y hy

/-- A mask of LINK alone is drained at once: nothing is sent there (R152; log 18). -/
theorem drained_link (sc : Nat) (s : State) : drained 64 sc s = true := by
  have hbits : bit 64 0 = false ∧ bit 64 1 = false ∧ bit 64 2 = false ∧ bit 64 3 = false ∧ bit 64 4 = false ∧ bit 64 5 = false
      ∧ bit 64 7 = false := by decide
  obtain ⟨h0, h1, h2, h3, h4, h5, h7⟩ := hbits
  unfold drained
  rw [h0, h1, h2, h3, h4, h5, h7]
  rfl

/-- What the L1 keeps of its lines at an acquire is dirty bytes alone (R150). -/
theorem dirty_of_l1Invalidate {c : Nat} {s : State} {y : L1Line} (hy : y ∈ ((l1Invalidate c s).coreAt c).l1) :
    y.dirty ≠ 0 ∧ y.valid = y.dirty := by
  unfold l1Invalidate at hy
  rw [State.coreAt_modCoreAt_self] at hy
  obtain ⟨x, hx, rfl⟩ := List.mem_map.1 hy
  exact ⟨of_decide_eq_true (List.mem_filter.1 hx).2, rfl⟩

/-- A DRN that may act drops the clean bytes of the L1 for a later A path at COLUMN and wider (R152). -/
theorem exec_drn {f : ASlot} {s : State} (hr : Ready (.drn f) s) : exec (.drn f) s = .next (
    let l := f.off.toNat / 256 % 256
    if 2 ≤ f.sc.toNat ∧ (l.testBit 0 || l.testBit 4 || l.testBit 5) = true then l1Invalidate s.foc.core (checkedState (.drn f) s)
    else checkedState (.drn f) s) := by
  obtain ⟨ha, hstart, -⟩ := hr
  rw [accepted_engine (own := .go) rfl ha hstart rfl, ← checkedState_foc (.drn f) s]
  rfl

/-! ### The statement of O23 -/

/-- Settles O23: PACQ reads its flag in the state with its requests withdrawn; a DRN that no hold keeps has its earlier mask
drained, and a drained mask says of each path what R152 asks. -/
theorem ordering : Obligations.Ordering := by
  unfold Obligations.Ordering
  intro f s off el p x e l mine
  have htargets : Certain s → pacqTargets f s =
      if 256 ≤ x then none else if f.dr.getLsbD 5 then groupCores x s else some [x] := fun hs => pacqTargets_certain hs.1
  have hdrained : ∀ {b}, holdA (.drn f) b s = none → Drained e f.sc.toNat s := fun h => .of_drained (drained_of_holdA h)
  refine ⟨?reads, ?refused, fun h5 hs hx => pacqBegin_one hs h5 hx, fun hr => exec_drn hr, fun b h a ⟨ha, hc, hm⟩ => ?accesses,
    fun b h he hsc => (hdrained h).clean he hsc, fun b h he => (hdrained h).copies he, fun b h he => (hdrained h).hostLines he,
    fun b h he => ⟨(hdrained h).pushes he, (hdrained h).loads he⟩, fun b hport he => ?link, fun b h he => (hdrained h).jobs he,
    fun y hy => dirty_of_l1Invalidate hy⟩
  case reads =>
    intro hr hx hgroup hc hq
    refine exec_pacq_reads hr ?_ hc hq
    rw [htargets hr.2.2, if_neg (Nat.not_le.2 hx)]
    split
    next h5 => exact hgroup h5
    next => rfl
  case refused =>
    intro hr h
    refine exec_pacq_refused hr ?_
    rw [htargets hr.2.2]
    obtain hx | ⟨h5, hnone⟩ := h
    · exact if_pos hx
    · rw [h5, if_pos rfl, hnone]
      exact ite_self _
  case accesses =>
    have hd := hdrained h
    exact ⟨fun he => hd.ctxls he a ha hc hm, fun he => hd.atom he a ha hc hm, fun he => hd.vert he a ha hc hm,
      fun he => hd.host he a ha hc hm⟩
  case link =>
    have hmask : f.off.toNat % 256 = 64 := he
    rw [holdA_drn, if_neg (Nat.not_lt.2 hport), hmask, drained_link]
    rfl

end Sys2Proof.Machine
end

section
/-! COPY, COPY2D and COPYT (R134 to R138), and O39. -/

namespace Sys2Proof.Machine

/-! ### The command (R134) -/

/-- The command of an issue whose registers read as they stand. -/
theorem copyCmd_certain {s : State} (h : s.ctx.a.check = true) (i : Instr) (f : XSlot) : { copyCmd i f s with id := s.uid } =
    copyMade i f (copyShape i f s).1 (copyShape i f s).2 (copyPitch i f s).1 (copyPitch i f s).2 s := by
  unfold copyCmd copyMade
  rw [rdS_certain h, rdS_certain h]

theorem instHere_opens (s : State) (t : Nat) : (s.opens t).instHere = s.instHere := instHere_commanding s t

/-- An operation whose effect starts a copy makes its command, or is done where there is no element (R134, R138). -/
theorem copies_of_copyStart {i : Instr} {f : XSlot} {shape : State → Nat × Nat} {pitch : State → Int × Int}
    (hx : ∀ s, exec i s = gated i (ownOf i s) (copyStart i f) s) (hslot : i.slot? = some .x) (hc : closing i = false)
    (hshape : ∀ s, s.ctx.a.check = true → copyShape i f s = shape s) (hpitch : ∀ s, s.ctx.a.check = true → copyPitch i f s = pitch s) :
    Machine.Copies i f shape pitch := by
  intro s ha hs n s'
  have hcmd := copyCmd_certain hs.1 i f
  rw [hshape s hs.1, hpitch s hs.1] at hcmd
  have hcount : (copyCmd i f s).count = n.1 * n.2 := by
    unfold CopyCmd.count copyCmd
    rw [hshape s hs.1]
  rw [accepted_x (hx s) ha rfl hslot, checkedState_open hc]
  unfold copyStart
  dsimp only
  rw [tagStart_eq_opens, hcount, instHere_opens, newId_opens]
  dsimp only
  rw [hcmd]
  rfl

theorem sintOf_low32 (x : Word) : sintOf 32 (x.toNat % 2 ^ 32) = (x.truncate 32 : BitVec 32).toInt := by
  rw [← sintOf_toNat (by decide : 0 < 32)]
  simp

theorem sintOf_high32 (x : Word) : sintOf 32 (x.toNat / 2 ^ 32) = (x.extractLsb' 32 32).toInt := by
  rw [← sintOf_toNat (by decide : 0 < 32), BitVec.extractLsb'_toNat, Nat.shiftRight_eq_div_pow]
  congr 1
  have := x.isLt
  omega

theorem copyPitch_rows {i : Instr} {f : XSlot} {s : State} (hi : ∀ g, i ≠ .copy g) (h : s.ctx.a.check = true) :
    copyPitch i f s = (((s.ctx.a.sReg (f.imm.toNat / 8 % 32)).truncate 32 : BitVec 32).toInt,
      ((s.ctx.a.sReg (f.imm.toNat / 8 % 32)).extractLsb' 32 32).toInt) := by
  have hbits : bits f.imm.toNat 7 3 = f.imm.toNat / 8 % 32 := rfl
  unfold copyPitch
  dsimp only
  rw [hbits, rdS_certain h, sintOf_low32, sintOf_high32]
  split
  next g => exact absurd rfl (hi g)
  next => rfl

theorem copyShape_rows {i : Instr} {f : XSlot} {s : State} (hi : ∀ g, i ≠ .copy g) (h : s.ctx.a.check = true) :
    copyShape i f s = ((s.ctx.a.sReg f.scc.toNat).toNat / 2 ^ 32, (s.ctx.a.sReg f.scc.toNat).toNat % 2 ^ 32) := by
  unfold copyShape
  dsimp only
  rw [rdS_certain h]
  split
  next g => exact absurd rfl (hi g)
  next => rfl

/-! ### The places of its elements (R134) -/

theorem row_of_element {r k cols : Nat} (hk : k < cols) : (r * cols + k) / cols = r := by
  rw [Nat.add_comm, Nat.add_mul_div_right _ _ (Nat.lt_of_le_of_lt (Nat.zero_le k) hk), Nat.div_eq_of_lt hk, Nat.zero_add]

theorem column_of_element {r k cols : Nat} (hk : k < cols) : (r * cols + k) % cols = k := by
  rw [Nat.mul_comm, Nat.mul_add_mod, Nat.mod_eq_of_lt hk]

theorem srcOff_element (c : CopyCmd) (r : Nat) {k : Nat} (hk : k < c.cols) :
    c.srcOff (r * c.cols + k) = c.so + BitVec.ofInt 64 (r * c.spitch + k * fmtSize c.fs) := by
  unfold CopyCmd.srcOff
  rw [row_of_element hk, column_of_element hk, Nat.cast_mul]

/-- An element's destination; COPYT exchanges rows and columns. -/
theorem dstOff_element (c : CopyCmd) (r : Nat) {k : Nat} (hk : k < c.cols) : c.dstOff (r * c.cols + k) =
    if c.op = 3 then c.dofs + BitVec.ofInt 64 (k * c.dpitch + r * fmtSize c.fd)
    else c.dofs + BitVec.ofInt 64 (r * c.dpitch + k * fmtSize c.fd) := by
  unfold CopyCmd.dstOff
  rw [row_of_element hk, column_of_element hk, Nat.cast_mul, Nat.cast_mul]

/-! ### The statement of O39 -/

/-- Settles O39: the effect of each is `copyStart`, an element's row and column are quotient and remainder of its number by COLS, and
equal formats convert nothing. -/
theorem copies : Obligations.Copies := by
  unfold Obligations.Copies
  intro f n p area pitch
  refine ⟨?copy, ?copy2d, ?copyt, fun c r _ k hk => ⟨srcOff_element c r hk, fun hop => ?rows, fun hop => ?columns⟩, fun c hc x => if_pos hc⟩
  case copy =>
    refine copies_of_copyStart (fun _ => rfl) rfl rfl (fun s h => ?_) fun _ _ => rfl
    unfold copyShape
    dsimp only
    rw [rdS_certain h]
  case copy2d =>
    exact copies_of_copyStart (fun _ => rfl) rfl rfl (fun _ h => copyShape_rows (by exact fun _ => nofun) h)
      fun _ h => copyPitch_rows (by exact fun _ => nofun) h
  case copyt =>
    exact copies_of_copyStart (fun _ => rfl) rfl rfl (fun _ h => copyShape_rows (by exact fun _ => nofun) h)
      fun _ h => copyPitch_rows (by exact fun _ => nofun) h
  case rows => exact (dstOff_element c r hk).trans (if_neg hop)
  case columns => exact (dstOff_element c r hk).trans (if_pos hop)

end Sys2Proof.Machine
end

section
/-! TAGCLR (R133, R141), and O40. -/

namespace Sys2Proof.Machine

/-- A list of conditions reports none where none of them holds. -/
theorem firstBad_eq_none (l : List (Bool × Nat)) : firstBad l = none ↔ ∀ e ∈ l, e.1 = false := by
  induction l with
  | nil => exact ⟨fun _ _ h => (nomatch h), fun _ => rfl⟩
  | cons e r ih =>
    obtain ⟨b, n⟩ := e
    cases b with
    | true => exact ⟨fun h => (nomatch h), fun h => nomatch h _ List.mem_cons_self⟩
    | false => exact ih.trans (by simp)

/-- The fields of TAGCLR that are reserved (R141). -/
theorem reservedBit_tagclr (f : XSlot) : (Instr.tagclr f).reservedBit = firstBad [(f.sb ≠ 0, 13), (f.scc ≠ 0, 18), (f.tag ≠ 0, 23),
    (f.sc ≠ 0, 29), (f.h ≠ 0, 32), (f.h2 ≠ 0, 36), (f.fs ≠ 0, 40), (f.fd2 ≠ 0, 43), (f.imm ≠ 0, 46)] := rfl

/-- Settles O40: TAGCLR's effect is `clearTags`, which leaves a DONE bit where the mask's bit is 0 or the tag has completed in this
cycle. -/
theorem tagClear : Obligations.TagClear := by
  unfold Obligations.TagClear
  refine fun f s => ⟨rfl, ?reserved, fun ha hs => ?clears⟩
  case reserved =>
    rw [reservedBit_tagclr, firstBad_eq_none]
    simp
  case clears =>
    refine ⟨s.ctx.a.tagDone &&& ~~~(s.ctx.a.sReg f.sa.toNat &&& ~~~s.ctx.tagNew), ?_, fun t ht => ?_⟩
    · rw [accepted_x (own := .go) rfl ha rfl rfl, checkedState_open rfl, rdS_certain hs.1]
      unfold clearTags State.modArch
      exact congrArg _ (State.modCtx_congr rfl)
    · simp [ht]

end Sys2Proof.Machine
end

section
/-! Tags, watches and events (R133, R138 to R140, R308 to R310), and O41. -/

namespace Sys2Proof.Machine

/-! ### What every context of a thread has -/

/-- The architectural state of every context that runs thread `i` meets `p`. -/
def InstMeets (i : InstId) (p : Arch → Prop) (s : State) : Prop := ∀ k ∈ s.cores, ∀ c ∈ k.2.ctxs, c.2.inst = some i → p c.2.a

namespace InstMeets

variable {i : InstId} {p : Arch → Prop} {s : State}

theorem of_cores {t : State} (h : InstMeets i p s) (hc : t.cores = s.cores) : InstMeets i p t := by
  unfold InstMeets
  rw [hc]
  exact h

theorem modLaunch (h : InstMeets i p s) (n : Nat) (g : Launch → Launch) : InstMeets i p (s.modLaunch n g) :=
  h.of_cores (State.cores_modLaunch s n g)

theorem coreAt (h : InstMeets i p s) (k : Nat) : ∀ c ∈ (s.coreAt k).ctxs, c.2.inst = some i → p c.2.a := by
  unfold State.coreAt Map.get
  cases hf : s.cores.find? k with
  | none => exact fun _ hc => nomatch hc
  | some x => exact h _ (Map.mem_of_find? hf)

theorem modCoreAt (h : InstMeets i p s) (n : Nat) {g : Core → Core} (hg : ∀ k, (g k).ctxs = k.ctxs) : InstMeets i p (s.modCoreAt n g) := by
  intro k hk
  rcases Map.mem_set hk with rfl | hk
  · exact (hg (s.coreAt n)).symm ▸ h.coreAt n
  · exact h k hk

/-- Every context changed by `g`. -/
theorem mapCtxs {q : Arch → Prop} {g : Ctx → Ctx} (h : InstMeets i p s) (hi : ∀ c, (g c).inst = c.inst)
    (ha : ∀ c : Ctx, c.inst = some i → p c.a → q (g c).a) : InstMeets i q (s.mapCtxs g) := by
  intro k hk c hc hinst
  obtain ⟨k₀, hk₀, rfl⟩ := List.mem_map.1 hk
  obtain ⟨c₀, hc₀, rfl⟩ := List.mem_map.1 hc
  rw [hi] at hinst
  exact ha c₀.2 hinst (h k₀ hk₀ c₀ hc₀ hinst)

theorem wake (h : InstMeets i p s) (w : WaitOn → Bool) : InstMeets i p (wake w s) :=
  h.mapCtxs (fun c => by split <;> rfl) fun c _ hp => by split <;> exact hp

theorem foldl {α : Type} {step : State → α → State} (hstep : ∀ s a, InstMeets i p s → InstMeets i p (step s a)) (l : List α) :
    ∀ s, InstMeets i p s → InstMeets i p (l.foldl step s) := by
  induction l with
  | nil => exact fun _ h => h
  | cons a r ih => exact fun s h => ih _ (hstep s a h)

theorem spSetFull (h : InstMeets i p s) (c a : Nat) (b : Bool) : InstMeets i p (spSetFull c a b s) :=
  (h.modCoreAt c (by exact fun _ => rfl)).wake _

theorem spoilPonds (h : InstMeets i p s) (c a n : Nat) : InstMeets i p (spoilPonds c a n s) := by
  unfold Machine.spoilPonds
  split
  · exact h
  · exact (h.of_cores (t := s.fresh.2) rfl).modLaunch _ _

theorem dropClean (h : InstMeets i p s) : InstMeets i p (dropClean s) :=
  foldl (step := fun s (e : Nat × Core) => l1Invalidate e.1 s) (fun _ _ h => h.modCoreAt _ (by exact fun _ => rfl)) _ _ h

theorem fire (h : InstMeets i p s) (w : Watch) : InstMeets i p (w.fire s) := by
  unfold Watch.fire
  split
  · exact (h.dropClean.spoilPonds _ _ _).spSetFull _ _ _
  · exact (h.spoilPonds _ _ _).spSetFull _ _ _

/-- Of the thread's contexts, `g` changes what they meet. -/
theorem forInst {q : Arch → Prop} {g : Ctx → Ctx} {r : InstRec → InstRec} (h : InstMeets i p s) (hi : ∀ c, (g c).inst = c.inst)
    (ha : ∀ c : Ctx, p c.a → q (g c).a) : InstMeets i q (forInst i g r s) := by
  refine (h.mapCtxs (fun c => ?_) fun c hc hp => ?_).modLaunch _ _
  · split
    exacts [hi c, rfl]
  · rw [if_pos hc]
    exact ha c hp

theorem fireWatches (h : InstMeets i p s) : InstMeets i p (fireWatches i s) :=
  foldl (fun _ w h => h.fire w) _ _ ((h.forInst (by exact fun _ => rfl) (by exact fun _ h => h)).modLaunch _ _)

end InstMeets

/-! ### A completed tag (R133, R138) -/

theorem inst_tagCompletes (t : Nat) (c : Ctx) : (c.tagCompletes t).inst = c.inst := by
  unfold Ctx.tagCompletes Ctx.wakeTags Ctx.both
  split <;> rfl

theorem tagPend_tagClose (a : Arch) (done : Bool) {t : Nat} (ht : t < 64) : (a.tagClose t done).tagPend.getLsbD t = false := by
  unfold Arch.tagClose
  rw [BitVec.getLsbD_and, BitVec.getLsbD_not, oneBit_eq_shift]
  simp [ht]

/-- Wherever the thread runs, the tag of its completed command is DONE and no longer PENDING. -/
theorem instMeets_tagComplete (i : InstId) {t : Nat} (ht : t < 64) (s : State) :
    InstMeets i (fun a => a.tagDone.getLsbD t = true ∧ a.tagPend.getLsbD t = false) (tagComplete i t s) := by
  have hall : InstMeets i (fun _ => True) s := fun _ _ _ _ _ => trivial
  have hclosed := hall.forInst (q := fun a => a.tagDone.getLsbD t = true ∧ a.tagPend.getLsbD t = false)
    (r := InstRec.tagCompletes t) (inst_tagCompletes t) fun c _ => by
      rw [a_tagCompletes]
      exact ⟨tagDone_tagClose c.a ht, tagPend_tagClose c.a true ht⟩
  exact (hclosed.modLaunch _ _).fireWatches

/-! ### The masks of WAITANY and WAITALL (R139) -/

theorem and_or_eq_zero {m done pend : Word} : m &&& (done ||| pend) = 0 ↔ m &&& done = 0 ∧ m &&& pend = 0 := by
  rw [BitVec.and_or_distrib_left]
  exact BitVec.or_eq_zero_iff

theorem and_not_known {m done pend : Word} (h : m &&& ~~~done = 0) : m &&& ~~~(done ||| pend) = 0 := by
  rw [BitVec.not_or, ← BitVec.and_assoc, h]
  exact BitVec.zero_and

theorem ownWaitany_certain {s : State} (h : s.ctx.a.check = true) (f : XSlot) : ownWaitany f s =
    if s.ctx.a.sReg f.sa.toNat &&& (s.ctx.a.tagDone ||| s.ctx.a.tagPend) = 0 then trap6S (.waitany f) f.sa.toNat s
    else if s.ctx.a.sReg f.sa.toNat &&& s.ctx.a.tagDone = 0 then .block .tags else .go := by
  unfold ownWaitany
  rw [rdS_certain h]

theorem ownWaitall_certain {s : State} (h : s.ctx.a.check = true) (f : XSlot) : ownWaitall f s =
    if s.ctx.a.sReg f.sa.toNat &&& ~~~(s.ctx.a.tagDone ||| s.ctx.a.tagPend) ≠ 0 then trap6S (.waitall f) f.sa.toNat s
    else if s.ctx.a.sReg f.sa.toNat &&& ~~~s.ctx.a.tagDone ≠ 0 then .block .tags else .go := by
  unfold ownWaitall
  rw [rdS_certain h]

/-- WAITANY passes its own check where a tag of its mask is DONE. -/
theorem ownWaitany_eq_go {s : State} (h : s.ctx.a.check = true) (f : XSlot) :
    ownWaitany f s = .go ↔ s.ctx.a.sReg f.sa.toNat &&& s.ctx.a.tagDone ≠ 0 := by
  rw [ownWaitany_certain h]
  unfold trap6S
  split
  next hnone => exact iff_of_false nofun (not_not.2 (and_or_eq_zero.1 hnone).1)
  next => split <;> simp_all

/-- WAITALL passes its own check where every tag of its mask is DONE. -/
theorem ownWaitall_eq_go {s : State} (h : s.ctx.a.check = true) (f : XSlot) :
    ownWaitall f s = .go ↔ s.ctx.a.sReg f.sa.toNat &&& ~~~s.ctx.a.tagDone = 0 := by
  rw [ownWaitall_certain h]
  unfold trap6S
  split
  next hidle => exact iff_of_false nofun fun hall => hidle (and_not_known hall)
  next => split <;> simp_all

/-! ### Verdicts of an operation alone -/

/-- An issue of `i` makes its own checks, and all but those of the operation's own entry pass. -/
structure PassesOthers (i : Instr) (s : State) : Prop where
  alone : s.foc.pre = false
  v5 : verdict5 i (checkedState i s) = .go
  v6 : verdict6 i (checkedState i s) = .go
  clean : corruptOf i (checkedState i s) = none

namespace PassesOthers

variable {i : Instr} {s : State}

theorem accepted_iff (h : PassesOthers i s) : Accepted i s ↔ ownOf i s = .go := by
  unfold Accepted
  rw [verdictOf_eq_own h.v5 h.v6 h.clean, h.alone]
  exact or_iff_right Bool.false_ne_true

theorem blocks (h : PassesOthers i s) {own : Verdict} {eff : State → State} {w : WaitOn} (hx : exec i s = gated i own eff s)
    (ho : own = .block w) : exec i s = .next (blockOn w (checkedState i s)) := by
  rw [hx, gated_act h.alone (verdictOf_eq_own h.v5 h.v6 h.clean) (by rw [ho]; exact nofun), ho]
  rfl

end PassesOthers

/-! ### Watches (R140) -/

/-- FFRDY's watch joins those of its context, and fires where it is ready. -/
theorem exec_ffrdy {f : XSlot} {s : State} {c a : Nat} (ha : Accepted (.ffrdy f) s) (hs : Certain s)
    (hp : spPlace s s.foc.core s.lid f.h.toNat (s.ctx.a.sReg f.sb.toNat).toNat 4 = some (c, a)) :
    exec (.ffrdy f) s = .next (fireWatches s.instHere ((checkedState (.ffrdy f) s).modCtx fun x => { x with
      watches := x.watches ++ [{ mask := s.ctx.a.sReg f.sa.toNat, core := c, addr := a, sc := f.sc.toNat }] })) := by
  have ht := SameTerms.checkedState (.ffrdy f) s
  rw [accepted_x (own := ownFfrdy f s) rfl ha rfl rfl, rdS_certain (ht.certain hs).1, rdS_certain (ht.certain hs).1, checkedState_a,
    ht.spPlace, ht.foc, ht.lid, hp, ht.instHere]

/-! ### Events (R309, R310) -/

theorem exec_evsig {f : XSlot} {s : State} (ha : Accepted (.evsig f) s) (hs : Certain s) :
    let t := (s.ctx.a.sReg f.sa.toNat).toNat
    exec (.evsig f) s = .next (submit (.access (atomAccess s.uid
      (.event (t / 2 ^ 16 % 16) (t % 1024) ((s.ctx.a.sReg f.sb.toNat).truncate 32)) f.sc.toNat s)) { s with uid := s.uid + 1 }) := by
  have hlow (n : Nat) : bits n 9 0 = n % 1024 := congrArg (· % 1024) (Nat.div_one n)
  intro t
  rw [accepted_x (own := ownEvsig f s) rfl ha rfl rfl, checkedState_open rfl, rdS_certain hs.1, rdS_certain hs.1]
  dsimp only
  rw [newAccess_certain hs.2, hlow]
  rfl

theorem eventsHere_checkedState (i : Instr) (s : State) : eventsHere (checkedState i s) = eventsHere s := by
  have ht := SameTerms.checkedState i s
  have hl : (checkedState i s).launch? = s.launch? := by
    unfold State.launch? State.launchOf State.launchAt
    rw [ht.inst, dev_checkedState]
  unfold eventsHere
  rw [hl, ht.instHere]

theorem exec_evwait {f : XSlot} {s : State} (ha : Accepted (.evwait f) s) (hs : Certain s) :
    let hit := eventsHere s &&& (s.ctx.a.sReg f.sa.toNat).truncate 32
    exec (.evwait f) s = .next (acquire f.sc.toNat (((checkedState (.evwait f) s).modLaunch s.lid fun l =>
      { l with insts := l.insts.map fun r =>
        if r.stage = s.instHere.stage ∧ r.num = s.instHere.num then { r with events := r.events &&& ~~~hit } else r }).landsS
      f.sb.toNat 1 (hit.zeroExtend 64))) := by
  have ht := SameTerms.checkedState (.evwait f) s
  intro hit
  rw [accepted_x (own := ownEvwait f s) rfl ha rfl rfl, rdS_certain (ht.certain hs).1, checkedState_a, eventsHere_checkedState,
    ht.lid, ht.instHere]
  dsimp only
  rw [postS_certain (by rw [State.foc_modLaunch, ht.foc]; exact hs.2)]

/-- EVWAIT on a proper mask with no earlier access to act after: whether it blocks is for the events to say. -/
theorem ownEvwait_ready {f : XSlot} {s : State} (h : s.ctx.a.check = true) (hlt : (s.ctx.a.sReg f.sa.toNat).toNat < 2 ^ 32)
    (hne : (s.ctx.a.sReg f.sa.toNat).toNat ≠ 0) (hact : actsAfter s = false) : ownEvwait f s =
      if eventsHere s &&& (s.ctx.a.sReg f.sa.toNat).truncate 32 = 0 then .block .event else .go := by
  have hbad : ¬((s.ctx.a.sReg f.sa.toNat).toNat ≥ 2 ^ 32 ∨ (s.ctx.a.sReg f.sa.toNat).toNat = 0) :=
    not_or.2 ⟨Nat.not_le.2 hlt, hne⟩
  unfold ownEvwait
  rw [rdS_certain h]
  dsimp only
  rw [if_neg hbad, if_neg (by rw [hact]; exact Bool.false_ne_true)]
  rfl

/-! ### The statement of O41 -/

/-- Settles O41: where the other checks pass, the masks of WAITANY, WAITALL and EVWAIT decide between block and go; a completion
closes the tag in every context of the thread, which firing its watches leaves. -/
theorem tagsAndEvents : Obligations.TagsAndEvents := by
  unfold Obligations.TagsAndEvents
  refine ⟨fun f s => ⟨?waitany, ?anyGoes, ?anyBlocks, ?allGoes, ?allBlocks, ?ffrdy, ?done⟩, fun f s => ⟨?evsig, ?evwait, ?events⟩⟩
  case waitany =>
    intro ha hs
    have ht := (SameTerms.checkedState (.waitany f) s).certain hs
    rw [accepted_x (own := ownWaitany f s) rfl ha rfl rfl, rdS_certain ht.1, postS_certain ht.2, checkedState_a]
  case anyGoes =>
    rintro ⟨hp, hs, h5, h6, hc⟩
    exact (PassesOthers.mk hp h5 h6 hc).accepted_iff.trans (ownWaitany_eq_go hs.1 f)
  case anyBlocks =>
    rintro ⟨hp, hs, h5, h6, hc⟩ hnone hknown
    refine (PassesOthers.mk hp h5 h6 hc).blocks (own := ownWaitany f s) rfl ?_
    rw [ownWaitany_certain hs.1, if_neg hknown, if_pos hnone]
  case allGoes =>
    rintro ⟨hp, hs, h5, h6, hc⟩
    exact (PassesOthers.mk hp h5 h6 hc).accepted_iff.trans (ownWaitall_eq_go hs.1 f)
  case allBlocks =>
    rintro ⟨hp, hs, h5, h6, hc⟩ hsome hknown
    refine (PassesOthers.mk hp h5 h6 hc).blocks (own := ownWaitall f s) rfl ?_
    rw [ownWaitall_certain hs.1, if_neg (not_not.2 hknown), if_pos hsome]
  case ffrdy => exact fun c a => exec_ffrdy
  case done => exact fun i t ht k hk c hc hi => instMeets_tagComplete i ht s k hk c hc hi
  case evsig => exact exec_evsig
  case evwait => exact exec_evwait
  case events =>
    intro hp hs h5 h6 hc hlt hne hact
    have hown := ownEvwait_ready hs.1 hlt hne hact
    have hpass := PassesOthers.mk hp h5 h6 hc
    refine ⟨fun hnone => hpass.blocks (own := ownEvwait f s) rfl ?_, fun hhit => hpass.accepted_iff.2 ?_⟩
    · rw [hown, if_pos hnone]
    · exact hown.trans (if_neg hhit)

end Sys2Proof.Machine
end

section
/-! An STE whose issue is said to be checked, through a handle of a page, and O18. -/

namespace Sys2Proof.Machine

/-! ### STE through h3 (R117) -/

/-- An STE of s1 through h3, which R117 does not let it name. -/
def steThroughPage : ASlot := { off := 0, step := 0, sc := 0, w := 2, h := 3, xs := 0, dr := 1, mir := 0, sdly := 0 }

/-- A core whose context has a valid page in h3 and a region of the scratchpad, and whose issue counts as checked: check 5 of
R63 is not made again. -/
def steUnchecked : State := {
  cores := [(0, { regions := [{ launch := 1, base := 0, size := 65536 }]
                  ctxs := [(0, { inst := some { launch := 1, stage := 0, num := 0 }
                                 a := { s := [(1, 5)], h := [(3, { st := .valid, wr := true })] } })] })]
  foc := { pre := true } }

theorem ready_steUnchecked : Ready (.ste steThroughPage) steUnchecked :=
  ⟨.inl rfl, by unfold Startable; decide +kernel, rfl, rfl⟩

/-- The page is where the operation's element lies (R94), so it stores to no scratchpad byte. -/
theorem not_isStored_steUnchecked (c a : Nat) : ¬isStored (.ste steThroughPage) 3#4 steUnchecked c a := by
  rintro ⟨e, he, b, hloc, -⟩
  obtain rfl := List.mem_singleton.1 he
  have hpage : locOf steUnchecked (3#4).toNat (offsetOf steThroughPage 4 steUnchecked).toNat 4 = .gm 0 := by decide +kernel
  exact nomatch hpage.symm.trans hloc

/-- The first byte of core 0's SRAM in the next state. -/
def firstByte (r : Host.Outcome State Fault Refusal) : Byte :=
  match r with
  | .next t => (t.coreAt 0).sp.byte 0
  | _ => 0

/-- The value of s1 stands in the scratchpad: the word is placed as one of h2 (R93). -/
theorem firstByte_exec_ste : firstByte (exec (.ste steThroughPage) steUnchecked) = 5 := by decide +kernel

/-- Refutes O18: of an issue that counts as checked (`pre`), an STE may name h3. Its element lies in the page of that handle, but it
writes the scratchpad word that h2 has at the same offset, since `feWord` places every handle from 2 on in h2's window. -/
theorem not_memoryFrames : ¬ Obligations.MemoryFrames := by
  unfold Obligations.MemoryFrames
  intro h
  obtain ⟨t, ht⟩ := everyInstructionAnswers.1 (.ste steThroughPage) steUnchecked (by nofun)
  obtain ⟨hstore, -⟩ := h _ _ t (by decide +kernel) ht
  obtain ⟨hbytes, -⟩ := hstore 3#4 rfl ready_steUnchecked
  have hkept : (t.coreAt 0).sp.byte 0 = 0 := hbytes 0 0 (not_isStored_steUnchecked 0 0)
  have hwritten : (t.coreAt 0).sp.byte 0 = 5 := by
    rw [← firstByte_exec_ste, ht]
    rfl
  exact absurd (hwritten.symm.trans hkept) (by decide)

end Sys2Proof.Machine
end

section
/-! What reads and writes of memory below the L1, and the L1's write-back, leave of the device and of the cores (R99 to R103,
R155). -/

namespace Sys2Proof.Machine

/-! ### The device without its memories -/

/-- The device without what an access to memory may change of it: its memories, the versions of launches and the counts. -/
def Dev.butMemory (d : Dev) : Dev :=
  { d with hbm := [], blockKey := [], hostMem := [], l2 := [], mere := [], mereCnt := [], evicts := 0, launches := [], pool := [] }

theorem butMemory_ite {p : Prop} {_ : Decidable p} {d e e' : Dev} (h : e.butMemory = d.butMemory) (h' : e'.butMemory = d.butMemory) :
    (if p then e else e').butMemory = d.butMemory := by
  split
  · exact h
  · exact h'

@[simp] theorem butMemory_hbmTake (c : CLine) (d : Dev) : (hbmTake c d).butMemory = d.butMemory := by
  refine foldl_leaves Dev.butMemory (fun e i => ?_) _ _
  split <;> rfl

@[simp] theorem butMemory_countMere (pa vf i : Nat) (d : Dev) : (countMere pa vf i d).butMemory = d.butMemory := rfl
@[simp] theorem butMemory_mereDrop (pa : Nat) (d : Dev) : (mereDrop pa d).butMemory = d.butMemory := rfl
@[simp] theorem butMemory_l2Drop (pa : Nat) (d : Dev) : (l2Drop pa d).butMemory = d.butMemory := rfl

@[simp] theorem butMemory_mereFlush (pa vf : Nat) (d : Dev) : (mereFlush pa vf d).butMemory = d.butMemory := by
  unfold mereFlush
  split
  · rfl
  · exact butMemory_ite rfl (butMemory_hbmTake _ d)

@[simp] theorem butMemory_mereRoom (pa vf : Nat) (d : Dev) : (mereRoom pa vf d).butMemory = d.butMemory := by
  refine butMemory_ite rfl ?_
  split
  · rfl
  · exact butMemory_mereFlush _ _ d

@[simp] theorem butMemory_mereLookup (pa key vf : Nat) (w : Bool) (d : Dev) : (mereLookup pa key vf w d).butMemory = d.butMemory := by
  refine butMemory_ite rfl ((butMemory_mereRoom _ _ _).trans ?_)
  simp

@[simp] theorem butMemory_l2Flush (pa vf : Nat) (d : Dev) : (l2Flush pa vf d).butMemory = d.butMemory := by
  unfold l2Flush
  split
  · rfl
  · exact butMemory_ite rfl (butMemory_mereLookup _ _ _ _ d)

@[simp] theorem butMemory_l2Room (pa vf : Nat) (d : Dev) : (l2Room pa vf d).butMemory = d.butMemory := by
  refine butMemory_ite rfl ?_
  split
  · rfl
  · exact butMemory_l2Flush _ _ d

@[simp] theorem butMemory_l2Touch (pa key vf : Nat) (d : Dev) : (l2Touch pa key vf d).butMemory = d.butMemory := by
  refine butMemory_ite rfl ((butMemory_mereLookup _ _ _ _ _).trans ?_)
  simp

@[simp] theorem butMemory_touchAll (pa n key vf : Nat) (d : Dev) : (touchAll pa n key vf d).butMemory = d.butMemory := by
  exact butMemory_ite rfl (foldl_leaves Dev.butMemory (fun e l => butMemory_l2Touch l key vf e) _ _)

@[simp] theorem butMemory_homePut (key pa b : Nat) (d : Dev) : (homePut key pa b d).butMemory = d.butMemory := by
  exact butMemory_ite rfl rfl

@[simp] theorem butMemory_homePuts (key n : Nat) : ∀ (pa v : Nat) (d : Dev), (homePuts key pa n v d).butMemory = d.butMemory := by
  induction n with
  | zero => exact fun _ _ _ => rfl
  | succ n ih => exact fun pa v d => (ih _ _ _).trans (butMemory_homePut _ _ _ _)

/-! ### What a write below the L1 leaves -/

/-- `t` is `s` but for the device's memories, and which contexts are woken. -/
structure WroteBelow (s t : State) : Prop where
  foc : t.foc = s.foc
  dev : t.dev.butMemory = s.dev.butMemory
  core (c : Nat) : ∃ l, t.coreAt c = { s.coreAt c with ctxs := l }

namespace WroteBelow

theorem refl (s : State) : WroteBelow s s := ⟨rfl, rfl, fun _ => ⟨_, rfl⟩⟩

theorem trans {s t u : State} (h : WroteBelow s t) (k : WroteBelow t u) : WroteBelow s u where
  foc := k.foc.trans h.foc
  dev := k.dev.trans h.dev
  core c := by
    obtain ⟨l, hl⟩ := h.core c
    obtain ⟨m, hm⟩ := k.core c
    exact ⟨m, by rw [hm, hl]⟩

theorem foldl {α : Type} {step : State → α → State} (h : ∀ s a, WroteBelow s (step s a)) (l : List α) :
    ∀ s, WroteBelow s (l.foldl step s) := by
  induction l with
  | nil => exact refl
  | cons a r ih => exact fun s => (h s a).trans (ih _)

theorem modDev (s : State) {g : Dev → Dev} (hg : (g s.dev).butMemory = s.dev.butMemory) : WroteBelow s (s.modDev g) :=
  ⟨rfl, hg, fun _ => ⟨_, rfl⟩⟩

theorem modLaunch (s : State) (n : Nat) (g : Launch → Launch) : WroteBelow s (s.modLaunch n g) where
  foc := State.foc_modLaunch s n g
  dev := by unfold State.modLaunch; split <;> rfl
  core c := ⟨_, by rw [State.coreAt_modLaunch]⟩

theorem wake (s : State) (p : WaitOn → Bool) : WroteBelow s (wake p s) := ⟨rfl, rfl, coreAt_wake p s⟩

theorem homeWrite (s : State) (pa n v key vf : Nat) : WroteBelow s (homeWrite pa n v key vf s) :=
  (modDev s (by simp)).trans (wake _ _)

theorem lowWrite (s : State) (ver : Option Nat) (pa n v key vf : Nat) : WroteBelow s (lowWrite ver pa n v key vf s) := by
  unfold Machine.lowWrite
  split
  · split
    · extract_lets m t
      have ht : WroteBelow s t := by
        unfold t
        split
        · exact refl s
        · exact modDev s rfl
      exact ((ht.trans (modLaunch _ _ _)).trans (modDev _ (by simp))).trans (wake _ _)
    · exact homeWrite s _ _ _ _ _
  · exact homeWrite s _ _ _ _ _

theorem writeDirty (s : State) (x : L1Line) (vf : Nat) : WroteBelow s (writeDirty x vf s) :=
  foldl (fun s i => by
    split
    · exact lowWrite s _ _ _ _ _ _
    · exact refl s) _ s

end WroteBelow

/-! ### What the write-back unit leaves (R155) -/

/-- `t` has the focus of `s` and its device, but for the memories. -/
structure WroteBack (s t : State) : Prop where
  foc : t.foc = s.foc
  dev : t.dev.butMemory = s.dev.butMemory

namespace WroteBack

theorem refl (s : State) : WroteBack s s := ⟨rfl, rfl⟩

theorem trans {s t u : State} (h : WroteBack s t) (k : WroteBack t u) : WroteBack s u :=
  ⟨k.foc.trans h.foc, k.dev.trans h.dev⟩

theorem foldl {α : Type} {step : State → α → State} (h : ∀ s a, WroteBack s (step s a)) (l : List α) :
    ∀ s, WroteBack s (l.foldl step s) := by
  induction l with
  | nil => exact refl
  | cons a r ih => exact fun s => (h s a).trans (ih _)

theorem modCoreAt (s : State) (c : Nat) (g : Core → Core) : WroteBack s (s.modCoreAt c g) := ⟨rfl, rfl⟩

theorem l1Flush (s : State) (c : Nat) (x : L1Line) : WroteBack s (l1Flush c x s) := by
  unfold Machine.l1Flush
  refine trans ?_ (modCoreAt _ c _)
  split
  · exact refl s
  · exact ⟨(WroteBelow.writeDirty s x x.vf).foc, (WroteBelow.writeDirty s x x.vf).dev⟩

theorem l1Drop (s : State) (c : Nat) (x : L1Line) : WroteBack s (l1Drop c x s) := modCoreAt s c _

theorem flushUpTo (s : State) (c : Nat) (g : BitVec 16) : WroteBack s (flushUpTo c g s) := foldl (fun s x => l1Flush s c x) _ s

theorem promoteOldest (s : State) (c : Nat) : WroteBack s (promoteOldest c s) := by
  unfold Machine.promoteOldest
  split
  · exact refl s
  · exact (flushUpTo s c _).trans (modCoreAt _ c _)

theorem promoteUpTo (s : State) (c : Nat) (g : BitVec 16) : WroteBack s (promoteUpTo c g s) := foldl (fun s _ => promoteOldest s c) _ s

theorem l1WriteBack (s : State) (c : Nat) (x : L1Line) : WroteBack s (l1WriteBack c x s) := by
  unfold Machine.l1WriteBack
  split
  · exact refl s
  · exact (promoteUpTo s c _).trans (l1Flush _ c x)

theorem writePagesBack (s : State) (pages : List (Nat × Nat)) : WroteBack s (writePagesBack pages s) :=
  foldl (fun s c => foldl (fun s x => (l1WriteBack s c x).trans (l1Drop _ c x)) _ s) _ s

end WroteBack

end Sys2Proof.Machine
end

section
/-! What firmware writes through KDDATA, the flush command and a key's unloading (R324, R337, R340, R388). -/

namespace Sys2Proof.Machine

/-! ### Refused writes (R388) -/

/-- A write that is out of range sets ERR, bit 55 of KDSEL, and nothing else. -/
theorem refused_of_kdErr {i : Instr} {s : State} (h : exec i s = .next (kdErr s)) : Refused i s := by
  refine ⟨kdErr s, h, ?_, rfl⟩
  have herr : (BitVec.ofNat 64 (2 ^ 55)).getLsbD 55 = true := by decide
  unfold kdErr
  rw [State.dev_modDev_eq, Map.get_set_self, BitVec.getLsbD_or, herr, Bool.or_true]

/-! ### Descriptors (R324, R337) -/

section
variable {s : State} {n w : Nat}

theorem exec_addressSpaceDescriptorWrite (hn : n < 4096) : Answers (.addressSpaceDescriptorWrite n w) s fun t =>
    kdRead t 1 n = BitVec.ofNat 64 (w / 2 ^ 63 % 2 * 2 ^ 63 + w / 2 ^ 16 % 2 ^ 35 * 2 ^ 16)
      ∧ ∀ m, m ≠ n → t.dev.asd.get m 0 = s.dev.asd.get m 0 :=
  ⟨_, if_neg (Nat.not_le.2 hn), Map.get_set_self _ _ _ _, fun _ hm => Map.get_set_ne _ _ _ _ _ hm⟩

theorem exec_keySlotDescriptorWrite (h0 : 0 < n) (hn : n < 1024) : Answers (.keySlotDescriptorWrite n w) s fun t =>
    let k := t.dev.keys.get n {}
    k.glob = w.testBit 6 ∧ k.owner = w % 32 ∧ k.loaded = (s.dev.keys.get n {}).loaded ∧ k.key = (s.dev.keys.get n {}).key := by
  refine ⟨_, (if_neg (Nat.not_le.2 hn)).trans (if_neg (Nat.ne_of_gt h0)), ?_⟩
  dsimp only
  rw [State.dev_modDev_eq, Map.get_set_self]
  exact ⟨rfl, by simp [bits], rfl, rfl⟩

/-! ### The key port (R337, R340) -/

/-- A loaded slot holds its key and its port is empty. -/
theorem loadKey_slot (n : Nat) (l : List Word) (d : Dev) : (loadKey n l d).keys.get n {} = { d.keys.get n {} with loaded := true, key := l }
    ∧ (loadKey n l d).keyPort.get n [] = [] := by
  have hport : (Map.drop d.keyPort n).get n [] = [] := by rw [Map.get, Map.find?_drop_self]; rfl
  unfold loadKey
  dsimp only
  split
  · exact ⟨Map.get_set_self _ _ _ _, hport⟩
  · exact ⟨Map.get_set_self _ _ _ _, hport⟩

theorem exec_keyPortWrite (hn : n < 1024) (hl : (s.dev.keys.get n {}).loaded = false) : let l := s.dev.keyPort.get n []
    Answers (.keyPortWrite n w) s fun t => let k := t.dev.keys.get n {}
      (l.length < 7 → k = s.dev.keys.get n {} ∧ t.dev.keyPort.get n [] = l ++ [BitVec.ofNat 64 w])
      ∧ (7 ≤ l.length → k.loaded = true ∧ k.key = l ++ [BitVec.ofNat 64 w] ∧ t.dev.keyPort.get n [] = []) := by
  intro l
  have hopen : ¬(n ≥ 1024 ∨ (s.dev.keys.get n {}).loaded = true) := not_or.2 ⟨Nat.not_le.2 hn, by rw [hl]; exact Bool.false_ne_true⟩
  have hlen : (l ++ [BitVec.ofNat 64 w]).length = l.length + 1 := List.length_append
  refine ⟨_, if_neg hopen, fun h => ?_, fun h => ?_⟩
  · rw [State.dev_modDev_eq, if_pos (show (l ++ [BitVec.ofNat 64 w]).length < 8 by omega)]
    exact ⟨rfl, Map.get_set_self _ _ _ _⟩
  · rw [State.dev_modDev_eq, if_neg (show ¬(l ++ [BitVec.ofNat 64 w]).length < 8 by omega), (loadKey_slot n _ s.dev).1]
    exact ⟨rfl, rfl, (loadKey_slot n _ s.dev).2⟩

/-! ### A key's unloading (R340, R341) -/

/-- After a renaming no block has the old number. -/
theorem renamed_ne {a b : Nat} (h : b ≠ a) {m : Map Nat} {e : Nat × Nat} (he : e ∈ renamed a b m) : e.2 ≠ a := by
  obtain ⟨x, -, rfl⟩ := List.mem_map.1 he
  split
  next => exact h
  next hne => exact hne

theorem renameKey_shadow_ne {a b : Nat} (h : b ≠ a) {d : Dev} {l : Nat × Launch} (hl : l ∈ (renameKey a b d).launches) :
    ∀ u ∈ l.2.shadow, ∀ e ∈ u.2.keys, e.2 ≠ a := by
  obtain ⟨l', -, rfl⟩ := List.mem_map.1 hl
  intro u hu e he
  obtain ⟨u', -, rfl⟩ := List.mem_map.1 hu
  exact renamed_ne h he

/-- The number that lines held under an unloaded key get is above every slot's. -/
theorem heldKey_ne {n : Nat} (hn : n < 1024) (u : Nat) : 1024 + u ≠ n := by omega

theorem exec_keySlotUnload_ready (h0 : 0 < n) (hn : n < 1024) (hl : (s.dev.keys.get n {}).loaded = true)
    (hr : unloadReady n s = true) : Answers (.keySlotUnload n) s fun t => let k := t.dev.keys.get n {}
      k.loaded = false ∧ k.key = [] ∧ (∀ e ∈ t.dev.blockKey, e.2 ≠ n)
      ∧ ∀ l ∈ t.dev.launches, ∀ u ∈ l.2.shadow, ∀ e ∈ u.2.keys, e.2 ≠ n := by
  have hbusy : ¬(n = 0 ∨ (s.dev.keys.get n {}).loaded = false) := by simp [hl, Nat.ne_of_gt h0]
  have hgo : ¬(!unloadReady n s) = true := by simp [hr]
  refine ⟨_, (if_neg hbusy).trans (if_neg hgo), ?_⟩
  dsimp only
  rw [State.dev_modDev_eq, Map.get_set_self]
  have hne := heldKey_ne hn (l1DropKey n s).uid
  revert hne
  generalize 1024 + (l1DropKey n s).uid = b, cachesDropKey n _ = d
  exact fun hne => ⟨rfl, rfl, fun e he => renamed_ne hne he, fun l hl => renameKey_shadow_ne hne hl⟩

theorem exec_keySlotUnload_waits (h0 : 0 < n) (hl : (s.dev.keys.get n {}).loaded = true) (hr : unloadReady n s = false) :
    Answers (.keySlotUnload n) s fun t => t.dev.keys = s.dev.keys ∧ n ∈ t.dev.unloads := by
  have hbusy : ¬(n = 0 ∨ (s.dev.keys.get n {}).loaded = false) := by simp [hl, Nat.ne_of_gt h0]
  exact ⟨_, (if_neg hbusy).trans (if_pos (by simp [hr])), rfl, List.mem_cons_self⟩

/-! ### Limits and grants (R388) -/

/-- A limit that a word takes fits in 64 bits. -/
theorem limitOk_lt {k v : Nat} (h : limitOk k v = true) : v < 2 ^ 64 := by
  unfold limitOk at h
  split at h <;> simp at h <;> omega

theorem exec_functionLimitsWrite (hn : n < 256) (h : limitOk (n % 8) w = true) : Answers (.functionLimitsWrite n w) s fun t =>
    t.limit (n / 8) (n % 8) = w ∧ ∀ m, m ≠ n → t.limit (m / 8) (m % 8) = s.limit (m / 8) (m % 8) := by
  refine ⟨_, if_pos ⟨by omega, h⟩, ?_, fun m hm => ?_⟩
  · unfold State.limit
    rw [Nat.div_add_mod, State.dev_modDev_eq, Map.find?_set_self]
    exact Nat.mod_eq_of_lt (limitOk_lt h)
  · unfold State.limit
    rw [Nat.div_add_mod, State.dev_modDev_eq, Map.find?_set_ne _ _ _ _ hm]

theorem exec_hostQueueGrantWrite (hn : n < 256) (hw : w < 64) : Answers (.hostQueueGrantWrite n w) s fun t =>
    (queueAt t n).grant = if w.testBit 5 then some (w % 32) else none := by
  refine ⟨_, if_neg (not_or.2 ⟨Nat.not_le.2 hn, Nat.not_le.2 hw⟩), ?_⟩
  unfold queueAt
  dsimp only
  rw [State.dev_modDev_eq, Map.get_set_self]
  simp [bit, bits]

/-! ### The flush command (R388) -/

/-- A range that holds a byte ends in HBM when its last byte lies there. -/
theorem inHBM_last {pa len : Nat} (h : len ≠ 0) : inHBM (pa + len - 1) = decide (pa + len ≤ 0x6000000000) := by
  unfold inHBM
  have hpos := Nat.pos_of_ne_zero h
  exact decide_eq_decide.2 (by omega)

theorem exec_flushCommand : let pa := s.dev.flushA.toNat
    let op := s.dev.flushK.toNat / 2 ^ 16 % 4
    (w ≠ 0 → w % 128 = 0 → op ≠ 0 → s.dev.flush = none → pa + w ≤ 0x6000000000 → Answers (.flushCommand w) s fun t =>
      kdRead t 10 2 = 1 ∧ ∃ c, t.dev.flush = some c ∧ c.pa = pa ∧ c.len = w ∧ c.op = op ∧ c.key = s.dev.flushK.toNat % 1024)
    ∧ (w = 0 ∨ w % 128 ≠ 0 ∨ op = 0 ∨ s.dev.flush.isSome = true ∨ 0x6000000000 < pa + w → Refused (.flushCommand w) s) := by
  refine ⟨fun hw hline hop hidle hend => ?_, fun h => refused_of_kdErr (if_pos ?_)⟩
  · have hgo : ¬(w = 0 ∨ w % 128 ≠ 0 ∨ bits s.dev.flushK.toNat 17 16 = 0 ∨ s.dev.flush.isSome = true
        ∨ inHBM (s.dev.flushA.toNat + w - 1) = false) := by
      rw [inHBM_last hw]
      simpa [hw, hline, hidle, hend, bits] using hop
    exact ⟨_, if_neg hgo, rfl, _, rfl, rfl, rfl, rfl, by simp [bits]⟩
  · by_cases hw : w = 0
    · exact .inl hw
    · rw [inHBM_last hw, decide_eq_false_iff_not, Nat.not_le]
      exact h

theorem exec_flushCommandComplete {c : FlushCmd} (hc : s.dev.flush = some c) : Answers .flushCommandComplete s fun t =>
    (c.len ≤ 128 → kdRead t 10 2 = 0)
      ∧ (128 < c.len → t.dev.flush = some { c with pa := c.pa + 128, len := c.len - 128 }) := by
  have hexec : exec .flushCommandComplete s = .next (s.modDev fun d => { flushFirst c d with
      flush := if c.len > 128 then some { c with pa := c.pa + 128, len := c.len - 128 } else none }) := by
    change execFlushCommandComplete s = _
    unfold execFlushCommandComplete
    rw [hc]
  refine ⟨_, hexec, fun h => ?_, fun h => if_pos h⟩
  unfold kdRead
  simp [State.dev_modDev_eq, Nat.not_lt.2 h, b2n]

end

end Sys2Proof.Machine
end

section
/-! What a shoot-down drops and revokes, and its acknowledgement (R330). -/

namespace Sys2Proof.Machine

section
variable {s : State} {p : Handle → Bool} {mine : Bool} {cut : List (Nat × Nat)} {asid va count c n m : Nat} {all : Bool}

/-! ### Step 1: translations dropped -/

theorem coreAt_invalidate : (invalidate asid va count all s).coreAt c
    = { s.coreAt c with tlb := (s.coreAt c).tlb.filter fun h => !covers asid va count all h } :=
  Map.get_map s.cores (fun _ (k : Core) => { k with tlb := k.tlb.filter fun h => !covers asid va count all h }) c {} rfl

/-! ### Step 2: handles revoked -/

/-- Whether what runs is of an address space. -/
def ofSpace (s : State) (asid : Nat) : Option InstId → Bool
  | some i => inSpace s asid i.launch
  | none => false

/-- The queues of a core's data movers with the handles of the range revoked. -/
def Core.revokeQueues (p : Handle → Bool) (mine : Option InstId → Bool) (cut : List (Nat × Nat)) (k : Core) : Core :=
  { k with
    copyq := k.copyq.map fun c =>
      { c with src := revokeIf p c.src, dst := revokeIf p c.dst, cut := if mine (some c.inst) then c.cut ++ cut else c.cut }
    jobq := k.jobq.map fun j => { j with src := revokeIf p j.src, cut := if mine (some j.inst) then j.cut ++ cut else j.cut } }

theorem coreAt_revokeAll : (revokeAll p asid cut s).coreAt c
    = ((s.mapCtxs fun x => x.revoke p (ofSpace s asid x.inst) cut).coreAt c).revokeQueues p (ofSpace s asid) cut :=
  Map.get_map (s.mapCtxs fun x => x.revoke p (ofSpace s asid x.inst) cut).cores
    (fun _ k => k.revokeQueues p (ofSpace s asid) cut) c {} rfl

theorem tlb_revokeAll : ((revokeAll p asid cut s).coreAt c).tlb = (s.coreAt c).tlb := by
  rw [coreAt_revokeAll, State.coreAt_mapCtxs]
  rfl

theorem ctxAt_revokeAll : ((revokeAll p asid cut s).coreAt c).ctxAt n
    = ((s.coreAt c).ctxAt n).revoke p (ofSpace s asid ((s.coreAt c).ctxAt n).inst) cut := by
  rw [coreAt_revokeAll]
  exact State.ctxAt_mapCtxs s (g := fun x => x.revoke p (ofSpace s asid x.inst) cut) rfl c n

theorem handle_ctxRevoke {x : Ctx} : (x.revoke p mine cut).a.h.get m {} = revokeIf p (x.a.h.get m {}) := by
  have ha : (x.revoke p mine cut).a = x.a.revoke p := by
    unfold Ctx.revoke
    dsimp only
    congr 1
    split
    · split
      · exact commit_a x
      · rfl
    · rfl
  rw [ha]
  exact Map.get_map x.a.h (fun _ => revokeIf p) m {} rfl

/-- The handles of a core's contexts after steps 1 and 2. -/
theorem handle_shootDown : (((revokeAll p asid cut (invalidate asid va count all s)).coreAt c).ctxAt n).a.h.get m {}
    = revokeIf p (((s.coreAt c).ctxAt n).a.h.get m {}) := by
  rw [ctxAt_revokeAll, handle_ctxRevoke, coreAt_invalidate]
  rfl

/-! ### The command and its acknowledgement -/

theorem exec_shootDownCommand_all {wb : Nat} (ha : asid < 4096) : Answers (.shootDownCommand asid 1 wb va count) s fun t =>
    (∀ c, ∀ h ∈ (t.coreAt c).tlb, h.asid ≠ asid)
    ∧ (∀ c n m, let h := ((t.coreAt c).ctxAt n).a.h.get m {}; h.st = .valid → h.asid ≠ asid)
    ∧ t.dev.shoot.length = s.dev.shoot.length + 1 ∧ kdRead t 4 0 = 1 := by
  have hall (h : Handle) : covers asid va count true h = decide (h.asid = asid) := by simp [covers]
  refine ⟨_, if_neg (by simpa using ha), fun c h hh => ?_, fun c n m => ?_, ?_, ?_⟩
  · rw [State.coreAt_modDev, tlb_revokeAll, coreAt_invalidate] at hh
    simpa [hall] using (List.mem_filter.1 hh).2
  · rw [State.coreAt_modDev, handle_shootDown]
    intro h hv he
    unfold h revokeIf at hv he
    split at hv <;> simp_all
  · exact List.length_append
  · change BitVec.ofNat 64 (b2n !(_ ++ [_]).isEmpty) = 1
    simp [b2n]

theorem exec_shootDownCommand_range {wb : Nat} (ha : asid < 4096) (h0 : 0 < count) (hc : count < 2 ^ 20) (hv : va < 2 ^ 36) :
    Answers (.shootDownCommand asid 0 wb va count) s fun t => ∀ c n m, let h := ((t.coreAt c).ctxAt n).a.h.get m {}
      h = (((s.coreAt c).ctxAt n).a.h.get m {}) ∨ h = { ((s.coreAt c).ctxAt n).a.h.get m {} with st := .revoked }
        ∧ h.asid = asid ∧ 65536 * va < h.va + pageBytes h.psz ∧ h.va < 65536 * (va + count) := by
  have hok : ¬(asid ≥ 4096 ∨ (decide (0 ≠ 0) = false ∧ (count = 0 ∨ count ≥ 2 ^ 20 ∨ va ≥ 2 ^ 36))) := by omega
  refine ⟨_, if_neg hok, fun c n m => ?_⟩
  rw [State.coreAt_modDev, handle_shootDown]
  unfold revokeIf
  split
  next hp =>
    simp only [covers, Bool.and_eq_true, Bool.or_eq_true, decide_eq_true_eq] at hp
    obtain ⟨-, hasid, hall | ⟨hlast, hfirst⟩⟩ := hp
    · exact absurd rfl hall
    · exact .inr ⟨rfl, hasid, hfirst, hlast⟩
  next => exact .inl rfl

theorem WroteBack.shoot {t : State} (h : WroteBack s t) : t.dev.shoot = s.dev.shoot :=
  show t.dev.butMemory.shoot = s.dev.butMemory.shoot by rw [h.dev]

theorem exec_shootDownAcknowledge {d : ShootDown} (hs : s.dev.shoot = [d]) (hd : shootDone d s = true) :
    Answers .shootDownAcknowledge s fun t => kdRead t 4 0 = 0 := by
  have hfind : s.dev.shoot.find? (fun c => shootDone c s) = some d := by
    rw [hs]
    exact List.find?_cons_of_pos hd
  have hshoot : (if d.wb then writePagesBack d.pages s else s).dev.shoot = [d] := by
    split
    · exact (WroteBack.writePagesBack s d.pages).shoot.trans hs
    · exact hs
  have hexec : exec .shootDownAcknowledge s = .next ((if d.wb then writePagesBack d.pages s else s).modDev fun e =>
      { e with shoot := e.shoot.erase d }) := by
    change execShootDownAcknowledge s = _
    unfold execShootDownAcknowledge
    rw [hfind]
  refine ⟨_, hexec, ?_⟩
  change BitVec.ofNat 64 (b2n !((if d.wb then writePagesBack d.pages s else s).dev.shoot.erase d).isEmpty) = 0
  rw [hshoot, List.erase_cons_head]
  rfl

end

/-! ### What firmware writes -/

/-- Settles O51: each event's write is stated by the lemma about it, and a write out of range is the error's. -/
theorem firmwareWrites : Obligations.FirmwareWrites := by
  unfold Obligations.FirmwareWrites
  intro s n w
  refine ⟨exec_addressSpaceDescriptorWrite, fun h => refused_of_kdErr (if_pos h), exec_keySlotDescriptorWrite, rfl,
    fun h => ⟨refused_of_kdErr (if_pos h), refused_of_kdErr (if_pos (.inl h))⟩, fun _ h => refused_of_kdErr (if_pos (.inr h)),
    exec_keyPortWrite, fun h0 hn hl => ⟨exec_keySlotUnload_ready h0 hn hl, exec_keySlotUnload_waits h0 hl⟩, rfl,
    exec_functionLimitsWrite, fun h => refused_of_kdErr (if_neg ?_), exec_hostQueueGrantWrite, fun h => refused_of_kdErr (if_pos h),
    exec_flushCommand, fun _ => exec_flushCommandComplete, fun _ _ _ _ => exec_shootDownCommand_all,
    fun _ _ _ _ => exec_shootDownCommand_range, fun _ => exec_shootDownAcknowledge⟩
  rintro ⟨hlt, hok⟩
  rcases h with h | h
  · omega
  · rw [h] at hok
    exact Bool.false_ne_true hok

end Sys2Proof.Machine
end

section
/-! The promotion log, the L1's write-back and PACQ's requests at their targets (R155 to R157). -/

namespace Sys2Proof.Machine

/-! ### Lines written back -/

/-- Line `y` once `x` is written back: clean where it is the same line of the same version. -/
def L1Line.cleaned (x y : L1Line) : L1Line :=
  if y.pa = x.pa ∧ y.ver = x.ver then { y with dirty := 0, valid := keepValid y.valid y.dirty } else y

theorem L1Line.pa_cleaned (x y : L1Line) : (x.cleaned y).pa = y.pa := by unfold cleaned; split <;> rfl
theorem L1Line.ver_cleaned (x y : L1Line) : (x.cleaned y).ver = y.ver := by unfold cleaned; split <;> rfl

theorem L1Line.dirty_cleaned {x y : L1Line} (hpa : y.pa = x.pa) (hver : y.ver = x.ver) : (x.cleaned y).dirty = 0 := by
  rw [cleaned, if_pos ⟨hpa, hver⟩]

theorem l1_l1Flush (c : Nat) (x : L1Line) (s : State) : ((l1Flush c x s).coreAt c).l1 = (s.coreAt c).l1.map x.cleaned := by
  unfold l1Flush
  dsimp only
  rw [State.coreAt_modCoreAt_self]
  split
  · rfl
  · obtain ⟨l, hl⟩ := (WroteBelow.writeDirty s x x.vf).core c
    rw [hl]
    rfl

/-- A line that is dirty after lines are written back was there, and is none of them. -/
theorem dirty_flushes (c : Nat) (l : List L1Line) : ∀ s : State, ∀ y ∈ ((l.foldl (fun s x => l1Flush c x s) s).coreAt c).l1,
    y.dirty ≠ 0 → y ∈ (s.coreAt c).l1 ∧ ∀ x ∈ l, ¬(y.pa = x.pa ∧ y.ver = x.ver) := by
  induction l with
  | nil => exact fun s y hy _ => ⟨hy, fun x hx => nomatch hx⟩
  | cons x r ih =>
    intro s y hy hd
    obtain ⟨hmem, hrest⟩ := ih (l1Flush c x s) y hy hd
    rw [l1_l1Flush] at hmem
    obtain ⟨z, hz, rfl⟩ := List.mem_map.1 hmem
    have hx : ¬(z.pa = x.pa ∧ z.ver = x.ver) := fun h => hd (L1Line.dirty_cleaned h.1 h.2)
    have hzx : x.cleaned z = z := if_neg hx
    rw [hzx] at hrest ⊢
    exact ⟨hz, List.forall_mem_cons.2 ⟨hx, hrest⟩⟩

theorem dirty_flushUpTo {c : Nat} {g : BitVec 16} {s : State} {y : L1Line} (hy : y ∈ ((flushUpTo c g s).coreAt c).l1)
    (hg : genLe y.gen g = true) : y.dirty = 0 := by
  by_contra hd
  obtain ⟨hmem, hnone⟩ := dirty_flushes c _ s y hy hd
  exact hnone y (List.mem_filter.2 ⟨hmem, by simpa [hg] using hd⟩) ⟨rfl, rfl⟩

/-! ### Promotion and write-back -/

theorem WroteBack.core_eq {s t : State} (h : WroteBack s t) : t.core = t.coreAt s.foc.core := by rw [State.core, h.foc]

section
variable {s : State}

theorem exec_logPromotion {x : LogEntry} {r : List LogEntry} (hlog : s.core.plog = x :: r) (hask : promotionAsked s.core = true)
    (hok : promotable s.core x.gen = true) : Answers .logPromotion s fun t =>
      t.core.plog = r ∧ ∀ y ∈ t.core.l1, genLe y.gen x.gen = true → y.dirty = 0 := by
  have hexec : exec .logPromotion s = .next (promoteOldest s.foc.core s) := by
    change execLogPromotion s = _
    unfold execLogPromotion
    rw [hlog]
    exact if_pos (by rw [hask, hok]; rfl)
  have hcore : (promoteOldest s.foc.core s).core = { (flushUpTo s.foc.core x.gen s).coreAt s.foc.core with plog := r } := by
    rw [(WroteBack.promoteOldest s s.foc.core).core_eq]
    unfold promoteOldest
    rw [show (s.coreAt s.foc.core).plog = x :: r from hlog]
    exact State.coreAt_modCoreAt_self _ _ _
  refine ⟨_, hexec, ?_⟩
  dsimp only
  rw [hcore]
  exact ⟨rfl, fun y hy => dirty_flushUpTo hy⟩

theorem exec_l1WriteBack {x : L1Line} (hx : s.core.l1.find? (fun y => y.pa = lineOf s.foc.id) = some x) (hd : x.dirty ≠ 0)
    (hok : promotable s.core x.gen = true) : Answers .l1WriteBack s fun t =>
      ∀ y ∈ t.core.l1, y.pa = x.pa → y.ver = x.ver → y.dirty = 0 ∧ s.foc.aux ≠ 1 := by
  have hexec : exec .l1WriteBack s = .next (if s.foc.aux = 1 then l1Drop s.foc.core x (l1WriteBack s.foc.core x s)
      else l1WriteBack s.foc.core x s) := by
    change execL1WriteBack s = _
    unfold execL1WriteBack
    rw [hx]
    exact if_neg fun h => Bool.false_ne_true (h.2.symm.trans hok)
  have hback := WroteBack.l1WriteBack s s.foc.core x
  refine ⟨_, hexec, ?_⟩
  split
  next =>
    rw [(hback.trans (WroteBack.l1Drop _ s.foc.core x)).core_eq]
    unfold l1Drop
    rw [State.coreAt_modCoreAt_self]
    intro y hy hpa hver
    have hgone := (List.mem_filter.1 hy).2
    simp [hpa, hver] at hgone
  next haux =>
    rw [hback.core_eq]
    unfold l1WriteBack
    rw [if_neg hd, l1_l1Flush]
    intro y hy hpa hver
    obtain ⟨z, -, rfl⟩ := List.mem_map.1 hy
    rw [L1Line.pa_cleaned] at hpa
    rw [L1Line.ver_cleaned] at hver
    exact ⟨L1Line.dirty_cleaned hpa hver, haux⟩

/-! ### PACQ's requests at their target -/

theorem mem_setPacq {r : PacqReq} (hr : r ∈ s.core.pacq) (g : PacqReq → PacqReq) : g r ∈ (setPacq r.id g s).core.pacq := by
  unfold setPacq
  rw [State.core_modCore]
  exact List.mem_map.2 ⟨r, hr, if_pos rfl⟩

theorem exec_pacqRequestArrival {r : PacqReq} (hr : r ∈ s.core.pacq) (hid : r.id = s.foc.id) (hcut : r.cut = none) :
    Answers .pacqRequestArrival s fun t => ({ r with
      cut := some s.core.plnum
      done := r.done || (!s.core.plog.isEmpty && decide (s.core.lastVF ≠ some r.vf)) } : PacqReq) ∈ t.core.pacq := by
  obtain ⟨id, core, target, vf, cut, done⟩ := r
  obtain rfl : cut = none := hcut
  refine ⟨_, rfl, ?_⟩
  rw [← hid]
  exact mem_setPacq hr _

theorem exec_pacqReply {r : PacqReq} {c : BitVec 32} (hr : r ∈ s.core.pacq) (hid : r.id = s.foc.id) (hcut : r.cut = some c) :
    Answers .pacqReply s fun t =>
      (if s.core.plog.any fun e => decide ((c - e.num).toNat < 2 ^ 31) then r else { r with done := true }) ∈ t.core.pacq := by
  obtain ⟨id, core, target, vf, cut, done⟩ := r
  obtain rfl : cut = some c := hcut
  refine ⟨_, rfl, ?_⟩
  rw [← hid]
  exact mem_setPacq hr _

theorem pacqEvents {r : PacqReq} (hr : r ∈ s.core.pacq) (hid : r.id = s.foc.id) :
    (r.cut = none → s.core.plog = [] ∨ s.core.lastVF = some r.vf →
      Answers .pacqRequestArrival s fun t => ({ r with cut := some s.core.plnum } : PacqReq) ∈ t.core.pacq)
    ∧ (r.cut = none → s.core.plog ≠ [] → s.core.lastVF ≠ some r.vf →
      Answers .pacqRequestArrival s fun t => ({ r with cut := some s.core.plnum, done := true } : PacqReq) ∈ t.core.pacq)
    ∧ (∀ c, r.cut = some c → (∀ x ∈ s.core.plog, 2 ^ 31 ≤ (c - x.num).toNat) →
      Answers .pacqReply s fun t => ({ r with done := true } : PacqReq) ∈ t.core.pacq)
    ∧ (∀ c, r.cut = some c → (∃ x ∈ s.core.plog, (c - x.num).toNat < 2 ^ 31) →
      Answers .pacqReply s fun t => r ∈ t.core.pacq) := by
  refine ⟨fun hcut h => ?_, fun hcut hlog hvf => ?_, fun c hcut hall => ?_, fun c hcut hany => ?_⟩
  · have hdone : (!s.core.plog.isEmpty && decide (s.core.lastVF ≠ some r.vf)) = false := by
      rcases h with h | h <;> simp [h]
    have hans := exec_pacqRequestArrival hr hid hcut
    rwa [hdone, Bool.or_false] at hans
  · have hdone : (!s.core.plog.isEmpty && decide (s.core.lastVF ≠ some r.vf)) = true := by simp [hlog, hvf]
    have hans := exec_pacqRequestArrival hr hid hcut
    rwa [hdone, Bool.or_true] at hans
  · have hnone : ¬(s.core.plog.any fun e => decide ((c - e.num).toNat < 2 ^ 31)) = true := by
      rw [List.any_eq_true]
      rintro ⟨x, hx, hlt⟩
      exact Nat.not_lt.2 (hall x hx) (of_decide_eq_true hlt)
    have hans := exec_pacqReply hr hid hcut
    rwa [if_neg hnone] at hans
  · obtain ⟨x, hx, hlt⟩ := hany
    have hans := exec_pacqReply hr hid hcut
    rwa [if_pos (List.any_eq_true.2 ⟨x, hx, decide_eq_true hlt⟩)] at hans

end

end Sys2Proof.Machine
end

section
/-! Translations that end and walkers that are taken (R328, R329). -/

namespace Sys2Proof.Machine

/-! ### What a translation leaves and fills -/

theorem walks_touchAll (pa n key vf : Nat) (d : Dev) : (touchAll pa n key vf d).walks = d.walks :=
  show (touchAll pa n key vf d).butMemory.walks = d.butMemory.walks by rw [butMemory_touchAll]

theorem walks_walkDo (tower asid va : Nat) (s : State) : (walkDo tower asid va s).2.dev.walks = s.dev.walks := by
  unfold walkDo
  dsimp only
  split
  · rfl
  · exact foldl_leaves Dev.walks (fun d p => walks_touchAll p 8 0 _ d) _ s.dev

theorem walks_translate (c asid va : Nat) (s : State) : (translate c asid va s).2.dev.walks = s.dev.walks := by
  have hwalk := walks_walkDo (coreTower c) asid va s
  unfold translate
  cases tlbHit c asid va s with
  | some h => rfl
  | none =>
    dsimp only
    cases (walkDo (coreTower c) asid va s).1 <;> exact hwalk

theorem mem_tlbFill (c va : Nat) (h : Handle) (s : State) : h ∈ ((tlbFill c va h s).coreAt c).tlb := by
  unfold tlbFill
  rw [State.coreAt_modDev, State.coreAt_modCoreAt_self]
  exact List.mem_cons_self

theorem mem_translate {c asid va : Nat} {s : State} {h : Handle} (hh : (translate c asid va s).1 = some h) :
    h ∈ ((translate c asid va s).2.coreAt c).tlb := by
  unfold translate at hh ⊢
  dsimp only at hh ⊢
  split at hh
  next => exact nomatch hh
  next x _ =>
    obtain rfl := Option.some.inj hh
    exact mem_tlbFill _ _ _ _

/-! ### A translation's end -/

theorem walks_endWalk (s : State) (w : Walk) : ∃ bad, (endWalk s w).dev.walks = s.dev.walks.map fun x =>
    if x.id = w.id then { x with done := true, bad := bad } else x :=
  ⟨_, congrArg (List.map _) (walks_translate w.core w.asid w.va s)⟩

/-- Every translation of a number has ended. -/
def AllDone (i : Nat) (s : State) : Prop := ∀ x ∈ s.dev.walks, x.id = i → x.done = true

theorem allDone_endWalk {i : Nat} {s : State} {w : Walk} (h : i = w.id ∨ AllDone i s) : AllDone i (endWalk s w) := by
  obtain ⟨bad, hb⟩ := walks_endWalk s w
  intro x hx hid
  rw [hb] at hx
  obtain ⟨z, hz, rfl⟩ := List.mem_map.1 hx
  by_cases hzw : z.id = w.id
  · rw [if_pos hzw]
  · rw [if_neg hzw] at hid ⊢
    exact h.resolve_left (fun he => hzw (hid.trans he)) z hz hid

theorem allDone_foldl_endWalk {i : Nat} (l : List Walk) : ∀ s : State, (∃ m ∈ l, i = m.id) ∨ AllDone i s →
    AllDone i (l.foldl endWalk s) := by
  induction l with
  | nil => exact fun s h => h.resolve_left fun ⟨_, hm, _⟩ => nomatch hm
  | cons w r ih =>
    refine fun s h => ih _ ?_
    rcases h with ⟨m, hm, hi⟩ | h
    · rcases List.mem_cons.1 hm with rfl | hm
      · exact .inr (allDone_endWalk (.inl hi))
      · exact .inl ⟨m, hm, hi⟩
    · exact .inr (allDone_endWalk (.inr h))

theorem mem_endWalk {s : State} {w : Walk} {h : Handle} (hh : (translate w.core w.asid w.va s).1 = some h) :
    h ∈ ((endWalk s w).coreAt w.core).tlb := mem_translate hh

/-! ### The event (R328, R329) -/

/-- A translation that has missed every level does not hit. -/
theorem Walk.hit_of_missed {w : Walk} {s : State} (h : w.missed s = true) : w.hit s = false := by
  simp only [missed, Bool.and_eq_true, Option.isNone_iff_eq_none] at h
  obtain ⟨⟨-, hnone⟩, -⟩ := h
  rw [hit, hnone]
  exact Bool.and_false _

theorem Walk.lt_of_mayBegin {w : Walk} {s : State} (h : w.mayBegin s = true) : (walkersOf (coreTower w.core) s).length < 192
    ∧ ((walkersOf (coreTower w.core) s).filter fun x => x.vf = w.vf).length < s.limit w.vf 1 := by
  simp only [mayBegin, atLimit, Bool.and_eq_true, Bool.not_eq_true', decide_eq_false_iff_not, decide_eq_true_eq, Nat.not_le] at h
  obtain ⟨⟨⟨-, hlimit⟩, hlen⟩, -⟩ := h
  exact ⟨hlen, hlimit⟩

section
variable {s : State} {w : Walk}

theorem exec_pageWalk (hw : s.dev.walks.find? (fun w => w.id = s.foc.id) = some w) : exec .pageWalk s =
    .next (if w.hit s then endWalk s w
      else if w.begun && w.missed s then (w.mates s).foldl endWalk s
      else if w.mayBegin s then
        s.modDev fun d => { d with walks := d.walks.map fun x => if x.id = w.id then { x with begun := true } else x }
      else s) := by
  change execPageWalk s = _
  unfold execPageWalk
  rw [hw]

theorem pageWalkEvents (hw : s.dev.walks.find? (fun w => w.id = s.foc.id) = some w) :
    (w.hit s = true → Answers .pageWalk s fun t => (∀ x ∈ t.dev.walks, x.id = w.id → x.done = true)
      ∧ ∀ h, (translate w.core w.asid w.va s).1 = some h → h ∈ (t.coreAt w.core).tlb)
    ∧ (w.begun = true → w.missed s = true → Answers .pageWalk s fun t =>
      (∀ m ∈ w.mates s, ∀ x ∈ t.dev.walks, x.id = m.id → x.done = true)
      ∧ ∀ m, w.mates s = [m] → ∀ h, (translate m.core m.asid m.va s).1 = some h → h ∈ (t.coreAt m.core).tlb)
    ∧ (w.begun = false → w.hit s = false → w.mayBegin s = true → (walkersOf (coreTower w.core) s).length < 192
      ∧ ((walkersOf (coreTower w.core) s).filter fun x => x.vf = w.vf).length < s.limit w.vf 1
      ∧ Answers .pageWalk s fun t => { w with begun := true } ∈ t.dev.walks) := by
  have hexec := exec_pageWalk hw
  refine ⟨fun hhit => ?_, fun hb hm => ?_, fun hb hhit hmay => ?_⟩
  · rw [if_pos hhit] at hexec
    exact ⟨_, hexec, allDone_endWalk (.inl rfl), fun h => mem_endWalk⟩
  · rw [Walk.hit_of_missed hm, hb, hm] at hexec
    refine ⟨_, hexec, fun m hmate => allDone_foldl_endWalk _ s (.inl ⟨m, hmate, rfl⟩), fun m hone h hh => ?_⟩
    rw [hone]
    exact mem_endWalk hh
  · rw [hhit, hb, hmay] at hexec
    obtain ⟨hlen, hlimit⟩ := Walk.lt_of_mayBegin hmay
    exact ⟨hlen, hlimit, _, hexec, List.mem_map.2 ⟨w, List.mem_of_find?_eq_some hw, if_pos rfl⟩⟩

end

end Sys2Proof.Machine
end

section
/-! The error that nothing consumes, and the error that ECC has corrected (R211, R368, R375). -/

namespace Sys2Proof.Machine

/-! ### What a counted error and the end of a launch leave of memory -/

/-- HBM, the host's memory and the lines known to be in error. -/
def State.store (s : State) : Mem × Mem × List Loc := (s.dev.hbm, s.dev.hostMem, s.dev.badLines)

theorem store_modLaunch (s : State) (n : Nat) (g : Launch → Launch) : (s.modLaunch n g).store = s.store := by
  unfold State.modLaunch
  split <;> rfl

theorem store_stopLaunch (n : Nat) (s : State) : (stopLaunch n s).store = s.store := by
  unfold stopLaunch
  exact store_modLaunch _ n _

theorem store_evictLaunch (n : Nat) (s : State) : (evictLaunch n s).store = s.store := store_stopLaunch n s

theorem store_killLaunch (n : Nat) (s : State) : (killLaunch n s).store = s.store :=
  (store_evictLaunch n _).trans (store_modLaunch s n _)

theorem store_discardShadow (n : Nat) (l : Launch) (s : State) : (discardShadow n l s).store = s.store := by
  unfold discardShadow
  dsimp only
  rw [store_modLaunch]
  split <;> rfl

theorem store_startTokens (l : List (Nat × Nat)) (s : State) : (l.foldl (fun s e => startToken e.1 s) s).store = s.store :=
  foldl_leaves State.store (fun s e => (rfl : (startToken e.1 s).store = s.store)) l s

theorem store_forgetLaunch (n : Nat) (s : State) : (forgetLaunch n s).store = s.store := rfl

theorem store_enterSpring (r : QRec) (s : State) : (enterSpring r s).store = s.store := rfl

theorem store_replayLaunch (n : Nat) (l : Launch) (counted : Bool) (s : State) : (replayLaunch n l counted s).store = s.store := by
  unfold replayLaunch
  dsimp only
  rw [store_enterSpring, store_forgetLaunch, store_discardShadow, store_evictLaunch, store_startTokens]

theorem store_endByFirmware (n : Nat) (counted : Bool) (s : State) : (endByFirmware n counted s).store = s.store := by
  unfold endByFirmware
  split
  · rfl
  · split
    · rfl
    · split
      · split
        · exact store_replayLaunch _ _ _ s
        · rfl
      · exact store_killLaunch n s

theorem store_countAt (slice : Bool) (i kind p b : Nat) (s : State) : (countAt slice i kind p b s).store = s.store := by
  unfold countAt setBankTable
  dsimp only
  split <;> rfl

theorem store_countError (slice : Bool) (i kind l : Nat) (s : State) : (countError slice i kind l s).store = s.store := by
  unfold countError
  split
  · rfl
  · exact store_countAt _ _ _ _ _ s

theorem store_countL2 (pa : Nat) (s : State) : (countL2 pa s).store = s.store := by
  unfold countL2
  split
  · exact store_countError _ _ _ _ _
  · rfl

/-! ### A line in error -/

/-- A line noted as in error. -/
def addBadLine (l : Loc) (s : State) : State :=
  s.modDev fun d => if d.badLines.contains l then d else { d with badLines := l :: d.badLines }

/-- Memory as it was, with no known error forgotten. -/
def KeepsStore (s t : State) : Prop :=
  t.dev.hbm = s.dev.hbm ∧ t.dev.hostMem = s.dev.hostMem ∧ ∀ x ∈ s.dev.badLines, x ∈ t.dev.badLines

theorem KeepsStore.of_store {s t : State} (h : t.store = s.store) : KeepsStore s t := by
  obtain ⟨hhbm, hrest⟩ := Prod.mk.inj h
  obtain ⟨hhost, hbad⟩ := Prod.mk.inj hrest
  exact ⟨hhbm, hhost, fun x hx => hbad ▸ hx⟩

theorem KeepsStore.trans {s t u : State} (h : KeepsStore s t) (k : KeepsStore t u) : KeepsStore s u := by
  obtain ⟨hhbm, hhost, hbad⟩ := h
  obtain ⟨khbm, khost, kbad⟩ := k
  exact ⟨khbm.trans hhbm, khost.trans hhost, fun x hx => kbad x (hbad x hx)⟩

theorem keepsStore_addBadLine (l : Loc) (s : State) : KeepsStore s (addBadLine l s) := by
  unfold addBadLine KeepsStore
  rw [State.dev_modDev_eq]
  split
  · exact ⟨rfl, rfl, fun _ hx => hx⟩
  · exact ⟨rfl, rfl, fun _ hx => List.mem_cons_of_mem _ hx⟩

theorem mem_addBadLine (l : Loc) (s : State) : l ∈ (addBadLine l s).dev.badLines := by
  unfold addBadLine
  rw [State.dev_modDev_eq]
  split
  next h => exact List.contains_iff_mem.1 h
  next => exact List.mem_cons_self

/-! ### The event -/

/-- The place of an error in memory: a line of the SRAM of the core in focus, or of global memory. -/
def errorLine (line : Nat) (s : State) : Loc := if s.foc.aux = 1 then .sp s.foc.core (lineOf line) else .gm (lineOf line)

/-- The error counted for the bank that holds the line. -/
def countLine (line : Nat) (s : State) : State :=
  if s.foc.aux = 1 then countError false s.foc.core 0 (bankOf (lineOf line)) s else countL2 line s

/-- An error of a line of memory, counted and noted; the launch it concerns is ended by firmware. -/
def lineError (line : Nat) (s : State) : State :=
  let u := addBadLine (errorLine line s) (countLine line s)
  if u.foc.id = 0 then u else endByFirmware u.foc.id true u

theorem keepsStore_lineError (line : Nat) (s : State) : KeepsStore s (lineError line s) := by
  have hcount : (countLine line s).store = s.store := by
    unfold countLine
    split
    · exact store_countError _ _ _ _ s
    · exact store_countL2 line s
  have hadd := (KeepsStore.of_store hcount).trans (keepsStore_addBadLine (errorLine line s) _)
  unfold lineError
  dsimp only
  split
  · exact hadd
  · exact hadd.trans (.of_store (store_endByFirmware _ _ _))

/-- A register of the context in focus counted for its bank. -/
def countRegister (r : RegId) (s : State) : State :=
  match registerBank s.foc.ctx r with
  | some l => countError false s.foc.core 1 l s
  | none => s

theorem store_countRegister (r : RegId) (s : State) : (countRegister r s).store = s.store := by
  unfold countRegister
  split
  · exact store_countError _ _ _ _ s
  · rfl

/-- The push in focus loses the rows it is still to give. -/
def errorPush (s : State) : State :=
  match s.core.arr.pushes.find? fun p => p.id = s.foc.id with
  | some p => loseRows p (info14 0 3 p.op.opcode.toNat s.foc.aux s) s
  | none => s

theorem store_errorPush (s : State) : (errorPush s).store = s.store := by
  unfold errorPush
  split <;> rfl

/-- An error that ECC has corrected, counted for physical bank `n` where there is such a bank. -/
def correctedError (n : Nat) (s : State) : State :=
  let slice := decide (s.foc.aux = 11)
  let i := if slice then s.foc.id else s.foc.core
  let kind := bankKind slice n
  if (banksOf kind).contains n && (!slice || decide (i < 128)) then countAt slice i kind n 48 s else s

theorem store_correctedError (n : Nat) (s : State) : (correctedError n s).store = s.store := by
  unfold correctedError
  extract_lets slice i kind
  split
  · exact store_countAt _ _ _ _ _ s
  · rfl

/-! ### The event, by what is in error -/

section
variable {s : State} {n : Nat}

/-- The register that an error names: its class × 256 and its number. -/
def errorReg (n : Nat) : RegId := ⟨[.s, .v, .m, .p, .h, .sh, .th, .lp].getD (n / 256) .s, n % 256⟩

theorem exec_errorNotConsumed_register (h : s.foc.aux = 2) : exec (.errorNotConsumed n) s =
    .next ((countRegister (errorReg n) s).modArch fun a => { a with bad := errorReg n :: a.bad }) := if_pos h

theorem exec_errorNotConsumed_spill (h : s.foc.aux = 3) : exec (.errorNotConsumed n) s =
    .next (s.modArch fun a => { a with badSpill := n :: a.badSpill }) := by
  change execErrorNotConsumed n s = _
  rw [execErrorNotConsumed, if_neg (by omega), if_pos h]

theorem exec_errorNotConsumed_push (h : s.foc.aux = 4 ∨ s.foc.aux = 5) : exec (.errorNotConsumed n) s = .next (errorPush s) := by
  change execErrorNotConsumed n s = _
  rw [execErrorNotConsumed, if_neg (by omega), if_neg (by omega), if_pos h]
  rfl

theorem exec_errorNotConsumed_segment (h : s.foc.aux = 7) : exec (.errorNotConsumed n) s =
    .next (s.modCtx fun c => { c with seg := c.seg.map fun g => { g with bad := true } }) := by
  change execErrorNotConsumed n s = _
  rw [execErrorNotConsumed, if_neg (by omega), if_neg (by omega), if_neg (by omega), if_pos h]

theorem exec_errorNotConsumed_row (h : s.foc.aux = 8) : exec (.errorNotConsumed n) s =
    .next (s.modArr fun a => a.setBuf (BitVec.ofNat 1 (n / 128))
      { a.buf (BitVec.ofNat 1 (n / 128)) with bad := n % 128 :: (a.buf (BitVec.ofNat 1 (n / 128))).bad }) := by
  change execErrorNotConsumed n s = _
  rw [execErrorNotConsumed, if_neg (by omega), if_neg (by omega), if_neg (by omega), if_neg (by omega), if_pos h]

theorem exec_errorNotConsumed_corrected (h : s.foc.aux = 10 ∨ s.foc.aux = 11) : exec (.errorNotConsumed n) s =
    .next (correctedError n s) := by
  change execErrorNotConsumed n s = _
  rw [execErrorNotConsumed, if_neg (by omega), if_neg (by omega), if_neg (by omega), if_neg (by omega), if_neg (by omega), if_pos h]
  rfl

theorem exec_errorNotConsumed_slot (h : s.foc.aux = 9) : exec (.errorNotConsumed n) s =
    .next (s.modArr fun a => { a with grid := a.grid.map fun e => if e.1 = n then (e.1, { e.2 with bad := true }) else e }) := by
  change execErrorNotConsumed n s = _
  rw [execErrorNotConsumed, if_neg (by omega), if_neg (by omega), if_neg (by omega), if_neg (by omega), if_neg (by omega),
    if_neg (by omega), if_pos h]

theorem exec_errorNotConsumed_line (h : s.foc.aux < 2 ∨ s.foc.aux = 6 ∨ 11 < s.foc.aux) : exec (.errorNotConsumed n) s =
    .next (lineError n s) := by
  change execErrorNotConsumed n s = _
  rw [execErrorNotConsumed, if_neg (by omega), if_neg (by omega), if_neg (by omega), if_neg (by omega), if_neg (by omega),
    if_neg (by omega), if_neg (by omega)]
  rfl

/-- The error answers a next state, and memory keeps what it holds. -/
theorem exec_errorNotConsumed_store : Answers (.errorNotConsumed n) s (KeepsStore s) := by
  have haux : (s.foc.aux < 2 ∨ s.foc.aux = 6 ∨ 11 < s.foc.aux) ∨ s.foc.aux = 2 ∨ s.foc.aux = 3 ∨ (s.foc.aux = 4 ∨ s.foc.aux = 5)
      ∨ s.foc.aux = 7 ∨ s.foc.aux = 8 ∨ s.foc.aux = 9 ∨ s.foc.aux = 10 ∨ s.foc.aux = 11 := by omega
  rcases haux with h | h | h | h | h | h | h | h
  · exact ⟨_, exec_errorNotConsumed_line h, keepsStore_lineError n s⟩
  · exact ⟨_, exec_errorNotConsumed_register h, .of_store (store_countRegister _ s)⟩
  · exact ⟨_, exec_errorNotConsumed_spill h, .of_store rfl⟩
  · exact ⟨_, exec_errorNotConsumed_push h, .of_store (store_errorPush s)⟩
  · exact ⟨_, exec_errorNotConsumed_segment h, .of_store rfl⟩
  · exact ⟨_, exec_errorNotConsumed_row h, .of_store rfl⟩
  · exact ⟨_, exec_errorNotConsumed_slot h, .of_store rfl⟩
  · exact ⟨_, exec_errorNotConsumed_corrected h, .of_store (store_correctedError n s)⟩

/-! ### What the error leaves to be found -/

theorem mem_lineError : errorLine n s ∈ (lineError n s).dev.badLines := by
  have hadd := mem_addBadLine (errorLine n s) (countLine n s)
  unfold lineError
  dsimp only
  split
  · exact hadd
  · obtain ⟨-, -, hbad⟩ := KeepsStore.of_store (store_endByFirmware _ true (addBadLine (errorLine n s) (countLine n s)))
    exact hbad _ hadd

theorem exec_errorNotConsumed_global (h : s.foc.aux = 0) : Answers (.errorNotConsumed n) s fun t =>
    Loc.gm (n / 128 * 128) ∈ t.dev.badLines ∧ t.dev.hbm = s.dev.hbm := by
  have hloc : errorLine n s = .gm (n / 128 * 128) := if_neg (by omega)
  obtain ⟨hhbm, -, -⟩ := keepsStore_lineError n s
  exact ⟨_, exec_errorNotConsumed_line (.inl (by omega)), hloc ▸ mem_lineError, hhbm⟩

theorem exec_errorNotConsumed_sram (h : s.foc.aux = 1) : Answers (.errorNotConsumed n) s fun t =>
    Loc.sp s.foc.core (n / 128 * 128) ∈ t.dev.badLines := by
  have hloc : errorLine n s = .sp s.foc.core (n / 128 * 128) := if_pos h
  exact ⟨_, exec_errorNotConsumed_line (.inl (by omega)), hloc ▸ mem_lineError⟩

theorem exec_errorNotConsumed_scalar (hn : n < 32) (h : s.foc.aux = 2) : Answers (.errorNotConsumed n) s fun t =>
    (⟨.s, n⟩ : RegId) ∈ t.ctx.a.bad := by
  have hreg : errorReg n = ⟨.s, n⟩ := by
    unfold errorReg
    rw [Nat.div_eq_of_lt (by omega), Nat.mod_eq_of_lt (by omega)]
    rfl
  refine ⟨_, exec_errorNotConsumed_register h, ?_⟩
  dsimp only
  rw [State.ctx_modArch, hreg]
  exact List.mem_cons_self

theorem exec_errorNotConsumed_byte (h : s.foc.aux = 3) : Answers (.errorNotConsumed n) s fun t => n ∈ t.ctx.a.badSpill := by
  refine ⟨_, exec_errorNotConsumed_spill h, ?_⟩
  dsimp only
  rw [State.ctx_modArch]
  exact List.mem_cons_self

theorem exec_errorNotConsumed_journal (h : s.foc.aux = 7) {g : Segment} (hg : s.ctx.seg = some g) :
    Answers (.errorNotConsumed n) s fun t => t.ctx.seg = some { g with bad := true } := by
  refine ⟨_, exec_errorNotConsumed_segment h, ?_⟩
  dsimp only
  rw [State.ctx_modCtx, hg]
  rfl

theorem buf_setBuf (a : ArrayState) (b : BitVec 1) (x : Buffer) : (a.setBuf b x).buf b = x := by
  unfold ArrayState.setBuf ArrayState.buf
  split <;> rfl

theorem exec_errorNotConsumed_buffer (h : s.foc.aux = 8) : Answers (.errorNotConsumed n) s fun t =>
    n % 128 ∈ (t.core.arr.buf (BitVec.ofNat 1 (n / 128))).bad := by
  refine ⟨_, exec_errorNotConsumed_row h, ?_⟩
  unfold State.modArr
  dsimp only
  rw [State.core_modCore, buf_setBuf]
  exact List.mem_cons_self

theorem exec_errorNotConsumed_grid (h : s.foc.aux = 9) : Answers (.errorNotConsumed n) s fun t =>
    (t.core.arr.grid.find? n).map (fun g => g.bad) = (s.core.arr.grid.find? n).map fun _ => true := by
  refine ⟨_, exec_errorNotConsumed_slot h, ?_⟩
  have hmap : (s.core.arr.grid.map fun e => if e.1 = n then (e.1, { e.2 with bad := true }) else e)
      = s.core.arr.grid.map fun e => (e.1, if e.1 = n then { e.2 with bad := true } else e.2) := by
    refine List.map_congr_left fun e _ => ?_
    split <;> rfl
  unfold State.modArr
  dsimp only
  rw [State.core_modCore]
  dsimp only
  have hfind := Map.find?_map s.core.arr.grid (fun k x => if k = n then { x with bad := true } else x) n
  rw [hmap]
  refine (congrArg (Option.map fun g => g.bad) hfind).trans ?_
  cases s.core.arr.grid.find? n <;> simp

/-! ### Errors that ECC has corrected (R375) -/

/-- A word whose field at bit 48 counts one more, up to its greatest value. -/
theorem countField_top {w : Nat} (hw : w < 2 ^ 64) : let v := (w + if bits w (48 + 15) 48 = 0xFFFF then 0 else 2 ^ 48) % 2 ^ 64
    v / 2 ^ 48 = min 0xFFFF (w / 2 ^ 48 + 1) ∧ v % 2 ^ 48 = w % 2 ^ 48 := by
  unfold bits
  dsimp only
  split <;> omega

theorem bankTable_setBankTable (i p : Nat) (w : Word) (s : State) :
    bankTable false i (setBankTable false i p w s) = (bankTable false i s).set p w :=
  congrArg Core.banks (State.coreAt_modCoreAt_self s i fun k => { k with banks := k.banks.set p w })

theorem bankWord_countAt (i kind p b : Nat) (s : State) : bankWord (bankTable false i (countAt false i kind p b s)) kind p =
    BitVec.ofNat 64 ((bankWord (bankTable false i s) kind p).toNat
      + if bits (bankWord (bankTable false i s) kind p).toNat (b + 15) b = 0xFFFF then 0 else 2 ^ b) := by
  unfold countAt
  dsimp only
  rw [bankTable_setBankTable]
  exact Map.get_set_self _ _ _ _

theorem exec_errorNotConsumed_cecnt (h : s.foc.aux = 10) (hn : n ∈ banksOf (bankKind false n)) :
    Answers (.errorNotConsumed n) s fun t =>
      let w (s : State) : Nat := (bankWord (bankTable false s.foc.core s) (bankKind false n) n).toNat
      w t / 2 ^ 48 = min 0xFFFF (w s / 2 ^ 48 + 1) ∧ w t % 2 ^ 48 = w s % 2 ^ 48 := by
  have hcount : correctedError n s = countAt false s.foc.core (bankKind false n) n 48 s := by
    unfold correctedError
    rw [h]
    exact if_pos (by simpa using hn)
  refine ⟨_, exec_errorNotConsumed_corrected (.inl h), ?_⟩
  have hfoc : (countAt false s.foc.core (bankKind false n) n 48 s).foc = s.foc := rfl
  dsimp only
  rw [hcount, hfoc, bankWord_countAt, BitVec.toNat_ofNat]
  exact countField_top (bankWord _ _ n).isLt

end

/-! ### Promotion, translation and errors -/

/-- Settles O47: the events of the L1, of PACQ and of a translation by the lemmas about each, and the error by what it names. -/
theorem promotionEvents : Obligations.PromotionEvents := by
  unfold Obligations.PromotionEvents
  exact fun s => ⟨fun _ _ => exec_logPromotion, fun _ => exec_l1WriteBack, fun _ => pacqEvents, fun _ => pageWalkEvents,
    fun _ => exec_errorNotConsumed_store, fun _ h _ => exec_errorNotConsumed_global h, fun _ h _ => exec_errorNotConsumed_sram h,
    fun _ => exec_errorNotConsumed_scalar, fun _ => exec_errorNotConsumed_byte, fun _ h _ => exec_errorNotConsumed_journal h,
    fun _ => exec_errorNotConsumed_buffer, fun _ => exec_errorNotConsumed_grid, fun _ => exec_errorNotConsumed_cecnt⟩

end Sys2Proof.Machine
end

section
/-! Floating-point numbers (R170, R171, R175 to R177): what an encoding's fields mean, that sums and products are exact, and that
rounding an integer multiple of a power of two and encoding it is rounding to the format's grid. -/

namespace Sys2Proof.Machine

/-! ### Values as rational numbers, exact sums and products (R177) -/

/-- A magnitude with its sign. -/
def signed (neg : Bool) (n : Nat) : Int := if neg then -n else n

theorem abs_signed (neg : Bool) (n : Nat) : |signed neg n| = n := by cases neg <;> simp [signed]

theorem cast_signed (neg : Bool) (n : Nat) : ((signed neg n : ℤ) : ℚ) = (if neg then -1 else 1) * n := by
  cases neg <;> simp [signed]

theorem abs_sign_mul (neg : Bool) (a : ℚ) : |(if neg then -1 else 1) * a| = |a| := by
  rw [abs_mul]
  cases neg <;> simp

theorem abs_signed_mul_zpow (neg : Bool) (m : Nat) (e : Int) : |(signed neg m : ℚ) * 2 ^ e| = m * 2 ^ e := by
  rw [cast_signed, mul_assoc, abs_sign_mul, abs_of_nonneg (by positivity)]

theorem even_signed {neg : Bool} {n : Nat} : Even (signed neg n) ↔ Even n := by cases neg <;> simp [signed]

theorem signed_natAbs (v : Int) : signed (decide (v < 0)) v.natAbs = v := by
  unfold signed
  split
  next h => have hv := of_decide_eq_true h; omega
  next h => have hv : ¬v < 0 := fun hv => h (decide_eq_true hv); omega

theorem FVal.real_num (neg : Bool) (m : Nat) (e : Int) (more : Bool) :
    (FVal.num neg m e more).real = signed neg m * (2 : ℚ) ^ e := by rw [cast_signed]; rfl

theorem FVal.finiteIs_num {neg : Bool} {m : Nat} {e : Int} {v : ℚ} (h : signed neg m * (2 : ℚ) ^ e = v) :
    (FVal.num neg m e false).FiniteIs neg v := ⟨⟨m, e, rfl⟩, (FVal.real_num neg m e false).trans h⟩

/-- The same value as a multiple of a smaller power of two. -/
theorem scaled_mul_zpow {e e0 : Int} (h : e0 ≤ e) (neg : Bool) (m : Nat) (more : Bool) :
    (scaled neg m e e0 : ℚ) * (2 : ℚ) ^ e0 = (FVal.num neg m e more).real := by
  have hscaled : scaled neg m e e0 = signed neg (m * 2 ^ (e - e0).toNat) := rfl
  have hpow : (2 : ℚ) ^ e = 2 ^ (e - e0).toNat * 2 ^ e0 := by
    rw [← zpow_natCast, Int.toNat_of_nonneg (by omega), ← zpow_add₀ two_ne_zero, sub_add_cancel]
  rw [FVal.real_num, hscaled, cast_signed, cast_signed, hpow]
  push_cast
  ring

theorem fadd_num (rm : Nat) (s : Bool) (m : Nat) (e : Int) (b s' : Bool) (m' : Nat) (e' : Int) (b' : Bool) :
    let x := FVal.num s m e b
    let y := FVal.num s' m' e' b'
    ∃ z, (fadd rm x y).FiniteIs z (x.real + y.real) ∧ (x.real + y.real < 0 → z = true) ∧ (0 < x.real + y.real → z = false)
      ∧ (x.real + y.real = 0 → z = if m = 0 ∧ m' = 0 ∧ s = s' then s else decide (rm = 2)) := by
  dsimp only
  by_cases hz : m = 0 ∧ m' = 0
  · obtain ⟨rfl, rfl⟩ := hz
    have hsum : (FVal.num s 0 e b).real + (FVal.num s' 0 e' b').real = 0 := by simp [FVal.real]
    rw [hsum]
    exact ⟨_, FVal.finiteIs_num (by simp [signed]), by simp, by simp, by simp⟩
  · have hsum : ((scaled s m e (min e e') + scaled s' m' e' (min e e') : ℤ) : ℚ) * 2 ^ min e e' =
        (FVal.num s m e b).real + (FVal.num s' m' e' b').real := by
      rw [← scaled_mul_zpow (min_le_left e e'), ← scaled_mul_zpow (min_le_right e e')]
      push_cast
      ring
    have hpos : (0 : ℚ) < 2 ^ min e e' := by positivity
    rw [← hsum]
    simp only [fadd, if_neg hz]
    generalize scaled s m e (min e e') + scaled s' m' e' (min e e') = v
    have hneg : (v : ℚ) * 2 ^ min e e' < 0 ↔ v < 0 := by
      rw [← Int.cast_lt_zero (R := ℚ), ← not_le, ← not_le, mul_nonneg_iff_of_pos_right hpos]
    by_cases hv : v = 0
    · subst hv
      rw [if_pos rfl]
      refine ⟨_, FVal.finiteIs_num (by simp [signed]), by simp, by simp, fun _ => (if_neg ?_).symm⟩
      exact fun h => hz ⟨h.1, h.2.1⟩
    · rw [if_neg hv]
      refine ⟨_, FVal.finiteIs_num (by rw [signed_natAbs]), fun h => decide_eq_true (hneg.1 h), fun h => ?_, fun h => ?_⟩
      · exact decide_eq_false fun hv' => absurd (hneg.2 hv') (not_lt.2 h.le)
      · exact absurd (Int.cast_eq_zero.1 ((mul_eq_zero_iff_right hpos.ne').1 h)) hv

theorem fmul_num (s : Bool) (m : Nat) (e : Int) (b s' : Bool) (m' : Nat) (e' : Int) (b' : Bool) :
    (fmul (.num s m e b) (.num s' m' e' b')).FiniteIs (s ^^ s') ((FVal.num s m e b).real * (FVal.num s' m' e' b').real) := by
  refine FVal.finiteIs_num ?_
  rw [FVal.real_num, FVal.real_num, zpow_add₀ two_ne_zero]
  cases s <;> cases s' <;> simp [signed] <;> ring

/-! ### Rounding to an integer (R175) -/

/-- A quotient cut down to an integer and rounded by a mode. -/
def roundQuot (rm : Nat) (neg : Bool) (k d : Nat) : Nat := if roundsUp rm neg (k / d) (k % d) d false then k / d + 1 else k / d

/-- The two branches of `roundTo` are one division, by 1 where the spacing is not above the exponent. -/
theorem roundTo_eq_roundQuot (rm : Nat) (neg : Bool) (m : Nat) (e q : Int) :
    roundTo rm neg m e q false = roundQuot rm neg (m * 2 ^ (e - q).toNat) (2 ^ (q - e).toNat) := by
  unfold roundTo roundQuot
  dsimp only
  split
  next h => simp [Int.toNat_of_nonpos (show q - e ≤ 0 by omega), Nat.mod_one]
  next h => simp [Int.toNat_of_nonpos (show e - q ≤ 0 by omega)]

theorem roundQuot_zero (rm : Nat) (neg : Bool) {d : Nat} (hd : 0 < d) : roundQuot rm neg 0 d = 0 := by
  have hexact : roundsUp rm neg 0 0 d false = false := by
    match rm with
    | 0 => simp [roundsUp, hd.ne]
    | 1 => rfl
    | 2 | _ + 3 => simp [roundsUp]
  simp [roundQuot, hexact]

/-- A quotient as its integer part and a fraction, and what the remainder says of the fraction. -/
theorem quotient_split (k : Nat) {d : Nat} (hd : 0 < d) : ∃ φ : ℚ, (k : ℚ) / d = (k / d : Nat) + φ ∧ 0 ≤ φ ∧ φ < 1
    ∧ (k % d = 0 ↔ φ = 0) ∧ (2 * (k % d) > d ↔ 1 / 2 < φ) ∧ (2 * (k % d) = d ↔ φ = 1 / 2) := by
  have hpos : (0 : ℚ) < d := Nat.cast_pos.2 hd
  have hdiv : (k : ℚ) = d * (k / d : Nat) + (k % d : Nat) := by exact_mod_cast (Nat.div_add_mod k d).symm
  have hlt : ((k % d : Nat) : ℚ) < d := Nat.cast_lt.2 (Nat.mod_lt k hd)
  refine ⟨(k % d : Nat) / d, ?_, by positivity, (div_lt_one hpos).2 hlt, ?_, ?_, ?_⟩
  · rw [div_eq_iff hpos.ne', add_mul, div_mul_cancel₀ _ hpos.ne', mul_comm]
    exact hdiv
  · rw [div_eq_zero_iff, Nat.cast_eq_zero, Nat.cast_eq_zero, or_iff_left hd.ne']
  · rw [div_lt_div_iff₀ two_pos hpos, one_mul, mul_comm, gt_iff_lt]
    exact_mod_cast Iff.rfl
  · rw [div_eq_div_iff hpos.ne' two_ne_zero, one_mul, mul_comm]
    exact_mod_cast Iff.rfl

theorem roundsToInt_down_neg {v : ℚ} {n : ℤ} : RoundsToInt 2 (-v) (-n) ↔ RoundsToInt 3 v n := by
  simp only [RoundsToInt, Int.cast_neg]
  constructor <;> exact fun ⟨hle, hlt⟩ => ⟨by linarith, by linarith⟩

theorem roundsToInt_up_neg {v : ℚ} {n : ℤ} : RoundsToInt 3 (-v) (-n) ↔ RoundsToInt 2 v n := by
  rw [← roundsToInt_down_neg, neg_neg, neg_neg]

section
variable {neg : Bool} {n r d : Nat} {φ : ℚ}

theorem roundsToInt_nearest (h0 : 0 ≤ φ) (h1 : φ < 1) (hgt : 2 * r > d ↔ 1 / 2 < φ) (htie : 2 * r = d ↔ φ = 1 / 2) :
    RoundsToInt 0 ((if neg then -1 else 1) * (n + φ)) (signed neg (if roundsUp 0 neg n r d false then n + 1 else n)) := by
  have hup : roundsUp 0 neg n r d false = true ↔ 1 / 2 < φ ∨ (φ = 1 / 2 ∧ n % 2 = 1) := by
    rw [← hgt, ← htie]
    simp [roundsUp]
  have hdist (N : Nat) : |(signed neg N : ℚ) - (if neg then -1 else 1) * (n + φ)| = |(N : ℚ) - (n + φ)| := by
    rw [cast_signed, ← mul_sub, abs_sign_mul]
  simp only [RoundsToInt, hdist, even_signed, hup]
  split
  next h =>
    have hhalf : 1 / 2 ≤ φ := h.elim le_of_lt fun h => h.1.ge
    rw [show ((n + 1 : ℕ) : ℚ) - (n + φ) = 1 - φ by push_cast; ring, abs_of_pos (by linarith)]
    refine ⟨by linarith, fun heq => ?_⟩
    obtain hlt | ⟨-, hodd⟩ := h
    · linarith
    · exact Nat.even_iff.2 (by omega)
  next h =>
    obtain ⟨hle, hodd⟩ := not_or.1 h
    rw [show (n : ℚ) - (n + φ) = -φ by ring, abs_neg, abs_of_nonneg h0]
    exact ⟨not_lt.1 hle, fun heq => Nat.even_iff.2 (by have := not_and.1 hodd heq; omega)⟩

theorem roundsToInt_toZero (h0 : 0 ≤ φ) (h1 : φ < 1) : RoundsToInt 1 ((if neg then -1 else 1) * (n + φ)) (signed neg n) := by
  have hn : (0 : ℚ) ≤ n := n.cast_nonneg
  have hv : |(if neg then -1 else 1) * (n + φ)| = n + φ := by rw [abs_sign_mul, abs_of_nonneg (add_nonneg hn h0)]
  have hmul : (signed neg n : ℚ) * ((if neg then -1 else 1) * (n + φ)) = n * (n + φ) := by
    rw [cast_signed]
    cases neg
    · simp
    · simp
      ring
  simp only [RoundsToInt, ← Int.cast_abs, abs_signed, hv, hmul, Int.cast_natCast]
  exact ⟨by linarith, by linarith, by positivity⟩

theorem roundsToInt_floor (h0 : 0 ≤ φ) (h1 : φ < 1) : RoundsToInt 2 (n + φ) n := by
  simp only [RoundsToInt, Int.cast_natCast]
  exact ⟨by linarith, by linarith⟩

theorem roundsToInt_ceil (h0 : 0 ≤ φ) (h1 : φ < 1) (hz : r = 0 ↔ φ = 0) :
    RoundsToInt 3 (n + φ) ((if r ≠ 0 then n + 1 else n : ℕ) : ℤ) := by
  simp only [RoundsToInt, Int.cast_natCast]
  split
  next h =>
    have hpos : 0 < φ := lt_of_le_of_ne h0 (Ne.symm (mt hz.2 h))
    push_cast
    exact ⟨by linarith, by linarith⟩
  next h =>
    have hφ := hz.1 (not_not.1 h)
    exact ⟨by linarith, by linarith⟩

end

/-- Rounding up the magnitude where the mode says so is rounding the signed value to an integer. -/
theorem roundsToInt_roundQuot {rm : Nat} (hrm : rm < 4) (neg : Bool) (k : Nat) {d : Nat} (hd : 0 < d) :
    RoundsToInt rm ((if neg then -1 else 1) * ((k : ℚ) / d)) (signed neg (roundQuot rm neg k d)) := by
  obtain ⟨φ, hsum, h0, h1, hzero, hgt, htie⟩ := quotient_split k hd
  have hfloor := roundsToInt_floor (n := k / d) h0 h1
  have hceil := roundsToInt_ceil (n := k / d) h0 h1 hzero
  rw [hsum]
  unfold roundQuot
  interval_cases rm
  · exact roundsToInt_nearest h0 h1 hgt htie
  · exact roundsToInt_toZero h0 h1
  · cases neg
    · simpa [roundsUp, signed] using hfloor
    · simpa [roundsUp, signed] using roundsToInt_down_neg.2 hceil
  · cases neg
    · simpa [roundsUp, signed] using hceil
    · simpa [roundsUp, signed] using roundsToInt_up_neg.2 hfloor

/-- `roundTo` rounds a value to an integer multiple of 2^q. -/
theorem roundsToInt_roundTo {rm : Nat} (hrm : rm < 4) (neg : Bool) (m : Nat) (e q : Int) :
    RoundsToInt rm ((FVal.num neg m e false).real / 2 ^ q) (signed neg (roundTo rm neg m e q false)) := by
  have hquot : (FVal.num neg m e false).real / 2 ^ q =
      (if neg then -1 else 1) * (((m * 2 ^ (e - q).toNat : ℕ) : ℚ) / (2 ^ (q - e).toNat : ℕ)) := by
    have hpow : (2 : ℚ) ^ e / 2 ^ q = 2 ^ (e - q).toNat / 2 ^ (q - e).toNat := by
      rw [← zpow_natCast, ← zpow_natCast, ← zpow_sub₀ two_ne_zero, ← zpow_sub₀ two_ne_zero]
      congr 1
      omega
    rw [FVal.real_num, cast_signed, mul_div_assoc, hpow]
    push_cast
    ring
  rw [hquot, roundTo_eq_roundQuot]
  exact roundsToInt_roundQuot hrm neg _ (Nat.two_pow_pos _)

/-! ### A float rounded to an integer is clamped (R172, R177) -/

theorem clampInt_eq {lo hi : Int} (h : lo ≤ hi) (x : Int) : clampInt lo hi x = max lo (min hi x) := by
  unfold clampInt
  split
  next hlo => omega
  next hlo => split <;> omega

theorem clampS_eq (w : Nat) (x : Int) : clampS w x = (BitVec.ofInt w (max (-2 ^ (w - 1)) (min (2 ^ (w - 1) - 1) x))).toNat := by
  have hpos : (0 : Int) < 2 ^ (w - 1) := by positivity
  rw [clampS, wrapInt_eq]
  push_cast
  rw [clampInt_eq (by omega)]

theorem fToInt_inf {w : Nat} (hw : 0 < w) (rm : Nat) (neg : Bool) :
    fToInt rm w (.inf neg) = (BitVec.ofInt w (if neg then -2 ^ (w - 1) else 2 ^ (w - 1) - 1)).toNat := by
  have hpos : (0 : Int) < 2 ^ (w - 1) := by positivity
  have hhalf : (2 : Int) ^ w = 2 * 2 ^ (w - 1) := by rw [← pow_succ', Nat.sub_add_cancel hw]
  rw [fToInt, clampS_eq]
  push_cast
  congr 2
  split <;> omega

theorem fToInt_num {rm : Nat} (hrm : rm < 4) (w : Nat) (neg : Bool) (m : Nat) (e : Int) :
    ∃ n : ℤ, RoundsToInt rm (FVal.num neg m e false).real n
      ∧ fToInt rm w (.num neg m e false) = (BitVec.ofInt w (max (-2 ^ (w - 1)) (min (2 ^ (w - 1) - 1) n))).toNat := by
  have hround := roundsToInt_roundTo hrm neg m e 0
  rw [zpow_zero, div_one] at hround
  exact ⟨_, hround, clampS_eq w _⟩

/-! ### The grid of a format (R175, R176) -/

/-- The exponent of the spacing below the smallest normal. -/
def minExp (f : Nat) : Int := 1 - (fmtBias f : Int) - fmtM f

/-- A multiple of `2^q` as an encoding holds it: subnormal, or with its leading bit at `M`. -/
def NormalForm (f n : Nat) (q : Int) : Prop := minExp f ≤ q ∧ n < 2 ^ (fmtM f + 1) ∧ (q = minExp f ∨ 2 ^ fmtM f ≤ n)

theorem NormalForm.onGrid {f n : Nat} {q : Int} (h : NormalForm f n q) (neg : Bool) : OnGrid f (signed neg n * 2 ^ q) :=
  ⟨signed neg n, q, h.1, by rw [abs_signed]; exact_mod_cast h.2.1, rfl⟩

theorem NormalForm.evenOn {f n : Nat} {q : Int} (h : NormalForm f n q) (neg : Bool) (he : Even n) :
    EvenOn f (signed neg n * 2 ^ q) := by
  obtain ⟨hq, hn, hlead⟩ := h
  refine ⟨signed neg n, q, hq, ?_, rfl, even_signed.2 he, hlead.imp id fun h => ?_⟩ <;> rw [abs_signed]
  · exact_mod_cast hn
  · exact_mod_cast h

/-- A value of the grid is a multiple of 2^q, or its magnitude is below that of every value with spacing 2^q. -/
theorem OnGrid.multiple_or_small {f : Nat} {g : ℚ} (h : OnGrid f g) (q : Int) :
    (∃ i : ℤ, g = i * 2 ^ q) ∨ (minExp f < q ∧ |g| < 2 ^ fmtM f * 2 ^ q) := by
  obtain ⟨j, k, hk, hj, rfl⟩ := h
  obtain hle | hlt := le_or_gt q k
  · refine .inl ⟨j * 2 ^ (k - q).toNat, ?_⟩
    push_cast
    rw [mul_assoc, ← zpow_natCast, Int.toNat_of_nonneg (by omega), ← zpow_add₀ two_ne_zero, sub_add_cancel]
  · refine .inr ⟨lt_of_le_of_lt hk hlt, ?_⟩
    have hj' : |(j : ℚ)| < 2 ^ (fmtM f + 1) := by exact_mod_cast hj
    calc |(j : ℚ) * 2 ^ k| = |(j : ℚ)| * 2 ^ k := by rw [abs_mul, abs_of_pos (show (0 : ℚ) < 2 ^ k by positivity)]
      _ < 2 ^ (fmtM f + 1) * 2 ^ k := by gcongr
      _ = 2 ^ fmtM f * 2 ^ (k + 1) := by rw [zpow_add_one₀ two_ne_zero]; ring
      _ ≤ 2 ^ fmtM f * 2 ^ q := by gcongr <;> [norm_num; omega]

/-! Each mode picks `n` from the integers and the values of magnitude below `p`, for `t` of magnitude `p` or more. -/

section
variable {t γ : ℚ} {n p : ℤ} (hγ : (∃ i : ℤ, γ = i) ∨ (|γ| < p ∧ p ≤ |t|))

theorem nearest_of_roundsToInt_int (h : RoundsToInt 0 t n) (i : ℤ) :
    |n - t| < |i - t| ∨ i = n ∨ (|n - t| = |i - t| ∧ Even n) := by
  obtain ⟨hle, heven⟩ := h
  by_cases hi : i = n
  · exact .inr (.inl hi)
  · have hone : (1 : ℚ) ≤ |(i : ℚ) - n| := by exact_mod_cast Int.one_le_abs (sub_ne_zero.2 hi)
    have htri : |(i : ℚ) - n| ≤ |i - t| + |n - t| := by
      rw [abs_sub_comm (n : ℚ) t]
      exact abs_sub_le _ _ _
    obtain hlt | heq := lt_or_eq_of_le (show |n - t| ≤ |i - t| by linarith)
    · exact .inl hlt
    · exact .inr (.inr ⟨heq, heven (by linarith)⟩)

include hγ

theorem nearest_of_roundsToInt (h : RoundsToInt 0 t n) :
    |n - t| < |γ - t| ∨ γ = n ∨ (|n - t| = |γ - t| ∧ Even n) := by
  obtain ⟨i, rfl⟩ | ⟨hsmall, hbig⟩ := hγ
  · exact_mod_cast nearest_of_roundsToInt_int h i
  · have hle (i : ℤ) : |n - t| ≤ |i - t| := by
      obtain hlt | rfl | ⟨heq, -⟩ := nearest_of_roundsToInt_int h i
      exacts [hlt.le, le_rfl, heq.le]
    obtain ⟨hlo, hhi⟩ := abs_lt.1 hsmall
    refine .inl ?_
    obtain hpos | hneg := le_abs.1 hbig
    · calc |n - t| ≤ |p - t| := hle p
        _ = t - p := by rw [abs_of_nonpos (by linarith), neg_sub]
        _ < |γ - t| := lt_abs.2 (.inr (by linarith))
    · calc |n - t| ≤ |(-p : ℤ) - t| := hle (-p)
        _ = -p - t := by push_cast; rw [abs_of_nonneg (by linarith)]
        _ < |γ - t| := lt_abs.2 (.inl (by linarith))

theorem toZero_of_roundsToInt (h : RoundsToInt 1 t n) : |(n : ℚ)| ≤ |t| ∧ 0 ≤ n * t ∧ (|γ| ≤ |t| → |γ| ≤ |(n : ℚ)|) := by
  obtain ⟨hle, hlt, hsign⟩ := h
  refine ⟨hle, hsign, fun hγt => ?_⟩
  have hint (i : ℤ) (hi : (i : ℚ) ≤ |t|) : (i : ℚ) ≤ |(n : ℚ)| := by
    have : i < |n| + 1 := by exact_mod_cast lt_of_le_of_lt hi hlt
    exact_mod_cast Int.lt_add_one_iff.1 this
  obtain ⟨i, rfl⟩ | ⟨hsmall, hbig⟩ := hγ
  · exact_mod_cast hint |i| (by exact_mod_cast hγt)
  · exact hsmall.le.trans (hint p hbig)

theorem floor_of_roundsToInt (h : RoundsToInt 2 t n) : (n : ℚ) ≤ t ∧ (γ ≤ t → γ ≤ n) := by
  obtain ⟨hle, hlt⟩ := h
  refine ⟨hle, fun hγt => ?_⟩
  have hint (i : ℤ) (hi : (i : ℚ) ≤ t) : (i : ℚ) ≤ n := by
    have : i < n + 1 := by exact_mod_cast lt_of_le_of_lt hi hlt
    exact_mod_cast Int.lt_add_one_iff.1 this
  obtain ⟨i, rfl⟩ | ⟨hsmall, hbig⟩ := hγ
  · exact hint i hγt
  · obtain ⟨hlo, hhi⟩ := abs_lt.1 hsmall
    obtain hpos | hneg := le_abs.1 hbig
    · exact hhi.le.trans (hint p hpos)
    · linarith

theorem ceil_of_roundsToInt (h : RoundsToInt 3 t n) : t ≤ (n : ℚ) ∧ (t ≤ γ → n ≤ γ) := by
  have hγ' : (∃ i : ℤ, -γ = i) ∨ (|-γ| < p ∧ p ≤ |-t|) :=
    hγ.imp (fun ⟨i, hi⟩ => ⟨-i, by rw [hi, Int.cast_neg]⟩) fun h => by rwa [abs_neg, abs_neg]
  have hfloor := floor_of_roundsToInt hγ' (roundsToInt_down_neg.2 h)
  push_cast at hfloor
  exact ⟨neg_le_neg_iff.1 hfloor.1, fun hle => neg_le_neg_iff.1 (hfloor.2 (neg_le_neg hle))⟩

end

/-- Rounding to a multiple of 2^q is rounding to the grid, where 2^q is the grid's spacing at the value. -/
theorem roundsTo_of_roundsToInt {f rm : Nat} {t : ℚ} {n : ℤ} {q : Int} (hrm : rm < 4) (h : RoundsToInt rm t n)
    (ht : q = minExp f ∨ 2 ^ fmtM f ≤ |t|) (hgrid : OnGrid f (n * 2 ^ q)) (heven : Even n → EvenOn f (n * 2 ^ q)) :
    RoundsTo f rm (t * 2 ^ q) (n * 2 ^ q) := by
  refine ⟨hgrid, fun g hg => ?_⟩
  have hpos : (0 : ℚ) < 2 ^ q := by positivity
  obtain ⟨γ, rfl⟩ : ∃ γ, g = γ * 2 ^ q := ⟨g / 2 ^ q, (div_mul_cancel₀ _ hpos.ne').symm⟩
  have habs (a : ℚ) : |a * 2 ^ q| = |a| * 2 ^ q := by rw [abs_mul, abs_of_pos hpos]
  have hγ : (∃ i : ℤ, γ = i) ∨ (|γ| < (2 ^ fmtM f : ℤ) ∧ (2 ^ fmtM f : ℤ) ≤ |t|) := by
    refine (hg.multiple_or_small q).imp (fun ⟨i, hi⟩ => ⟨i, mul_right_cancel₀ hpos.ne' hi⟩) fun ⟨hlt, hsmall⟩ => ?_
    rw [habs, mul_lt_mul_iff_left₀ hpos] at hsmall
    push_cast
    exact ⟨hsmall, ht.resolve_left hlt.ne'⟩
  interval_cases rm
  · simp only [← sub_mul, habs, mul_lt_mul_iff_left₀ hpos, mul_left_inj' hpos.ne']
    exact (nearest_of_roundsToInt hγ h).imp id (Or.imp id (And.imp id heven))
  · obtain ⟨hle, hsign, hmax⟩ := toZero_of_roundsToInt hγ h
    simp only [habs, mul_le_mul_iff_left₀ hpos]
    exact ⟨hle, by rw [mul_mul_mul_comm]; exact mul_nonneg hsign (by positivity), hmax⟩
  · simp only [mul_le_mul_iff_left₀ hpos]
    exact floor_of_roundsToInt hγ h
  · simp only [mul_le_mul_iff_left₀ hpos]
    exact ceil_of_roundsToInt hγ h

/-! ### The fields of an encoding (R169, R170) -/

section
variable {f : Nat} (hf : f < 5)
include hf

theorem signBit_eq : signBit f = 2 ^ fmtM f * (fmtEmax f + 1) := by interval_cases f <;> rfl

theorem two_pow_fmtBits : 2 ^ fmtBits f = signBit f + signBit f := by interval_cases f <;> rfl

theorem fmtEmax_pos : 0 < fmtEmax f := by interval_cases f <;> decide

theorem maxFinite_lt_signBit : maxFinite f < signBit f := by interval_cases f <;> decide

theorem infCode_lt_signBit : fmtEmax f * 2 ^ fmtM f < signBit f := by interval_cases f <;> decide

theorem leadingBit_le_maxFinite : 2 ^ fmtM f ≤ maxFinite f := by interval_cases f <;> decide

theorem even_leadingBit : Even (2 ^ fmtM f) := by interval_cases f <;> decide

/-- The largest finite encoding stands below those of the infinities and, in FP8E4, below the one NaN. -/
theorem finite_of_le_maxFinite {c : Nat} (hc : c ≤ maxFinite f) :
    c / 2 ^ fmtM f < fmtEmax f ∨ (f = 3 ∧ c % 2 ^ fmtM f ≠ 7) := by
  by_cases h3 : f = 3
  · subst h3
    have hc : c ≤ 126 := hc
    rw [show 2 ^ fmtM 3 = 8 from rfl, show fmtEmax 3 = 15 from rfl]
    omega
  · have hmax : f ≠ 3 → maxFinite f < 2 ^ fmtM f * fmtEmax f := by interval_cases f <;> decide
    exact .inl (Nat.div_lt_of_lt_mul (lt_of_le_of_lt hc (hmax h3)))

end

/-- The value that a sign, an exponent field and a mantissa field give (R170). -/
def ofFields (f : Nat) (neg : Bool) (e m : Nat) : FVal :=
  if f = 3 ∧ e = 15 ∧ m = 7 then .nan
  else if f ≠ 3 ∧ e = fmtEmax f then if m = 0 then .inf neg else .nan
  else if e = 0 then .num neg m (minExp f) false
  else .num neg (m + 2 ^ fmtM f) ((e : Int) - fmtBias f - fmtM f) false

theorem decodeF_eq_ofFields {f b : Nat} (hb : b < 2 ^ fmtBits f) :
    decodeF f b = ofFields f (decide (signBit f ≤ b)) (b / 2 ^ fmtM f % (fmtEmax f + 1)) (b % 2 ^ fmtM f) := by
  rw [decodeF, Nat.mod_eq_of_lt hb]
  rfl

theorem withSign_lt {f c : Nat} (hf : f < 5) (hc : c < signBit f) (neg : Bool) : withSign f neg c < 2 ^ fmtBits f := by
  rw [two_pow_fmtBits hf]
  unfold withSign
  split <;> omega

theorem decodeF_withSign {f c : Nat} (hf : f < 5) (hc : c < signBit f) (neg : Bool) :
    decodeF f (withSign f neg c) = ofFields f neg (c / 2 ^ fmtM f) (c % 2 ^ fmtM f) := by
  have hfield : c / 2 ^ fmtM f < fmtEmax f + 1 := Nat.div_lt_of_lt_mul (signBit_eq hf ▸ hc)
  rw [decodeF_eq_ofFields (withSign_lt hf hc neg)]
  cases neg
  · simp [withSign, not_le.2 hc, Nat.mod_eq_of_lt hfield]
  · have hsign : withSign f true c = c + 2 ^ fmtM f * (fmtEmax f + 1) := by rw [← signBit_eq hf]; rfl
    rw [hsign, Nat.add_mul_div_left _ _ (Nat.two_pow_pos _), Nat.add_mod_right, Nat.mod_eq_of_lt hfield,
      Nat.add_mul_mod_self_left, ← signBit_eq hf]
    simp

section
variable {f : Nat} (hf : f < 5) (neg : Bool)
include hf

theorem ofFields_zero (m : Nat) : ofFields f neg 0 m = .num neg m (minExp f) false := by
  unfold ofFields
  rw [if_neg (by omega), if_neg (by have := fmtEmax_pos hf; omega), if_pos rfl]

theorem ofFields_normal {e m : Nat} (h0 : 0 < e) (h : e < fmtEmax f ∨ (f = 3 ∧ m ≠ 7)) :
    ofFields f neg e m = .num neg (m + 2 ^ fmtM f) (e - fmtBias f - fmtM f) false := by
  have hnan : ¬(f = 3 ∧ e = 15 ∧ m = 7) := by
    rintro ⟨rfl, rfl, rfl⟩
    simp [show fmtEmax 3 = 15 from rfl] at h
  unfold ofFields
  rw [if_neg hnan, if_neg (by omega), if_neg (by omega)]

omit hf in
theorem ofFields_special (h3 : f ≠ 3) (m : Nat) : ofFields f neg (fmtEmax f) m = if m = 0 then .inf neg else .nan := by
  unfold ofFields
  rw [if_neg (by omega), if_pos ⟨h3, rfl⟩]

theorem ofFields_zero_finiteIs (m : Nat) :
    (ofFields f neg 0 m).FiniteIs neg ((if neg then -1 else 1) * 2 ^ (1 - (fmtBias f : ℤ)) * m / 2 ^ fmtM f) := by
  rw [ofFields_zero hf]
  refine FVal.finiteIs_num ?_
  rw [cast_signed, minExp, zpow_sub₀ two_ne_zero, zpow_natCast]
  ring

theorem ofFields_normal_finiteIs {e m : Nat} (h0 : 0 < e) (h : e < fmtEmax f ∨ (f = 3 ∧ m ≠ 7)) :
    (ofFields f neg e m).FiniteIs neg ((if neg then -1 else 1) * 2 ^ ((e : ℤ) - fmtBias f) * (1 + m / 2 ^ fmtM f)) := by
  rw [ofFields_normal hf neg h0 h]
  refine FVal.finiteIs_num ?_
  have hM : (2 : ℚ) ^ fmtM f ≠ 0 := by positivity
  rw [cast_signed, zpow_sub₀ two_ne_zero, zpow_natCast]
  push_cast
  field_simp
  ring

end

/-! ### Encoding (R171, R176) -/

/-- The encoding of a multiple of 2^q in normal form, without its sign. -/
def codeOf (f n : Nat) (q : Int) : Nat := (q - minExp f).toNat * 2 ^ fmtM f + n

theorem codeOf_minExp (f n : Nat) : codeOf f n (minExp f) = n := by simp [codeOf]

/-- The encodings of the greater spacing are the greater, and so are their values. -/
theorem codeOf_lt_of_exp_lt {f n n' : Nat} {q q' : Int} (h : NormalForm f n q) (h' : NormalForm f n' q') (hlt : q < q') :
    codeOf f n q < codeOf f n' q' ∧ (n : ℚ) * 2 ^ q < n' * 2 ^ q' := by
  obtain ⟨hq, hn, -⟩ := h
  obtain ⟨-, -, hlead⟩ := h'
  have hlead : 2 ^ fmtM f ≤ n' := hlead.resolve_left (by omega)
  constructor
  · calc codeOf f n q < (q - minExp f).toNat * 2 ^ fmtM f + 2 ^ (fmtM f + 1) := Nat.add_lt_add_left hn _
      _ = ((q - minExp f).toNat + 1) * 2 ^ fmtM f + 2 ^ fmtM f := by ring
      _ ≤ codeOf f n' q' := by
        refine Nat.add_le_add (Nat.mul_le_mul_right _ ?_) hlead
        omega
  · have hn' : (n : ℚ) < 2 ^ (fmtM f + 1) := by exact_mod_cast hn
    calc (n : ℚ) * 2 ^ q < 2 ^ (fmtM f + 1) * 2 ^ q := by gcongr
      _ = 2 ^ fmtM f * 2 ^ (q + 1) := by rw [zpow_add_one₀ two_ne_zero]; ring
      _ ≤ n' * 2 ^ q' := by
        gcongr
        · exact_mod_cast hlead
        · norm_num
        · omega

/-- Encodings without sign are ordered as their values. -/
theorem codeOf_le_iff {f n n' : Nat} {q q' : Int} (h : NormalForm f n q) (h' : NormalForm f n' q') :
    codeOf f n q ≤ codeOf f n' q' ↔ (n : ℚ) * 2 ^ q ≤ n' * 2 ^ q' := by
  obtain hlt | rfl | hgt := lt_trichotomy q q'
  · obtain ⟨hcode, hval⟩ := codeOf_lt_of_exp_lt h h' hlt
    exact iff_of_true hcode.le hval.le
  · rw [mul_le_mul_iff_left₀ (by positivity), Nat.cast_le, codeOf, codeOf, Nat.add_le_add_iff_left]
  · obtain ⟨hcode, hval⟩ := codeOf_lt_of_exp_lt h' h hgt
    exact iff_of_false (not_le.2 hcode) (not_le.2 hval)

theorem maxFinite_eq_codeOf {f : Nat} (hf : f < 5) : ∃ n q, NormalForm f n q ∧ codeOf f n q = maxFinite f := by
  interval_cases f
  · exact ⟨2 ^ 24 - 1, 104, by unfold NormalForm; decide, by decide⟩
  · exact ⟨2 ^ 8 - 1, 120, by unfold NormalForm; decide, by decide⟩
  · exact ⟨2 ^ 11 - 1, 5, by unfold NormalForm; decide, by decide⟩
  · exact ⟨14, 5, by unfold NormalForm; decide, by decide⟩
  · exact ⟨7, 13, by unfold NormalForm; decide, by decide⟩

/-- The exponent field and the mantissa field of an encoding (R170). -/
theorem codeOf_fields {f n : Nat} {q : Int} (h : NormalForm f n q) (hn : 2 ^ fmtM f ≤ n) :
    codeOf f n q / 2 ^ fmtM f = (q - minExp f).toNat + 1 ∧ codeOf f n q % 2 ^ fmtM f = n - 2 ^ fmtM f := by
  obtain ⟨-, hlt, -⟩ := h
  have hcode : codeOf f n q = (n - 2 ^ fmtM f) + ((q - minExp f).toNat + 1) * 2 ^ fmtM f := by
    rw [codeOf, add_mul]
    omega
  have hm : n - 2 ^ fmtM f < 2 ^ fmtM f := by rw [pow_succ] at hlt; omega
  rw [hcode, Nat.add_mul_div_right _ _ (Nat.two_pow_pos _), Nat.add_mul_mod_self_right, Nat.div_eq_of_lt hm, Nat.mod_eq_of_lt hm]
  exact ⟨Nat.zero_add _, rfl⟩

theorem decodeF_codeOf {f n : Nat} {q : Int} (hf : f < 5) (h : NormalForm f n q) (hc : codeOf f n q ≤ maxFinite f) (neg : Bool) :
    decodeF f (withSign f neg (codeOf f n q)) = .num neg n q false := by
  rw [decodeF_withSign hf (lt_of_le_of_lt hc (maxFinite_lt_signBit hf))]
  obtain ⟨hq, -, hlead⟩ := id h
  by_cases hn : n < 2 ^ fmtM f
  · obtain rfl : q = minExp f := hlead.resolve_right (not_le.2 hn)
    rw [codeOf_minExp, Nat.div_eq_of_lt hn, Nat.mod_eq_of_lt hn, ofFields_zero hf]
  · rw [not_lt] at hn
    obtain ⟨he, hm⟩ := codeOf_fields h hn
    rw [ofFields_normal hf neg (by omega) (finite_of_le_maxFinite hf hc), he, hm, Nat.sub_add_cancel hn]
    congr 1
    unfold minExp at *
    push_cast
    omega

/-- What an overflow gives (R176). -/
def overflowF (f : Nat) (neg sat : Bool) : Nat :=
  if sat then withSign f neg (maxFinite f) else if f = 3 then canonNaN f else withSign f neg (fmtEmax f * 2 ^ fmtM f)

theorem encodeF_of_normal {f n : Nat} {q : Int} (hf : f < 5) (h : NormalForm f n q) (neg sat : Bool) : encodeF f neg n q sat =
    if codeOf f n q ≤ maxFinite f then withSign f neg (codeOf f n q) else overflowF f neg sat := by
  obtain ⟨hq, hn, hlead⟩ := h
  have hcarry : ¬2 ^ (fmtM f + 1) ≤ n := not_le.2 hn
  simp only [encodeF, ge_iff_le, if_neg hcarry]
  by_cases hsub : n < 2 ^ fmtM f
  · obtain rfl : q = minExp f := hlead.resolve_right (not_le.2 hsub)
    rw [codeOf_minExp, if_pos hsub, if_pos (hsub.le.trans (leadingBit_le_maxFinite hf))]
  · have hcode : (q + fmtM f + fmtBias f).toNat * 2 ^ fmtM f + (n - 2 ^ fmtM f) = codeOf f n q := by
      rw [codeOf, show (q + fmtM f + fmtBias f).toNat = (q - minExp f).toNat + 1 by unfold minExp at *; omega, add_mul]
      omega
    rw [if_neg hsub, hcode]
    rfl

/-- A carry out of the mantissa is the leading bit at the next exponent. -/
theorem encodeF_carry (f : Nat) (neg : Bool) (q : Int) (sat : Bool) :
    encodeF f neg (2 ^ (fmtM f + 1)) q sat = encodeF f neg (2 ^ fmtM f) (q + 1) sat := by
  have hhalf : 2 ^ (fmtM f + 1) / 2 = 2 ^ fmtM f := by rw [pow_succ, Nat.mul_div_cancel _ two_pos]
  have hlt : ¬2 ^ (fmtM f + 1) ≤ 2 ^ fmtM f := by rw [pow_succ]; have := Nat.two_pow_pos (fmtM f); omega
  simp only [encodeF, ge_iff_le, le_refl, if_true, hhalf, if_neg hlt]

/-- A rounded multiple of 2^q has a normal form, of the same value and the same encoding. -/
theorem exists_normal {f n : Nat} {q : Int} (hf : f < 5) (hq : minExp f ≤ q) (hn : n ≤ 2 ^ (fmtM f + 1))
    (hlead : q = minExp f ∨ 2 ^ fmtM f ≤ n) : ∃ n' q',
    NormalForm f n' q' ∧ (n' : ℚ) * 2 ^ q' = n * 2 ^ q ∧ (Even n → Even n')
      ∧ ∀ neg sat, encodeF f neg n q sat = encodeF f neg n' q' sat := by
  obtain hlt | rfl := lt_or_eq_of_le hn
  · exact ⟨n, q, ⟨hq, hlt, hlead⟩, rfl, id, fun _ _ => rfl⟩
  · refine ⟨2 ^ fmtM f, q + 1, ⟨by omega, Nat.pow_lt_pow_right (by decide) (Nat.lt_succ_self _), .inr le_rfl⟩, ?_,
      fun _ => even_leadingBit hf, fun neg sat => encodeF_carry f neg q sat⟩
    rw [zpow_add_one₀ two_ne_zero]
    push_cast
    ring

/-! ### Rounding to a format (R175, R176) -/

theorem decodeF_canonNaN {f : Nat} (hf : f < 5) : decodeF f (canonNaN f) = .nan := by interval_cases f <;> decide

theorem canonNaN_lt {f : Nat} (hf : f < 5) : canonNaN f < 2 ^ fmtBits f := by interval_cases f <;> decide

theorem decodeF_infCode {f : Nat} (hf : f < 5) (h3 : f ≠ 3) (neg : Bool) :
    decodeF f (withSign f neg (fmtEmax f * 2 ^ fmtM f)) = .inf neg := by
  rw [decodeF_withSign hf (infCode_lt_signBit hf), Nat.mul_div_cancel _ (Nat.two_pow_pos _), Nat.mul_mod_left,
    ofFields_special neg h3, if_pos rfl]

theorem decodeF_withSign_maxFinite {f : Nat} (hf : f < 5) (neg : Bool) :
    (decodeF f (withSign f neg (maxFinite f))).FiniteIs neg ((if neg then -1 else 1) * (decodeF f (maxFinite f)).real) := by
  obtain ⟨n, q, hnormal, hcode⟩ := maxFinite_eq_codeOf hf
  have hdecode := decodeF_codeOf hf hnormal hcode.le
  have hplus : decodeF f (maxFinite f) = .num false n q false := hcode ▸ hdecode false
  rw [← hcode, hdecode, hcode, hplus]
  refine FVal.finiteIs_num ?_
  rw [FVal.real_num, cast_signed, cast_signed]
  simp

theorem overflowF_lt {f : Nat} (hf : f < 5) (neg sat : Bool) : overflowF f neg sat < 2 ^ fmtBits f := by
  unfold overflowF
  split
  · exact withSign_lt hf (maxFinite_lt_signBit hf) neg
  · split
    · exact canonNaN_lt hf
    · exact withSign_lt hf (infCode_lt_signBit hf) neg

theorem decodeF_overflowF_unsaturated {f : Nat} (hf : f < 5) (neg : Bool) :
    decodeF f (overflowF f neg false) = if f = 3 then .nan else .inf neg := by
  unfold overflowF
  rw [if_neg Bool.false_ne_true]
  split
  next h3 => exact decodeF_canonNaN hf
  next h3 => exact decodeF_infCode hf h3 neg

/-- What an encoded result is: the value where it is finite, and an overflow as R176 says. -/
theorem encodeF_spec {f n : Nat} {q : Int} (hf : f < 5) (h : NormalForm f n q) (neg sat : Bool) :
    let c := encodeF f neg n q sat
    let y : ℚ := signed neg n * 2 ^ q
    let top := (decodeF f (maxFinite f)).real
    c < 2 ^ fmtBits f ∧ (|y| ≤ top → (decodeF f c).FiniteIs neg y)
      ∧ (top < |y| → sat = true → (decodeF f c).FiniteIs neg (if neg then -top else top))
      ∧ (top < |y| → sat = false → decodeF f c = if f = 3 then .nan else .inf neg) := by
  dsimp only
  obtain ⟨nt, qt, htop, hcode⟩ := maxFinite_eq_codeOf hf
  have hreal : (decodeF f (maxFinite f)).real = nt * 2 ^ qt := by
    have hplus : decodeF f (maxFinite f) = .num false nt qt false := hcode ▸ decodeF_codeOf hf htop hcode.le false
    rw [hplus, FVal.real_num]
    simp [signed]
  have hle := codeOf_le_iff h htop
  rw [hcode, ← hreal, ← abs_signed_mul_zpow neg] at hle
  rw [encodeF_of_normal hf h]
  split
  next hfin =>
    refine ⟨withSign_lt hf (lt_of_le_of_lt hfin (maxFinite_lt_signBit hf)) neg, fun _ => ?_,
      fun ht => absurd (hle.1 hfin) (not_le.2 ht), fun ht => absurd (hle.1 hfin) (not_le.2 ht)⟩
    rw [decodeF_codeOf hf h hfin]
    exact FVal.finiteIs_num rfl
  next hover =>
    refine ⟨overflowF_lt hf neg sat, fun ht => absurd (hle.2 ht) hover, fun _ hs => ?_, fun _ hs => ?_⟩
    · subst hs
      have hmax := decodeF_withSign_maxFinite hf neg
      cases neg <;> simpa [overflowF] using hmax
    · subst hs
      exact decodeF_overflowF_unsaturated hf neg

theorem bitLen_bounds {m : Nat} (hm : m ≠ 0) : 0 < bitLen m ∧ 2 ^ (bitLen m - 1) ≤ m ∧ m < 2 ^ bitLen m := by
  rw [bitLen, if_neg hm]
  exact ⟨Nat.succ_pos _, Nat.log2_self_le hm, Nat.lt_log2_self⟩

/-- The exponent that `roundFmt` rounds at is the grid's spacing at the value. -/
theorem spacing_bounds {f m : Nat} (hm : m ≠ 0) (neg : Bool) (e : Int) :
    let q := max (e + bitLen m - 1 - fmtM f) (minExp f)
    let t := (FVal.num neg m e false).real / 2 ^ q
    |t| < 2 ^ (fmtM f + 1) ∧ (q = minExp f ∨ 2 ^ fmtM f ≤ |t|) := by
  intro q t
  obtain ⟨hlen, hlo, hhi⟩ := bitLen_bounds hm
  have hpos : (0 : ℚ) < 2 ^ q := by positivity
  have ht : |t| = m * 2 ^ e / 2 ^ q := by rw [abs_div, FVal.real_num, abs_signed_mul_zpow, abs_of_pos hpos]
  rw [ht, div_lt_iff₀ hpos, le_div_iff₀ hpos]
  constructor
  · have hhi : (m : ℚ) < 2 ^ bitLen m := by exact_mod_cast hhi
    calc (m : ℚ) * 2 ^ e < 2 ^ bitLen m * 2 ^ e := by gcongr
      _ = 2 ^ (bitLen m + e) := by rw [zpow_add₀ two_ne_zero, zpow_natCast]
      _ ≤ 2 ^ (((fmtM f + 1 : ℕ) : ℤ) + q) := by
        refine zpow_le_zpow_right₀ one_le_two ?_
        have := le_max_left (e + bitLen m - 1 - fmtM f) (minExp f)
        push_cast
        omega
      _ = 2 ^ (fmtM f + 1) * 2 ^ q := by rw [zpow_add₀ two_ne_zero, zpow_natCast]
  · refine or_iff_not_imp_left.2 fun hne => ?_
    have hq : q = e + bitLen m - 1 - fmtM f := (max_choice _ _).resolve_right hne
    have hlo : (2 : ℚ) ^ (bitLen m - 1) ≤ m := by exact_mod_cast hlo
    calc (2 : ℚ) ^ fmtM f * 2 ^ q = 2 ^ (fmtM f + q) := by rw [zpow_add₀ two_ne_zero, zpow_natCast]
      _ = 2 ^ (((bitLen m - 1 : ℕ) : ℤ) + e) := by congr 1; omega
      _ = 2 ^ (bitLen m - 1) * 2 ^ e := by rw [zpow_add₀ two_ne_zero, zpow_natCast]
      _ ≤ m * 2 ^ e := by gcongr

/-- A number is rounded to a multiple of the grid's spacing at it, and encoded; zero among the subnormals. -/
theorem roundFmt_eq_encodeF {f : Nat} (hf : f < 5) (rm : Nat) (sat neg : Bool) (m : Nat) (e : Int) : ∃ q,
    let t := (FVal.num neg m e false).real / 2 ^ q
    minExp f ≤ q ∧ |t| < 2 ^ (fmtM f + 1) ∧ (q = minExp f ∨ 2 ^ fmtM f ≤ |t|)
      ∧ roundFmt (.num neg m e false) f rm sat = encodeF f neg (roundTo rm neg m e q false) q sat := by
  by_cases hm : m = 0
  · subst hm
    have hzero : roundTo rm neg 0 e (minExp f) false = 0 := by
      rw [roundTo_eq_roundQuot, Nat.zero_mul, roundQuot_zero rm neg (Nat.two_pow_pos _)]
    refine ⟨minExp f, le_rfl, ?_, .inl rfl, ?_⟩
    · simp [FVal.real]
    · rw [hzero, encodeF_of_normal hf ⟨le_rfl, Nat.two_pow_pos _, .inl rfl⟩, codeOf_minExp, if_pos (Nat.zero_le _)]
      rfl
  · obtain ⟨hhi, hlo⟩ := spacing_bounds (f := f) hm neg e
    exact ⟨_, le_max_right _ _, hhi, hlo, if_neg fun h => hm h.1⟩

theorem roundsToInt_abs {rm : Nat} {t : ℚ} {n : ℤ} (hrm : rm < 4) (h : RoundsToInt rm t n) :
    |(n : ℚ)| < |t| + 1 ∧ |t| < |(n : ℚ)| + 1 := by
  have hnear (hlt : |n - t| < 1) : |(n : ℚ)| < |t| + 1 ∧ |t| < |(n : ℚ)| + 1 := by
    obtain ⟨hlo, hhi⟩ := abs_lt.1 (lt_of_le_of_lt (abs_abs_sub_abs_le (n : ℚ) t) hlt)
    exact ⟨by linarith, by linarith⟩
  interval_cases rm
  · exact hnear (lt_of_le_of_lt h.1 (by norm_num))
  · obtain ⟨hle, hlt, -⟩ := h
    exact ⟨by linarith, hlt⟩
  · obtain ⟨hle, hlt⟩ := h
    exact hnear (abs_lt.2 ⟨by linarith, by linarith⟩)
  · obtain ⟨hle, hlt⟩ := h
    exact hnear (abs_lt.2 ⟨by linarith, by linarith⟩)

theorem roundFmt_num {f rm : Nat} (hf : f < 5) (hrm : rm < 4) (sat neg : Bool) (m : Nat) (e : Int) :
    let x := FVal.num neg m e false
    let r := decodeF f (roundFmt x f rm sat)
    let top := (decodeF f (maxFinite f)).real
    roundFmt x f rm sat < 2 ^ fmtBits f ∧ ∃ y, RoundsTo f rm x.real y ∧ (|y| ≤ top → r.FiniteIs neg y)
      ∧ (top < |y| → sat = true → r.FiniteIs neg (if neg then -top else top))
      ∧ (top < |y| → sat = false → r = if f = 3 then .nan else .inf neg) := by
  dsimp only
  obtain ⟨q, hq, hhi, hlo, hround⟩ := roundFmt_eq_encodeF hf rm sat neg m e
  have hint := roundsToInt_roundTo hrm neg m e q
  obtain ⟨hltN, hgtN⟩ := roundsToInt_abs hrm hint
  rw [hround]
  generalize hN : roundTo rm neg m e q false = N at *
  rw [← Int.cast_abs, abs_signed, Int.cast_natCast] at hltN hgtN
  have hN : N ≤ 2 ^ (fmtM f + 1) := Nat.lt_add_one_iff.1 (by exact_mod_cast hltN.trans (add_lt_add_left hhi 1))
  have hlead : q = minExp f ∨ 2 ^ fmtM f ≤ N :=
    hlo.imp id fun h => Nat.lt_add_one_iff.1 (by exact_mod_cast lt_of_le_of_lt h hgtN)
  obtain ⟨n, q', hnormal, hval, heven, hcode⟩ := exists_normal hf hq hN hlead
  have hy : (signed neg N : ℚ) * 2 ^ q = signed neg n * 2 ^ q' := by
    rw [cast_signed, cast_signed, mul_assoc, mul_assoc, hval]
  have hrounds : RoundsTo f rm (FVal.num neg m e false).real (signed neg n * 2 ^ q') := by
    rw [← div_mul_cancel₀ (FVal.num neg m e false).real (show (2 : ℚ) ^ q ≠ 0 by positivity), ← hy]
    refine roundsTo_of_roundsToInt hrm hint hlo (hy ▸ hnormal.onGrid neg) fun h => ?_
    exact hy ▸ hnormal.evenOn neg (heven (even_signed.1 h))
  obtain ⟨hbits, hspec⟩ := encodeF_spec hf hnormal neg sat
  rw [hcode]
  exact ⟨hbits, _, hrounds, hspec⟩

theorem decodeF_roundFmt_inf {f : Nat} (hf : f < 5) (rm : Nat) (sat neg : Bool) :
    let r := decodeF f (roundFmt (.inf neg) f rm sat)
    (f ≠ 3 → r = .inf neg) ∧ (f = 3 → sat = true → r.FiniteIs neg (if neg then -448 else 448))
      ∧ (f = 3 → sat = false → r = .nan) := by
  refine ⟨fun h3 => ?_, ?_, ?_⟩
  · rw [roundFmt, if_pos h3]
    exact decodeF_infCode hf h3 neg
  · rintro rfl rfl
    have htop : (decodeF 3 (maxFinite 3)).real = 448 := by
      rw [show decodeF 3 (maxFinite 3) = .num false 14 5 false by decide, FVal.real_num]
      norm_num [signed]
    have hmax := decodeF_withSign_maxFinite hf neg
    rw [htop] at hmax
    cases neg <;> simpa [roundFmt] using hmax
  · rintro rfl rfl
    exact decodeF_canonNaN hf

/-! ### The statement of O21 -/

/-- Settles O21: the fields by the lemmas about `ofFields`, rounding by `roundFmt_num`, and sums, products and integers by the
lemma about each. -/
theorem floatNumbers : Obligations.FloatNumbers := by
  unfold Obligations.FloatNumbers
  refine ⟨?fields, ?round, ?exact, ?infinities, ?nans, ?integers⟩
  case fields =>
    intro f hf b hb
    dsimp only
    rw [decodeF_eq_ofFields hb]
    refine ⟨fun he => ?_, fun h0 he => ofFields_normal_finiteIs hf _ h0 he, fun h3 he => ?_, ?_⟩
    · rw [he]
      exact ofFields_zero_finiteIs hf _ _
    · rw [he]
      exact ofFields_special _ h3 _
    · rintro rfl he hm
      exact if_pos ⟨rfl, he, hm⟩
  case round =>
    exact fun f hf rm hrm sat => ⟨⟨rfl, decodeF_canonNaN hf⟩, decodeF_roundFmt_inf hf rm sat, roundFmt_num hf hrm sat⟩
  case exact =>
    exact fun rm s m e b s' m' e' b' => ⟨fadd_num rm s m e b s' m' e' b', fmul_num s m e b s' m' e' b',
      fun i => ⟨rfl, rfl, rfl, rfl⟩⟩
  case infinities => exact fun _ _ _ => ⟨rfl, rfl⟩
  case nans => exact fun _ x => by cases x <;> exact ⟨rfl, rfl, rfl, rfl⟩
  case integers =>
    intro rm hrm w hw
    have hpos : 0 < w := by
      simp only [List.mem_cons, List.not_mem_nil, or_false] at hw
      omega
    exact ⟨rfl, fToInt_inf hpos rm, fToInt_num hrm w⟩

end Sys2Proof.Machine
end

section
/-! The array state under the updates of a core (R184), its tables and rows, and O60. -/

namespace Sys2Proof.Machine

/-! ### Tables -/

/-- A table cut down to some keys. -/
theorem Map.find?_filter {α : Type} (m : Map α) (p : Nat → Bool) (k : Nat) :
    Map.find? (m.filter fun e => p e.1) k = if p k then m.find? k else none := by
  induction m with
  | nil => simp [Map.find?]
  | cons e r ih =>
    obtain ⟨j, x⟩ := e
    by_cases hj : p j
    · by_cases hk : j = k
      · subst hk; simp [Map.find?, hj]
      · simpa [Map.find?, hj, hk] using ih
    · by_cases hk : j = k
      · subst hk; simpa [hj] using ih
      · simpa [Map.find?, hj, hk] using ih

theorem Map.get_filter {α : Type} (m : Map α) (p : Nat → Bool) (k : Nat) (d : α) :
    Map.get (m.filter fun e => p e.1) k d = if p k then m.get k d else d := by
  rw [Map.get, Map.find?_filter]
  split <;> rfl

theorem Map.get_drop {α : Type} (m : Map α) (k j : Nat) (d : α) : (m.drop k).get j d = if j = k then d else m.get j d := by
  have hdrop : m.drop k = m.filter fun e => decide (e.1 ≠ k) := rfl
  rw [hdrop, Map.get_filter m fun n => decide (n ≠ k)]
  by_cases h : j = k <;> simp [h]

/-- A row put into a table that does not list the default: it reads back, and every other as before. -/
theorem Map.get_put {α : Type} (m : Map α) (k j : Nat) (x d : α) [Decidable (x = d)] :
    Map.get (if x = d then m.drop k else m.set k x) j d = if j = k then x else m.get j d := by
  split
  next h => rw [Map.get_drop, h]
  next =>
    split
    next h => rw [h, Map.get_set_self]
    next h => rw [Map.get_set_ne _ _ _ _ _ h]

/-! ### The array of the core in focus -/

@[simp] theorem State.foc_modArr (s : State) (g : ArrayState → ArrayState) : (s.modArr g).foc = s.foc := rfl
@[simp] theorem State.dev_modArr (s : State) (g : ArrayState → ArrayState) : (s.modArr g).dev = s.dev := rfl

@[simp] theorem State.core_modArr (s : State) (g : ArrayState → ArrayState) :
    (s.modArr g).core = { s.core with arr := g s.core.arr } := State.core_modCore s _

@[simp] theorem State.ctx_modArr (s : State) (g : ArrayState → ArrayState) : (s.modArr g).ctx = s.ctx := State.ctx_modCore s _

@[simp] theorem State.cyc_modArr (s : State) (g : ArrayState → ArrayState) : (s.modArr g).cyc = s.cyc := by
  rw [State.cyc, State.core_modArr, State.cyc]

theorem State.ctxAt_modArr (s : State) (g : ArrayState → ArrayState) (n : Nat) : (s.modArr g).core.ctxAt n = s.core.ctxAt n := by
  rw [State.core_modArr, Core.ctxAt, Core.ctxAt]

/-- A change of the core in focus is what it makes of that core. -/
theorem State.modCore_congr {s : State} {g g' : Core → Core} (h : g s.core = g' s.core) : s.modCore g = s.modCore g' := by
  have hc : g (s.coreAt s.foc.core) = g' (s.coreAt s.foc.core) := h
  rw [State.modCore, State.modCore, State.modCoreAt, State.modCoreAt, hc]

theorem arr_modCtx (s : State) (g : Ctx → Ctx) : (s.modCtx g).core.arr = s.core.arr := by rw [State.core_modCtx]

theorem arr_modArch (s : State) (g : Arch → Arch) : (s.modArch g).core.arr = s.core.arr := arr_modCtx s _

/-! ### Buffers -/

@[simp] theorem buf_setBuf_other (a : ArrayState) (b : BitVec 1) (x : Buffer) : (a.setBuf b x).buf (~~~b) = a.buf (~~~b) := by
  obtain rfl | rfl := BitVec.eq_zero_or_eq_one b <;> rfl

@[simp] theorem pushes_setBuf (a : ArrayState) (b : BitVec 1) (x : Buffer) : (a.setBuf b x).pushes = a.pushes := by
  unfold ArrayState.setBuf
  split <;> rfl

@[simp] theorem loads_setBuf (a : ArrayState) (b : BitVec 1) (x : Buffer) : (a.setBuf b x).loads = a.loads := by
  unfold ArrayState.setBuf
  split <;> rfl

@[simp] theorem wpFree_setBuf (a : ArrayState) (b : BitVec 1) (x : Buffer) : (a.setBuf b x).wpFree = a.wpFree := by
  unfold ArrayState.setBuf
  split <;> rfl

/-! ### Elements of a row -/

theorem ofNat_elemOf {n : Nat} (x : BitVec n) (i w : Nat) : BitVec.ofNat w (elemOf x.toNat i w) = x.extractLsb' (w * i) w := by
  apply BitVec.eq_of_toNat_eq
  rw [BitVec.toNat_ofNat, BitVec.extractLsb'_toNat, Nat.shiftRight_eq_div_pow, elemOf, Nat.mod_mod]

theorem elemOf_toNat {n : Nat} (x : BitVec n) (i w : Nat) : elemOf x.toNat i w = (x.extractLsb' (w * i) w).toNat := by
  rw [BitVec.extractLsb'_toNat, Nat.shiftRight_eq_div_pow, elemOf]

/-! ### The machine after reset -/

/-- No core is listed at reset: each is as its fields' defaults say. -/
theorem coreAt_reset (c : Nat) : State.reset.coreAt c = {} := rfl

theorem keyLoaded_reset (n : Nat) : (State.reset.dev.keys.get n {}).loaded = decide (n = 0) := by
  have hkeys : State.reset.dev.keys = [(0, { loaded := true })] := rfl
  rw [hkeys]
  by_cases h : n = 0
  · subst h; rfl
  · simp [Map.get, Map.find?, h, Ne.symm h]

/-- Settles O60: a core and a limit word that nothing lists have the values of their defaults, and of the key slots only slot 0 is
listed. -/
theorem resetState : Obligations.ResetState := by
  unfold Obligations.ResetState
  refine ⟨?memories, ?cores, ?keys, ?limits, ?throttle⟩
  case memories => exact ⟨rfl, rfl, fun e he => absurd he List.not_mem_nil⟩
  case cores =>
    intro c
    dsimp only
    rw [coreAt_reset]
    exact ⟨rfl, rfl, rfl, fun r => ⟨rfl, rfl, rfl, rfl, rfl, rfl, rfl, rfl⟩⟩
  case keys => exact keyLoaded_reset
  case limits => exact fun f => ⟨rfl, rfl, rfl, rfl, rfl, rfl⟩
  case throttle => rfl

end Sys2Proof.Machine
end

section
/-! Reading the array out, the transposer (R203, R205, R208, R211, R235), and O38. -/

namespace Sys2Proof.Machine

/-! ### Rows that are read out -/

/-- Two folds agree where their steps agree in every state that the one of them passes. -/
theorem foldl_congr_of_invariant {α β : Type} {P : α → Prop} {f g : α → β → α} (hkeep : ∀ t x, P t → P (g t x))
    (heq : ∀ t x, P t → f t x = g t x) (l : List β) : ∀ s, P s → l.foldl f s = l.foldl g s := by
  induction l with
  | nil => exact fun _ _ => rfl
  | cons x r ih =>
    intro s hs
    rw [List.foldl_cons, List.foldl_cons, heq s x hs]
    exact ih _ (hkeep s x hs)

/-- `t` gives a read of the array all that `s` gives it. -/
structure SameReads (s t : State) : Prop where
  foc : t.foc = s.foc
  dev : t.dev = s.dev
  buf (b : BitVec 1) : t.core.arr.buf b = s.core.arr.buf b
  seg : t.ctx.seg = s.ctx.seg
  inst : t.ctx.inst = s.ctx.inst

namespace SameReads

theorem refl (s : State) : SameReads s s := ⟨rfl, rfl, fun _ => rfl, rfl, rfl⟩

theorem lands {s t : State} (h : SameReads s t) (r : RegId) (lat : Nat) (v : Payload) : SameReads s (t.lands r lat v) := by
  unfold State.lands
  refine ⟨h.foc, h.dev, fun b => ?_, ?_, ?_⟩
  · rw [arr_modCtx, h.buf]
  · rw [State.ctx_modCtx, h.seg]
  · rw [State.ctx_modCtx, h.inst]

theorem keeps (s : State) (parts : List (Nat × Bool)) (last : Nat) : SameReads s (s.keeps parts last) := by
  have hctx : (s.keeps parts last).ctx = s.ctx := State.ctx_modCore s _
  refine ⟨rfl, rfl, fun b => ?_, by rw [hctx], by rw [hctx]⟩
  unfold State.keeps
  rw [State.core_modCore]
  rfl

variable {s t : State}

theorem canRewind (h : SameReads s t) : canRewind t = canRewind s := by
  unfold Machine.canRewind State.vfid State.launch? State.launchOf State.limit State.launchAt
  rw [h.seg, h.inst, h.dev]

theorem arrayInfo (h : SameReads s t) (op : Instr) : arrayInfo op t = arrayInfo op s := by
  unfold Machine.arrayInfo info14
  rw [h.seg, h.canRewind]

/-- A row read out of the array lands, or its landing fault does (R211). -/
theorem postRead (h : SameReads s t) (hbad : s.foc.bad = false) {i : Instr} {row m : Nat} (lat : Nat) (v : Payload)
    {b : BitVec 1} (hi : ∀ a : ArrayState, a.badFor i [row] = (a.buf b).bad.contains row) : postRead i row ⟨.m, m⟩ lat v t =
      t.lands ⟨.m, m⟩ lat (if (s.core.arr.buf b).bad.contains row then .corrupt (Machine.arrayInfo i s) else v) := by
  unfold Machine.postRead
  rw [post_certain (by rw [h.foc]; exact hbad) _ _ _ (by simp), hi, h.buf, h.arrayInfo]

end SameReads

theorem badFor_fgout (f : MSlot) (row : Nat) (a : ArrayState) : a.badFor (.fgout f) [row] = (a.buf f.b).bad.contains row :=
  Bool.or_false _

theorem badFor_frdc (f : MSlot) (row : Nat) (a : ArrayState) : a.badFor (.frdc f) [row] = (a.buf f.b).bad.contains row :=
  Bool.or_false _

/-! ### FGOUT and FRDC (R203, R208) -/

section
variable {f : MSlot} {s : State}

theorem exec_fgout {qs : Nat} (hr : Ready (.fgout f) s) (hd : (s.core.arr.buf f.b).desc = .grad qs)
    (hx : (s.ctx.a.sReg f.sa.toNat).toNat < 128) (hn : (s.ctx.a.sReg f.sa.toNat).toNat + mCount f ≤ 128) :
    let b := s.core.arr.buf f.b
    let x := (s.ctx.a.sReg f.sa.toNat).toNat
    exec (.fgout f) s = .next ((List.range (mCount f)).foldl (fun t r => t.lands ⟨.m, f.md.toNat + s.foc.k * mCount f + r⟩ (8 + r)
      (if b.bad.contains (x + r) then .corrupt (arrayInfo (.fgout f) s) else .vec (BitVec.allOnes 4096)
        (mkVec fun j => ((b.rows.get (x + r) 0).extractLsb' (32 * (16 * j + f.aux.toNat)) 32)) (some (plainTag 0))))
      (s.keeps [(f.b.toNat, false)] (s.cyc + mCount f - 1))) := by
  obtain ⟨hcheck, hbad⟩ := hr.2.2
  refine (ready_engine_open (own := .go) rfl hr rfl rfl).trans (congrArg _ ?_)
  dsimp only
  rw [rdS_certain hcheck, hd, if_neg (by simp; omega)]
  refine foldl_congr_of_invariant (P := SameReads s) (fun t r h => h.lands _ _ _) (fun t r h => ?_) _ _ (SameReads.keeps s _ _)
  rw [h.postRead hbad _ _ (badFor_fgout f _)]
  simp only [Buffer.row, ofNat_elemOf]
  rfl

theorem exec_frdc (hr : Ready (.frdc f) s) (hd : ∀ qs, (s.core.arr.buf f.b).desc ≠ .grad qs)
    (hx : (s.ctx.a.sReg f.sa.toNat).toNat < 2 ^ 13) (h7 : (s.ctx.a.sReg f.sa.toNat).toNat / 128 % 2 = 0)
    (hn : (s.ctx.a.sReg f.sa.toNat).toNat % 128 + mCount f ≤ 128) :
    let b := s.core.arr.buf f.b
    let x := (s.ctx.a.sReg f.sa.toNat).toNat
    exec (.frdc f) s = .next ((List.range (mCount f)).foldl
      (fun t r => t.lands ⟨.m, f.md.toNat + s.foc.k * rowRegs 256 (mCount f) + r / 2⟩ (8 + r)
        (if b.bad.contains (x % 128 + r) then .corrupt (arrayInfo (.frdc f) s) else .vec (byteMask (r % 2 * 256) 256)
          (BitVec.ofNat 4096 (packElems 16 ((List.range 128).map fun j =>
            ((b.rows.get (x % 128 + r) 0).extractLsb' (16 * (32 * j + x / 256 % 32)) 16).toNat) * 2 ^ (8 * (r % 2 * 256))))
          (some (plainTag (match b.desc with | .coef _ cf _ => cf | _ => 7)))))
      (s.keeps [(f.b.toNat, false)] (s.cyc + mCount f - 1))) := by
  obtain ⟨hcheck, hbad⟩ := hr.2.2
  refine (ready_engine_open (own := .go) rfl hr rfl rfl).trans (congrArg _ ?_)
  dsimp only
  generalize hword : (s.ctx.a.sReg f.sa.toNat).toNat = x at hx h7 hn ⊢
  have hbit : bits x 7 7 = 0 := h7
  have hhigh : bits x 63 13 = 0 := by
    unfold bits
    rw [Nat.div_eq_of_lt hx, Nat.zero_mod]
  have helem : bits x 12 8 = x / 256 % 32 := rfl
  rw [rdS_certain hcheck, hword, hbit, hhigh, helem, if_neg (by split; exacts [absurd ‹_› (hd _), by simp; omega])]
  refine foldl_congr_of_invariant (P := SameReads s) (fun t r h => h.lands _ _ _) (fun t r h => ?_) _ _ (SameReads.keeps s _ _)
  rw [h.postRead hbad _ _ (badFor_frdc f _), h.foc]
  simp only [Buffer.row, elemOf_toNat]
  rfl

end

/-! ### FOOG (R205) -/

theorem ofNat_pair (x y : BitVec 16) : BitVec.ofNat 32 (x.toNat * 65536 + y.toNat) = x ++ y := by
  apply BitVec.eq_of_toNat_eq
  have hx := x.isLt
  have hy := y.isLt
  rw [BitVec.toNat_append, ← Nat.shiftLeft_add_eq_or_of_lt hy, Nat.shiftLeft_eq, BitVec.toNat_ofNat]
  omega

theorem spoilUses_certain {s : State} (h : s.foc.bad = false) (l : List (Nat × Bool)) : spoilUses l s = s := by
  rw [spoilUses, h]
  rfl

theorem arr_checkedState (i : Instr) (s : State) : (checkedState i s).core.arr = s.core.arr := by
  unfold checkedState
  split
  · exact arr_modCtx s _
  · rfl

/-- FOOG's result, which lands before the counters are cleared. -/
def oogLanded (f : MSlot) (s : State) : State :=
  (checkedState (.foog f) s).lands ⟨if f.aux.getLsbD 3 then .v else .m, if f.aux.getLsbD 3 then f.md.toNat % 64 else f.md.toNat⟩ 4
    (.vec (BitVec.allOnes 4096) (mkVec fun j => s.core.arr.above.get j 0 ++ s.core.arr.below.get j 0) (some (plainTag 5)))

theorem exec_foog {f : MSlot} {s : State} (hr : Ready (.foog f) s) : exec (.foog f) s = .next (if f.aux.getLsbD 0 then
    (oogLanded f s).modCore fun k => { k with arr := { k.arr with below := [], above := [] } } else oogLanded f s) := by
  obtain ⟨ha, hs, -, hbad⟩ := hr
  have hc : (checkedState (.foog f) s).foc.bad = false := by rw [checkedState_foc]; exact hbad
  have hto : mToV (.foog f) = f.aux.getLsbD 3 := rfl
  refine (accepted_engine (own := .go) rfl ha hs rfl).trans (congrArg _ ?_)
  dsimp only
  rw [post_certain hc _ _ _ (by split <;> simp), spoilUses_certain (by exact hc), arr_checkedState, mDest, hto]
  simp only [ofNat_pair]
  rfl

/-! ### The transposer (R235) -/

theorem get_setRow (m : Map Vec) (n j : Nat) (v : Vec) : (setRow m n v).get j 0 = if j = n then v else m.get j 0 := by
  unfold setRow
  exact Map.get_put m n j v 0

/-- Of the rows written one after another the last that names a row stays. -/
theorem get_foldl_setRow (l : List (Nat × Nat × Vec)) (m : Map Vec) (n : Nat) :
    (l.foldl (fun m w => setRow m w.2.1 w.2.2) m).get n 0 =
      ((l.reverse.find? fun w => decide (w.2.1 = n)).map fun w => w.2.2).getD (m.get n 0) := by
  induction l using List.reverseRecOn with
  | nil => rfl
  | append_singleton l w ih =>
    rw [List.foldl_append, List.foldl_cons, List.foldl_nil, get_setRow, List.reverse_append, List.reverse_singleton,
      List.singleton_append, List.find?_cons]
    by_cases h : w.2.1 = n
    · simp [h]
    · simpa [h, Ne.symm h] using ih

theorem find?_filter_reverse {α : Type} (p q : α → Bool) (l : List α) :
    (l.filter p).reverse.find? q = l.reverse.find? fun x => p x && q x := by
  simp [← List.filter_reverse, List.find?_filter]

theorem exec_txiRowWrite (s : State) : Answers .txiRowWrite s fun t => t.core.xposeW = s.core.xposeW.filter (fun w => decide (s.cyc < w.1))
    ∧ ∀ n, t.core.xpose.get n 0 = ((s.core.xposeW.reverse.find? fun w => decide (w.1 ≤ s.cyc) && decide (w.2.1 = n)).map
      fun w => w.2.2).getD (s.core.xpose.get n 0) := by
  refine ⟨_, rfl, ?_⟩
  dsimp only
  rw [State.core_modCore]
  refine ⟨rfl, fun n => ?_⟩
  dsimp only
  rw [get_foldl_setRow, find?_filter_reverse]
  rfl

theorem xpose_applyClear {s : State} (h : s.core.xclear = true) : (applyClear s).core.xpose = [] := by
  rw [applyClear, State.core_modCore, if_pos h]

section
variable {f : TSlot} {s : State}

theorem exec_txi (hr : Ready (.txi f) s) (ht : tagHaar (s.ctx.a.vReg (tReg f s.foc.k)).tag = false) : exec (.txi f) s =
    .next (s.modCore fun k => { k with xposeW := k.xposeW ++ [(s.cyc + 15, tIdx f s.foc.k, (s.ctx.a.vReg (tReg f s.foc.k)).bits)] }) := by
  obtain ⟨hcheck, hbad⟩ := hr.2.2
  refine (ready_engine_open (own := .go) rfl hr rfl rfl).trans (congrArg _ ?_)
  dsimp only
  rw [rdV_certain hcheck, if_neg (by simp [ht])]
  simp only [hbad, Bool.false_eq_true, if_false]

theorem exec_txi_haar (hr : Ready (.txi f) s) (ht : tagHaar (s.ctx.a.vReg (tReg f s.foc.k)).tag = true) :
    exec (.txi f) s = .next (startFault (.txi f) 7 (opInfo (.txi f) 1 (tReg f s.foc.k) 0 s) s) := by
  refine (ready_engine_open (own := .go) rfl hr rfl rfl).trans (congrArg _ ?_)
  dsimp only
  rw [rdV_certain hr.2.2.1, if_pos ht]

theorem exec_txo (hr : Ready (.txo f) s) : exec (.txo f) s = .next (s.lands ⟨.v, tReg f s.foc.k⟩ 4 (.vec (BitVec.allOnes 4096)
    (mkVec fun i => lane (s.core.xpose.get i 0) (tIdx f s.foc.k)) (some (plainTag f.fmt.toNat)))) := by
  refine (ready_engine_open (own := .go) rfl hr rfl rfl).trans (congrArg _ ?_)
  exact post_certain hr.2.2.2 _ _ _ (by simp)

theorem exec_txc (hr : Ready (.txc f) s) : exec (.txc f) s = .next (s.modCore fun k => { k with xclear := true }) := by
  refine (ready_engine_open (own := .go) rfl hr rfl rfl).trans (congrArg _ ?_)
  exact if_neg (by rw [hr.2.2.2]; exact Bool.false_ne_true)

end

/-! ### The statement of O38 -/

/-- Settles O38: a row read out lands by `SameReads.postRead`, FOOG's result before the counters are cleared, and each operation of
the transposer by its own lemma. -/
theorem arrayReadsAndTransposer : Obligations.ArrayReadsAndTransposer := by
  unfold Obligations.ArrayReadsAndTransposer
  refine ⟨fun f s => ⟨?fgout, ?frdc, ?foog⟩, fun f s => ⟨?txi, ?haar, ?txo, ?txc, ?rowWrite, ?clear⟩⟩
  case fgout => exact fun qs hr hd hx hn => exec_fgout hr hd hx hn
  case frdc => exact fun hr hd hx h7 hn => exec_frdc hr hd hx h7 hn
  case foog => exact exec_foog
  case txi => exact exec_txi
  case haar => exact exec_txi_haar
  case txo => exact exec_txo
  case txc => exact exec_txc
  case rowWrite => exact exec_txiRowWrite s
  case clear =>
    intro h n
    rw [xpose_applyClear h]
    rfl

end Sys2Proof.Machine
end

section
/-! Operations that enter the array (R194 to R202): what they are made of, the results on their way, and O36. -/

namespace Sys2Proof.Machine

/-! ### States that differ beside the array -/

/-- `t` is `s` with `pops` entries of the load-data queue taken and the results `lands` on their way: neither the array nor
anything else that a push is made of differs. -/
structure Beside (pops : Nat) (lands : List Landing) (s t : State) : Prop where
  foc : t.foc = s.foc
  uid : t.uid = s.uid
  cyc : t.cyc = s.cyc
  arr : t.core.arr = s.core.arr
  hmode : t.ctx.hmode = s.ctx.hmode
  a : t.ctx.a = { s.ctx.a with queue := s.ctx.a.queue.drop pops }
  flight : t.ctx.flight = s.ctx.flight ++ lands

namespace Beside

theorem of_core {s t : State} (hc : t.core = s.core) (hf : t.foc = s.foc) (hu : t.uid = s.uid) : Beside 0 [] s t := by
  have hctx : t.ctx = s.ctx := by rw [State.ctx, State.ctx, hc, hf]
  exact ⟨hf, hu, by rw [State.cyc, State.cyc, hc], by rw [hc], by rw [hctx], by rw [hctx]; rfl, by rw [hctx, List.append_nil]⟩

theorem refl (s : State) : Beside 0 [] s s := of_core rfl rfl rfl

theorem trans {p q : Nat} {l m : List Landing} {s t u : State} (h : Beside p l s t) (k : Beside q m t u) :
    Beside (p + q) (l ++ m) s u where
  foc := k.foc.trans h.foc
  uid := k.uid.trans h.uid
  cyc := k.cyc.trans h.cyc
  arr := k.arr.trans h.arr
  hmode := k.hmode.trans h.hmode
  a := by rw [k.a, h.a, ← List.drop_drop]
  flight := by rw [k.flight, h.flight, List.append_assoc]

theorem modCtx {s : State} {g : Ctx → Ctx} {p : Nat} {l : List Landing} (hh : (g s.ctx).hmode = s.ctx.hmode)
    (ha : (g s.ctx).a = { s.ctx.a with queue := s.ctx.a.queue.drop p }) (hl : (g s.ctx).flight = s.ctx.flight ++ l) :
    Beside p l s (s.modCtx g) where
  foc := rfl
  uid := rfl
  cyc := State.cyc_modCtx s g
  arr := arr_modCtx s g
  hmode := by rw [State.ctx_modCtx, hh]
  a := by rw [State.ctx_modCtx, ha]
  flight := by rw [State.ctx_modCtx, hl]

theorem checkedState (i : Instr) (s : State) : Beside 0 [] s (checkedState i s) := by
  unfold Machine.checkedState
  split
  · refine modCtx (commit_hmode _) (commit_a _) ?_
    unfold Ctx.commit
    split <;> exact (List.append_nil _).symm
  · exact refl s

theorem takeSources (f : MSlot) (r : Nat) (s : State) : Beside (if f.q = 1#1 then r else 0) [] s (takeSources f r s) := by
  unfold Machine.takeSources
  split
  · unfold State.modArch
    exact modCtx rfl rfl (List.append_nil _).symm
  · exact refl s

theorem gradTag (f : MSlot) (l : List (Option Nat × VReg)) (s : State) : Beside 0 [] s (gradTag f l s).2 := by
  unfold Machine.gradTag
  split
  · split
    · exact refl s
    · split
      · exact of_core rfl rfl rfl
      · exact refl s
  · exact refl s

/-- A result for a vector register is on its way. -/
theorem post {s : State} (hbad : s.foc.bad = false) {r : RegId} (hr : r.cls = .v ∨ r.cls = .m) (lat : Nat) (v : Payload) :
    Beside 0 [{ due := s.cyc + lat, ord := s.foc.ord, reg := r, val := v, hm := s.ctx.hmode }] s (post r lat v s) := by
  rw [post_certain hbad r lat v (by rcases hr with h | h <;> simp [h])]
  unfold State.lands
  exact modCtx rfl rfl rfl

/-- The results of the steps of a fold, each of which sets on their way those that it gives in the first state. -/
theorem foldl {α : Type} {step : State → α → State} {g : α → List Landing} {s : State}
    (h : ∀ t l, Beside 0 l s t → ∀ x, Beside 0 (g x) t (step t x)) (xs : List α) :
    ∀ t l, Beside 0 l s t → Beside 0 (xs.flatMap g) t (xs.foldl step t) := by
  induction xs with
  | nil => exact fun t _ _ => refl t
  | cons x r ih =>
    intro t l ht
    have hx := h t l ht x
    rw [List.flatMap_cons, List.foldl_cons]
    exact hx.trans (ih _ _ (ht.trans hx))

end Beside

/-! ### The results of a push -/

theorem pushLandings_congr {s t : State} (hf : t.foc = s.foc) (hc : t.cyc = s.cyc) (hu : t.uid = s.uid)
    (hh : t.ctx.hmode = s.ctx.hmode) (i : Instr) (f : MSlot) (c len : Nat) (acc : Bool) (tag : BitVec 32) :
    pushLandings i f c len acc tag t = pushLandings i f c len acc tag s := by
  unfold pushLandings
  rw [hf, hc, hu, hh]

/-- The rows of push `id` are on their way. -/
theorem Beside.postRows {s : State} (hbad : s.foc.bad = false) (i : Instr) (f : MSlot) (id c len : Nat) (acc : Bool)
    (tag : BitVec 32) : Beside 0 (pushLandings i f c len acc tag { s with uid := id }) s
      (postRows i f id (mCount f) c f.af.toNat len acc tag s) := by
  unfold Machine.postRows pushLandings
  dsimp only
  refine Beside.foldl (fun t l ht k => ?_) _ s [] (Beside.refl s)
  rw [List.map_eq_flatMap]
  refine Beside.foldl (s := s) (fun u m hu x => ?_) _ t l ht
  have hpost := Beside.post (s := u) (by rw [hu.foc]; exact hbad)
    (r := ⟨if mToV i then .v else .m, mDest i f s.foc.k (rowRegs (len * fmtSize f.af.toNat) (mCount f)) + x.1⟩)
    (by dsimp only; split <;> simp) (pushLatency c + k * c) (.row id k acc f.af.toNat x.2.1 x.2.2.1 x.2.2.2 tag)
  rw [hu.cyc, hu.foc, hu.hmode] at hpost
  exact hpost

/-! ### Entering -/

theorem meetPort_free {s : State} (h : s.core.arr.portTo ≤ s.cyc) : meetPort s = s := by
  unfold meetPort
  split
  · exact if_neg (by omega)
  · rfl

/-- The push that an operation makes in a state beside `s`. -/
theorem newPush_beside {s u : State} {p : Nat} {l : List Landing} (hbad : s.foc.bad = false) (h : Beside p l s u) (i : Instr) (f : MSlot)
    (c : Nat) : newPush i (mCount f) c u = ({ startedPush i f c s with dst := [] }, u.newId.2) := by
  have hid : u.newId.1 = s.uid := h.uid
  unfold newPush startedPush
  dsimp only
  rw [State.foc_newId, h.foc, hid, hbad]
  have hcyc : u.newId.2.cyc = s.cyc := h.cyc
  rw [hcyc]

/-- What entering makes of the array (R194, R198, R209). -/
theorem arr_enterPush (q : Push) (s : State) : ∃ uses,
    let p := { q with dst := pushDests q.op s.foc.k s.core.arr }
    (enterPush q s).core.arr = { s.core.arr with
      uses := uses, pushes := s.core.arr.pushes ++ [p], portTo := q.start + q.n * q.c, port := some p } := by
  unfold enterPush
  dsimp only
  rw [State.core_modArr]
  exact ⟨_, rfl⟩

section
variable {i : Instr} {f : MSlot} {s u t : State} {pops c : Nat} {q : Push} {lands : List Landing}

/-- An operation that enters the array from a state beside `s`, and sets its results on their way. -/
theorem enters_of (hx : exec i s = .next t) (hu : Beside pops [] s u) (ht : Beside 0 lands (enterPush q u.newId.2) t)
    (hop : q.op = i) (hstart : q.start = s.cyc) (hn : q.n = mCount f) :
    Enters i f pops { q with dst := pushDests i s.foc.k s.core.arr } lands s := by
  obtain ⟨uses, harr⟩ := arr_enterPush q u.newId.2
  have hnew : u.newId.2.core.arr = s.core.arr := hu.arr
  have hctx : (enterPush q u.newId.2).ctx = u.ctx := State.ctx_modArr _ _
  have hport : q.start + q.n * q.c = s.cyc + mCount f * q.c := by rw [hstart, hn]
  dsimp only at harr
  rw [← ht.arr, hnew, State.foc_newId, hu.foc, hport] at harr
  subst hop
  refine ⟨t, hx, ?_⟩
  rw [harr, ht.a, ht.flight, hctx, hu.a, hu.flight, List.append_nil]
  exact ⟨rfl, rfl, rfl, rfl, rfl, rfl, rfl, rfl, rfl, rfl, rfl, rfl⟩

/-- A push whose rows land in registers. -/
theorem enters_rows {len : Nat} {acc : Bool} {tag : BitVec 32} (hbad : s.foc.bad = false) (hu : Beside pops [] s u)
    (hx : exec i s = .next (postRows i f s.uid (mCount f) c f.af.toNat len acc tag (enterPush q u.newId.2)))
    (hop : q.op = i) (hstart : q.start = s.cyc) (hn : q.n = mCount f) :
    Enters i f pops { q with dst := pushDests i s.foc.k s.core.arr } (pushLandings i f c len acc tag s) s := by
  have hfoc : (enterPush q u.newId.2).foc = s.foc := hu.foc
  have hcyc : (enterPush q u.newId.2).cyc = s.cyc := (State.cyc_modArr _ _).trans hu.cyc
  have hctx : (enterPush q u.newId.2).ctx = u.ctx := State.ctx_modArr _ _
  have hrows := Beside.postRows (s := enterPush q u.newId.2) (by rw [hfoc]; exact hbad) i f s.uid c len acc tag
  have hlands := pushLandings_congr (s := s) (t := { enterPush q u.newId.2 with uid := s.uid }) hfoc hcyc rfl
    ((congrArg Ctx.hmode hctx).trans hu.hmode) i f c len acc tag
  rw [hlands] at hrows
  exact enters_of hx hu hrows hop hstart hn

end

/-! ### Scratchpad operands (R195) -/

theorem SameTerms.spTile {s t : State} (h : SameTerms s t) (hs : s.ctx.a.check = true) (ha : t.ctx.a = s.ctx.a) (i : Instr) (f : MSlot)
    (align pitchAlign skip n : Nat) (len : Nat → Nat) :
    spTile i f align pitchAlign skip n len t = spTile i f align pitchAlign skip n len s := by
  have ht : t.ctx.a.check = true := h.check.trans hs
  unfold Machine.spTile opInfo
  simp only [rdS_certain hs, rdS_certain ht, ha, h.spPlace, h.foc, h.lid]

theorem OnlyVersions.spoilRead (s : State) (c : Nat) (l : List Nat) : OnlyVersions s (spoilRead c l s) := by
  have hfresh : OnlyVersions s s.fresh.2 := ⟨rfl, rfl, rfl, fun _ => ⟨_, rfl⟩, fun _ _ => ⟨_, rfl⟩, fun _ => rfl⟩
  unfold Machine.spoilRead spoilPonds
  split
  · split
    · exact OnlyVersions.refl s
    · exact hfresh.trans (OnlyVersions.modLaunch _ _ (by exact fun _ => rfl))
  · exact OnlyVersions.refl s

theorem core_spoilRead (c : Nat) (l : List Nat) (s : State) : (spoilRead c l s).core = s.core := by
  unfold spoilRead spoilPonds
  split
  · split
    · rfl
    · unfold State.core State.coreAt
      rw [State.foc_modLaunch, State.cores_modLaunch]
      rfl
  · rfl

theorem badLines_spoilRead (c : Nat) (l : List Nat) (s : State) : (spoilRead c l s).dev.badLines = s.dev.badLines := by
  unfold spoilRead spoilPonds State.modLaunch
  split
  · split
    · rfl
    · dsimp only
      split <;> rfl
  · rfl

theorem badSp_spoilRead (c : Nat) (l : List Nat) (s : State) (d a n : Nat) : badSp (spoilRead c l s) d a n = badSp s d a n := by
  unfold badSp
  rw [badLines_spoilRead]

/-! ### Register operands and their tags (R195, R199, R201) -/

theorem mode_eq_zero (f : MSlot) : f.mode = 0 ↔ f.mode.toNat = 0 := ⟨fun h => by rw [h]; rfl, fun h => BitVec.eq_of_toNat_eq h⟩

theorem mSources_snd {s : State} (h : s.ctx.a.check = true) (f : MSlot) (r : Nat) :
    (mSources f r s).map Prod.snd = pushSources f r s := by
  unfold mSources pushSources
  split
  · exact List.map_map ..
  · rw [List.map_map]
    exact List.map_congr_left fun _ _ => rdV_certain h _

theorem pushSources_congr {s t : State} (hf : t.foc = s.foc) (ha : t.ctx.a = s.ctx.a) (f : MSlot) (r : Nat) :
    pushSources f r t = pushSources f r s := by
  unfold pushSources
  rw [hf, ha]

theorem bits_sources {α : Type} {l : List (α × VReg)} {m : List VReg} (hm : l.map Prod.snd = m) :
    (l.map fun x => x.2.bits.toNat) = m.map fun x => x.bits.toNat := by
  rw [← hm, List.map_map]
  rfl

section
variable {l : List (Option Nat × VReg)} {m : List VReg} (hm : l.map Prod.snd = m)
include hm

theorem haarSource_none (h : ∀ x ∈ m, tagHaar x.tag = false) : haarSource l = none := by
  have hfind : (l.find? fun x => tagHaar x.2.tag) = none := List.find?_eq_none.2 fun x hx => by
    rw [h x.2 (hm ▸ List.mem_map_of_mem hx)]
    exact Bool.false_ne_true
  rw [haarSource, hfind]
  rfl

theorem tagsDiffer_false (h : ∀ x ∈ m, ∀ y ∈ m, x.tag = y.tag) : tagsDiffer l = false := by
  subst hm
  cases l with
  | nil => rfl
  | cons x r =>
    refine List.any_eq_false.2 fun y hy => ?_
    have hxy : x.2.tag = y.2.tag := h x.2 (List.mem_cons_self ..) y.2 (List.mem_cons_of_mem _ (List.mem_map_of_mem hy))
    simp [hxy]

theorem pushTag_sources (f : MSlot) : pushTag f.mode.toNat f.af.toNat l = pushDomain f m := by
  subst hm
  unfold pushTag pushDomain
  cases l with
  | nil => split <;> simp_all
  | cons x r =>
    generalize f.mode.toNat = mode
    cases mode <;> rfl

/-- The tag of g where every source has one and the same. -/
theorem gradTag_sources (f : MSlot) (s : State) (h : ∀ x ∈ m, ∀ y ∈ m, x.tag = y.tag) : (gradTag f l s).1 = gradDomain f m := by
  have hdiffer := tagsDiffer_false hm h
  subst hm
  cases l with
  | nil => rfl
  | cons x r =>
    unfold gradTag gradDomain
    dsimp only
    rw [hdiffer]
    by_cases hq : f.q = 1#1
    · rw [if_pos hq]
      exact (if_pos hq).symm
    · rw [if_neg hq]
      exact (if_neg hq).symm

end

end Sys2Proof.Machine
end

section
/-! What FMX, FMXD and FMXC enter into the array (R195 to R202), and O36. -/

namespace Sys2Proof.Machine

/-! ### Operands of a push -/

/-- Buffer B is as FMX and FMXD name it, and every row of it is mapped where the mode searches (R193, R199). -/
def BufferFits (f : MSlot) (cf : Nat) (s : State) : Prop :=
  (s.core.arr.buf f.b).desc = .coef f.mode.toNat cf f.spn.toNat ∧ (f.mode.toNat ≠ 0 → s.core.arr.unmapped f.b = false)

/-- The tags of the sources are ones that the mode takes (R199). -/
def SourcesFit (f : MSlot) (l : List VReg) : Prop :=
  if f.mode.toNat = 0 then ∀ x ∈ l, ∀ y ∈ l, x.tag = y.tag else ∀ x ∈ l, tagHaar x.tag = false

/-- A push of the rows of a scratchpad tile. -/
def Push.ofTile (p : Push) (t : SpTile) : Push := { p with sp := true, base := t.base, pitch := t.pitch, rot := t.rot }

/-- A push of rows of `brow` bytes that registers or queue entries hold. -/
def Push.ofRegs (p : Push) (l : List VReg) (brow n : Nat) : Push := { p with rows := rowsFrom (l.map fun x => x.bits.toNat) brow n }

theorem pushRefused_false {f : MSlot} {cf : Nat} {s : State} (h : BufferFits f cf s) : pushRefused f s.core.arr = false := by
  obtain ⟨hd, hmap⟩ := h
  unfold pushRefused
  rw [hd]
  by_cases hm : f.mode.toNat = 0
  · simp [hm]
  · simp [hmap hm]

theorem Beside.meetPort {p : Nat} {l : List Landing} {s u : State} (h : Beside p l s u) (hport : s.core.arr.portTo ≤ s.cyc) :
    meetPort u = u := meetPort_free (by rw [h.arr, h.cyc]; exact hport)

theorem Beside.takeSources_of {s u : State} (h : Beside 0 [] s u) (f : MSlot) (r : Nat) :
    Beside (if f.q = 1#1 then r else 0) [] s (Machine.takeSources f r u) := by
  have ht := h.trans (Beside.takeSources f r u)
  rwa [Nat.zero_add] at ht

/-- What the sources of a push are refused for does not hold where their tags fit. -/
theorem SourcesFit.accepted {f : MSlot} {l : List (Option Nat × VReg)} {m : List VReg} (hm : l.map Prod.snd = m)
    (h : SourcesFit f m) : ¬(f.mode ≠ 0 ∧ (haarSource l).isSome = true) ∧ ¬(f.mode = 0 ∧ tagsDiffer l = true) := by
  unfold SourcesFit at h
  rw [ne_eq, mode_eq_zero]
  split at h
  next h0 => exact ⟨fun hh => hh.1 h0, by simp [tagsDiffer_false hm h]⟩
  next h0 => exact ⟨by simp [haarSource_none hm h], fun hh => h0 hh.1⟩

section
variable {f : MSlot} {s : State}

/-! ### FMX (R199, R200) -/

section
variable {cf len : Nat} (hr : Ready (.fmx f) s) (hport : s.core.arr.portTo ≤ s.cyc) (hd : BufferFits f cf s)
  (hlen : inputLen (s.core.arr.buf f.b).desc f.inf.toNat = some len)
include hr hport hd hlen

theorem fmx_enters_tile (hsrc : f.src = 1#1) {t : SpTile}
    (ht : spTile (.fmx f) f (fmtSize f.inf.toNat) (fmtSize f.inf.toNat) 0 (mCount f) (fun _ => len * fmtSize f.inf.toNat) s = .ok t) :
    let c := rowCycles (s.core.arr.buf f.b).desc f.inf.toNat f.af.toNat
    Enters (.fmx f) f 0 ((startedPush (.fmx f) f c s).ofTile t)
      (pushLandings (.fmx f) f c 128 (f.aux.getLsbD 0) (plainTag f.af.toNat) s) s := by
  have hbad := hr.2.2.2
  refine enters_rows hbad (Beside.refl s) (q := Push.ofTile { startedPush (.fmx f) f _ s with dst := [] } t)
    ((ready_engine_open (own := .go) rfl hr rfl rfl).trans (congrArg _ ?_)) rfl rfl rfl
  dsimp only
  rw [hlen]
  dsimp only
  rw [if_neg (by rw [pushRefused_false hd]; exact Bool.false_ne_true), if_pos hsrc, ht]
  dsimp only
  rw [meetPort_free hport, newPush_beside hbad (Beside.refl s)]
  rfl

theorem fmx_enters_regs (hsrc : f.src = 0#1) :
    let c := rowCycles (s.core.arr.buf f.b).desc f.inf.toNat f.af.toNat
    let brow := len * fmtSize f.inf.toNat
    let src := pushSources f (rowRegs brow (mCount f)) s
    SourcesFit f src → Enters (.fmx f) f (if f.q = 1#1 then rowRegs brow (mCount f) else 0)
      ((startedPush (.fmx f) f c s).ofRegs src brow (mCount f))
      (pushLandings (.fmx f) f c 128 (f.aux.getLsbD 0) (pushDomain f src) s) s := by
  intro c brow src hfit
  obtain ⟨hcheck, hbad⟩ := hr.2.2
  have hsnd := mSources_snd hcheck f (rowRegs brow (mCount f))
  obtain ⟨hhaar, htags⟩ := hfit.accepted hsnd
  have hu := Beside.takeSources f (rowRegs brow (mCount f)) s
  refine enters_rows hbad hu (q := Push.ofRegs { startedPush (.fmx f) f c s with dst := [] } src brow (mCount f))
    ((ready_engine_open (own := .go) rfl hr rfl rfl).trans (congrArg _ ?_)) rfl rfl rfl
  dsimp only
  rw [hlen]
  dsimp only
  rw [if_neg (by rw [pushRefused_false hd]; exact Bool.false_ne_true), if_neg (by rw [hsrc]; decide), if_neg hhaar, if_neg htags,
    hu.meetPort hport, newPush_beside hbad hu, pushTag_sources hsnd, bits_sources hsnd]
  rfl

end

theorem fmxHaar_enters {cf : Nat} (hr : Ready (.fmxHaar f) s) (hport : s.core.arr.portTo ≤ s.cyc) (hd : BufferFits f cf s)
    (hlen : inputLen (s.core.arr.buf f.b).desc f.inf.toNat = some 128) {h t : SpTile}
    (hh : spTile (.fmxHaar f) f (fmtSize f.inf.toNat) (fmtSize f.inf.toNat) 0 1 (fun _ => 16) s = .ok h)
    (hgood : badSp s s.foc.core h.base 16 = false) :
    let c := rowCycles (s.core.arr.buf f.b).desc f.inf.toNat f.af.toNat
    let hdr := mxrRead s s.foc.ctx (s.foc.ord / 8) h.base 16
    tileOk hdr = true → tileRows hdr = mCount f → h.pitch = rowBytes f.inf.toNat → tagFmt (tileTag hdr) = f.inf.toNat →
    spTile (.fmxHaar f) f (fmtSize f.inf.toNat) (fmtSize f.inf.toNat) 16 (mCount f) (fun _ => rowBytes f.inf.toNat) s = .ok t →
    Enters (.fmxHaar f) f 0 ((startedPush (.fmxHaar f) f c s).ofTile t)
      (pushLandings (.fmxHaar f) f c 128 (f.aux.getLsbD 0) (setFmt (tileTag hdr) f.af.toNat) s) s := by
  intro c hdr hok hrows hpitch hfmt ht
  obtain ⟨hcheck, hbad⟩ := hr.2.2
  have hversions := OnlyVersions.spoilRead s s.foc.core (rotBytes 0 h.base 16)
  have hcore := core_spoilRead s.foc.core (rotBytes 0 h.base 16) s
  have hu := Beside.of_core hcore hversions.foc hversions.uid
  have hctx : (spoilRead s.foc.core (rotBytes 0 h.base 16) s).ctx = s.ctx := by rw [State.ctx, State.ctx, hcore, hversions.foc]
  have htile := hversions.sameTerms.spTile hcheck (congrArg Ctx.a hctx) (.fmxHaar f) f (fmtSize f.inf.toNat) (fmtSize f.inf.toNat) 16
    (mCount f) fun _ => rowBytes f.inf.toNat
  refine enters_rows hbad hu (q := Push.ofTile { startedPush (.fmxHaar f) f c s with dst := [] } t)
    ((ready_engine_open (own := .go) rfl hr rfl rfl).trans (congrArg _ ?_)) rfl rfl rfl
  dsimp only
  rw [if_neg (by simp [pushRefused_false hd, hlen]), hh]
  dsimp only
  rw [badSp_spoilRead, hversions.foc, hgood, if_neg Bool.false_ne_true, if_neg (by simp [hdr, hok, hrows, hpitch, hfmt]), htile, ht]
  dsimp only
  rw [hu.meetPort hport, newPush_beside hbad hu]
  rfl

/-! ### FMXD (R201) -/

section
variable {cf : Nat} (hr : Ready (.fmxd f) s) (hport : s.core.arr.portTo ≤ s.cyc) (hd : BufferFits f cf s)
include hr hport hd

theorem fmxd_enters_tile (hmode : f.mode.toNat = 0) (hsrc : f.src = 1#1) {t : SpTile}
    (ht : spTile (.fmxd f) f (fmtSize f.inf.toNat) (fmtSize f.inf.toNat) 0 (mCount f) (fun _ => 128 * fmtSize f.inf.toNat) s = .ok t) :
    let d := (s.core.arr.buf f.b).desc
    let c := rowCycles d f.inf.toNat f.af.toNat
    Enters (.fmxd f) f 0 ((startedPush (.fmxd f) f c s).ofTile t)
      (pushLandings (.fmxd f) f c (backLen d) false (plainTag f.af.toNat) s) s := by
  have hbad := hr.2.2.2
  refine enters_rows hbad (Beside.refl s) (q := Push.ofTile { startedPush (.fmxd f) f _ s with dst := [] } t)
    ((ready_engine_open (own := .go) rfl hr rfl rfl).trans (congrArg _ ?_)) rfl rfl rfl
  dsimp only
  rw [if_neg (by rw [pushRefused_false hd]; exact Bool.false_ne_true), if_pos ⟨(mode_eq_zero f).2 hmode, hsrc⟩, ht]
  dsimp only
  rw [meetPort_free hport, newPush_beside hbad (Beside.refl s)]
  rfl

theorem fmxd_enters_regs (hmode : f.mode.toNat = 0) (hsrc : f.src = 0#1) :
    let d := (s.core.arr.buf f.b).desc
    let c := rowCycles d f.inf.toNat f.af.toNat
    let brow := 128 * fmtSize f.inf.toNat
    let src := pushSources f (rowRegs brow (mCount f)) s
    ∃ tag, (SourcesFit f src → tag = gradDomain f src) ∧ Enters (.fmxd f) f (if f.q = 1#1 then rowRegs brow (mCount f) else 0)
      ((startedPush (.fmxd f) f c s).ofRegs src brow (mCount f)) (pushLandings (.fmxd f) f c (backLen d) false tag s) s := by
  intro d c brow src
  obtain ⟨hcheck, hbad⟩ := hr.2.2
  have hsnd := mSources_snd hcheck f (rowRegs brow (mCount f))
  have hu := (Beside.gradTag f (mSources f (rowRegs brow (mCount f)) s) s).takeSources_of f (rowRegs brow (mCount f))
  have hfit (h : SourcesFit f src) : ∀ x ∈ src, ∀ y ∈ src, x.tag = y.tag := by
    unfold SourcesFit at h
    rwa [if_pos hmode] at h
  refine ⟨(gradTag f (mSources f (rowRegs brow (mCount f)) s) s).1, fun h => gradTag_sources hsnd f s (hfit h), ?_⟩
  refine enters_rows hbad hu (q := Push.ofRegs { startedPush (.fmxd f) f c s with dst := [] } src brow (mCount f))
    ((ready_engine_open (own := .go) rfl hr rfl rfl).trans (congrArg _ ?_)) rfl rfl rfl
  dsimp only
  rw [if_neg (by rw [pushRefused_false hd]; exact Bool.false_ne_true), if_neg (by rw [hsrc]; simp), if_pos ((mode_eq_zero f).2 hmode),
    hu.meetPort hport, newPush_beside hbad hu, bits_sources hsnd]
  rfl

theorem fmxd_enters_search (hmode : f.mode.toNat ≠ 0) :
    let d := (s.core.arr.buf f.b).desc
    let c := rowCycles d f.inf.toNat f.af.toNat
    let brow := 128 * fmtSize f.inf.toNat
    let src := pushSources f (rowRegs brow (mCount f)) s
    let x := f.aux.toNat % 8
    SourcesFit f src → ∀ t, spTile (.fmxd f) f (fmtSize x) (fmtSize x) 0 (mCount f) (fun _ => 128 * fmtSize x) s = .ok t →
      Enters (.fmxd f) f (if f.q = 1#1 then rowRegs brow (mCount f) else 0)
        (((startedPush (.fmxd f) f c s).ofRegs src brow (mCount f)).ofTile t)
        (pushLandings (.fmxd f) f c (backLen d) false (plainTag f.af.toNat) s) s := by
  intro d c brow src x hfit t ht
  obtain ⟨hcheck, hbad⟩ := hr.2.2
  have hsnd := mSources_snd hcheck f (rowRegs brow (mCount f))
  have hmode' : ¬f.mode = 0 := fun h => hmode ((mode_eq_zero f).1 h)
  have hhaar : ¬(haarSource (mSources f (rowRegs brow (mCount f)) s)).isSome = true := fun h => (hfit.accepted hsnd).1 ⟨hmode', h⟩
  have hx : bits f.aux.toNat 2 0 = x := by simp [bits, x]
  have hu := Beside.takeSources f (rowRegs brow (mCount f)) s
  refine enters_rows hbad hu (q := (Push.ofRegs { startedPush (.fmxd f) f c s with dst := [] } src brow (mCount f)).ofTile t)
    ((ready_engine_open (own := .go) rfl hr rfl rfl).trans (congrArg _ ?_)) rfl rfl rfl
  dsimp only
  rw [if_neg (by rw [pushRefused_false hd]; exact Bool.false_ne_true), if_neg (fun h => hmode' h.1), if_neg hmode', if_neg hhaar, hx, ht]
  dsimp only
  rw [hu.meetPort hport, newPush_beside hbad hu, bits_sources hsnd]
  rfl

end

/-! ### FMXC (R202) -/

/-- FMXC's gradients of the rows. -/
def gradRegs (f : MSlot) (s : State) : List VReg :=
  let gr := rowRegs (128 * fmtSize f.af.toNat) (mCount f)
  (List.range gr).map fun j => s.ctx.a.mReg (f.md.toNat + s.foc.k * gr + j)

/-- A push with the gradients of its rows. -/
def Push.ofGrads (p : Push) (f : MSlot) (s : State) : Push :=
  { p with gs := rowsFrom ((gradRegs f s).map fun x => x.bits.toNat) (128 * fmtSize f.af.toNat) (mCount f) }

section
variable {m cf sp qs len : Nat} (hr : Ready (.fmxc f) s) (hport : s.core.arr.portTo ≤ s.cyc)
  (hd : (s.core.arr.buf f.b).desc = .coef m cf sp) (hg : (s.core.arr.buf (~~~f.b)).desc = .grad qs)
  (hfp8 : 2 ≤ qs → isFP8 cf = true) (hmap : m ≠ 0 → s.core.arr.unmapped f.b = false)
  (hlen : inputLen (s.core.arr.buf f.b).desc f.inf.toNat = some len) (hplain : ∀ x ∈ gradRegs f s, tagHaar x.tag = false)

include hd hg hfp8 hmap in
theorem fmxcRefused_false : fmxcRefused f s.core.arr = false := by
  unfold fmxcRefused
  rw [hd, hg]
  by_cases hq : 2 ≤ qs <;> by_cases hm : m = 0 <;> simp_all

/-- The gradients as FMXC reads them, numbered. -/
theorem fmxc_reads_gradRegs (hs : Certain s) :
    let u := checkedState (.fmxc f) s
    let gr := rowRegs (128 * fmtSize f.af.toNat) (mCount f)
    ((List.range gr).map fun j => (f.md.toNat + u.foc.k * gr + j, rdM u (f.md.toNat + u.foc.k * gr + j))).map Prod.snd
      = gradRegs f s := by
  intro u gr
  have hcheck := ((SameTerms.checkedState (.fmxc f) s).certain hs).1
  rw [List.map_map]
  refine List.map_congr_left fun j _ => ?_
  have hread := rdM_certain hcheck (f.md.toNat + u.foc.k * gr + j)
  rw [checkedState_a] at hread
  rw [Function.comp_apply, hread, checkedState_foc]

/-- None of FMXC's gradients has a HAAR tag. -/
theorem fmxc_haar_none (hs : Certain s) (hplain : ∀ x ∈ gradRegs f s, tagHaar x.tag = false) :
    let u := checkedState (.fmxc f) s
    let gr := rowRegs (128 * fmtSize f.af.toNat) (mCount f)
    (((List.range gr).map fun j => (f.md.toNat + u.foc.k * gr + j, rdM u (f.md.toNat + u.foc.k * gr + j))).find? fun x =>
      tagHaar x.2.tag) = none := by
  intro u gr
  refine List.find?_eq_none.2 fun x hx => ?_
  rw [hplain x.2 (fmxc_reads_gradRegs hs ▸ List.mem_map_of_mem hx)]
  exact Bool.false_ne_true

include hr hport hd hg hfp8 hmap hlen hplain

theorem fmxc_enters_tile (hsrc : f.src = 1#1) {t : SpTile}
    (ht : spTile (.fmxc f) f (fmtSize f.inf.toNat) (fmtSize f.inf.toNat) 0 (mCount f) (fun _ => len * fmtSize f.inf.toNat) s = .ok t) :
    let c := rowCycles (s.core.arr.buf f.b).desc f.inf.toNat f.af.toNat
    Enters (.fmxc f) f 0 (((startedPush (.fmxc f) f c s).ofGrads f s).ofTile t) [] s := by
  intro c
  obtain ⟨ha, hs, hsure⟩ := hr
  have hu := Beside.checkedState (.fmxc f) s
  have htile := (SameTerms.checkedState (.fmxc f) s).spTile hsure.1 (checkedState_a _ _) (.fmxc f) f (fmtSize f.inf.toNat)
    (fmtSize f.inf.toNat) 0 (mCount f) fun _ => len * fmtSize f.inf.toNat
  refine enters_of ((accepted_engine (own := .go) rfl ha hs rfl).trans (congrArg _ ?_)) hu (Beside.refl _)
    (q := (Push.ofGrads { startedPush (.fmxc f) f c s with dst := [] } f s).ofTile t) rfl rfl rfl
  dsimp only
  rw [arr_checkedState, hlen]
  dsimp only
  rw [if_neg (by rw [fmxcRefused_false hd hg hfp8 hmap]; exact Bool.false_ne_true), fmxc_haar_none hsure hplain]
  dsimp only
  rw [if_pos hsrc, htile, ht]
  dsimp only
  rw [hu.meetPort hport, newPush_beside hsure.2 hu, bits_sources (fmxc_reads_gradRegs hsure)]
  rfl

theorem fmxc_enters_regs (hsrc : f.src = 0#1) :
    let c := rowCycles (s.core.arr.buf f.b).desc f.inf.toNat f.af.toNat
    let brow := len * fmtSize f.inf.toNat
    let src := pushSources f (rowRegs brow (mCount f)) s
    (∀ x ∈ src, tagHaar x.tag = false) → Enters (.fmxc f) f (if f.q = 1#1 then rowRegs brow (mCount f) else 0)
      (((startedPush (.fmxc f) f c s).ofGrads f s).ofRegs src brow (mCount f)) [] s := by
  intro c brow src hsource
  obtain ⟨ha, hs, hsure⟩ := hr
  have hcheck := ((SameTerms.checkedState (.fmxc f) s).certain hsure).1
  have hsnd := mSources_snd hcheck f (rowRegs brow (mCount f))
  rw [pushSources_congr (checkedState_foc _ s) (checkedState_a _ s)] at hsnd
  have hu := (Beside.checkedState (.fmxc f) s).takeSources_of f (rowRegs brow (mCount f))
  refine enters_of ((accepted_engine (own := .go) rfl ha hs rfl).trans (congrArg _ ?_)) hu (Beside.refl _)
    (q := (Push.ofGrads { startedPush (.fmxc f) f c s with dst := [] } f s).ofRegs src brow (mCount f)) rfl rfl rfl
  dsimp only
  rw [arr_checkedState, hlen]
  dsimp only
  rw [if_neg (by rw [fmxcRefused_false hd hg hfp8 hmap]; exact Bool.false_ne_true), fmxc_haar_none hsure hplain]
  dsimp only
  rw [if_neg (by rw [hsrc]; decide), haarSource_none hsnd hsource]
  dsimp only
  rw [hu.meetPort hport, newPush_beside hsure.2 hu, bits_sources (fmxc_reads_gradRegs hsure), bits_sources hsnd]
  rfl

end

end

/-! ### The statement of O36 -/

/-- Settles O36: past its checks each operation makes its push in a state beside the one it meets, and `enters_rows` and `enters_of`
say what entering leaves and sets on its way. -/
theorem arrayPushes : Obligations.ArrayPushes := by
  unfold Obligations.ArrayPushes
  intro f s hport
  refine ⟨?fmx, ?fmxHaar, ?fmxd, ?fmxc⟩
  case fmx =>
    intro cf len hr hd hlen
    exact ⟨fun hsrc t ht => fmx_enters_tile hr hport hd hlen hsrc ht, fun hsrc hfit => fmx_enters_regs hr hport hd hlen hsrc hfit⟩
  case fmxHaar =>
    intro cf h t hr hd hlen _ _ hh hgood hok hrows hpitch hfmt ht
    exact fmxHaar_enters hr hport hd hlen hh hgood hok hrows hpitch hfmt ht
  case fmxd =>
    intro cf hr hd
    exact ⟨fun hmode hsrc t ht => fmxd_enters_tile hr hport hd hmode hsrc ht,
      fun hmode hsrc => fmxd_enters_regs hr hport hd hmode hsrc,
      fun hmode hfit t ht => fmxd_enters_search hr hport hd hmode hfit t ht⟩
  case fmxc =>
    intro m cf sp qs len hr hd hg hfp8 hmap hlen _ _ _ _ _ _ hplain
    exact ⟨fun hsrc t ht => fmxc_enters_tile hr hport hd hg hfp8 hmap hlen hplain hsrc ht,
      fun hsrc hsource => fmxc_enters_regs hr hport hd hg hfp8 hmap hlen hplain hsrc hsource⟩

end Sys2Proof.Machine
end

section
/-! The array in a cycle (R187, R190, R194, R269): rows of pushes, FLOADs and slot writes, and O45. -/

namespace Sys2Proof.Machine

/-! ### A context of the core in focus changed -/

theorem arr_modCtxAt (s : State) (n : Nat) (g : Ctx → Ctx) : (s.modCtxAt s.foc.core n g).core.arr = s.core.arr := by
  unfold State.modCtxAt State.core
  rw [State.foc_modCoreAt, State.coreAt_modCoreAt_self]

theorem ctxAt_modCtxAt (s : State) (n : Nat) (g : Ctx → Ctx) : (s.modCtxAt s.foc.core n g).core.ctxAt n = g (s.core.ctxAt n) := by
  unfold State.modCtxAt State.core
  rw [State.foc_modCoreAt, State.coreAt_modCoreAt_self, Core.ctxAt_set_self]

/-! ### A row of a push (R194, R199, R201, R202) -/

/-- Searches count, and change nothing else of the array. -/
theorem countSearch_eq (b : BitVec 1) (fmt : Nat) (x : List Nat) (a : ArrayState) :
    ∃ below above, countSearch b fmt x a = { a with below := below, above := above } := by
  unfold countSearch
  induction List.range 128 using List.reverseRecOn with
  | nil => exact ⟨_, _, rfl⟩
  | append_singleton l i ih =>
    obtain ⟨below, above, h⟩ := ih
    rw [List.foldl_append, h, List.foldl_cons, List.foldl_nil]
    split
    · exact ⟨_, _, rfl⟩
    · dsimp only
      split
      · exact ⟨_, _, rfl⟩
      · split <;> exact ⟨_, _, rfl⟩

/-- The searches of a row counted, where buffer B is searched. -/
def rowCounts (p : Push) (b : BitVec 1) (a : ArrayState) (x : List Nat) (s : State) : State :=
  if (a.buf b).desc.mode = 0 then s else s.modArr (countSearch b p.xFmt x)

/-- The elements of a result row go to the row's landings. -/
def rowLands (p : Push) (cols : List Nat) (s : State) : State :=
  s.modCtxAt s.foc.core p.ctx fun c => c.mapRows (fillPayload p.id p.k cols)

/-- The row's scratchpad bytes have been read. -/
def rowRead (p : Push) (s : State) : State :=
  spoilRead s.foc.core (rotBytes (p.rot * p.k) (p.spRow s.core.arr).1 (p.spRow s.core.arr).2) s

/-- What the next row of a push makes of the state, beside its place in line. -/
def rowActs (p : Push) (s : State) : State :=
  let a := s.core.arr
  let (x, g) := p.operands s
  let u := rowRead p s
  match p.op with
  | .fmx f | .fmxHaar f => rowCounts p f.b a x (rowLands p (columnSums a f.b f.inf.toNat f.af.toNat x) u)
  | .fmxd f => rowCounts p f.b a x (rowLands p (gradRow a f.b f.inf.toNat f.af.toNat (bits f.aux.toNat 2 0) g x) u)
  | .fmxc f =>
    let u := rowCounts p f.b a x
      (u.modArr fun a => a.setBuf (~~~f.b) (gradAccumulate a f.b f.inf.toNat f.af.toNat x g))
    if p.bad then spoilGrads p.op u else u
  | _ => u

theorem core_rowRead (p : Push) (s : State) : (rowRead p s).core = s.core := core_spoilRead _ _ s

theorem pushRow_eq {p : Push} {s : State} (hp : p.poison s = none) (hb : s.core.arr.badFor p.op [] = false) :
    pushRow p s = setPush p.id (fun p => { p with k := p.k + 1 }) (rowActs p s) := by
  unfold pushRow
  rw [hb, hp]
  rfl

section
variable (p : Push) (b : BitVec 1) (a : ArrayState) (x : List Nat) (s : State)

theorem buf_rowCounts (c : BitVec 1) : (rowCounts p b a x s).core.arr.buf c = s.core.arr.buf c := by
  unfold rowCounts
  split
  · rfl
  · obtain ⟨below, above, h⟩ := countSearch_eq b p.xFmt x s.core.arr
    rw [State.core_modArr, h]
    rfl

theorem pushes_rowCounts : (rowCounts p b a x s).core.arr.pushes = s.core.arr.pushes := by
  unfold rowCounts
  split
  · rfl
  · obtain ⟨below, above, h⟩ := countSearch_eq b p.xFmt x s.core.arr
    rw [State.core_modArr, h]

theorem ctxAt_rowCounts (n : Nat) : (rowCounts p b a x s).core.ctxAt n = s.core.ctxAt n := by
  unfold rowCounts
  split
  · rfl
  · exact State.ctxAt_modArr _ _ n

theorem pushes_rowLands (cols : List Nat) : (rowLands p cols s).core.arr.pushes = s.core.arr.pushes := by
  rw [rowLands, arr_modCtxAt]

theorem flight_rowLands (cols : List Nat) : ((rowLands p cols s).core.ctxAt p.ctx).flight =
    (s.core.ctxAt p.ctx).flight.map fun x => { x with val := fillPayload p.id p.k cols x.val } := by
  rw [rowLands, ctxAt_modCtxAt]
  rfl

theorem pushes_spoilGrads (op : Instr) : (spoilGrads op s).core.arr.pushes = s.core.arr.pushes := by
  unfold spoilGrads
  split
  · dsimp only
    rw [State.core_modArr]
    exact pushes_setBuf _ _ _
  · rfl

/-- A row changes no push's place in line but by `setPush`. -/
theorem pushes_rowActs : (rowActs p s).core.arr.pushes = s.core.arr.pushes := by
  unfold rowActs
  dsimp only
  split
  case h_4 f _ =>
    have hacc : (rowCounts p f.b s.core.arr (p.operands s).1 ((rowRead p s).modArr fun a => a.setBuf (~~~f.b)
        (gradAccumulate a f.b f.inf.toNat f.af.toNat (p.operands s).1 (p.operands s).2))).core.arr.pushes = s.core.arr.pushes := by
      rw [pushes_rowCounts, State.core_modArr, pushes_setBuf, core_rowRead]
    split
    · rw [pushes_spoilGrads, hacc]
    · exact hacc
  case h_5 => rw [core_rowRead]
  all_goals rw [pushes_rowCounts, pushes_rowLands, core_rowRead]

end

section
variable {p : Push} {s : State} (hfind : s.core.arr.pushes.find? (fun p => p.id = s.foc.id) = some p) (hdue : p.due s.cyc = true)
  (hpoison : p.poison s = none) (hb : s.core.arr.badFor p.op [] = false)
include hfind hdue hpoison hb

theorem exec_arrayPushRow : exec .arrayPushRow s = .next (setPush p.id (fun p => { p with k := p.k + 1 }) (rowActs p s)) := by
  rw [← pushRow_eq hpoison hb]
  change execArrayPushRow s = _
  unfold execArrayPushRow
  rw [hfind]
  exact if_pos hdue

theorem arrayPushRow_answers : Answers .arrayPushRow s fun t =>
    t.core.arr.pushes = (s.core.arr.pushes.map fun x => if x.id = p.id then { x with k := x.k + 1 } else x).filter (fun x => x.k < x.n)
    ∧ (∀ f, p.op = .fmx f ∨ p.op = .fmxHaar f → (t.core.ctxAt p.ctx).flight = (s.core.ctxAt p.ctx).flight.map fun x => { x with
        val := fillPayload p.id p.k (columnSums s.core.arr f.b f.inf.toNat f.af.toNat (p.operands s).1) x.val })
    ∧ (∀ f, p.op = .fmxd f → (t.core.ctxAt p.ctx).flight = (s.core.ctxAt p.ctx).flight.map fun x => { x with
        val := fillPayload p.id p.k
          (gradRow s.core.arr f.b f.inf.toNat f.af.toNat (f.aux.toNat % 8) (p.operands s).2 (p.operands s).1) x.val })
    ∧ (∀ f, p.op = .fmxc f → p.bad = false → (t.core.arr.buf (~~~f.b)).rows
        = (gradAccumulate s.core.arr f.b f.inf.toNat f.af.toNat (p.operands s).1 (p.operands s).2).rows) := by
  refine ⟨_, exec_arrayPushRow hfind hdue hpoison hb, ?pushes, fun f hop => ?fmx, fun f hop => ?fmxd, fun f hop hbad => ?fmxc⟩
  case pushes =>
    unfold setPush
    rw [State.core_modArr, pushes_rowActs]
  case fmx =>
    have hacts : rowActs p s = rowCounts p f.b s.core.arr (p.operands s).1
        (rowLands p (columnSums s.core.arr f.b f.inf.toNat f.af.toNat (p.operands s).1) (rowRead p s)) := by
      unfold rowActs
      rcases hop with hop | hop <;> rw [hop]
    rw [setPush, State.ctxAt_modArr, hacts, ctxAt_rowCounts, flight_rowLands, core_rowRead]
  case fmxd =>
    have hacts : rowActs p s = rowCounts p f.b s.core.arr (p.operands s).1 (rowLands p (gradRow s.core.arr f.b f.inf.toNat f.af.toNat
        (f.aux.toNat % 8) (p.operands s).2 (p.operands s).1) (rowRead p s)) := by
      have hx : bits f.aux.toNat 2 0 = f.aux.toNat % 8 := by simp [bits]
      unfold rowActs
      rw [hop, ← hx]
    rw [setPush, State.ctxAt_modArr, hacts, ctxAt_rowCounts, flight_rowLands, core_rowRead]
  case fmxc =>
    have hacts : rowActs p s = rowCounts p f.b s.core.arr (p.operands s).1 ((rowRead p s).modArr fun a => a.setBuf (~~~f.b)
        (gradAccumulate a f.b f.inf.toNat f.af.toNat (p.operands s).1 (p.operands s).2)) := by
      unfold rowActs
      rw [hop]
      exact if_neg (by rw [hbad]; exact Bool.false_ne_true)
    have hbuf : ∀ (t : State) (g : List Push → List Push) (c : BitVec 1),
        (t.modArr fun a => { a with pushes := g a.pushes }).core.arr.buf c = t.core.arr.buf c := fun t g c => by
      rw [State.core_modArr]
      rfl
    rw [setPush, hbuf _ (fun l => (l.map _).filter _), hacts, buf_rowCounts, State.core_modArr, buf_setBuf, core_rowRead]

end

/-! ### The rows of an FLOAD (R190) -/

theorem floadFirst_eq (f : MSlot) : floadFirst f = 64 * (f.aux.toNat % 2) + f.vs.toNat := by simp [floadFirst, bits]

section
variable (l : FLoad) (f : MSlot)

theorem desc_writeRows (rs : List Nat) : ∀ b, (writeRows l f rs b).1.desc = b.desc := by
  induction rs with
  | nil => exact fun _ => rfl
  | cons r rest ih =>
    intro b
    unfold writeRows
    dsimp only
    split
    · rfl
    · exact ih _

/-- Rows that no position check can refuse are all written, and no other row. -/
theorem writeRows_dense (h : f.spn = 0) (rs : List Nat) : ∀ b, (writeRows l f rs b).2 = true ∧ ∀ i,
    (writeRows l f rs b).1.rows.get i 0 = if i ∈ rs.map (floadFirst f + ·) then l.rowOf f (i - floadFirst f) else b.rows.get i 0 := by
  induction rs with
  | nil => exact fun _ => ⟨rfl, fun _ => by simp [writeRows]⟩
  | cons r rest ih =>
    intro b
    unfold writeRows
    dsimp only
    rw [if_neg (by simp [h])]
    refine ⟨(ih _).1, fun i => ?_⟩
    rw [(ih _).2 i, Map.get_put]
    simp only [List.map_cons, List.mem_cons]
    by_cases hrest : i ∈ rest.map (floadFirst f + ·)
    · simp [hrest]
    · by_cases hi : i = floadFirst f + r
      · simp [hi]
      · simp [hrest, hi]

theorem arr_failLoad (n addr : Nat) (s : State) : (failLoad l f n addr s).core.arr =
    { s.core.arr.setBuf f.b (writeRows l f (List.range n) (s.core.arr.buf f.b)).1 with
      loads := s.core.arr.loads.tail, wpFree := s.cyc + 1 } := by
  unfold failLoad
  dsimp only
  rw [← State.foc_modArr, arr_modCtxAt, State.core_modArr]

/-- A failed FLOAD leaves its fault in the context that started it, where that still runs the same launch (R270). -/
theorem lfault_failLoad (n addr : Nat) (s : State) (h : (s.core.ctxAt l.ctx).inst = l.inst) :
    ((failLoad l f n addr s).core.ctxAt l.ctx).lfault.isSome = true := by
  unfold failLoad
  dsimp only
  rw [← State.foc_modArr, ctxAt_modCtxAt, State.ctxAt_modArr, if_pos h]
  cases (s.core.ctxAt l.ctx).lfault <;> rfl

end

/-! ### An FLOAD's beginning (R190) -/

theorem badLine_none {s : State} (h : s.dev.badLines = []) (r a n : Nat) : badLine s r a n = none := by
  refine List.find?_eq_none.2 fun l _ => ?_
  simp [badSp, h]

/-- Row i is one of an FLOAD's own. -/
def FLoad.owns (l : FLoad) (f : MSlot) (i : Nat) : Bool := decide (floadFirst f ≤ i) && decide (i < floadFirst f + l.ks.length)

/-- Buffer B once an FLOAD has begun. -/
def FLoad.begun (l : FLoad) (f : MSlot) (b : Buffer) : Buffer :=
  let d : BufDesc := .coef f.mode.toNat f.inf.toNat f.spn.toNat
  if b.desc = d then b else { b with
    desc := d, rows := b.rows.filter fun e => l.owns f e.1, loaded := [], bad := b.bad.filter (l.owns f) }

section
variable {l : FLoad} {f : MSlot} {s : State}

theorem desc_begun (b : Buffer) : (l.begun f b).desc = .coef f.mode.toNat f.inf.toNat f.spn.toNat := by
  unfold FLoad.begun
  dsimp only
  split
  next h => exact h
  next => rfl

theorem rows_begun_same {b : Buffer} (h : (l.begun f b).desc = b.desc) : l.begun f b = b := if_pos (h.symm.trans (desc_begun b))

theorem rows_begun_own {r : Nat} (hr : l.owns f r = true) (b : Buffer) : (l.begun f b).rows.get r 0 = b.rows.get r 0 := by
  unfold FLoad.begun
  dsimp only
  split
  · rfl
  · exact (Map.get_filter b.rows (l.owns f) r 0).trans (if_pos hr)

theorem rows_begun_other {r : Nat} (hr : ¬l.owns f r = true) {b : Buffer} (h : (l.begun f b).desc ≠ b.desc) :
    (l.begun f b).rows.get r 0 = 0 := by
  have hne : ¬b.desc = .coef f.mode.toNat f.inf.toNat f.spn.toNat := fun hb => h ((desc_begun b).trans hb.symm)
  unfold FLoad.begun
  rw [if_neg hne]
  exact (Map.get_filter b.rows (l.owns f) r 0).trans (if_neg hr)

theorem FLoad.owns_iff {r : Nat} : l.owns f r = true ↔ floadFirst f ≤ r ∧ r < floadFirst f + l.ks.length := by simp [FLoad.owns]

/-- What the beginning of an FLOAD can do: it begins, or has read something uncorrectable and fails. -/
theorem beginLoad_cases (hop : l.op = .fload f) : ∃ w rows,
    w.core.arr = { s.core.arr.setBuf f.b (l.begun f (s.core.arr.buf f.b)) with
      loads := s.core.arr.loads.map fun x =>
        if x.ctx = l.ctx ∧ x.ord = l.ord then { x with g := some (s.cyc : Int), rows := rows } else x }
    ∧ (beginLoad l s = w ∨ s.dev.badLines ≠ [] ∧ ∃ addr, beginLoad l s = failLoad l f 0 addr w) := by
  unfold beginLoad
  rw [hop]
  dsimp only
  generalize hu : (if f.cbf ≠ 0 then s else spoilRead s.foc.core _ s) = u
  generalize hrows : (if f.cbf ≠ 0 then [] else _) = rows
  generalize hbad : (if f.cbf ≠ 0 then none else _) = bad
  have hcore : u.core = s.core := by
    subst hu
    split
    · rfl
    · exact core_spoilRead _ _ s
  have hcyc : u.cyc = s.cyc := by rw [State.cyc, hcore, State.cyc]
  have hnone : s.dev.badLines = [] → bad = none := fun h => by
    rw [← hbad]
    split
    · rfl
    · simp [badLine_none h]
  have hbegun : (u.modArr fun a => { a.setBuf f.b (l.begun f (s.core.arr.buf f.b)) with
      loads := a.loads.map fun x => if x.ctx = l.ctx ∧ x.ord = l.ord then { x with g := some (u.cyc : Int), rows := rows } else x }).core.arr
      = { s.core.arr.setBuf f.b (l.begun f (s.core.arr.buf f.b)) with
        loads := s.core.arr.loads.map fun x =>
          if x.ctx = l.ctx ∧ x.ord = l.ord then { x with g := some (s.cyc : Int), rows := rows } else x } := by
    rw [State.core_modArr, hcore, hcyc]
  cases bad with
  | none => exact ⟨_, rows, hbegun, .inl rfl⟩
  | some addr => exact ⟨_, rows, hbegun, .inr ⟨fun h => Option.some_ne_none addr (hnone h), addr, rfl⟩⟩

/-- What the beginning of an FLOAD makes of the buffers, whether it fails or not. -/
theorem buf_beginLoad (hop : l.op = .fload f) : (beginLoad l s).core.arr.buf f.b = l.begun f (s.core.arr.buf f.b)
    ∧ (beginLoad l s).core.arr.buf (~~~f.b) = s.core.arr.buf (~~~f.b) := by
  obtain ⟨w, rows, harr, hw⟩ := beginLoad_cases (s := s) hop
  have hown : w.core.arr.buf f.b = l.begun f (s.core.arr.buf f.b) := by
    rw [harr]
    exact buf_setBuf _ _ _
  have hother : w.core.arr.buf (~~~f.b) = s.core.arr.buf (~~~f.b) := by
    rw [harr]
    exact buf_setBuf_other _ _ _
  rw [← hown, ← hother]
  rcases hw with h | ⟨-, addr, h⟩
  · rw [h]
    exact ⟨rfl, rfl⟩
  · rw [h, arr_failLoad]
    exact ⟨buf_setBuf _ _ _, buf_setBuf_other _ _ _⟩

/-- An FLOAD that reads nothing uncorrectable has begun in this cycle. -/
theorem head_beginLoad (hop : l.op = .fload f) {rest : List FLoad} (hloads : s.core.arr.loads = l :: rest) (hgood : s.dev.badLines = []) :
    (beginLoad l s).core.arr.loads.head?.bind (fun x => x.g) = some (s.cyc : Int) := by
  obtain ⟨w, rows, harr, hw⟩ := beginLoad_cases (s := s) hop
  rw [hw.resolve_right fun h => h.1 hgood, harr, hloads, List.map_cons, if_pos ⟨rfl, rfl⟩]
  rfl

theorem floadBegin_answers {rest : List FLoad} (hloads : s.core.arr.loads = l :: rest) (hop : l.op = .fload f) (hg : l.g = none)
    (hfree : s.core.arr.wpFree ≤ s.cyc) : Answers .floadBegin s fun t =>
      let b := t.core.arr.buf f.b
      b.desc = .coef f.mode.toNat f.inf.toNat f.spn.toNat ∧ t.core.arr.buf (~~~f.b) = s.core.arr.buf (~~~f.b)
      ∧ (∀ r, floadFirst f ≤ r ∧ r < floadFirst f + l.ks.length → b.rows.get r 0 = (s.core.arr.buf f.b).rows.get r 0)
      ∧ (b.desc = (s.core.arr.buf f.b).desc → b.rows = (s.core.arr.buf f.b).rows)
      ∧ (b.desc ≠ (s.core.arr.buf f.b).desc → ∀ r, ¬(floadFirst f ≤ r ∧ r < floadFirst f + l.ks.length) → b.rows.get r 0 = 0)
      ∧ (s.dev.badLines = [] → t.core.arr.loads.head?.bind (fun x => x.g) = some (s.cyc : Int)) := by
  have hexec : exec .floadBegin s = .next (beginLoad l s) := by
    change execFloadBegin s = _
    unfold execFloadBegin
    rw [hloads]
    exact if_pos (by simp [hg, hfree])
  obtain ⟨hown, hother⟩ := buf_beginLoad (s := s) hop
  refine ⟨_, hexec, ?_⟩
  dsimp only
  rw [hown, hother]
  exact ⟨desc_begun _, rfl, fun r hr => rows_begun_own (FLoad.owns_iff.2 hr) _, fun h => by rw [rows_begun_same h],
    fun h r hr => rows_begun_other (fun ho => hr (FLoad.owns_iff.1 ho)) h, head_beginLoad hop hloads⟩

/-! ### Codebook reads (R269, R270) -/

/-- An FLOAD with one table or index block more read. -/
def FLoad.took (l : FLoad) (x : Nat) : FLoad :=
  { (if l.reads % 2 = 0 then { l with tabs := l.tabs ++ [x] } else { l with idxs := l.idxs ++ [x] }) with reads := l.reads + 1 }

theorem FLoad.took_table (h : l.reads % 2 = 0) (x : Nat) : l.took x = { l with tabs := l.tabs ++ [x], reads := l.reads + 1 } := by
  rw [FLoad.took, if_pos h]

/-- A codebook read: the block that it reads stands in the FLOAD, or the FLOAD fails. -/
theorem exec_codebookTableRead {rest : List FLoad} (hloads : s.core.arr.loads = l :: rest) (hop : l.op = .fload f)
    (hdue : l.readDue s.cyc = true) {addr len r : Nat} (hnext : l.nextRead f = (addr, len, r)) :
    let u := spoilRead s.foc.core (rotBytes r addr len) s
    exec .codebookTableRead s = .next ((badLine s r addr len).elim
      (u.modArr fun a => { a with loads := l.took (rotRead s l.ctx (l.ord / 8) r addr len) :: rest })
      fun line => failLoad l f ((Config.freeWord u.fresh.1).toNat % (l.reads / 2 / l.ks.headD 1 + 1)) line u.fresh.2) := by
  intro u
  change execCodebookTableRead s = _
  unfold execCodebookTableRead
  rw [hloads]
  dsimp only
  split
  next f' hf =>
    obtain rfl := Instr.fload.inj (hop.symm.trans hf)
    rw [if_pos hdue, hnext]
    dsimp only
    cases badLine s r addr len <;> rfl
  next hne => exact absurd hop (hne f)

theorem nextRead_table (h : l.reads % 2 = 0) : l.nextRead f =
    (l.base + l.ks.length * l.pitch + 2 * 2 ^ (f.cbf.toNat + 1) * (l.reads / 2), 2 * 2 ^ (f.cbf.toNat + 1), 0) := if_pos h

theorem codebookTableRead_reads {rest : List FLoad} (hloads : s.core.arr.loads = l :: rest) (hop : l.op = .fload f)
    (hdue : l.readDue s.cyc = true) (hgood : s.dev.badLines = []) : Answers .codebookTableRead s fun t =>
      ∃ x, t.core.arr.loads = x :: rest ∧ x.reads = l.reads + 1 ∧ (l.reads % 2 = 0 → x.idxs = l.idxs ∧
        x.tabs = l.tabs ++ [rotRead s l.ctx (l.ord / 8) 0 (l.base + l.ks.length * l.pitch + 2 * 2 ^ (f.cbf.toNat + 1) * (l.reads / 2))
          (2 * 2 ^ (f.cbf.toNat + 1))]) := by
  obtain ⟨addr, len, r, hnext⟩ : ∃ addr len r, l.nextRead f = (addr, len, r) := ⟨_, _, _, rfl⟩
  refine ⟨_, exec_codebookTableRead hloads hop hdue hnext, ?_⟩
  rw [badLine_none hgood, Option.elim_none]
  dsimp only
  rw [State.core_modArr]
  refine ⟨_, rfl, rfl, fun heven => ?_⟩
  rw [nextRead_table heven] at hnext
  obtain ⟨rfl, rfl, rfl⟩ : _ = addr ∧ _ = len ∧ _ = r := by simpa using hnext
  rw [FLoad.took_table heven]
  exact ⟨rfl, rfl⟩

theorem codebookTableRead_fails {rest : List FLoad} (hloads : s.core.arr.loads = l :: rest) (hop : l.op = .fload f)
    (hdue : l.readDue s.cyc = true) (hfirst : l.reads = 0)
    (hbad : (badLine s 0 (l.base + l.ks.length * l.pitch) (2 * 2 ^ (f.cbf.toNat + 1))).isSome = true) :
    Answers .codebookTableRead s fun t => t.core.arr.loads = rest
      ∧ ((s.core.ctxAt l.ctx).inst = l.inst → (t.core.ctxAt l.ctx).lfault.isSome = true)
      ∧ (t.core.arr.buf f.b).desc = (s.core.arr.buf f.b).desc := by
  obtain ⟨line, hline⟩ := Option.isSome_iff_exists.1 hbad
  have hnext : l.nextRead f = (l.base + l.ks.length * l.pitch, 2 * 2 ^ (f.cbf.toNat + 1), 0) := by
    rw [nextRead_table (by rw [hfirst]), hfirst]
    rfl
  refine ⟨_, exec_codebookTableRead hloads hop hdue hnext, ?_⟩
  rw [hline, Option.elim_some]
  generalize hu : spoilRead s.foc.core _ s = u
  have hcore : u.fresh.2.core = s.core := by
    subst hu
    exact core_spoilRead _ _ s
  rw [arr_failLoad, hcore, hloads]
  refine ⟨rfl, fun hinst => lfault_failLoad _ _ _ _ _ (by rw [hcore]; exact hinst), ?_⟩
  exact (congrArg Buffer.desc (buf_setBuf _ _ _)).trans (desc_writeRows _ _ _ _)

/-! ### An FLOAD's end (R190) -/

theorem floadComplete_answers {rest : List FLoad} (hloads : s.core.arr.loads = l :: rest) (hop : l.op = .fload f)
    (hdone : l.complete s.cyc = true) (hdense : f.spn = 0) (hbad : l.bad = false) : Answers .floadComplete s fun t =>
      t.core.arr.loads = rest ∧ t.core.arr.wpFree = s.cyc + 1 ∧ t.core.arr.buf (~~~f.b) = s.core.arr.buf (~~~f.b)
      ∧ (t.core.arr.buf f.b).desc = (s.core.arr.buf f.b).desc
      ∧ (∀ r < l.ks.length, (t.core.arr.buf f.b).rows.get (floadFirst f + r) 0 = l.rowOf f r)
      ∧ ∀ r, ¬(floadFirst f ≤ r ∧ r < floadFirst f + l.ks.length) →
        (t.core.arr.buf f.b).rows.get r 0 = (s.core.arr.buf f.b).rows.get r 0 := by
  have hrows := writeRows_dense l f hdense (List.range l.ks.length) (s.core.arr.buf f.b)
  have hexec : exec .floadComplete s = .next ((s.modArr fun a => { a with loads := rest, wpFree := s.cyc + 1 }).modArr fun a =>
      a.setBuf f.b (writeRows l f (List.range l.ks.length) (s.core.arr.buf f.b)).1) := by
    have hbuf : (s.modArr fun a => { a with loads := rest, wpFree := s.cyc + 1 }).core.arr.buf f.b = s.core.arr.buf f.b := by
      rw [State.core_modArr]
      rfl
    change execFloadComplete s = _
    unfold execFloadComplete
    rw [hloads]
    dsimp only
    rw [hop]
    dsimp only
    rw [if_pos hdone, hbuf, hrows.1, hbad]
    rfl
  refine ⟨_, hexec, ?_⟩
  dsimp only
  rw [State.core_modArr, State.core_modArr]
  dsimp only
  rw [loads_setBuf, wpFree_setBuf, buf_setBuf, buf_setBuf_other]
  refine ⟨rfl, rfl, rfl, desc_writeRows _ _ _ _, fun r hr => ?_, fun r hr => ?_⟩
  · rw [hrows.2, if_pos (List.mem_map.2 ⟨r, List.mem_range.2 hr, rfl⟩), Nat.add_sub_cancel_left]
  · refine (hrows.2 r).trans (if_neg fun hmem => hr ?_)
    obtain ⟨j, hj, rfl⟩ := List.mem_map.1 hmem
    have := List.mem_range.1 hj
    exact ⟨by omega, by omega⟩

end

/-! ### FGRID's slot (R187) -/

theorem fgridSlotWrite_answers {s : State} {due slot : Nat} {g : Grid} (h : s.core.arr.changes = [(due, .grid slot g)]) :
    Answers .fgridSlotWrite s fun t =>
      (due ≤ s.cyc → t.core.arr.changes = [] ∧ t.core.arr.grid.find? slot = some g
        ∧ ∀ o, o ≠ slot → t.core.arr.grid.find? o = s.core.arr.grid.find? o)
      ∧ (s.cyc < due → t.core.arr.changes = s.core.arr.changes ∧ t.core.arr.grid = s.core.arr.grid) := by
  refine ⟨_, rfl, fun hdue => ?_, fun hdue => ?_⟩
  · have harr : (applyChanges true s).core.arr = { s.core.arr with grid := s.core.arr.grid.set slot g, changes := [] } := by
      unfold applyChanges
      rw [State.core_modArr, h]
      simp [ArrChange.isGrid, ArrChange.apply, hdue]
    rw [harr]
    exact ⟨rfl, Map.find?_set_self _ _ _, fun o ho => Map.find?_set_ne _ _ _ _ ho⟩
  · unfold applyChanges
    rw [State.core_modArr, h]
    simp [ArrChange.isGrid, Nat.not_le.2 hdue]

/-! ### The statement of O45 -/

/-- Settles O45: a push's row by what it acts on, an FLOAD's beginning, reads and end by the rows that each writes, and FGRID's
slot by the one change that is due. -/
theorem arrayEvents : Obligations.ArrayEvents := by
  unfold Obligations.ArrayEvents
  intro s
  refine ⟨?push, ?fload, ?fgrid⟩
  case push => exact fun p hfind hdue hpoison hb => arrayPushRow_answers hfind hdue hpoison hb
  case fload =>
    intro l rest f hloads hop
    refine ⟨?begins, ?reads, ?fails, ?ends⟩
    case begins =>
      intro hg hfree
      have hbegin := floadBegin_answers hloads hop hg hfree
      rw [floadFirst_eq] at hbegin
      exact hbegin
    case reads => exact fun hdue hgood => codebookTableRead_reads hloads hop hdue hgood
    case fails => exact fun hdue hfirst hbad => codebookTableRead_fails hloads hop hdue hfirst hbad
    case ends =>
      intro hdone hdense hbad
      have hend := floadComplete_answers hloads hop hdone hdense hbad
      rw [floadFirst_eq] at hend
      exact hend
  case fgrid => exact fun due slot g h => fgridSlotWrite_answers h

end Sys2Proof.Machine
end

section
/-! Changes of the array state (R184, R187, R190, R191, R204, R207, R211), and O37. -/

namespace Sys2Proof.Machine

/-! ### Changes to come (R187, R191, R207, R209) -/

/-- A change of an operation that does not collide. -/
theorem changeIn_certain {s : State} (h : s.foc.bad = false) (n : Nat) (parts : List Nat) (c : ArrChange) :
    changeIn n parts c s = s.changes n parts c := by
  unfold changeIn State.changes State.modArr
  simp only [h, Bool.false_eq_true, if_false, keepUses, List.map_map, List.append_nil]
  rfl

/-! ### FGRID (R186, R187) -/

/-- A byte of bytes that no pond's storage touches is in none. -/
theorem pondSpace_byte {s : State} {c p n a : Nat} (h : pondSpace s c p n = none) (hlo : p ≤ a) (hhi : a < p + n) :
    pondSpace s c a 1 = none := by
  unfold pondSpace at h ⊢
  rw [Option.map_eq_none_iff, List.find?_eq_none] at h ⊢
  intro r hr hin
  refine h r hr ?_
  split at hin
  next =>
    simp only [Bool.and_eq_true, decide_eq_true_eq] at hin ⊢
    omega
  next => exact absurd hin Bool.false_ne_true

theorem rotate_zero (a : Nat) : rotate a 0 = a := by
  have hbits : bits a 8 7 = a / 128 % 4 := rfl
  unfold rotate
  rw [hbits]
  omega

/-- Bytes read of SRAM where no pond is stored change nothing (R282). -/
theorem spoilRead_dry {s : State} {c p n : Nat} (h : pondSpace s c p n = none) : spoilRead c (rotBytes 0 p n) s = s := by
  have hfind : ((rotBytes 0 p n).find? fun a => (pondSpace s c a 1).isSome) = none := by
    refine List.find?_eq_none.2 fun a ha => ?_
    obtain ⟨j, hj, rfl⟩ := List.mem_map.1 ha
    have hj := List.mem_range.1 hj
    rw [rotate_zero, pondSpace_byte h (Nat.le_add_right p j) (by omega)]
    exact Bool.false_ne_true
  rw [spoilRead, hfind]

theorem exec_fgrid {f : MSlot} {s : State} {c p : Nat} {g : Grid} (hr : Ready (.fgrid f) s)
    (hsb : (s.ctx.a.sReg f.sb.toNat).toNat < 2 ^ 34) (hsa : (s.ctx.a.sReg f.sa.toNat).toNat % 4 = 0)
    (hplace : spPlace s s.foc.core s.lid 0 ((s.ctx.a.sReg f.sa.toNat).toNat % 2 ^ 32) 136 = some (c, p))
    (hgood : badSp s c p 136 = false) (hdry : pondSpace s c p 136 = none) :
    let x := mxrRead s s.foc.ctx (s.foc.ord / 8) p 136
    parseGrid x = some g → exec (.fgrid f) s = .next (s.changes 20 [8 + x % 16] (.grid (x % 16) g)) := by
  intro x hg
  obtain ⟨hcheck, hbad⟩ := hr.2.2
  refine (ready_engine_open (own := .go) rfl hr rfl rfl).trans (congrArg _ ?_)
  dsimp only
  unfold gridRecord
  rw [rdS_certain hcheck, rdS_certain hcheck, if_neg (by omega), if_neg (by omega), hplace]
  dsimp only [Option.map_some]
  rw [spoilRead_dry hdry, hgood, if_neg Bool.false_ne_true, hg]
  exact changeIn_certain hbad _ _ _

/-- An FP32 value is a number, and a positive one. -/
def FVal.IsNum (v : FVal) : Prop := ∃ neg m e b, v = .num neg m e b
def FVal.IsPositive (v : FVal) : Prop := ∃ m e b, v = .num false m e b ∧ m ≠ 0

/-- What a record that is not rejected holds (R187). -/
theorem parseGrid_some {x : Nat} {g : Grid} (h : parseGrid x = some g) : g.rule < 3 ∧ 2 ≤ g.knots.length ∧ g.knots.length ≤ 17
    ∧ g.widths.length = g.knots.length - 1 ∧ (∀ k ∈ g.knots, (decodeF 0 k.toNat).IsNum)
    ∧ rising (g.knots.map fun k => decodeF 0 k.toNat) = true ∧ ∀ w ∈ g.widths, (decodeF 0 w.toNat).IsPositive := by
  unfold parseGrid at h
  dsimp only at h
  split at h
  · exact absurd h (Option.some_ne_none g).symm
  next hform =>
  split at h
  · exact absurd h (Option.some_ne_none g).symm
  split at h
  · exact absurd h (Option.some_ne_none g).symm
  next hvals =>
  obtain rfl := Option.some.inj h
  have hrule : bits (elemOf x 0 32) 5 4 < 4 := Nat.mod_lt _ (by decide)
  simp only [Bool.or_eq_true, Bool.not_eq_true', not_or, Bool.not_eq_false, List.all_eq_true] at hvals
  obtain ⟨⟨hfinite, hrising⟩, hpositive⟩ := hvals
  refine ⟨by dsimp only; omega, by simp; omega, by simp; omega, by simp, fun k hk => ?_, hrising, fun w hw => ?_⟩
  · have hk := hfinite k hk
    split at hk
    next neg m e b hv => exact ⟨neg, m, e, b, hv⟩
    next => exact absurd hk Bool.false_ne_true
  · have hw := hpositive w hw
    split at hw
    next neg m e b hv =>
      simp only [Bool.and_eq_true, Bool.not_eq_true', decide_eq_true_eq] at hw
      obtain ⟨rfl, hm⟩ := hw
      exact ⟨m, e, b, hv, hm⟩
    next => exact absurd hw Bool.false_ne_true

theorem FVal.real_pos {v : FVal} (h : v.IsPositive) : 0 < v.real := by
  obtain ⟨m, e, b, rfl, hm⟩ := h
  rw [FVal.real_num, signed, if_neg Bool.false_ne_true]
  have : 0 < m := Nat.pos_of_ne_zero hm
  positivity

/-- The order of two numbers as FP32 comparisons is that of their values. -/
theorem FVal.lt_of_fLt {x y : FVal} (hx : x.IsNum) (hy : y.IsNum) (h : fLt x y = true) : x.lt y := by
  obtain ⟨s, m, e, b, rfl⟩ := hx
  obtain ⟨s', m', e', b', rfl⟩ := hy
  change (FVal.num s m e b).real < (FVal.num s' m' e' b').real
  have hlt : scaled s m e (min e e') < scaled s' m' e' (min e e') := by
    simpa [fLt, fcmp, compare_lt_iff_lt] using h
  rw [← scaled_mul_zpow (min_le_left e e'), ← scaled_mul_zpow (min_le_right e e')]
  have hpos : (0 : ℚ) < 2 ^ min e e' := by positivity
  gcongr

theorem fLt_of_rising (l : List FVal) (h : rising l = true) : ∀ j (hj : j + 1 < l.length), fLt l[j] l[j + 1] = true := by
  induction l with
  | nil => exact fun j hj => absurd hj (Nat.not_lt_zero _)
  | cons x r ih =>
    cases r with
    | nil => exact fun j hj => absurd hj (by simp)
    | cons y r =>
      unfold rising at h
      rw [Bool.and_eq_true] at h
      intro j hj
      cases j with
      | zero => exact h.1
      | succ j => exact ih h.2 j (by simpa using hj)

theorem Grid.knot_eq {g : Grid} {j : Nat} (h : j < g.knots.length) : g.knot j = decodeF 0 g.knots[j].toNat := by
  rw [Grid.knot, List.getD_eq_getElem _ _ h]

theorem Grid.width_eq {g : Grid} {j : Nat} (h : j < g.widths.length) : g.width j = decodeF 0 g.widths[j].toNat := by
  rw [Grid.width, List.getD_eq_getElem _ _ h]

theorem parseGrid_grid {x : Nat} {g : Grid} (h : parseGrid x = some g) : 2 ≤ g.knots.length ∧ g.knots.length ≤ 17
    ∧ g.widths.length = g.knots.length - 1 ∧ g.rule < 3 ∧ (∀ j, j + 1 < g.knots.length → (g.knot j).lt (g.knot (j + 1)))
    ∧ ∀ j < g.widths.length, 0 < (g.width j).real := by
  obtain ⟨hrule, htwo, hmost, hwidths, hfinite, hrising, hpositive⟩ := parseGrid_some h
  refine ⟨htwo, hmost, hwidths, hrule, fun j hj => ?_, fun j hj => ?_⟩
  · have hlt := fLt_of_rising _ hrising j (by simpa using hj)
    rw [List.getElem_map, List.getElem_map, ← Grid.knot_eq (by omega), ← Grid.knot_eq hj] at hlt
    refine FVal.lt_of_fLt ?_ ?_ hlt
    · rw [Grid.knot_eq (by omega)]
      exact hfinite _ (List.getElem_mem _)
    · rw [Grid.knot_eq hj]
      exact hfinite _ (List.getElem_mem _)
  · rw [Grid.width_eq hj]
    exact FVal.real_pos (hpositive _ (List.getElem_mem _))

/-! ### FSEL (R191) -/

theorem popEntry_data (s : State) : (popEntry s).1.data = match s.ctx.a.queue with | e :: _ => e.data | [] => 0 := by
  unfold popEntry
  split <;> rename_i h <;> rw [h]

theorem popEntry_pops {s : State} (h : 1 ≤ s.ctx.a.queue.length) : (popEntry s).2 = s.pops 1 := by
  unfold popEntry
  split
  next hq => rw [hq] at h; exact absurd h (by decide)
  next e r hq =>
    have hdrop : s.ctx.a.queue.drop 1 = r := by rw [hq]; rfl
    unfold State.pops State.modArch
    dsimp only
    exact State.modCtx_congr (by rw [hdrop])

/-- The word of rows that FSEL maps. -/
def selWord (f : MSlot) (s : State) : Vec :=
  if f.q = 1#1 then (match s.ctx.a.queue with | e :: _ => e.data | [] => 0) else (s.ctx.a.vReg f.vs.toNat).bits

theorem exec_fsel {f : MSlot} {s : State} (hr : Ready (.fsel f) s) (hlane : ∀ j < 128, (lane (selWord f s) j).toNat ≤ 15) :
    exec (.fsel f) s = .next ((if f.q = 1#1 then s.pops 1 else s).changes 2 [2 + f.b.toNat]
      (.rowMap f.b ((List.range 128).map fun j => (j, (lane (selWord f s) j).toNat)))) := by
  obtain ⟨-, ⟨hpop, -⟩, hcheck, hbad⟩ := id hr
  rw [checkedState_open rfl] at hpop
  have hword : (if f.q = 1#1 then (popEntry s).1.data else (rdV s f.vs.toNat).bits) = selWord f s := by
    rw [popEntry_data, rdV_certain hcheck]
    rfl
  have htaken : (if f.q = 1#1 then (popEntry s).2 else s) = if f.q = 1#1 then s.pops 1 else s := by
    by_cases hq : f.q = 1#1
    · have hone : popCount (.fsel f) s = 1 := if_pos hq
      rw [if_pos hq, if_pos hq, popEntry_pops (hone ▸ hpop)]
    · rw [if_neg hq, if_neg hq]
  have hfit : ¬((List.range 128).any fun n => decide ((lane (selWord f s) n).toNat > 15)) = true := by
    rw [List.any_eq_true]
    rintro ⟨n, hn, hgt⟩
    exact absurd (of_decide_eq_true hgt) (Nat.not_lt.2 (hlane n (List.mem_range.1 hn)))
  refine (ready_engine_open (own := .go) rfl hr rfl rfl).trans (congrArg _ ?_)
  dsimp only
  rw [hword, htaken, if_neg hfit, changeIn_certain (by split <;> exact hbad)]
  rfl

/-! ### FCLR (R207) -/

/-- An operation whose effect is a change to come, in the state its checks are made in. -/
theorem exec_changes {i : Instr} {s : State} {n : Nat} {parts : List Nat} {c : ArrChange} (hr : Ready i s)
    (hx : exec i s = gated i .go (changeIn n parts c) s) (ho : ownOf i s = .go) :
    exec i s = .next ((checkedState i s).changes n parts c) := by
  obtain ⟨ha, hs, -, hbad⟩ := hr
  rw [accepted_engine hx ha hs ho.symm, changeIn_certain (by rw [checkedState_foc]; exact hbad)]

/-! ### FLOAD (R190, R269) -/

section
variable {f : MSlot} {s : State}

/-- The coefficients of a cell of each row that an FLOAD loads (R190). -/
def floadKs (f : MSlot) (s : State) : List Nat := (List.range (mCount f)).map fun r => floadK f s.core.arr (floadFirst f + r)

theorem cbf_eq_zero (f : MSlot) : f.cbf = 0 ↔ f.cbf.toNat = 0 := ⟨fun h => by rw [h]; rfl, fun h => BitVec.eq_of_toNat_eq h⟩

/-- The FLOAD that an operation in focus makes. -/
def floadMade (f : MSlot) (t : SpTile) (ks : List Nat) (s : State) : FLoad :=
  { id := s.uid, op := .fload f, ctx := s.foc.ctx, ord := s.foc.ord, idx := s.foc.idx, inst := s.ctx.inst, base := t.base
    pitch := t.pitch, rot := t.rot, ks := ks }

theorem exec_fload (hr : Ready (.fload f) s) (hd : ∀ qs, (s.core.arr.buf f.b).desc ≠ .grad qs)
    (hmap : f.mode.toNat ≠ 0 → ∀ r < mCount f, (s.core.arr.slotOf f.b (floadFirst f + r)).isSome = true)
    (hbooks : floadBooks f (floadKs f s) ((s.ctx.a.sReg f.sa.toNat).toNat / 2 ^ 32) = true) {t : SpTile}
    (ht : spTile (.fload f) f (if f.cbf.toNat = 0 then fmtSize f.inf.toNat else 4) (fmtSize f.inf.toNat) 0 (mCount f)
      (fun r => floadRowBytes f ((floadKs f s).getD r 0)) s = .ok t)
    (htables : f.cbf.toNat ≠ 0 → (spPlace s s.foc.core s.lid 0
      (BitVec.ofInt 64 ((((s.ctx.a.sReg f.sa.toNat).toNat % 2 ^ 32 : Nat) : Int)
          + s.foc.k * ((s.ctx.a.sReg f.sb.toNat).truncate 32 : BitVec 32).toInt)
        + BitVec.ofNat 64 (mCount f * ((s.ctx.a.sReg f.sa.toNat).toNat / 2 ^ 32))).toNat
      (2 * 2 ^ cbBits f * (floadKs f s).sum)).isSome = true) :
    let l := floadMade f t (floadKs f s) s
    let s' := ({ s with uid := s.uid + 1 } : State).modCore fun k => { k with arr := { k.arr with loads := k.arr.loads ++ [l] } }
    exec (.fload f) s = .next (if s.core.arr.loads = [] ∧ s.core.arr.wpFree ≤ s.cyc then beginLoad l s' else s') := by
  intro l s'
  obtain ⟨hcheck, hbad⟩ := hr.2.2
  have hvalid : (decide (f.mode ≠ 0) && (List.range (mCount f)).any fun r => (s.core.arr.slotOf f.b (floadFirst f + r)).isNone) = false := by
    by_cases hm : f.mode = 0
    · simp [hm]
    · have hmap := hmap fun h => hm ((mode_eq_zero f).2 h)
      simp only [Bool.and_eq_false_iff, List.any_eq_false, List.mem_range]
      exact .inr fun r hr => by simp [Option.isSome_iff_ne_none.1 (hmap r hr)]
  have halign : (if f.cbf = 0 then fmtSize f.inf.toNat else 4) = if f.cbf.toNat = 0 then fmtSize f.inf.toNat else 4 :=
    if_congr (cbf_eq_zero f) rfl rfl
  have hmade : ({ id := s.newId.1, bad := s.newId.2.foc.bad, inst := s.newId.2.ctx.inst, op := .fload f, ctx := s.newId.2.foc.ctx
                  ord := s.newId.2.foc.ord, idx := s.newId.2.foc.idx, base := t.base, pitch := t.pitch, rot := t.rot
                  ks := floadKs f s } : FLoad) = l := by
    rw [State.foc_newId, hbad]
    rfl
  have hks : ((List.range (mCount f)).map fun r => floadK f s.core.arr (floadFirst f + r)) = floadKs f s := rfl
  have hplaced : ¬(f.cbf ≠ 0 ∧ (spPlace s s.foc.core s.lid 0
      (BitVec.ofInt 64 ((((s.ctx.a.sReg f.sa.toNat).toNat % 2 ^ 32 : Nat) : Int)
          + s.foc.k * ((s.ctx.a.sReg f.sb.toNat).truncate 32 : BitVec 32).toInt)
        + BitVec.ofNat 64 (mCount f * ((s.ctx.a.sReg f.sa.toNat).toNat / 2 ^ 32))).toNat
      (2 * 2 ^ cbBits f * (floadKs f s).sum)).isNone = true) := fun h => by
    have hsome := htables fun h0 => h.1 ((cbf_eq_zero f).2 h0)
    rw [Option.isNone_iff_eq_none.1 h.2] at hsome
    exact Bool.false_ne_true hsome
  have hidle : (s.core.arr.loads.isEmpty && decide (s.core.arr.wpFree ≤ s.cyc)) = true ↔
      s.core.arr.loads = [] ∧ s.core.arr.wpFree ≤ s.cyc := by simp
  refine (ready_engine_open (own := .go) rfl hr rfl rfl).trans (congrArg _ ?_)
  dsimp only
  rw [hvalid, rdS_certain hcheck, rdS_certain hcheck, sintOf_low32, halign, hks,
    if_neg (by split; exacts [absurd ‹_› (hd _), by simpa using hbooks]), ht]
  dsimp only
  rw [if_neg hplaced, hmade]
  exact if_congr hidle rfl rfl

end

/-! ### FKNOT (R204, R211) -/

/-- The result of an entry's filling in the context in focus, for an operation that does not collide. -/
theorem fillEntry_certain {s : State} (h : s.foc.bad = false) (id data : Nat) :
    fillEntry s.foc.ctx (some id) data none s = s.modCtx fun c => c.fill id (BitVec.ofNat 4096 data) none := by
  unfold fillEntry
  simp only [h, Bool.false_eq_true, if_false]
  rfl

/-- Rows put one after another into a table that does not list the default. -/
theorem Map.get_foldl_put {α : Type} (g : Nat → α) (d : α) [∀ r, Decidable (g r = d)] (rows : List Nat) (m : Map α) (i : Nat) :
    Map.get (rows.foldl (fun m r => if g r = d then Map.drop m r else m.set r (g r)) m) i d = if i ∈ rows then g i else m.get i d := by
  induction rows generalizing m with
  | nil => simp
  | cons r rest ih =>
    rw [List.foldl_cons, ih, Map.get_put]
    simp only [List.mem_cons]
    by_cases hi : i = r
    · simp [hi]
    · simp [hi]

/-- FKNOT's slot and its knot. -/
def knotSlot (f : MSlot) (s : State) : Nat := (s.ctx.a.sReg f.sa.toNat).toNat / 2 ^ 32
def knotWord (f : MSlot) (s : State) : BitVec 32 := (s.ctx.a.sReg f.sa.toNat).truncate 32

/-- The rows that FKNOT's slot serves in buffer B. -/
def knotRows (f : MSlot) (s : State) : List Nat :=
  (List.range 128).filter fun r => (s.core.arr.buf f.b).rowMap.get r 0 = knotSlot f s

/-- The rows of buffer B with the knot inserted after interval `iv` of the slot `g`. -/
def knotSplit (f : MSlot) (g : Grid) (iv : Nat) (wr : BitVec 32) (s : State) (r : Nat) : BitVec 65536 :=
  splitRow (s.core.arr.buf f.b).desc.cf (s.core.arr.buf f.b).desc.mode g iv (decodeF 0 (knotWord f s).toNat) (decodeF 0 wr.toNat)
    ((s.core.arr.buf f.b).row r)

/-- Buffer B with these rows. -/
def knotBuffer (f : MSlot) (g : Grid) (iv : Nat) (wr : BitVec 32) (s : State) : Buffer :=
  { s.core.arr.buf f.b with rows := (knotRows f s).foldl (fun m r =>
      if knotSplit f g iv wr s r = 0 then Map.drop m r else m.set r (knotSplit f g iv wr s r)) (s.core.arr.buf f.b).rows }

/-- An FKNOT refused with code `e`. -/
def knotRefused (f : MSlot) (e : Nat) (s : State) : State :=
  let u := s.entered 1 (some (s.cyc + 32))
  fillEntry u.foc.ctx (some s.uid) e none (u.modArr (keepUses (mNeeds (.fknot f) s) (u.cyc + 31)))

/-- An FKNOT that reads an uncorrectable error. -/
def knotCorrupt (f : MSlot) (s : State) : State :=
  let n := 4 * (knotRows f s).length
  let u := (s.entered 1 (some (s.cyc + 32 + n))).fresh
  post ⟨.lp, 2⟩ (32 + n) (.corrupt (arrayInfo (.fknot f) u.2)) (fillEntry u.2.foc.ctx (some s.uid) (Config.freeWord u.1).toNat none u.2)

/-- An FKNOT that inserts its knot. -/
def knotInserted (f : MSlot) (g : Grid) (iv : Nat) (wl wr : BitVec 32) (s : State) : State :=
  let u := s.entered 1 (some (s.cyc + 32 + 4 * (knotRows f s).length))
  fillEntry u.foc.ctx (some s.uid) (2 ^ 64) none (spoilUses (mNeeds (.fknot f) s) (u.modArr fun a =>
    keepUses (mNeeds (.fknot f) s) (u.cyc + 31 + 4 * (knotRows f s).length)
      { a.setBuf f.b (knotBuffer f g iv wr s) with grid := a.grid.set (knotSlot f s) (g.insert iv (knotWord f s) wl wr) }))

/-- What FKNOT makes of the state. -/
def knotActs (f : MSlot) (s : State) : State :=
  match knotCheck f (knotSlot f s) (knotWord f s) s.core.arr with
  | .error e => knotRefused f e s
  | .ok (g, iv, wl, wr) =>
    if s.core.arr.badFor (.fknot f) (knotRows f s) then knotCorrupt f s else knotInserted f g iv wl wr s

theorem exec_fknot {f : MSlot} {s : State} (hr : Ready (.fknot f) s) (hsa : (s.ctx.a.sReg f.sa.toNat).toNat < 2 ^ 36)
    (hq : s.ctx.a.queue.length < 16) : exec (.fknot f) s = .next (knotActs f (checkedState (.fknot f) s)) := by
  obtain ⟨ha, hs, hcertain⟩ := hr
  refine (accepted_engine (own := .go) rfl ha hs rfl).trans (congrArg _ ?_)
  dsimp only
  generalize hu : checkedState (.fknot f) s = u
  have hcheck : u.ctx.a.check = true := hu ▸ ((SameTerms.checkedState (.fknot f) s).certain hcertain).1
  have hua : u.ctx.a = s.ctx.a := hu ▸ checkedState_a (.fknot f) s
  have hslot : bits (u.ctx.a.sReg f.sa.toNat).toNat 35 32 = knotSlot f u := by
    unfold bits knotSlot
    rw [hua]
    omega
  have hword : BitVec.ofNat 32 (u.ctx.a.sReg f.sa.toNat).toNat = knotWord f u := BitVec.ofNat_toNat ..
  rw [rdS_certain hcheck, hslot, hword, if_neg (by rw [hua]; omega), if_neg (by rw [hua]; omega)]
  unfold knotActs
  cases knotCheck f (knotSlot f u) (knotWord f u) u.core.arr with
  | error e => rfl
  | ok x => rfl

section
variable {s w : State} {due : Option Nat} {id : Nat}

theorem ctx_entered (s : State) (due : Option Nat) : (s.entered 1 due).ctx = { s.ctx with
    a := { s.ctx.a with queue := s.ctx.a.queue ++ [{ id := s.uid, due := due }] } } := by
  unfold State.entered State.modArch
  rw [State.ctx_modCtx]
  rfl

theorem queue_entered (s : State) (due : Option Nat) :
    (s.entered 1 due).ctx.a.queue = s.ctx.a.queue ++ [{ id := s.uid, due := due }] := by rw [ctx_entered]

theorem arr_entered (s : State) (due : Option Nat) : (s.entered 1 due).core.arr = s.core.arr := arr_modArch _ _

/-- A new entry of the queue and a free value change nothing that a read of the array depends on. -/
theorem SameReads.entered (s : State) (due : Option Nat) : SameReads s (s.entered 1 due).fresh.2 := by
  have hctx : (s.entered 1 due).fresh.2.ctx = { s.ctx with
      a := { s.ctx.a with queue := s.ctx.a.queue ++ [{ id := s.uid, due := due }] } } := ctx_entered s due
  exact ⟨rfl, rfl, fun b => congrArg (fun a => a.buf b) (arr_entered s due), by rw [hctx], by rw [hctx]⟩

theorem queue_fillEntry (h : w.foc.bad = false) (hq : w.ctx.a.queue = (s.entered 1 due).ctx.a.queue) (data : Nat) :
    (fillEntry w.foc.ctx (some id) data none w).ctx.a.queue =
      fillIn id (BitVec.ofNat 4096 data) none (s.ctx.a.queue ++ [{ id := s.uid, due := due }]) := by
  rw [fillEntry_certain h, State.ctx_modCtx, ← queue_entered, ← hq]
  rfl

theorem arr_fillEntry (h : w.foc.bad = false) (data : Nat) : (fillEntry w.foc.ctx (some id) data none w).core.arr = w.core.arr := by
  rw [fillEntry_certain h, arr_modCtx]

theorem dev_fillEntry (h : w.foc.bad = false) (data : Nat) : (fillEntry w.foc.ctx (some id) data none w).dev = w.dev := by
  rw [fillEntry_certain h]
  rfl

end

section
variable {f : MSlot} {s : State} (hbad : s.foc.bad = false)
include hbad

/-- A refused FKNOT gives its code and keeps the array as it stands (R204). -/
theorem knotRefused_spec (e : Nat) : let t := knotRefused f e s
    t.ctx.a.queue = fillIn s.uid (BitVec.ofNat 4096 e) none (s.ctx.a.queue ++ [{ id := s.uid, due := some (s.cyc + 32) }])
    ∧ t.core.arr = { s.core.arr with uses := t.core.arr.uses } ∧ t.dev = s.dev := by
  unfold knotRefused
  generalize hu : s.entered 1 (some (s.cyc + 32)) = u
  have hubad : u.foc.bad = false := hu ▸ hbad
  have harr : u.core.arr = s.core.arr := hu ▸ arr_entered s _
  have hdev : u.dev = s.dev := hu ▸ rfl
  dsimp only
  generalize hw : u.modArr (keepUses (mNeeds (.fknot f) s) (u.cyc + 31)) = w
  have hfoc : w.foc = u.foc := hw ▸ State.foc_modArr _ _
  have hwbad : w.foc.bad = false := hfoc ▸ hubad
  rw [← hfoc]
  refine ⟨queue_fillEntry hwbad ?_ e, ?_, ?_⟩
  · rw [hu, ← hw, State.ctx_modArr]
  · rw [arr_fillEntry hwbad, ← hw, State.core_modArr]
    dsimp only
    rw [harr]
    rfl
  · rw [dev_fillEntry hwbad, ← hw, State.dev_modArr, hdev]

/-- An FKNOT that reads an uncorrectable error leaves the array as it stands, and its fault stands in its status's cycle (R211). -/
theorem knotCorrupt_spec : let t := knotCorrupt f s
    let due := s.cyc + 32 + 4 * (knotRows f s).length
    (∃ y, t.ctx.a.queue = fillIn s.uid y none (s.ctx.a.queue ++ [{ id := s.uid, due := some due }]))
    ∧ t.core.arr = s.core.arr
    ∧ ∃ e ∈ t.ctx.flight, e.due = due ∧ e.val = .corrupt (arrayInfo (.fknot f) s) := by
  unfold knotCorrupt
  dsimp only
  have hreads : SameReads s (s.entered 1 (some (s.cyc + 32 + 4 * (knotRows f s).length))).fresh.2 := SameReads.entered s _
  generalize hu : (s.entered 1 (some (s.cyc + 32 + 4 * (knotRows f s).length))).fresh = u at hreads
  have hubad : u.2.foc.bad = false := by rw [hreads.foc]; exact hbad
  have hq : u.2.ctx.a.queue = (s.entered 1 (some (s.cyc + 32 + 4 * (knotRows f s).length))).ctx.a.queue := by rw [← hu]; rfl
  have harr : u.2.core.arr = s.core.arr := hu ▸ arr_entered s _
  rw [hreads.arrayInfo]
  generalize hw : fillEntry u.2.foc.ctx (some s.uid) (Config.freeWord u.1).toNat none u.2 = w
  have hwbad : w.foc.bad = false := by rw [← hw, fillEntry_certain hubad]; exact hubad
  have hcyc : w.cyc = s.cyc := by
    rw [← hw, fillEntry_certain hubad, State.cyc_modCtx, ← hu]
    exact (SameTerms.entered s 1 _).cyc
  rw [post_certain hwbad _ _ _ (by simp)]
  unfold State.lands
  rw [State.ctx_modCtx, arr_modCtx, hcyc]
  refine ⟨⟨BitVec.ofNat 4096 (Config.freeWord u.1).toNat, ?_⟩, ?_, _, List.mem_append_right _ (List.mem_singleton_self _), (Nat.add_assoc ..).symm, rfl⟩
  · rw [← hw]
    exact queue_fillEntry hubad hq _
  · rw [← hw, arr_fillEntry hubad, harr]

/-- FKNOT's rows are split, and its slot has the knot (R204). -/
theorem knotInserted_spec (g : Grid) (iv : Nat) (wl wr : BitVec 32) : let t := knotInserted f g iv wl wr s
    t.ctx.a.queue = fillIn s.uid (BitVec.ofNat 4096 (2 ^ 64)) none
      (s.ctx.a.queue ++ [{ id := s.uid, due := some (s.cyc + 32 + 4 * (knotRows f s).length) }])
    ∧ ∃ uses, t.core.arr = { s.core.arr.setBuf f.b (knotBuffer f g iv wr s) with
        uses := uses, grid := s.core.arr.grid.set (knotSlot f s) (g.insert iv (knotWord f s) wl wr) } := by
  unfold knotInserted
  generalize hu : s.entered 1 (some (s.cyc + 32 + 4 * (knotRows f s).length)) = u
  have hubad : u.foc.bad = false := hu ▸ hbad
  have harr : u.core.arr = s.core.arr := hu ▸ arr_entered s _
  dsimp only
  rw [spoilUses_certain (by exact hubad)]
  generalize hw : u.modArr _ = w
  have hfoc : w.foc = u.foc := hw ▸ State.foc_modArr _ _
  have hwbad : w.foc.bad = false := hfoc ▸ hubad
  rw [← hfoc]
  refine ⟨queue_fillEntry hwbad ?_ _, ?_⟩
  · rw [hu, ← hw, State.ctx_modArr]
  · rw [arr_fillEntry hwbad, ← hw, State.core_modArr]
    dsimp only
    rw [harr]
    exact ⟨_, rfl⟩

end

section
variable (f : MSlot) (s : State)

theorem knotSlot_checkedState (i : Instr) : knotSlot f (checkedState i s) = knotSlot f s := by rw [knotSlot, knotSlot, checkedState_a]

theorem knotWord_checkedState (i : Instr) : knotWord f (checkedState i s) = knotWord f s := by rw [knotWord, knotWord, checkedState_a]

theorem knotRows_checkedState (i : Instr) : knotRows f (checkedState i s) = knotRows f s := by
  rw [knotRows, knotRows, arr_checkedState, knotSlot_checkedState]

end

theorem knotRows_iff (f : MSlot) (s : State) (r : Nat) :
    r ∈ knotRows f s ↔ r < 128 ∧ (s.core.arr.buf f.b).rowMap.get r 0 = knotSlot f s := by
  rw [knotRows, List.mem_filter, List.mem_range, decide_eq_true_iff]

theorem get_knotBuffer (f : MSlot) (g : Grid) (iv : Nat) (wr : BitVec 32) (s : State) {r : Nat} (hr : r < 128) :
    (knotBuffer f g iv wr s).rows.get r 0 = if (s.core.arr.buf f.b).rowMap.get r 0 = knotSlot f s then knotSplit f g iv wr s r
      else (s.core.arr.buf f.b).rows.get r 0 := by
  unfold knotBuffer
  dsimp only
  rw [Map.get_foldl_put]
  exact if_congr ((knotRows_iff f s r).trans (and_iff_right hr)) rfl rfl

section
variable {f : MSlot} {s : State} (hr : Ready (.fknot f) s) (hsa : (s.ctx.a.sReg f.sa.toNat).toNat < 2 ^ 36)
  (hq : s.ctx.a.queue.length < 16)
include hr hsa hq

theorem fknot_refused {e : Nat} (hk : knotCheck f (knotSlot f s) (knotWord f s) s.core.arr = .error e) :
    ∃ t, exec (.fknot f) s = .next t
      ∧ t.ctx.a.queue = fillIn s.uid (BitVec.ofNat 4096 e) none (s.ctx.a.queue ++ [{ id := s.uid, due := some (s.cyc + 32) }])
      ∧ t.core.arr = { s.core.arr with uses := t.core.arr.uses } ∧ t.dev = (checkedState (.fknot f) s).dev := by
  have hacts : knotActs f (checkedState (.fknot f) s) = knotRefused f e (checkedState (.fknot f) s) := by
    rw [knotActs, knotSlot_checkedState, knotWord_checkedState, arr_checkedState, hk]
  have hspec := knotRefused_spec (f := f) (s := checkedState (.fknot f) s) (by rw [checkedState_foc]; exact hr.2.2.2) e
  dsimp only at hspec
  rw [uid_checkedState, checkedState_a, (SameTerms.checkedState _ s).cyc, arr_checkedState] at hspec
  exact ⟨_, (exec_fknot hr hsa hq).trans (congrArg _ hacts), hspec⟩

theorem fknot_corrupt {x : Grid × Nat × BitVec 32 × BitVec 32}
    (hk : knotCheck f (knotSlot f s) (knotWord f s) s.core.arr = .ok x) (hb : s.core.arr.badFor (.fknot f) (knotRows f s) = true) :
    ∃ t, exec (.fknot f) s = .next t
      ∧ (∃ y, t.ctx.a.queue = fillIn s.uid y none
        (s.ctx.a.queue ++ [{ id := s.uid, due := some (s.cyc + 32 + 4 * (knotRows f s).length) }]))
      ∧ t.core.arr = s.core.arr
      ∧ ∃ e ∈ t.ctx.flight, e.due = s.cyc + 32 + 4 * (knotRows f s).length
        ∧ e.val = .corrupt (arrayInfo (.fknot f) (checkedState (.fknot f) s)) := by
  have hacts : knotActs f (checkedState (.fknot f) s) = knotCorrupt f (checkedState (.fknot f) s) := by
    rw [knotActs, knotSlot_checkedState, knotWord_checkedState, arr_checkedState, hk, knotRows_checkedState]
    exact if_pos hb
  have hspec := knotCorrupt_spec (f := f) (s := checkedState (.fknot f) s) (by rw [checkedState_foc]; exact hr.2.2.2)
  dsimp only at hspec
  rw [uid_checkedState, checkedState_a, (SameTerms.checkedState _ s).cyc, arr_checkedState, knotRows_checkedState] at hspec
  exact ⟨_, (exec_fknot hr hsa hq).trans (congrArg _ hacts), hspec⟩

theorem fknot_inserted {g : Grid} {iv : Nat} {wl wr : BitVec 32}
    (hk : knotCheck f (knotSlot f s) (knotWord f s) s.core.arr = .ok (g, iv, wl, wr))
    (hb : s.core.arr.badFor (.fknot f) (knotRows f s) = false) :
    ∃ t, exec (.fknot f) s = .next t
      ∧ t.ctx.a.queue = fillIn s.uid (BitVec.ofNat 4096 (2 ^ 64)) none
        (s.ctx.a.queue ++ [{ id := s.uid, due := some (s.cyc + 32 + 4 * (knotRows f s).length) }])
      ∧ ∃ uses, t.core.arr = { s.core.arr.setBuf f.b (knotBuffer f g iv wr s) with
        uses := uses, grid := s.core.arr.grid.set (knotSlot f s) (g.insert iv (knotWord f s) wl wr) } := by
  have hacts : knotActs f (checkedState (.fknot f) s) = knotInserted f g iv wl wr (checkedState (.fknot f) s) := by
    rw [knotActs, knotSlot_checkedState, knotWord_checkedState, arr_checkedState, hk, knotRows_checkedState]
    exact if_neg (by rw [hb]; exact Bool.false_ne_true)
  have hbuf : knotBuffer f g iv wr (checkedState (.fknot f) s) = knotBuffer f g iv wr s := by
    unfold knotBuffer knotSplit
    rw [arr_checkedState, knotRows_checkedState, knotWord_checkedState]
  have hspec := knotInserted_spec (f := f) (s := checkedState (.fknot f) s) (by rw [checkedState_foc]; exact hr.2.2.2) g iv wl wr
  dsimp only at hspec
  rw [uid_checkedState, checkedState_a, (SameTerms.checkedState _ s).cyc, arr_checkedState, knotRows_checkedState,
    knotSlot_checkedState, knotWord_checkedState, hbuf] at hspec
  exact ⟨_, (exec_fknot hr hsa hq).trans (congrArg _ hacts), hspec⟩

end

/-! ### The statement of O37 -/

/-- Settles O37: what each operation makes of the array is `exec_` of it; a record that parses has rising knots by
`fLt_of_rising`; FKNOT has one lemma for each of its three ends. -/
theorem arrayChanges : Obligations.ArrayChanges := by
  unfold Obligations.ArrayChanges
  intro f s
  dsimp only
  refine ⟨?fgrid, ?grids, ?fsel, ?buffer, ?counters, ?slots, ?grad, ?fload, ?fknot⟩
  case fgrid => exact fun c p g hr hsb hsa hplace hgood hdry hg => exec_fgrid hr hsb hsa hplace hgood hdry hg
  case grids => exact fun x g h => parseGrid_grid h
  case fsel => exact fun hr hlane => exec_fsel hr hlane
  case buffer => exact fun hr => exec_changes hr rfl rfl
  case counters => exact fun hr => exec_changes hr rfl rfl
  case slots => exact fun hr => exec_changes hr rfl rfl
  case grad => exact fun hr => exec_changes hr rfl rfl
  case fload =>
    rw [← floadFirst_eq]
    exact fun t hr hd hmap hbooks ht htables => exec_fload hr hd hmap hbooks ht htables
  case fknot =>
    intro hr hsa hq
    refine ⟨fun e hk => fknot_refused hr hsa hq hk, fun x hk hb => ?_, fun g iv wl wr hk hb => ?_⟩
    · obtain ⟨t, hx, ⟨y, hqueue⟩, hrest⟩ := fknot_corrupt hr hsa hq hk hb
      exact ⟨y, t, hx, hqueue, hrest⟩
    · obtain ⟨t, hx, hqueue, uses, harr⟩ := fknot_inserted hr hsa hq hk hb
      refine ⟨t, hx, hqueue, ?_, fun o ho => ?_, fun r hrow => ?_, ?_⟩
      · rw [harr]
        exact Map.find?_set_self ..
      · rw [harr]
        exact Map.find?_set_ne _ _ _ _ ho
      · rw [harr]
        exact (congrArg (fun b => b.rows.get r 0) (buf_setBuf ..)).trans (get_knotBuffer f g iv wr s hrow)
      · rw [harr]
        exact buf_setBuf_other _ _ _

end Sys2Proof.Machine
end

section
/-! Lanes and elements of a vector, bits of a predicate, and what a masked landing makes of them (R18, R214, R215). -/

namespace Sys2Proof.Machine

/-! ### Packed elements -/

/-- Element `i` of packed elements; past their end it is 0. -/
theorem elemOf_packElems (w : Nat) : ∀ (l : List Nat) (i : Nat), elemOf (packElems w l) i w = l.getD i 0 % 2 ^ w
  | [], i => by simp [packElems, elemOf]
  | x :: r, 0 => by simp [packElems, elemOf]
  | x :: r, i + 1 => by
    have htail : (x % 2 ^ w + 2 ^ w * packElems w r) / 2 ^ w = packElems w r := by
      rw [Nat.add_mul_div_left _ _ (Nat.two_pow_pos w), Nat.div_eq_of_lt (Nat.mod_lt _ (Nat.two_pow_pos w)), Nat.zero_add]
    have hexp : w * (i + 1) = w + w * i := by rw [Nat.mul_succ, Nat.add_comm]
    rw [List.getD_cons_succ, ← elemOf_packElems w r i, elemOf, elemOf, packElems, hexp, Nat.pow_add,
      ← Nat.div_div_eq_div_mul, htail]

/-- Elements moved up by `b` places. -/
theorem elemOf_moved (x w b k : Nat) : elemOf (x * 2 ^ (w * b)) k w = if b ≤ k then elemOf x (k - b) w else 0 := by
  unfold elemOf
  split
  next h =>
    obtain ⟨d, rfl⟩ := Nat.exists_eq_add_of_le h
    rw [Nat.add_sub_cancel_left, Nat.mul_add, Nat.pow_add, ← Nat.div_div_eq_div_mul, Nat.mul_div_cancel _ (Nat.two_pow_pos _)]
  next h =>
    obtain ⟨d, rfl⟩ := Nat.exists_eq_add_of_lt (Nat.not_le.1 h)
    have hexp : w * (k + d + 1) = w * d + w + w * k := by ring
    rw [hexp, Nat.pow_add, ← Nat.mul_assoc, Nat.mul_div_cancel _ (Nat.two_pow_pos _), Nat.pow_add, ← Nat.mul_assoc,
      Nat.mul_mod_left]

/-- An element of a number cut down to `n` bits, within them. -/
theorem extractLsb'_ofNat {n w k : Nat} (h : w * k + w ≤ n) (x : Nat) :
    (BitVec.ofNat n x).extractLsb' (w * k) w = BitVec.ofNat w (elemOf x k w) := by
  apply BitVec.eq_of_toNat_eq
  obtain ⟨d, hd⟩ := Nat.exists_eq_add_of_le h
  rw [BitVec.extractLsb'_toNat, BitVec.toNat_ofNat, BitVec.toNat_ofNat, Nat.shiftRight_eq_div_pow, elemOf, Nat.mod_mod,
    hd, Nat.add_assoc, Nat.pow_add, Nat.mod_mul_right_div_self, Nat.pow_add, Nat.mod_mul_right_mod]

/-! ### Lanes and predicates -/

theorem lane_mkVec (g : Nat → BitVec 32) {n : Nat} (hn : n < 128) : lane (mkVec g) n = g n := by
  rw [lane, mkVec, extractLsb'_ofNat (by omega), elemOf_packElems]
  simp [List.getD, hn, Nat.mod_eq_of_lt (g n).isLt]

theorem lane_laneMask (m : Nat → Bool) {n : Nat} (hn : n < 128) :
    lane (laneMask m) n = if m n then BitVec.allOnes 32 else 0 := lane_mkVec _ hn

theorem extractLsb'_allOnes {n lo w : Nat} (h : lo + w ≤ n) : (BitVec.allOnes n).extractLsb' lo w = BitVec.allOnes w := by
  refine BitVec.eq_of_getLsbD_eq fun i hi => ?_
  simp [hi, show lo + i < n by omega]

theorem getLsbD_mkPred (g : Nat → Bool) {n : Nat} (hn : n < 128) : (mkPred g).getLsbD n = g n := by
  have helem := elemOf_packElems 1 ((List.range 128).map fun i => b2n (g i)) n
  rw [elemOf, Nat.one_mul, Nat.pow_one] at helem
  rw [mkPred, BitVec.getLsbD_ofNat, Nat.testBit_eq_decide_div_mod_eq, helem]
  cases hg : g n <;> simp [List.getD, hn, hg, b2n]

/-! ### Masked landings -/

/-- A field of what a landing leaves depends on that field alone of what was there, the mask and the data. -/
theorem extractLsb'_masked {n lo w : Nat} (h : lo + w ≤ n) (old mask data : BitVec n) :
    ((old &&& ~~~mask) ||| (data &&& mask)).extractLsb' lo w =
      (old.extractLsb' lo w &&& ~~~mask.extractLsb' lo w) ||| (data.extractLsb' lo w &&& mask.extractLsb' lo w) := by
  refine BitVec.eq_of_getLsbD_eq fun i hi => ?_
  simp [hi, show lo + i < n by omega]

theorem masked_zero {n : Nat} (old data : BitVec n) : (old &&& ~~~0#n) ||| (data &&& 0#n) = old := by simp

theorem masked_allOnes {n : Nat} (old data : BitVec n) :
    (old &&& ~~~BitVec.allOnes n) ||| (data &&& BitVec.allOnes n) = data := by simp

/-- Lane `n` of a register after a landing whose mask covers the lane or leaves it. -/
theorem lane_land {n : Nat} (hn : n < 128) (r : VReg) {mask data : Vec} {tag : Option (BitVec 32)} {covered : Bool}
    (hmask : lane mask n = if covered then BitVec.allOnes 32 else 0) :
    lane (r.land (.vec mask data tag)).bits n = if covered then lane data n else lane r.bits n := by
  have hfield := extractLsb'_masked (lo := 32 * n) (w := 32) (by omega) r.bits mask data
  change lane ((r.bits &&& ~~~mask) ||| (data &&& mask)) n = (lane r.bits n &&& ~~~lane mask n) ||| (lane data n &&& lane mask n)
    at hfield
  rw [VReg.land, hfield, hmask]
  cases covered
  · exact masked_zero _ _
  · exact masked_allOnes _ _

/-- Bit `n` of a predicate after a landing whose mask covers the bit or leaves it. -/
theorem getLsbD_masked {n : Nat} (old data : Pred) {mask : Pred} {covered : Bool} (hmask : mask.getLsbD n = covered)
    (hn : n < 128) :
    ((old &&& ~~~mask) ||| (data &&& mask)).getLsbD n = if covered then data.getLsbD n else old.getLsbD n := by
  rw [BitVec.getLsbD_or, BitVec.getLsbD_and, BitVec.getLsbD_and, BitVec.getLsbD_not, hmask]
  cases covered <;> simp [hn]

/-- What is covered by the mask of P and Z: an active place takes the data, and with Z every other place the rest. -/
theorem covered_cases {α : Type} {z : Prop} [Decidable z] (act : Bool) (x rest old : α) :
    (if (decide z || act) = true then (if act = true then x else rest) else old) =
      if act = true then x else if z then rest else old := by
  cases act
  · by_cases hz : z <;> simp [hz]
  · simp

end Sys2Proof.Machine
end

section
/-! What a vector operation takes, lands and pops, and the tag check of its class (R214 to R218, R237). -/

namespace Sys2Proof.Machine

/-! ### Sources -/

section
variable {s : State} (h : s.ctx.a.check = true) (f : VSlot)
include h

theorem srcA_certain : srcA f s = ⟨vecA f s, domA f s⟩ := by
  unfold srcA vecA domA
  split
  · rfl
  · exact rdV_certain h _

theorem srcB_certain : srcB f s = ⟨vecB f s, domB f s⟩ := rdV_certain h _

theorem srcC_certain : srcC f s = ⟨vecC f s, domC f s⟩ := rdV_certain h _

theorem tagA_snd : (tagA f s).2 = domA f s := by rw [tagA, srcA_certain h]

theorem tagB_snd : (tagB f s).2 = domB f s := by rw [tagB, srcB_certain h]

theorem tagC_snd : (tagC f s).2 = domC f s := by rw [tagC, srcC_certain h]

theorem valA_eq (n : Nat) : (srcA f s).val f.fa.toNat n = valA f s n := by rw [srcA_certain h]; rfl

theorem valB_eq (n : Nat) : (srcB f s).val f.fa.toNat n = valB f s n := by rw [srcB_certain h]; rfl

theorem valC_eq (n : Nat) : (srcC f s).val f.fa.toNat n = valC f s n := by rw [srcC_certain h]; rfl

theorem srcA_bits : (srcA f s).bits = vecA f s := by rw [srcA_certain h]

theorem srcB_bits : (srcB f s).bits = vecB f s := by rw [srcB_certain h]

theorem srcC_bits : (srcC f s).bits = vecC f s := by rw [srcC_certain h]

end

/-! ### Source A popped (R216) -/

theorem popped_self {f : VSlot} (h : f.qa = 0#1) (s : State) : s.popped f = s := by simp [State.popped, h]

@[simp] theorem foc_popped (f : VSlot) (s : State) : (s.popped f).foc = s.foc := by
  unfold State.popped
  split <;> rfl

@[simp] theorem check_popped (f : VSlot) (s : State) : (s.popped f).ctx.a.check = s.ctx.a.check := by
  unfold State.popped
  split <;> simp [State.pops]

theorem pReg_popped (f : VSlot) (s : State) (n : Nat) : (s.popped f).ctx.a.pReg n = s.ctx.a.pReg n := by
  unfold State.popped
  split <;> simp [State.pops, Arch.pReg]

theorem certain_popped (f : VSlot) {s : State} (h : Certain s) : Certain (s.popped f) := by
  simpa [Certain] using h

/-- What is popped is the head of the queue, where there is one. -/
theorem popIf_eq {f : VSlot} {s : State} (h : f.qa = 1#1 → s.ctx.a.queue ≠ []) : popIf f s = s.popped f := by
  unfold popIf State.popped
  split
  next hq =>
    obtain ⟨e, r, he⟩ := List.exists_cons_of_ne_nil (h hq)
    rw [popEntry_cons he]
  next => rfl

/-! ### Results (R215) -/

/-- Lanes written are active lanes, and with Z every other lane as 0. -/
theorem writeLanes_land {s : State} (h : Certain s) (f : VSlot) (lat : Nat) (tag : Option (BitVec 32)) (g : Nat → BitVec 32) :
    LanesLand f lat tag g s (writeLanes f lat tag g (s.popped f)) := by
  have hsure := certain_popped f h
  unfold writeLanes
  rw [foc_popped, rdP_certain hsure.1, pReg_popped]
  refine ⟨_, _, post_certain hsure.2 _ _ _ (by simp), fun r n hn => ?_⟩
  rw [lane_land (covered := decide (f.z = 1#1) || isActive f s n) hn, lane_mkVec _ hn]
  · exact covered_cases _ _ _ _
  · split
    next hz =>
      rw [decide_eq_true hz, Bool.true_or, if_pos rfl]
      exact extractLsb'_allOnes (by omega)
    next hz =>
      rw [decide_eq_false hz, Bool.false_or]
      exact lane_laneMask _ hn

/-- Bits of a predicate written are active lanes' bits, and with Z every other bit as 0. -/
theorem writePred_lands {s : State} (h : Certain s) {f : VSlot} (hd : f.vd.toNat % 8 ≠ 0) (lat : Nat) (g : Nat → Bool) :
    ∃ mask data, writePred f lat g s = s.lands ⟨.p, f.vd.toNat % 8⟩ lat (.pred mask data) ∧ ∀ (old : Pred) (n : Nat), n < 128 →
      ((old &&& ~~~mask) ||| (data &&& mask)).getLsbD n =
        if isActive f s n then g n else if f.z = 1#1 then false else old.getLsbD n := by
  unfold writePred
  rw [rdP_certain h.1]
  refine ⟨_, _, post_certain h.2 _ _ _ (by simp [hd]), fun old n hn => ?_⟩
  have hdata : (isActive f s n && g n) = if isActive f s n = true then g n else false := by cases isActive f s n <;> rfl
  rw [getLsbD_masked (covered := decide (f.z = 1#1) || isActive f s n) _ _ _ hn, getLsbD_mkPred _ hn, ← isActive, hdata]
  · exact covered_cases _ _ _ _
  · split
    next hz => rw [decide_eq_true hz, Bool.true_or, BitVec.getLsbD_allOnes, decide_eq_true hn]
    next hz => rw [decide_eq_false hz, Bool.false_or, isActive]

/-! ### Tags (R218, R237) -/

theorem firstHaar_none {l : List Src} (h : AllPlain (l.map Prod.snd)) : firstHaar l = none :=
  List.find?_eq_none.2 fun x hx => by simp [h x.2 (List.mem_map_of_mem hx)]

theorem treeClash_plain {t : BitVec 32} (h : tagHaar t = false) (u : Option (BitVec 32)) (n : Option Nat) (r : List Src) :
    treeClash u ((n, t) :: r) = treeClash u r := by simp [treeClash, h]

theorem treeClash_first {t : BitVec 32} (h : tagHaar t = true) (n : Option Nat) (r : List Src) :
    treeClash none ((n, t) :: r) = treeClash (some t) r := by simp [treeClash, h]

theorem treeClash_next {t : BitVec 32} (h : tagHaar t = true) (u : BitVec 32) (n : Option Nat) (r : List Src) :
    treeClash (some u) ((n, t) :: r) = if sameTree u t then treeClash (some u) r else some (n, t) := by simp [treeClash, h]

/-- Where all HAAR sources agree with the first, no source clashes. -/
theorem treeClash_some {u : BitVec 32} : ∀ l : List Src,
    (∀ x ∈ l, tagHaar x.2 = true → tagL u = tagL x.2 ∧ tagLay u = tagLay x.2) → treeClash (some u) l = none
  | [], _ => rfl
  | (n, t) :: r, h => by
    have hr := treeClash_some r fun x hx => h x (List.mem_cons_of_mem _ hx)
    cases ht : tagHaar t with
    | false => rw [treeClash_plain ht, hr]
    | true =>
      have hsame : sameTree u t = true := by simpa [sameTree] using h (n, t) (List.mem_cons_self ..) ht
      rw [treeClash_next ht, if_pos hsame, hr]

theorem treeClash_none : ∀ {l : List Src}, Agree (l.map Prod.snd) → treeClash none l = none
  | [], _ => rfl
  | (n, t) :: r, h => by
    cases ht : tagHaar t with
    | false =>
      rw [treeClash_plain ht]
      exact treeClash_none fun a ha b hb => h a (List.mem_cons_of_mem _ ha) b (List.mem_cons_of_mem _ hb)
    | true =>
      rw [treeClash_first ht]
      exact treeClash_some r fun x hx => h t (List.mem_cons_self ..) x.2 (List.mem_cons_of_mem _ (List.mem_map_of_mem hx)) ht

/-- Without a HAAR source the linear class gives PLAIN. -/
theorem linearTag_none {l : List Src} (h : (l.map Prod.snd).find? tagHaar = none) (fd : Nat) : linearTag l fd = plainTag fd := by
  rw [List.find?_map, Option.map_eq_none_iff] at h
  have hfirst : firstHaar l = none := h
  rw [linearTag, hfirst]

/-- Else it gives the first HAAR source's tree, exact where every HAAR source is. -/
theorem linearTag_some {l : List Src} {t : BitVec 32} (h : (l.map Prod.snd).find? tagHaar = some t) (fd : Nat) :
    linearTag l fd = mkTag true (tagL t) (tagLay t) fd (((l.map Prod.snd).filter tagHaar).all tagExact) := by
  rw [List.find?_map, Option.map_eq_some_iff] at h
  obtain ⟨⟨n, u⟩, hfind, rfl⟩ := h
  have hfirst : firstHaar l = some (n, u) := hfind
  rw [linearTag, hfirst, List.filter_map, List.all_map]
  rfl

theorem map_unnamed (m : List (BitVec 32)) : (m.map fun t => ((none, t) : Src)).map Prod.snd = m := by simp [Function.comp_def]

/-- The result tag of the linear class is made of the sources' tags. -/
theorem linearTag_eq (l : List Src) (fd : Nat) : linearTag l fd = domainOf (l.map Prod.snd) fd := by
  rw [domainOf]
  cases h : (l.map Prod.snd).find? tagHaar with
  | none => rw [linearTag_none h, linearTag_none (by rwa [map_unnamed])]
  | some t => rw [linearTag_some h, linearTag_some (by rwa [map_unnamed]), map_unnamed]

theorem agree_single (t : BitVec 32) : Agree [t] := by
  intro a ha b hb _ _
  rw [List.mem_singleton.1 ha, List.mem_singleton.1 hb]
  exact ⟨rfl, rfl⟩

end Sys2Proof.Machine
end

section
/-! What a vector operation whose checks pass answers: its effect, its lanes or its predicate, or a domain fault (R215 to R218). -/

namespace Sys2Proof.Machine

/-- `i` is an operation of the V slot with fields `f` and effect `eff`: it closes no segment and pops as QA says (R216). -/
structure VectorOp (i : Instr) (f : VSlot) (eff : State → State) : Prop where
  exec_eq : ∀ s, exec i s = gated i .go eff s
  own_eq : ∀ s, ownOf i s = .go := by exact fun _ => rfl
  open_eq : closing i = false := by rfl
  pop_eq : ∀ s, popCount i s = if f.qa = 1#1 then 1 else 0 := by exact fun _ => rfl

namespace VectorOp
variable {i : Instr} {f : VSlot} {eff : State → State} {s : State}

/-- What the operation answers where it may act. -/
theorem next (h : VectorOp i f eff) (hr : Ready i s) : exec i s = .next (eff s) :=
  ready_engine_open (h.exec_eq s) hr (h.own_eq s).symm h.open_eq

/-- An operation that may act finds the entry that it pops. -/
theorem popIf_eq (h : VectorOp i f eff) (hr : Ready i s) : popIf f s = s.popped f := by
  refine Machine.popIf_eq fun hq hnil => ?_
  have hlen := hr.2.1.1
  rw [checkedState_open h.open_eq, h.pop_eq, if_pos hq, hnil] at hlen
  exact absurd hlen (by decide)

/-- An operation that writes lanes once it has popped. -/
theorem lanes {lat : Nat} {may : State → Prop} {tag : State → Option (BitVec 32)} {g : State → Nat → BitVec 32}
    (h : VectorOp i f eff) (hout : ∀ s, Certain s → may s → eff s = writeLanes f lat (tag s) (g s) (popIf f s)) :
    Lanes i f lat may tag g := by
  intro s hr hmay
  refine ⟨_, h.next hr, ?_⟩
  rw [hout s hr.2.2 hmay, h.popIf_eq hr]
  exact writeLanes_land hr.2.2 f lat (tag s) (g s)

/-- An operation that writes lanes and names no entry of the queue. -/
theorem lanes_unpopped {lat : Nat} {may : State → Prop} {tag : State → Option (BitVec 32)} {g : State → Nat → BitVec 32}
    (h : VectorOp i f eff) (hq : f.qa = 0#1) (hout : ∀ s, Certain s → eff s = writeLanes f lat (tag s) (g s) s) :
    Lanes i f lat may tag g :=
  h.lanes fun s hs _ => by rw [hout s hs, Machine.popIf_eq (by simp [hq]), popped_self hq]

/-- An operation that writes a predicate once it has popped. -/
theorem bits {lat : Nat} {may : State → Prop} {g : State → Nat → Bool} (h : VectorOp i f eff)
    (hout : ∀ s, Certain s → may s → eff s = writePred f lat (g s) (popIf f s)) : Bits i f lat may g := by
  intro s hr hmay hd
  obtain ⟨mask, data, hlands, hland⟩ := writePred_lands (certain_popped f hr.2.2) hd lat (g s)
  refine ⟨mask, data, ?_, fun old n hn => ?_⟩
  · rw [h.next hr, hout s hr.2.2 hmay, h.popIf_eq hr, hlands]
  · rw [hland old n hn, isActive, isActive, pReg_popped]

/-- An operation that writes a predicate and names no entry of the queue. -/
theorem bits_unpopped {lat : Nat} {may : State → Prop} {g : State → Nat → Bool} (h : VectorOp i f eff) (hq : f.qa = 0#1)
    (hout : ∀ s, Certain s → eff s = writePred f lat (g s) s) : Bits i f lat may g :=
  h.bits fun s hs _ => by rw [hout s hs, Machine.popIf_eq (by simp [hq]), popped_self hq]

end VectorOp

/-! ### The tag check of a class (R218) -/

section
variable {i : Instr} {f : VSlot} {lat fd : Nat} {srcs : List Src} {g : Nat → BitVec 32} {s : State}

theorem vOp_linear (h : Agree (srcs.map Prod.snd)) : vOp i f lat true srcs fd g s =
    writeLanes f lat (some (domainOf (srcs.map Prod.snd) fd)) g (popIf f s) := by
  rw [vOp, if_pos rfl, if_pos rfl, treeClash_none h, linearTag_eq]

theorem vOp_plain (h : AllPlain (srcs.map Prod.snd)) : vOp i f lat false srcs fd g s =
    writeLanes f lat (some (plainTag fd)) g (popIf f s) := by
  rw [vOp, if_neg Bool.false_ne_true, if_neg Bool.false_ne_true, firstHaar_none h]

theorem vOp_clash {x : Src} (h : treeClash none srcs = some x) : vOp i f lat true srcs fd g s = domainFault i x s := by
  rw [vOp, if_pos rfl, h]

theorem vOp_haar {x : Src} (h : firstHaar srcs = some x) : vOp i f lat false srcs fd g s = domainFault i x s := by
  rw [vOp, if_neg Bool.false_ne_true, h]

theorem vCompare_haar {x : Src} {g : Nat → Bool} (h : firstHaar [tagA f s, tagB f s] = some x) :
    vCompare i f g s = domainFault i x s := by rw [vCompare, h]

theorem vReduce_haar {x : Src} {y : BitVec 32} (h : firstHaar [tagA f s] = some x) : vReduce i f false y s = domainFault i x s := by
  simp only [vReduce, if_neg Bool.false_ne_true, h]

end

section
variable {s : State} (h : Certain s) (f : VSlot)
include h

theorem tags_one : [tagA f s].map Prod.snd = [domA f s] := by rw [List.map_singleton, tagA_snd h.1]

theorem tags_two : [tagA f s, tagB f s].map Prod.snd = [domA f s, domB f s] := by
  rw [List.map_cons, List.map_singleton, tagA_snd h.1, tagB_snd h.1]

theorem tags_three : [tagA f s, tagB f s, tagC f s].map Prod.snd = [domA f s, domB f s, domC f s] := by
  rw [List.map_cons, List.map_cons, List.map_singleton, tagA_snd h.1, tagB_snd h.1, tagC_snd h.1]

/-- The tag check of an operation of one source. -/
theorem check_one {linear : Bool} (hmay : linear = true ∨ AllPlain [domA f s]) :
    (if linear then treeClash none [tagA f s] else firstHaar [tagA f s]) = none := by
  cases linear with
  | true => exact treeClash_none (by rw [tags_one h]; exact agree_single _)
  | false => exact firstHaar_none (by rw [tags_one h]; exact hmay.resolve_left Bool.false_ne_true)

theorem bothHaar_eq : bothHaar f s = (tagHaar (domA f s) && tagHaar (domB f s)) := by
  rw [bothHaar, tagA_snd h.1, tagB_snd h.1]

end

/-- Two sources that are not both HAAR agree. -/
theorem agree_of_not_both {a b : BitVec 32} (h : ¬(tagHaar a = true ∧ tagHaar b = true)) : Agree [a, b] := by
  have hsym : ¬(tagHaar b = true ∧ tagHaar a = true) := fun hba => h hba.symm
  intro x hx y hy hxh hyh
  simp only [List.mem_cons, List.not_mem_nil, or_false] at hx hy
  obtain rfl | rfl := hx <;> obtain rfl | rfl := hy
  · exact ⟨rfl, rfl⟩
  · exact absurd ⟨hxh, hyh⟩ h
  · exact absurd ⟨hxh, hyh⟩ hsym
  · exact ⟨rfl, rfl⟩

theorem allPlain_append {l m : List (BitVec 32)} (hl : AllPlain l) (hm : AllPlain m) : AllPlain (l ++ m) := fun t ht =>
  (List.mem_append.1 ht).elim (hl t) (hm t)

end Sys2Proof.Machine
end

section
/-! Floating-point lane operations of the vector engine (R218, R219, R222, R223), and O27. -/

namespace Sys2Proof.Machine

section
variable {i : Instr} {f : VSlot} {s : State} (h : Certain s)
include h

theorem vf1_linear (g : FVal → FVal) : vf1 i f true g s = writeLanes f (vLatency i) (some (domainOf [domA f s] f.fd.toNat))
    (fun n => vRnd f (g (valA f s n))) (popIf f s) := by
  simp only [vf1, valA_eq h.1]
  rw [vOp_linear (by rw [tags_one h]; exact agree_single _), tags_one h]

theorem vf1_plain (hp : AllPlain [domA f s]) (g : FVal → FVal) : vf1 i f false g s =
    writeLanes f (vLatency i) (some (plainTag f.fd.toNat)) (fun n => vRnd f (g (valA f s n))) (popIf f s) := by
  simp only [vf1, valA_eq h.1]
  rw [vOp_plain (by rwa [tags_one h])]

theorem vf2_linear (ha : Agree [domA f s, domB f s]) (g : FVal → FVal → FVal) : vf2 i f true g s =
    writeLanes f 4 (some (domainOf [domA f s, domB f s] f.fd.toNat)) (fun n => vRnd f (g (valA f s n) (valB f s n)))
      (popIf f s) := by
  simp only [vf2, valA_eq h.1, valB_eq h.1]
  rw [vOp_linear (by rwa [tags_two h]), tags_two h]

theorem vf2_plain (hp : AllPlain [domA f s, domB f s]) (g : FVal → FVal → FVal) : vf2 i f false g s =
    writeLanes f 4 (some (plainTag f.fd.toNat)) (fun n => vRnd f (g (valA f s n) (valB f s n))) (popIf f s) := by
  simp only [vf2, valA_eq h.1, valB_eq h.1]
  rw [vOp_plain (by rwa [tags_two h])]

theorem bothHaar_false (hone : ¬(tagHaar (domA f s) = true ∧ tagHaar (domB f s) = true)) : bothHaar f s = false := by
  rw [bothHaar_eq h, ← Bool.not_eq_true, Bool.and_eq_true]
  exact hone

theorem vf3_linear (hone : ¬(tagHaar (domA f s) = true ∧ tagHaar (domB f s) = true))
    (ha : Agree [domA f s, domB f s, domC f s]) (g : FVal → FVal → FVal → FVal) : vf3 i f g s =
    writeLanes f 4 (some (domainOf [domA f s, domB f s, domC f s] f.fd.toNat))
      (fun n => vRnd f (g (valA f s n) (valB f s n) (valC f s n))) (popIf f s) := by
  simp only [vf3, valA_eq h.1, valB_eq h.1, valC_eq h.1, bothHaar_false h hone]
  rw [Bool.not_false, vOp_linear (by rwa [tags_three h]), tags_three h]

theorem vfclass_writes (hp : AllPlain [domA f s]) :
    vOp (.vfclass f) f 4 false [tagA f s] 5 (fun n => BitVec.ofNat 32 (fClass f.fa.toNat (lane (srcA f s).bits n).toNat)) s =
      writeLanes f 4 (some (plainTag 5)) (fun n => BitVec.ofNat 32 (fClass f.fa.toNat (lane (vecA f s) n).toNat)) (popIf f s) := by
  simp only [srcA_bits h.1]
  rw [vOp_plain (by rwa [tags_one h])]

end

/-- The class mask has one bit, which the value tells (R223). -/
theorem fClass_eq (fmt x : Nat) : fClass fmt x = 2 ^
    (match decodeF fmt x with
      | .nan => 8
      | .inf neg => if neg then 0 else 7
      | .num neg m _ _ => if m = 0 then (if neg then 3 else 4) else if m < 2 ^ fmtM fmt then (if neg then 2 else 5)
        else (if neg then 1 else 6)) := by
  unfold fClass
  cases decodeF fmt x with
  | nan => rfl
  | inf neg => cases neg <;> rfl
  | num neg m e more =>
    dsimp only
    cases neg <;> split_ifs <;> rfl

/-- Settles O27: each operation writes lanes of its exact value rounded, past the tag check of its class. -/
theorem vectorFloat : Obligations.VectorFloat := by
  unfold Obligations.VectorFloat
  intro f
  refine ⟨?add, ?sub, ?mul, ?fma, ?fms, ?fnma, ?abs, ?neg, ?spec, ?cls⟩
  case add => exact VectorOp.lanes { exec_eq := fun _ => rfl } fun s hs ha => vf2_linear hs ha _
  case sub => exact VectorOp.lanes { exec_eq := fun _ => rfl } fun s hs ha => vf2_linear hs ha _
  case mul =>
    refine VectorOp.lanes { exec_eq := fun _ => rfl } fun s hs hone => ?_
    rw [bothHaar_false hs hone]
    exact vf2_linear hs (agree_of_not_both hone) _
  case fma => exact VectorOp.lanes { exec_eq := fun _ => rfl } fun s hs ⟨hone, ha⟩ => vf3_linear hs hone ha _
  case fms => exact VectorOp.lanes { exec_eq := fun _ => rfl } fun s hs ⟨hone, ha⟩ => vf3_linear hs hone ha _
  case fnma => exact VectorOp.lanes { exec_eq := fun _ => rfl } fun s hs ⟨hone, ha⟩ => vf3_linear hs hone ha _
  case abs => exact VectorOp.lanes { exec_eq := fun _ => rfl } fun s hs hp => vf1_plain hs hp _
  case neg => exact VectorOp.lanes { exec_eq := fun _ => rfl } fun s hs _ => vf1_linear hs _
  case spec =>
    have hfn : bits f.aux.toNat 2 0 = f.aux.toNat % 8 := by simp [bits]
    rw [← hfn]
    exact VectorOp.lanes { exec_eq := fun _ => rfl } fun s hs hp => vf1_plain hs hp _
  case cls =>
    refine VectorOp.lanes { exec_eq := fun _ => rfl } fun s hs hp => (vfclass_writes hs hp).trans ?_
    exact congrArg (writeLanes f 4 _ · _) (funext fun n => congrArg (BitVec.ofNat 32) (fClass_eq f.fa.toNat _))

end Sys2Proof.Machine
end

section
/-! The order of values (R220, R221), VFMIN and VFMAX, and O28. -/

namespace Sys2Proof.Machine

/-! ### The order of values -/

theorem fcmp_none {a b : FVal} : fcmp a b = none ↔ a = .nan ∨ b = .nan := by
  cases a <;> cases b <;> simp [fcmp]

theorem scaled_lt_iff (s s' : Bool) (m m' : Nat) (e e' : Int) (b b' : Bool) :
    scaled s m e (min e e') < scaled s' m' e' (min e e') ↔ (FVal.num s m e b).real < (FVal.num s' m' e' b').real := by
  have hpos : (0 : ℚ) < 2 ^ min e e' := by positivity
  rw [← scaled_mul_zpow (min_le_left e e'), ← scaled_mul_zpow (min_le_right e e'), mul_lt_mul_iff_of_pos_right hpos, Int.cast_lt]

theorem fcmp_lt {a b : FVal} : fcmp a b = some .lt ↔ a.lt b := by
  cases a with
  | nan => simp [fcmp, FVal.lt]
  | inf x => cases b with
    | nan => simp [fcmp, FVal.lt]
    | inf y => cases x <;> cases y <;> simp [fcmp, FVal.lt]
    | num s m e more => cases x <;> simp [fcmp, FVal.lt]
  | num s m e more => cases b with
    | nan => simp [fcmp, FVal.lt]
    | inf y => cases y <;> simp [fcmp, FVal.lt]
    | num s' m' e' more' =>
      rw [fcmp, Option.some_inj, compare_lt_iff_lt]
      exact scaled_lt_iff ..

/-- The order seen from the other side. -/
theorem fcmp_swap (a b : FVal) : fcmp b a = (fcmp a b).map Ordering.swap := by
  cases a with
  | nan => cases b <;> rfl
  | inf x => cases b with
    | nan => rfl
    | inf y => cases x <;> cases y <;> rfl
    | num s m e more => cases x <;> rfl
  | num s m e more => cases b with
    | nan => rfl
    | inf y => cases y <;> rfl
    | num s' m' e' more' =>
      rw [fcmp, fcmp, Option.map_some, min_comm, ← Std.OrientedCmp.eq_swap]

theorem fcmp_gt {a b : FVal} : fcmp a b = some .gt ↔ b.lt a := by
  rw [← fcmp_lt, fcmp_swap a b]
  cases fcmp a b with
  | none => simp
  | some o => cases o <;> simp

/-- Values that are not NaN and neither below the other compare as equal. -/
theorem fcmp_eq {a b : FVal} : fcmp a b = some .eq ↔ (a ≠ .nan ∧ b ≠ .nan) ∧ ¬a.lt b ∧ ¬b.lt a := by
  rw [← not_or, ← fcmp_none, ← fcmp_lt, ← fcmp_gt]
  cases fcmp a b with
  | none => simp
  | some o => cases o <;> simp

/-- Of two zeros neither is below the other by value. -/
theorem not_lt_of_zeros {a b : FVal} (ha : a.real = 0) (hb : b.real = 0) (hia : ∀ x, a ≠ .inf x) (hib : ∀ x, b ≠ .inf x) :
    ¬a.lt b := by
  cases a with
  | nan => exact fun h => h
  | inf x => exact absurd rfl (hia x)
  | num s m e more => cases b with
    | nan => exact fun h => h
    | inf y => exact absurd rfl (hib y)
    | num s' m' e' more' =>
      intro h
      change (FVal.num s m e more).real < (FVal.num s' m' e' more').real at h
      rw [ha, hb] at h
      exact lt_irrefl 0 h

/-! ### Minimum and maximum (R220) -/

theorem below_of_below {a b : FVal} (h : a.below b) : below a b = true := by
  unfold below
  obtain hlt | ⟨ha, hb, hneg, hpos, hia, hib, hna, hnb⟩ := h
  · rw [fcmp_lt.2 hlt]
  · rw [fcmp_eq.2 ⟨⟨hna, hnb⟩, not_lt_of_zeros ha hb hia hib, not_lt_of_zeros hb ha hib hia⟩, hneg, hpos]
    rfl

/-- The order of R220 is one way. -/
theorem below_asymm {a b : FVal} (h : below a b = true) : below b a = false := by
  unfold below at h ⊢
  rw [fcmp_swap a b]
  cases hc : fcmp a b with
  | none => rfl
  | some o =>
    cases o <;> simp_all

theorem ne_nan_of_below {a b : FVal} (h : below a b = true) : a ≠ .nan ∧ b ≠ .nan := by
  have hne : fcmp a b ≠ none := fun hn => by simp [below, hn] at h
  rwa [ne_eq, fcmp_none, not_or] at hne

theorem fminV_eq {a b : FVal} (ha : a ≠ .nan) (hb : b ≠ .nan) : fminV a b = if below b a then b else a := by
  cases a <;> cases b <;> simp_all [fminV]

theorem fmaxV_eq {a b : FVal} (ha : a ≠ .nan) (hb : b ≠ .nan) : fmaxV a b = if below a b then b else a := by
  cases a <;> cases b <;> simp_all [fmaxV]

/-- `m` selects one of two values by the order of R220, the least or the greatest, and never a NaN before a number. -/
def Selects (least : Bool) (m : FVal → FVal → FVal) : Prop := ∀ a b : FVal,
  (a = .nan → m a b = b) ∧ (b = .nan → m a b = a) ∧ (a.below b → m a b = if least then a else b)
    ∧ (b.below a → m a b = if least then b else a) ∧ (m a b = a ∨ m a b = b)

/-- What tells a selection from the order of two values that are not NaN. -/
theorem selects_of {least : Bool} {m : FVal → FVal → FVal} (hleft : ∀ b, m .nan b = b) (hright : ∀ a, m a .nan = a)
    (hm : ∀ a b, a ≠ .nan → b ≠ .nan → m a b = a ∨ m a b = b) (hlow : ∀ a b, below a b = true → m a b = if least then a else b)
    (hhigh : ∀ a b, below b a = true → m a b = if least then b else a) : Selects least m := by
  intro a b
  refine ⟨fun ha => by rw [ha, hleft], fun hb => by rw [hb, hright], fun h => hlow a b (below_of_below h),
    fun h => hhigh a b (below_of_below h), ?_⟩
  by_cases ha : a = .nan
  · exact .inr (by rw [ha, hleft])
  by_cases hb : b = .nan
  · exact .inl (by rw [hb, hright])
  exact hm a b ha hb

theorem selects_min : Selects true fminV := by
  refine selects_of (fun _ => rfl) (fun a => by cases a <;> rfl) (fun a b ha hb => ?_) (fun a b h => ?_) fun a b h => ?_
  · rw [fminV_eq ha hb]
    exact (ite_eq_or_eq _ _ _).symm
  · obtain ⟨ha, hb⟩ := ne_nan_of_below h
    rw [fminV_eq ha hb, below_asymm h]
    rfl
  · obtain ⟨hb, ha⟩ := ne_nan_of_below h
    rw [fminV_eq ha hb, h]

theorem selects_max : Selects false fmaxV := by
  refine selects_of (fun _ => rfl) (fun a => by cases a <;> rfl) (fun a b ha hb => ?_) (fun a b h => ?_) fun a b h => ?_
  · rw [fmaxV_eq ha hb]
    exact (ite_eq_or_eq _ _ _).symm
  · obtain ⟨ha, hb⟩ := ne_nan_of_below h
    rw [fmaxV_eq ha hb, h]
    rfl
  · obtain ⟨hb, ha⟩ := ne_nan_of_below h
    rw [fmaxV_eq ha hb, below_asymm h]

/-- What an operation that selects lands, lane by lane. -/
theorem Selects.lanes {least : Bool} {m : FVal → FVal → FVal} (hm : Selects least m) {i : Instr} {f : VSlot}
    (hi : VectorOp i f (vf2 i f false m)) {s : State} (hr : Ready i s) (hp : AllPlain [domA f s, domB f s]) :
    ∃ g t, exec i s = .next t ∧ LanesLand f 4 (some (plainTag f.fd.toNat)) g s t ∧ ∀ n,
      let a := valA f s n
      let b := valB f s n
      (a = .nan → b = .nan → g n = laneOf f.fd.toNat false (canonNaN f.fd.toNat))
      ∧ (a = .nan → b ≠ .nan → g n = vRnd f b) ∧ (a ≠ .nan → b = .nan → g n = vRnd f a)
      ∧ (a.below b → g n = vRnd f (if least then a else b)) ∧ (b.below a → g n = vRnd f (if least then b else a))
      ∧ (g n = vRnd f a ∨ g n = vRnd f b) := by
  have hlanes : Lanes i f 4 (fun s => AllPlain [domA f s, domB f s]) (fun _ => some (plainTag f.fd.toNat))
      (fun s n => vRnd f (m (valA f s n) (valB f s n))) := hi.lanes fun s hs hp => vf2_plain hs hp m
  obtain ⟨t, ht, hland⟩ := hlanes s hr hp
  refine ⟨_, t, ht, hland, fun n => ?_⟩
  obtain ⟨hleft, hright, hlow, hhigh, hone⟩ := hm (valA f s n) (valB f s n)
  exact ⟨fun ha hb => congrArg (vRnd f) ((hleft ha).trans hb), fun ha _ => congrArg _ (hleft ha), fun _ hb => congrArg _ (hright hb),
    fun h => congrArg _ (hlow h),
    fun h => congrArg _ (hhigh h), hone.imp (congrArg _) (congrArg _)⟩

/-- Settles O28: minimum and maximum select by the order of R220, in which −0 is below +0. -/
theorem vectorMinMax : Obligations.VectorMinMax := by
  unfold Obligations.VectorMinMax
  intro f least s
  cases least
  · exact fun hr hp => selects_max.lanes { exec_eq := fun _ => rfl } hr hp
  · exact fun hr hp => selects_min.lanes { exec_eq := fun _ => rfl } hr hp

end Sys2Proof.Machine
end

section
/-! The integer lane operations (R172, R214, R224), and O30. -/

namespace Sys2Proof.Machine

/-! ### Lanes as integers -/

theorem fmtBits_pos (fmt : Nat) : 0 < fmtBits fmt := by
  unfold fmtBits
  split <;> decide

theorem laneInt_eq (f : VSlot) (u : Bool) (v : Vec) (n : Nat) : laneInt f.fa.toNat u v n = intOf f u v n := by
  have hlow : (lane v n).toNat % 2 ^ fmtBits f.fa.toNat = ((lane v n).truncate (fmtBits f.fa.toNat)).toNat :=
    (BitVec.toNat_setWidth _ _).symm
  unfold laneInt intOf
  dsimp only
  rw [hlow, sintOf_toNat (fmtBits_pos _)]

/-! ### Results as lanes (R214, R224) -/

theorem not_isFloat {fmt : Nat} (h : 5 ≤ fmt) : isFloat fmt = false := decide_eq_false (Nat.not_lt.2 h)

/-- A lane made of the low bits of an integer is the integer widened. -/
theorem laneOf_wrapInt {fmt : Nat} (h : 5 ≤ fmt) (u : Bool) (x : Int) : laneOf fmt u (wrapInt (fmtBits fmt) x) = widen fmt u x := by
  unfold laneOf widen
  rw [not_isFloat h, Bool.false_or]
  cases u
  · rw [if_neg Bool.false_ne_true, if_neg Bool.false_ne_true, wrapInt_eq, sintOf_toNat (fmtBits_pos _), BitVec.signExtend]
  · rw [if_pos rfl, if_pos rfl, wrapInt_mod, ← BitVec.ofInt_natCast, wrapInt,
      Int.toNat_of_nonneg (Int.emod_nonneg _ (by positivity))]
    norm_cast

/-- A lane made of a natural number. -/
theorem laneOf_eq_widen {fmt : Nat} (h : 5 ≤ fmt) (u : Bool) (x : Nat) : laneOf fmt u x = widen fmt u x := by
  have hlow : laneOf fmt u x = laneOf fmt u (x % 2 ^ fmtBits fmt) := by simp [laneOf, sintOf]
  rw [hlow, ← wrapInt_natCast, laneOf_wrapInt h]

theorem laneRes_eq {fmt : Nat} (h : 5 ≤ fmt) (u sat : Bool) (x : Int) :
    laneRes fmt u sat x = widen fmt u (settle fmt u sat x) := by
  have hpos : (0 : Int) < 2 ^ fmtBits fmt := by positivity
  have hhalf : (0 : Int) < 2 ^ (fmtBits fmt - 1) := by positivity
  unfold laneRes settle
  dsimp only
  cases sat
  · exact laneOf_wrapInt h u x
  · cases u
    · have hclamp : clampS (fmtBits fmt) x =
          wrapInt (fmtBits fmt) (max (-2 ^ (fmtBits fmt - 1)) (min (2 ^ (fmtBits fmt - 1) - 1) x)) := by
        rw [clampS_eq, wrapInt_eq]
      simp only [if_true, Bool.false_eq_true, if_false]
      rw [hclamp, laneOf_wrapInt h]
    · have hclamp : clampInt 0 ((2 ^ fmtBits fmt : Nat) - 1) x = max 0 (min (2 ^ fmtBits fmt - 1) x) := by
        push_cast
        exact clampInt_eq (by omega) x
      simp only [if_true]
      rw [hclamp, laneOf_eq_widen h, Int.toNat_of_nonneg (le_max_left _ _)]

/-- A word of the format's width, widened as a signed number. -/
theorem widen_signed {fmt n : Nat} (x : BitVec (fmtBits fmt)) (h : n % 2 ^ fmtBits fmt = x.toNat) :
    widen fmt false n = x.signExtend 32 := by
  have hx : BitVec.ofInt (fmtBits fmt) n = x := by
    apply BitVec.eq_of_toNat_eq
    rw [BitVec.ofInt_natCast, BitVec.toNat_ofNat, h]
  rw [widen, if_neg Bool.false_ne_true, hx]

/-! ### Operations -/

section
variable {i : Instr} {f : VSlot} {s : State} (h : Certain s) (hfa : 5 ≤ f.fa.toNat)
include h hfa

theorem vi2_plain (hp : AllPlain [domA f s, domB f s]) (u sat : Bool) (g : Nat → Int → Int → Int) : vi2 i f u sat g s =
    writeLanes f 4 (some (plainTag f.fd.toNat)) (fun n => widen f.fa.toNat u (settle f.fa.toNat u sat
      (g (fmtBits f.fa.toNat) (intOf f u (vecA f s) n) (intOf f u (vecB f s) n)))) (popIf f s) := by
  simp only [vi2, srcA_bits h.1, srcB_bits h.1, laneInt_eq, laneRes_eq hfa]
  rw [vOp_plain (by rwa [tags_two h])]

theorem viBits_plain (hp : AllPlain [domA f s, domB f s]) (u : Bool) (g : Nat → Nat → Nat → Nat) : viBits i f u g s =
    writeLanes f 4 (some (plainTag f.fd.toNat)) (fun n => widen f.fa.toNat u (g (fmtBits f.fa.toNat)
      ((lane (vecA f s) n).truncate (fmtBits f.fa.toNat)).toNat ((lane (vecB f s) n).truncate (fmtBits f.fa.toNat)).toNat : Nat))
      (popIf f s) := by
  simp only [viBits, srcA_bits h.1, srcB_bits h.1, laneOf_eq_widen hfa, BitVec.truncate_eq_setWidth, BitVec.toNat_setWidth]
  rw [vOp_plain (by rwa [tags_two h])]

/-- A bitwise operation or shift that is, on words of the format's width, the function `g'`. -/
theorem viBits_signed (hp : AllPlain [domA f s, domB f s]) {g : Nat → Nat → Nat → Nat}
    {g' : BitVec (fmtBits f.fa.toNat) → BitVec (fmtBits f.fa.toNat) → BitVec (fmtBits f.fa.toNat)}
    (hg : ∀ x y, g (fmtBits f.fa.toNat) x.toNat y.toNat % 2 ^ fmtBits f.fa.toNat = (g' x y).toNat) : viBits i f false g s =
    writeLanes f 4 (some (plainTag f.fd.toNat)) (fun n => (g' ((lane (vecA f s) n).truncate _)
      ((lane (vecB f s) n).truncate _)).signExtend 32) (popIf f s) := by
  rw [viBits_plain h hfa hp]
  simp only [widen_signed _ (hg _ _)]

theorem vimad_plain (hp : AllPlain [domA f s, domB f s, domC f s]) (u sat : Bool) :
    vOp i f 4 false [tagA f s, tagB f s, tagC f s] f.fd.toNat (fun n => laneRes f.fa.toNat u sat
      (laneInt f.fa.toNat u (srcA f s).bits n * laneInt f.fa.toNat u (srcB f s).bits n
        + laneInt f.fa.toNat u (srcC f s).bits n)) s =
    writeLanes f 4 (some (plainTag f.fd.toNat)) (fun n => widen f.fa.toNat u (settle f.fa.toNat u sat
      (intOf f u (vecA f s) n * intOf f u (vecB f s) n + intOf f u (vecC f s) n))) (popIf f s) := by
  simp only [srcA_bits h.1, srcB_bits h.1, srcC_bits h.1, laneInt_eq, laneRes_eq hfa]
  rw [vOp_plain (by rwa [tags_three h])]

end

/-- Settles O30: sums and products by `laneRes`, which clamps or wraps; bitwise operations and shifts as functions on words of the
format's width. -/
theorem vectorInteger : Obligations.VectorInteger := by
  unfold Obligations.VectorInteger
  intro f hfa
  refine ⟨?add, ?sub, ?mul, ?mad, ?and, ?or, ?xor, ?shl, ?shr, ?sar, ?min, ?max⟩
  case add => exact VectorOp.lanes { exec_eq := fun _ => rfl } fun s hs hp => vi2_plain hs hfa hp _ _ _
  case sub => exact VectorOp.lanes { exec_eq := fun _ => rfl } fun s hs hp => vi2_plain hs hfa hp _ _ _
  case mul => exact VectorOp.lanes { exec_eq := fun _ => rfl } fun s hs hp => vi2_plain hs hfa hp _ _ _
  case mad => exact VectorOp.lanes { exec_eq := fun _ => rfl } fun s hs ⟨hab, hc⟩ =>
    vimad_plain hs hfa (allPlain_append hab hc) _ _
  case and =>
    exact VectorOp.lanes { exec_eq := fun _ => rfl } fun s hs hp => viBits_signed hs hfa hp
      (g' := fun x y => x &&& y) fun x y => by rw [← BitVec.toNat_and, toNat_mod]
  case or =>
    exact VectorOp.lanes { exec_eq := fun _ => rfl } fun s hs hp => viBits_signed hs hfa hp
      (g' := fun x y => x ||| y) fun x y => by rw [← BitVec.toNat_or, toNat_mod]
  case xor =>
    exact VectorOp.lanes { exec_eq := fun _ => rfl } fun s hs hp => viBits_signed hs hfa hp
      (g' := fun x y => x ^^^ y) fun x y => by rw [← BitVec.toNat_xor, toNat_mod]
  case shl =>
    exact VectorOp.lanes { exec_eq := fun _ => rfl } fun s hs hp => viBits_signed hs hfa hp
      (g' := fun x y => x <<< (y.toNat % fmtBits f.fa.toNat)) fun x y => by rw [BitVec.toNat_shiftLeft, Nat.shiftLeft_eq]
  case shr =>
    refine VectorOp.lanes { exec_eq := fun _ => rfl } fun s hs hp => (viBits_plain hs hfa hp _ _).trans ?_
    simp only [BitVec.toNat_ushiftRight, Nat.shiftRight_eq_div_pow]
    rfl
  case sar =>
    exact VectorOp.lanes { exec_eq := fun _ => rfl } fun s hs hp => viBits_signed hs hfa hp
      (g' := fun x y => x.sshiftRight (y.toNat % fmtBits f.fa.toNat)) fun x y => by
      rw [wrapInt_mod, sintOf_toNat (fmtBits_pos _), sar_toNat]
  case min =>
    refine VectorOp.lanes { exec_eq := fun _ => rfl } fun s hs hp => (vi2_plain hs hfa hp _ _ _).trans ?_
    simp only [← min_def]
    rfl
  case max =>
    refine VectorOp.lanes { exec_eq := fun _ => rfl } fun s hs hp => (vi2_plain hs hfa hp _ _ _).trans ?_
    simp only [← max_def]
    rfl

end Sys2Proof.Machine
end

section
/-! Comparisons into a predicate and the operations on predicates (R221, R231), and O29. -/

namespace Sys2Proof.Machine

/-! ### Comparisons (R221) -/

/-- What COND asks of two values (R221). -/
def FVal.meetsCond (cond : Nat) (a b : FVal) : Prop :=
  match cond with
  | 0 => a ≠ .nan ∧ b ≠ .nan ∧ ¬a.lt b ∧ ¬b.lt a
  | 1 => a = .nan ∨ b = .nan ∨ a.lt b ∨ b.lt a
  | 2 => a.lt b
  | 3 => a ≠ .nan ∧ b ≠ .nan ∧ ¬b.lt a
  | 4 => b.lt a
  | 5 => a ≠ .nan ∧ b ≠ .nan ∧ ¬a.lt b
  | 6 => a = .nan ∨ b = .nan
  | _ => False

theorem fCond_iff (cond : Nat) (a b : FVal) : fCond cond a b = true ↔ FVal.meetsCond cond a b := by
  have hlt := fcmp_lt (a := a) (b := b)
  have hgt := fcmp_gt (a := a) (b := b)
  unfold fCond
  cases hc : fcmp a b with
  | none =>
    have hnan := fcmp_none.1 hc
    have hna : a.lt b ↔ False := by rw [← hlt, hc]; simp
    have hnb : b.lt a ↔ False := by rw [← hgt, hc]; simp
    have hboth : a ≠ .nan → b ≠ .nan → False := fun ha hb => hnan.elim ha hb
    match cond with
    | 0 | 3 | 5 => simpa [FVal.meetsCond, hna, hnb] using hboth
    | 1 => simpa [FVal.meetsCond, hna, hnb] using hnan
    | 2 | 4 => simp [FVal.meetsCond, hna, hnb]
    | 6 => simpa [FVal.meetsCond] using hnan
    | _ + 7 => simp [FVal.meetsCond]
  | some o =>
    have hnot : ¬(a = .nan ∨ b = .nan) := fun hn => by simp [fcmp_none.2 hn] at hc
    obtain ⟨ha, hb⟩ := not_or.1 hnot
    rw [hc] at hlt hgt
    match cond with
    | 0 | 1 | 2 | 3 | 4 | 5 => cases o <;> simp [FVal.meetsCond, ha, hb, ← hlt, ← hgt]
    | 6 => simp [FVal.meetsCond, ha, hb]
    | _ + 7 => simp [FVal.meetsCond]

/-- What COND asks of two integers (R221). -/
theorem iCond_eq {cond : Nat} (a b : Int) : iCond cond a b = match cond with
    | 0 => decide (a = b) | 1 => decide (a ≠ b) | 2 => decide (a < b) | 3 => decide (a ≤ b) | 4 => decide (b < a)
    | _ => decide (b ≤ a) := by
  match cond with
  | 0 | 1 | 2 | 3 | 4 | _ + 5 => rfl

section
variable {i : Instr} {f : VSlot} {s : State} (h : Certain s) (hp : AllPlain [domA f s, domB f s])
include h hp

theorem vCompare_writes (g : Nat → Bool) : vCompare i f g s = writePred f 4 g (popIf f s) := by
  rw [vCompare, firstHaar_none (by rwa [tags_two h])]

open Classical in
theorem vfcmp_writes : vCompare i f (fun n => fCond (bits f.aux.toNat 2 0) ((srcA f s).val f.fa.toNat n)
      ((srcB f s).val f.fa.toNat n)) s =
    writePred f 4 (fun n => decide (FVal.meetsCond (f.aux.toNat % 8) (valA f s n) (valB f s n))) (popIf f s) := by
  have hcond : bits f.aux.toNat 2 0 = f.aux.toNat % 8 := by simp [bits]
  simp only [valA_eq h.1, valB_eq h.1, hcond, ← fCond_iff, Bool.decide_eq_true]
  exact vCompare_writes h hp _

theorem vicmp_writes : vCompare i f (fun n => iCond (bits f.aux.toNat 2 0) (laneInt f.fa.toNat (vUns f) (srcA f s).bits n)
      (laneInt f.fa.toNat (vUns f) (srcB f s).bits n)) s =
    writePred f 4 (fun n => iCond (f.aux.toNat % 8) (intOf f (vUns f) (vecA f s) n) (intOf f (vUns f) (vecB f s) n))
      (popIf f s) := by
  have hcond : bits f.aux.toNat 2 0 = f.aux.toNat % 8 := by simp [bits]
  simp only [srcA_bits h.1, srcB_bits h.1, laneInt_eq, hcond]
  exact vCompare_writes h hp _

end

/-! ### Predicates (R231) -/

/-- The lanes of a predicate that are active, counted. -/
theorem countP_and (x y : Pred) : ((List.range 128).filter fun i => (x &&& y).getLsbD i).length =
    (List.range 128).countP fun n => x.getLsbD n && y.getLsbD n := by
  rw [List.countP_eq_length_filter]
  simp only [BitVec.getLsbD_and]

/-- The first lane of a predicate, 128 where it has none. -/
theorem firstLane_spec (x : Pred) : let l := ((List.range 128).find? fun i => x.getLsbD i).getD 128
    l ≤ 128 ∧ (∀ n < l, x.getLsbD n = false) ∧ (l < 128 → x.getLsbD l = true) := by
  dsimp only
  cases hfind : (List.range 128).find? fun i => x.getLsbD i with
  | none =>
    refine ⟨le_rfl, fun n hn => ?_, fun h => absurd h (lt_irrefl _)⟩
    simpa using List.find?_eq_none.1 hfind n (List.mem_range.2 hn)
  | some l =>
    obtain ⟨hl, hlt, hbefore⟩ := List.find?_range_eq_some.1 hfind
    exact ⟨(List.mem_range.1 hlt).le, fun n hn => by simpa using hbefore n hn, fun _ => hl⟩

/-- Settles O29: comparisons by the order of values, past the check that their sources are PLAIN; predicates bit by bit. -/
theorem vectorPredicates : Obligations.VectorPredicates := by
  unfold Obligations.VectorPredicates
  intro f
  refine ⟨?vfcmp, fun _ => ?vicmp, fun hq => ⟨?pset, ?pand, ?por, ?pxor, ?pnot⟩, fun s hr => ?pcnt, fun s hr => ?pfirst⟩
  case vfcmp => exact VectorOp.bits { exec_eq := fun _ => rfl } fun s hs hp => vfcmp_writes hs hp
  case vicmp =>
    refine VectorOp.bits { exec_eq := fun _ => rfl } fun s hs hp => (vicmp_writes hs hp).trans ?_
    exact congrArg (writePred f 4 · _) (funext fun n => iCond_eq _ _)
  case pset =>
    refine VectorOp.bits_unpopped { exec_eq := fun _ => rfl } hq fun s hs => ?_
    have hn : bits f.aux.toNat 7 0 = f.aux.toNat % 256 := by simp [bits]
    simp only [rdS_certain hs.1, hn]
  case pand => exact VectorOp.bits_unpopped { exec_eq := fun _ => rfl } hq fun s hs => by simp only [rdP_certain hs.1]
  case por => exact VectorOp.bits_unpopped { exec_eq := fun _ => rfl } hq fun s hs => by simp only [rdP_certain hs.1]
  case pxor => exact VectorOp.bits_unpopped { exec_eq := fun _ => rfl } hq fun s hs => by simp only [rdP_certain hs.1]
  case pnot => exact VectorOp.bits_unpopped { exec_eq := fun _ => rfl } hq fun s hs => by simp only [rdP_certain hs.1]
  case pcnt =>
    rw [VectorOp.next { exec_eq := fun _ => rfl } hr, postS_certain hr.2.2.2, rdP_certain hr.2.2.1, rdP_certain hr.2.2.1,
      countP_and]
    rfl
  case pfirst =>
    rw [VectorOp.next { exec_eq := fun _ => rfl } hr, postS_certain hr.2.2.2, rdP_certain hr.2.2.1]
    exact ⟨_, rfl, firstLane_spec _⟩

end Sys2Proof.Machine
end

section
/-! Conversions, packing and block scales (R225 to R227), and O31. -/

namespace Sys2Proof.Machine

/-! ### The class of a conversion (R218) -/

theorem linearCvt_eq (f : VSlot) : linearCvt f =
    ((isFloat f.fa.toNat && isFloat f.fd.toNat) || decide (f.fa.toNat = f.fd.toNat)) := by
  simp only [linearCvt, BitVec.toNat_inj]

section
variable {i : Instr} {f : VSlot} {s : State} (h : Certain s) (hmay : linearCvt f = true ∨ AllPlain [domA f s])
include h hmay

/-- What a conversion into lanes writes, and its tag. -/
theorem conversion_writes (g : Nat → BitVec 32) : vOp i f 4 (linearCvt f) [tagA f s] f.fd.toNat g s =
    writeLanes f 4 (some (if linearCvt f then domainOf [domA f s] f.fd.toNat else plainTag f.fd.toNat)) g (popIf f s) := by
  rw [vOp, check_one h f hmay, linearTag_eq, tags_one h]

end

/-! ### VPACK (R226) -/

/-- What VPACK packs in its part of VD: the elements of active lanes, and the bits that it writes. -/
def packedData (f : VSlot) (s : State) : Nat := packElems (fmtBits f.fd.toNat) ((List.range 128).map fun n =>
  if isActive f s n then vCvt f (lane (vecA f s) n).toNat else 0)
def packedMask (f : VSlot) (s : State) : Nat := packElems (fmtBits f.fd.toNat) ((List.range 128).map fun n =>
  if isActive f s n ∨ f.z = 1#1 then 2 ^ fmtBits f.fd.toNat - 1 else 0)

/-- An element of packed elements moved up to a part of VD. -/
theorem element_of_part {w : Nat} (g : Nat → Nat) (part : Nat) {k : Nat} (hk : w * k + w ≤ 4096) :
    (BitVec.ofNat 4096 (packElems w ((List.range 128).map g) * 2 ^ (128 * w * part))).extractLsb' (w * k) w =
      if 128 * part ≤ k ∧ k - 128 * part < 128 then BitVec.ofNat w (g (k - 128 * part)) else 0 := by
  have hbase : 128 * w * part = w * (128 * part) := by ring
  have hmod (x : Nat) : BitVec.ofNat w (x % 2 ^ w) = BitVec.ofNat w x := BitVec.eq_of_toNat_eq (by simp)
  rw [extractLsb'_ofNat hk, hbase, elemOf_moved, elemOf_packElems]
  by_cases hlow : 128 * part ≤ k
  · by_cases hhigh : k - 128 * part < 128
    · simp [List.getD, hlow, hhigh, hmod]
    · simp [List.getD, hlow, hhigh]
  · simp [hlow]

/-- An element of VD after VPACK's landing. -/
theorem packed_land (f : VSlot) (s : State) (part : Nat) (r : VReg) {tag : Option (BitVec 32)} {k : Nat}
    (hk : fmtBits f.fd.toNat * k + fmtBits f.fd.toNat ≤ 4096) :
    (r.land (.vec (BitVec.ofNat 4096 (packedMask f s * 2 ^ (128 * fmtBits f.fd.toNat * part)))
        (BitVec.ofNat 4096 (packedData f s * 2 ^ (128 * fmtBits f.fd.toNat * part))) tag)).bits.extractLsb'
        (fmtBits f.fd.toNat * k) (fmtBits f.fd.toNat) =
      if 128 * part ≤ k ∧ k - 128 * part < 128 ∧ isActive f s (k - 128 * part) = true then
        BitVec.ofNat _ (vCvt f (lane (vecA f s) (k - 128 * part)).toNat)
      else if 128 * part ≤ k ∧ k - 128 * part < 128 ∧ f.z = 1#1 then 0
      else r.bits.extractLsb' (fmtBits f.fd.toNat * k) (fmtBits f.fd.toNat) := by
  rw [VReg.land, extractLsb'_masked hk, packedMask, packedData, element_of_part _ _ hk, element_of_part _ _ hk]
  generalize fmtBits f.fd.toNat = w
  have hones : BitVec.ofNat w (2 ^ w - 1) = BitVec.allOnes w := BitVec.eq_of_toNat_eq (by simp)
  by_cases hin : 128 * part ≤ k ∧ k - 128 * part < 128
  · obtain ⟨hlow, hhigh⟩ := hin
    by_cases hact : isActive f s (k - 128 * part) = true
    · simp [hlow, hhigh, hact, hones]
    · by_cases hz : f.z = 1#1
      · simp [hlow, hhigh, hact, hz, hones]
      · simp [hlow, hhigh, hact, hz]
  · have hact : ¬(128 * part ≤ k ∧ k - 128 * part < 128 ∧ isActive f s (k - 128 * part) = true) := fun h => hin ⟨h.1, h.2.1⟩
    have hz : ¬(128 * part ≤ k ∧ k - 128 * part < 128 ∧ f.z = 1#1) := fun h => hin ⟨h.1, h.2.1⟩
    rw [if_neg hin, if_neg hin, if_neg hact, if_neg hz]
    exact masked_zero _ _

theorem exec_vpack {f : VSlot} {s : State} (hr : Ready (.vpack f) s) (hmay : linearCvt f = true ∨ AllPlain [domA f s]) :
    exec (.vpack f) s = .next ((s.popped f).lands ⟨.v, vField f f.vd s.foc.k⟩ 4
      (.vec (BitVec.ofNat 4096 (packedMask f s * 2 ^ (128 * fmtBits f.fd.toNat * (f.aux.toNat % 4))))
        (BitVec.ofNat 4096 (packedData f s * 2 ^ (128 * fmtBits f.fd.toNat * (f.aux.toNat % 4))))
        (some (if linearCvt f then domainOf [domA f s] f.fd.toNat else plainTag f.fd.toNat)))) := by
  have hs : Certain s := hr.2.2
  have hpart : bits f.aux.toNat 1 0 = f.aux.toNat % 4 := by simp [bits]
  have hi : VectorOp (.vpack f) f _ := { exec_eq := fun _ => rfl }
  rw [hi.next hr]
  simp only [check_one hs f hmay, hi.popIf_eq hr, rdP_certain hs.1, srcA_bits hs.1, linearTag_eq, tags_one hs, hpart]
  rw [post_certain (certain_popped f hs).2 _ _ _ (by simp)]
  rfl

/-! ### Block scales (R227) -/

/-- The scale that VSCAL and VSCACC take from a lane of VB: an exponent in the lowest byte, or an FP32 number. -/
theorem blockScale_eq (f : VSlot) (b : VReg) : blockScale f b =
    let x := (lane b.bits (f.aux.toNat % 128)).toNat
    if f.aux.getLsbD 7 then (if x % 256 = 255 then .nan else .num false 1 (((x % 256 : Nat) : Int) - 127) false)
    else decodeF 0 x := by
  have hlane : bits f.aux.toNat 6 0 = f.aux.toNat % 128 := by simp [bits]
  rw [blockScale, hlane]

section
variable {i : Instr} {f : VSlot} {s : State} (h : Certain s)
include h

theorem vscal_writes (ha : Agree [domA f s, domB f s]) :
    vOp i f 4 true [tagA f s, tagB f s] f.fd.toNat
      (fun n => vRnd f (fmul ((srcA f s).val f.fa.toNat n) (blockScale f (srcB f s)))) s =
    writeLanes f 4 (some (domainOf [domA f s, domB f s] f.fd.toNat))
      (fun n => vRnd f (fmul (valA f s n) (blockScale f ⟨vecB f s, domB f s⟩))) (popIf f s) := by
  simp only [valA_eq h.1, srcB_certain h.1]
  rw [vOp_linear (by rwa [tags_two h]), tags_two h]

theorem vscacc_writes (ha : Agree [domA f s, domB f s, domC f s]) :
    vOp i f 4 true [tagA f s, tagB f s, tagC f s] f.fd.toNat (fun n => vRnd f (ffma f.rm.toNat ((srcA f s).val f.fa.toNat n)
      (blockScale f (srcB f s)) ((srcC f s).val f.fd.toNat n))) s =
    writeLanes f 4 (some (domainOf [domA f s, domB f s, domC f s] f.fd.toNat)) (fun n => vRnd f (ffma f.rm.toNat (valA f s n)
      (blockScale f ⟨vecB f s, domB f s⟩) (decodeF f.fd.toNat (lane (vecC f s) n).toNat))) (popIf f s) := by
  simp only [valA_eq h.1, srcB_certain h.1, srcC_certain h.1]
  rw [vOp_linear (by rwa [tags_three h]), tags_three h]
  rfl

end

/-- Settles O31: a conversion's class by its formats, an element of VPACK by the part that it lies in, and a block scale by
`blockScale_eq`. -/
theorem vectorConvert : Obligations.VectorConvert := by
  unfold Obligations.VectorConvert
  intro f
  dsimp only
  rw [← linearCvt_eq f]
  refine ⟨?vcvt, ?vunpk, fun s hr hmay _ => ?vpack, ?vscal, ?vscacc⟩
  case vcvt =>
    refine VectorOp.lanes { exec_eq := fun _ => rfl } fun s hs hmay => ?_
    simp only [srcA_bits hs.1]
    exact conversion_writes hs hmay _
  case vunpk =>
    have hpart : bits f.aux.toNat 1 0 = f.aux.toNat % 4 := by simp [bits]
    refine VectorOp.lanes { exec_eq := fun _ => rfl } fun s hs hmay => ?_
    simp only [srcA_bits hs.1, hpart]
    exact conversion_writes hs hmay _
  case vpack =>
    refine ⟨_, _, exec_vpack hr hmay, fun r k hk => ?_⟩
    have hin : fmtBits f.fd.toNat * k + fmtBits f.fd.toNat ≤ 4096 :=
      (Nat.mul_le_mul_left (fmtBits f.fd.toNat) hk).trans (Nat.mul_div_le 4096 _)
    have hland := congrArg BitVec.toNat (packed_land f s (f.aux.toNat % 4) r
      (tag := some (if linearCvt f then domainOf [domA f s] f.fd.toNat else plainTag f.fd.toNat)) hin)
    rw [← elemOf_toNat, apply_ite BitVec.toNat, apply_ite BitVec.toNat, ← elemOf_toNat, BitVec.toNat_ofNat] at hland
    exact hland
  case vscal =>
    refine VectorOp.lanes { exec_eq := fun _ => rfl } fun s hs ha => (vscal_writes hs ha).trans ?_
    simp only [blockScale_eq]
  case vscacc =>
    refine VectorOp.lanes { exec_eq := fun _ => rfl } fun s hs ha => (vscacc_writes hs ha).trans ?_
    simp only [blockScale_eq]
    rfl

end Sys2Proof.Machine
end

section
/-! Moves, broadcasts, permutations and constants (R228, R229), and O32. -/

namespace Sys2Proof.Machine

section
variable {i : Instr} {f : VSlot} {s : State} (h : Certain s)
include h

/-- A move of lanes of source A takes that source's format. -/
theorem vMove_one (g : Vec → Nat → BitVec 32) : vMove i f [tagA f s] g s =
    writeLanes f 4 (some (domainOf [domA f s] (tagFmt (domA f s)))) (g (vecA f s)) (popIf f s) := by
  simp only [vMove, srcA_certain h.1]
  rw [vOp_linear (by rw [tags_one h]; exact agree_single _), tags_one h]

theorem vMove_two (ha : Agree [domA f s, domB f s]) (g : Vec → Nat → BitVec 32) : vMove i f [tagA f s, tagB f s] g s =
    writeLanes f 4 (some (domainOf [domA f s, domB f s] (tagFmt (domA f s)))) (g (vecA f s)) (popIf f s) := by
  simp only [vMove, srcA_certain h.1]
  rw [vOp_linear (by rwa [tags_two h]), tags_two h]

end

/-- The lane number K of AUX. -/
theorem auxLane_eq (f : VSlot) : bits f.aux.toNat 6 0 = f.aux.toNat % 128 := by simp [bits]

/-! ### VLI (R228) -/

/-- The constant of VLI in the format FD. -/
theorem vliLane_eq (fd : Nat) (x : Int) :
    (if isFloat fd then laneOf fd false (roundFmt (ofInt x) fd 0 false) else laneOf fd false (wrapInt (fmtBits fd) x)) =
      if fd < 5 then laneOf fd false (roundFmt (ofInt x) fd 0 false) else widen fd false x := by
  by_cases hfd : fd < 5
  · have hfloat : isFloat fd = true := decide_eq_true hfd
    rw [if_pos hfloat, if_pos hfd]
  · rw [not_isFloat (Nat.not_lt.1 hfd), if_neg Bool.false_ne_true, if_neg hfd, laneOf_wrapInt (Nat.not_lt.1 hfd)]

/-! ### VINS (R228) -/

/-- What VINS lands: lane `k` alone, and the tag stays. -/
theorem insert_land (r : VReg) (k : Nat) (on z : Bool) (x : BitVec 32) {n : Nat} (hn : n < 128) :
    lane (r.land (.vec (laneMask fun i => decide (i = k) && (on || z))
      (mkVec fun i => if i = k ∧ on = true then x else 0) none)).bits n =
      if n ≠ k then lane r.bits n else if on then x else if z then 0 else lane r.bits n := by
  rw [lane_land hn r (lane_laneMask _ hn), lane_mkVec _ hn]
  by_cases hk : n = k
  · cases on <;> cases z <;> simp [hk]
  · simp [hk]

theorem exec_vins {f : VSlot} {s : State} (hr : Ready (.vins f) s) : exec (.vins f) s =
    .next (s.lands ⟨.v, vField f f.vd s.foc.k⟩ 4 (.vec
      (laneMask fun i => decide (i = f.aux.toNat % 128) && (isActive f s (f.aux.toNat % 128) || decide (f.z = 1#1)))
      (mkVec fun i => if i = f.aux.toNat % 128 ∧ isActive f s (f.aux.toNat % 128) = true then
        (s.ctx.a.sReg (f.va.toNat % 32)).truncate 32 else 0) none)) := by
  have hs : Certain s := hr.2.2
  have hi : VectorOp (.vins f) f _ := { exec_eq := fun _ => rfl }
  rw [hi.next hr]
  simp only [rdS_certain hs.1, rdP_certain hs.1, auxLane_eq]
  rw [post_certain hs.2 _ _ _ (by simp)]
  rfl

/-! ### VEXT (R229) -/

/-- A field of a vector cut out at a multiple of its width, and a lane of it. -/
theorem lane_of_field (v : Vec) (w k : Nat) {q : Nat} (hq : 32 * q + 32 ≤ w) :
    (BitVec.ofNat w (v.toNat / 2 ^ (w * k))).extractLsb' (32 * q) 32 = v.extractLsb' (w * k + 32 * q) 32 := by
  rw [extractLsb'_ofNat hq]
  apply BitVec.eq_of_toNat_eq
  rw [BitVec.toNat_ofNat, BitVec.extractLsb'_toNat, Nat.shiftRight_eq_div_pow, elemOf, Nat.div_div_eq_div_mul, ← Nat.pow_add,
    Nat.mod_mod]

theorem exec_vext {f : VSlot} {s : State} (hr : Ready (.vext f) s) : exec (.vext f) s = .next
    (match f.aux.toNat / 2 ^ 10 with
      | 0 => (s.popped f).landsS (f.vd.toNat % 32) 4 ((lane (vecA f s) (f.aux.toNat % 128)).signExtend 64)
      | 1 => (s.popped f).lands ⟨.sh, f.vd.toNat % 8⟩ 4
        (.shape (BitVec.ofNat 256 ((vecA f s).toNat / 2 ^ (256 * (f.aux.toNat % 128)))))
      | _ => (s.popped f).lands ⟨.th, f.vd.toNat % 8⟩ 4
        (.thr (BitVec.ofNat 128 ((vecA f s).toNat / 2 ^ (128 * (f.aux.toNat % 128)))))) := by
  have hs : Certain s := hr.2.2
  have hbad : (s.popped f).foc.bad = false := (certain_popped f hs).2
  have hi : VectorOp (.vext f) f _ := { exec_eq := fun _ => rfl }
  rw [hi.next hr]
  simp only [srcA_bits hs.1, hi.popIf_eq hr, auxLane_eq, classCode_eq, postS_certain hbad]
  generalize f.aux.toNat / 2 ^ 10 = c
  match c with
  | 0 => rfl
  | 1 | _ + 2 => exact congrArg _ (post_certain hbad _ _ _ (by simp))

/-- Settles O32: moves by the lanes that they take, constants without a source, VINS and VEXT by what lands. -/
theorem vectorMoves : Obligations.VectorMoves := by
  unfold Obligations.VectorMoves
  intro f
  dsimp only
  refine ⟨?vmov, ?vsel, ?vperm, ?vrot, fun hb => ?vbcast, fun hb hq => ?scalar, fun hq => ?viota, fun hq => ?vli, fun s hr => ?vins,
    fun s hr hc => ?ext0, fun s hr hc hk => ?ext1, fun s hr hc hk => ?ext2⟩
  case vmov => exact VectorOp.lanes { exec_eq := fun _ => rfl } fun s hs _ => vMove_one hs _
  case vsel =>
    refine VectorOp.lanes { exec_eq := fun _ => rfl } fun s hs ha => ?_
    simp only [srcB_bits hs.1, rdP_certain hs.1]
    exact vMove_two hs ha _
  case vperm =>
    refine VectorOp.lanes { exec_eq := fun _ => rfl } fun s hs _ => ?_
    simp only [srcB_bits hs.1]
    exact vMove_one hs _
  case vrot =>
    rw [← auxLane_eq]
    exact VectorOp.lanes { exec_eq := fun _ => rfl } fun s hs _ => vMove_one hs _
  case vbcast =>
    rw [← auxLane_eq]
    refine VectorOp.lanes { exec_eq := fun _ => rfl } fun s hs _ => ?_
    rw [if_neg (ne_true_of_eq_false hb)]
    exact vMove_one hs _
  case scalar =>
    refine VectorOp.lanes_unpopped { exec_eq := fun _ => rfl } hq fun s hs => ?_
    rw [if_pos hb]
    simp only [rdS_certain hs.1]
  case viota => exact VectorOp.lanes_unpopped { exec_eq := fun _ => rfl } hq fun s _ => rfl
  case vli =>
    refine VectorOp.lanes_unpopped { exec_eq := fun _ => rfl } hq fun s _ => ?_
    simp only [vliLane_eq]
  case vins =>
    refine ⟨_, _, exec_vins hr, fun r => ⟨rfl, fun n hn => ?_⟩⟩
    rw [insert_land _ _ _ _ _ hn]
    simp only [decide_eq_true_eq]
  case ext0 =>
    rw [exec_vext hr, hc]
    rfl
  case ext1 =>
    rw [exec_vext hr, hc]
    refine ⟨_, rfl, fun q hq => (lane_of_field _ 256 _ (by omega)).trans ?_⟩
    rw [lane]
    congr 1
    omega
  case ext2 =>
    rw [exec_vext hr, hc]
    refine ⟨_, rfl, fun q hq => (lane_of_field _ 128 _ (by omega)).trans ?_⟩
    rw [lane]
    congr 1
    omega

end Sys2Proof.Machine
end

section
/-! Reductions over lanes (R230): the levels of pairs are the levels of a tree; and O33. -/

namespace Sys2Proof.Machine

/-! ### The tree (R230) -/

theorem pairUp_cons_cons {α : Type} (comb : α → α → α) (a b : Option α) (r : List (Option α)) :
    pairUp comb (a :: b :: r) = Option.merge comb a b :: pairUp comb r := by
  cases a <;> cases b <;> simp [pairUp, Option.merge]

theorem treeNode_succ {α : Type} (comb : α → α → α) (leaf : Nat → Option α) (l k : Nat) :
    treeNode comb leaf (l + 1) k = Option.merge comb (treeNode comb leaf l (2 * k)) (treeNode comb leaf l (2 * k + 1)) := by
  rw [treeNode]
  cases treeNode comb leaf l (2 * k) <;> cases treeNode comb leaf l (2 * k + 1) <;> rfl

/-- One level of pairs over a list of nodes. -/
theorem pairUp_range {α : Type} (comb : α → α → α) (n : Nat) : ∀ node : Nat → Option α,
    pairUp comb ((List.range (2 * n)).map node) =
      (List.range n).map fun k => Option.merge comb (node (2 * k)) (node (2 * k + 1)) := by
  induction n with
  | zero => exact fun _ => rfl
  | succ n ih =>
    intro node
    have hstep := ih fun k => node (k + 2)
    rw [Nat.mul_succ, List.range_succ_eq_map, List.range_succ_eq_map, List.range_succ_eq_map]
    simp only [List.map_cons, List.map_map, pairUp_cons_cons]
    exact congrArg _ hstep

/-- `l` levels of pairs over the leaves are the nodes of level `l`. -/
theorem levels_eq {α : Type} (comb : α → α → α) (leaf : Nat → Option α) (l : Nat) : ∀ c,
    (List.range l).foldl (fun x _ => pairUp comb x) ((List.range (2 ^ l * c)).map leaf) =
      (List.range c).map (treeNode comb leaf l) := by
  induction l with
  | zero =>
    intro c
    rw [Nat.pow_zero, Nat.one_mul]
    rfl
  | succ l ih =>
    intro c
    rw [Nat.pow_succ, Nat.mul_assoc, List.range_succ, List.foldl_append, ih, List.foldl_cons, List.foldl_nil, pairUp_range]
    exact congrArg (List.map · _) (funext fun k => (treeNode_succ comb leaf l k).symm)

theorem treeFold_eq {α : Type} (comb : α → α → α) (leaf : Nat → Option α) :
    treeFold comb ((List.range 128).map leaf) = treeNode comb leaf 7 0 := by
  have hlevels := levels_eq comb leaf 7 1
  rw [show 2 ^ 7 * 1 = 128 from rfl] at hlevels
  rw [treeFold, hlevels]
  rfl

/-- The image of a node, where the combination of images is the image of the combination. -/
theorem treeNode_map {α β : Type} {comb : α → α → α} {comb' : β → β → β} {φ : α → β} (h : ∀ a b, φ (comb a b) = comb' (φ a) (φ b))
    (leaf : Nat → Option α) (l : Nat) : ∀ k, (treeNode comb leaf l k).map φ = treeNode comb' (fun n => (leaf n).map φ) l k := by
  induction l with
  | zero => exact fun _ => rfl
  | succ l ih =>
    intro k
    rw [treeNode_succ, treeNode_succ, ← ih, ← ih]
    cases treeNode comb leaf l (2 * k) <;> cases treeNode comb leaf l (2 * k + 1) <;> simp [Option.merge, h]

/-- Sums of 32 bits are the low bits of the whole sum. -/
theorem treeSum_mod (leaf : Nat → Option Int) (l k : Nat) :
    BitVec.ofInt 32 ((treeNode (fun a b => (a + b) % 4294967296) leaf l k).getD 0) =
      BitVec.ofInt 32 ((treeNode (fun a b => a + b) leaf l k).getD 0) := by
  have hmod (a b : Int) : BitVec.ofInt 32 ((a + b) % 4294967296) = BitVec.ofInt 32 a + BitVec.ofInt 32 b := by
    rw [← BitVec.ofInt_add]
    exact BitVec.eq_of_toNat_eq (by simp)
  rw [← Option.getD_map (BitVec.ofInt 32), ← Option.getD_map (BitVec.ofInt 32), treeNode_map hmod,
    treeNode_map fun a b => BitVec.ofInt_add a b]

/-! ### Reductions -/

/-- The value at the root of a floating reduction, `empty` where no lane contributes. -/
def rootValue (empty : FVal) (r : Option Nat) : FVal :=
  match r with
  | some x => decodeF 0 x
  | none => empty

theorem reduceF_eq {s : State} (h : Certain s) (f : VSlot) (comb : FVal → FVal → FVal) (empty : FVal) :
    reduceF f comb empty s = vRnd f (rootValue empty (treeNode (fun x y => roundFmt (comb (decodeF 0 x) (decodeF 0 y)) 0 0 false)
      (fun n => if isActive f s n then some (roundFmt (valA f s n) 0 0 false) else none) 7 0)) := by
  simp only [reduceF, treeFold_eq, valA_eq h.1, rdP_certain h.1]
  rfl

theorem reduceI_eq {s : State} (h : Certain s) (f : VSlot) (comb : Int → Int → Int) (empty : Int) :
    reduceI f comb empty s = BitVec.ofInt 32 ((treeNode comb
      (fun n => if isActive f s n then some (intOf f (f.aux.getLsbD 10) (vecA f s) n) else none) 7 0).getD empty) := by
  simp only [reduceI, treeFold_eq, laneInt_eq, srcA_bits h.1, rdP_certain h.1]
  rfl

/-- What a reduction whose tag check passes lands: its value in every lane. -/
theorem VectorOp.reduces {i : Instr} {f : VSlot} {eff : State → State} {linear : Bool} {x : BitVec 32} {s : State}
    (hi : VectorOp i f eff) (heff : eff s = vReduce i f linear x s) (hr : Ready i s)
    (hmay : linear = true ∨ AllPlain [domA f s]) :
    exec i s = .next ((s.popped f).lands ⟨.v, vField f f.vd s.foc.k⟩ 8 (.vec (BitVec.allOnes 4096) (mkVec fun _ => x)
      (some (if linear then domainOf [domA f s] f.fd.toNat else plainTag f.fd.toNat)))) := by
  have hs : Certain s := hr.2.2
  rw [hi.next hr, heff]
  simp only [vReduce, check_one hs f hmay, hi.popIf_eq hr, linearTag_eq, tags_one hs]
  exact congrArg _ (post_certain (certain_popped f hs).2 _ _ _ (by simp))

/-- Settles O33: the levels of pairs are the tree's, a sum's low bits are kept by the tree, and the value lands in every lane. -/
theorem vectorReductions : Obligations.VectorReductions := by
  unfold Obligations.VectorReductions
  intro f
  have hsum : VectorOp (.vrsum f) f _ := { exec_eq := fun _ => rfl }
  have hmax : VectorOp (.vrmax f) f _ := { exec_eq := fun _ => rfl }
  have hmin : VectorOp (.vrmin f) f _ := { exec_eq := fun _ => rfl }
  refine ⟨fun v n hn => lane_mkVec _ hn, fun (hint : vInt f = false) s hr hmay => ?sum,
    fun (hint : vInt f = true) s hr hmay => ?wholeSum,
    fun (hint : vInt f = false) => ⟨fun s hr hmay => ?max, fun s hr hmay => ?min⟩,
    fun (hint : vInt f = true) => ⟨fun s hr hmay => ?wholeMax, fun s hr hmay => ?wholeMin⟩⟩
  case sum =>
    rw [hsum.reduces (if_neg (ne_true_of_eq_false hint)) hr hmay, reduceF_eq hr.2.2]
    rfl
  case wholeSum => rw [hsum.reduces (if_pos hint) hr hmay, reduceI_eq hr.2.2, treeSum_mod]
  case max =>
    rw [hmax.reduces rfl hr hmay, if_neg (ne_true_of_eq_false hint), reduceF_eq hr.2.2]
    rfl
  case min =>
    rw [hmin.reduces rfl hr hmay, if_neg (ne_true_of_eq_false hint), reduceF_eq hr.2.2]
    rfl
  case wholeMax =>
    rw [hmax.reduces rfl hr hmay, if_pos hint, reduceI_eq hr.2.2]
    simp only [← max_def]
    rfl
  case wholeMin =>
    rw [hmin.reduces rfl hr hmay, if_pos hint, reduceI_eq hr.2.2]
    simp only [← min_def]
    rfl

end Sys2Proof.Machine
end

section
/-! The fields of a domain tag (R237), operations whose tag check finds a source (R218), and O35. -/

namespace Sys2Proof.Machine

/-! ### The fields of a tag (R237) -/

theorem b2n_eq_one (b : Bool) : decide (b2n b = 1) = b := by cases b <;> rfl

section
variable (haar : Bool) (l lay fmt : Nat) (exact : Bool)

theorem mkTag_toNat : (mkTag haar l lay fmt exact).toNat =
    b2n haar + 2 * (l % 8) + 16 * (lay % 2) + 32 * (fmt % 8) + 256 * b2n exact := by
  have hhaar := b2n_le haar
  have hexact := b2n_le exact
  rw [mkTag, BitVec.toNat_ofNat, Nat.mod_eq_of_lt (by omega)]

theorem tagHaar_mkTag : tagHaar (mkTag haar l lay fmt exact) = haar := by
  have hhaar := b2n_le haar
  rw [tagHaar, BitVec.getLsbD, mkTag_toNat, Nat.testBit_eq_decide_div_mod_eq]
  exact (decide_eq_decide.2 (by omega)).trans (b2n_eq_one haar)

theorem tagExact_mkTag : tagExact (mkTag haar l lay fmt exact) = exact := by
  have hhaar := b2n_le haar
  have hexact := b2n_le exact
  rw [tagExact, BitVec.getLsbD, mkTag_toNat, Nat.testBit_eq_decide_div_mod_eq]
  exact (decide_eq_decide.2 (by omega)).trans (b2n_eq_one exact)

theorem tagL_mkTag : tagL (mkTag haar l lay fmt exact) = l % 8 := by
  have hhaar := b2n_le haar
  rw [tagL, mkTag_toNat, bits]
  omega

theorem tagLay_mkTag : tagLay (mkTag haar l lay fmt exact) = lay % 2 := by
  have hhaar := b2n_le haar
  rw [tagLay, mkTag_toNat, bits]
  omega

theorem tagFmt_mkTag : tagFmt (mkTag haar l lay fmt exact) = fmt % 8 := by
  have hhaar := b2n_le haar
  rw [tagFmt, mkTag_toNat, bits]
  omega

end

theorem tagL_mod (t : BitVec 32) : tagL t % 8 = tagL t := Nat.mod_mod _ _

theorem tagLay_mod (t : BitVec 32) : tagLay t % 2 = tagLay t := Nat.mod_mod _ _

/-! ### The tag of the linear class (R218) -/

theorem domainOf_plain {l : List (BitVec 32)} (h : AllPlain l) (fd : Nat) : domainOf l fd = plainTag fd :=
  linearTag_none (by rw [map_unnamed]; exact List.find?_eq_none.2 fun t ht => by simp [h t ht]) fd

/-- Of sources that agree, any HAAR source tells L and the layout of the result. -/
theorem domainOf_haar {l : List (BitVec 32)} {t : BitVec 32} (ht : t ∈ l) (hhaar : tagHaar t = true) (h : Agree l) (fd : Nat) :
    domainOf l fd = mkTag true (tagL t) (tagLay t) fd ((l.filter tagHaar).all tagExact) := by
  obtain ⟨u, hfind⟩ : ∃ u, l.find? tagHaar = some u := Option.isSome_iff_exists.1 (List.find?_isSome.2 ⟨t, ht, hhaar⟩)
  obtain ⟨hl, hlay⟩ := h u (List.mem_of_find?_eq_some hfind) t ht (List.find?_some hfind) hhaar
  rw [domainOf, linearTag_some (by rwa [map_unnamed]), map_unnamed, hl, hlay]

/-! ### Sources that the tag check finds (R218) -/

/-- Two HAAR sources that do not agree: the second is named (log 105). -/
theorem treeClash_pair {a b : Src} (ha : tagHaar a.2 = true) (hb : tagHaar b.2 = true) (h : ¬Agree [a.2, b.2]) :
    treeClash none [a, b] = some b := by
  obtain ⟨n, t⟩ := a
  obtain ⟨m, u⟩ := b
  have hdiffer : sameTree t u = false := by
    rw [← Bool.not_eq_true, sameTree, Bool.and_eq_true, decide_eq_true_eq, decide_eq_true_eq]
    rintro ⟨hl, hlay⟩
    refine h fun x hx y hy _ _ => ?_
    simp only [List.mem_cons, List.not_mem_nil, or_false] at hx hy
    obtain rfl | rfl := hx <;> obtain rfl | rfl := hy <;> simp [hl, hlay]
  rw [treeClash_first ha, treeClash_next hb, if_neg (by simp [hdiffer])]

theorem firstHaar_head {a : Src} (ha : tagHaar a.2 = true) (r : List Src) : firstHaar (a :: r) = some a :=
  List.find?_cons_of_pos ha

theorem firstHaar_second {a b : Src} (ha : tagHaar a.2 = false) (hb : tagHaar b.2 = true) (r : List Src) :
    firstHaar (a :: b :: r) = some b := by
  rw [firstHaar, List.find?_cons_of_neg (by simp [ha])]
  exact List.find?_cons_of_pos hb

/-- The fault names the register of the source. -/
theorem domainFault_tagA {f : VSlot} (h : f.qa = 0#1) (i : Instr) (s : State) :
    domainFault i (tagA f s) s = startFault i 7 (opInfo i 1 (vField f f.va s.foc.k) 0 s) s := by
  have hname : (tagA f s).1 = some (vField f f.va s.foc.k) := by simp [tagA, h]
  rw [domainFault, hname]
  rfl

theorem domainFault_tagB (f : VSlot) (i : Instr) (s : State) :
    domainFault i (tagB f s) s = startFault i 7 (opInfo i 1 (vField f f.vb s.foc.k) 0 s) s := rfl

/-- A product of two HAAR factors is an operation that takes none. -/
theorem vf2_both {i : Instr} {f : VSlot} {s : State} (h : bothHaar f s = true) (g : FVal → FVal → FVal) :
    vf2 i f (!bothHaar f s) g s = domainFault i (tagA f s) s := by
  rw [h]
  exact vOp_haar (firstHaar_head (Bool.and_eq_true_iff.1 h).1 _)

theorem vf3_both {i : Instr} {f : VSlot} {s : State} (h : bothHaar f s = true) (g : FVal → FVal → FVal → FVal) :
    vf3 i f g s = domainFault i (tagA f s) s := by
  simp only [vf3, h]
  exact vOp_haar (firstHaar_head (Bool.and_eq_true_iff.1 h).1 _)

/-! ### The operations of each class -/

/-- `i` faults in its start cycle where the check of its class finds a HAAR source that it does not take (R218). -/
def FaultsBy (i : Instr) (s : State) (found : Option Src) : Prop :=
  Ready i s → ∀ x, found = some x → exec i s = .next (domainFault i x s)

theorem VectorOp.faultsBy {i : Instr} {f : VSlot} {eff : State → State} {s : State} {found : Option Src} (hi : VectorOp i f eff)
    (heff : ∀ x, found = some x → eff s = domainFault i x s) : FaultsBy i s found := fun hr x hx => by
  rw [hi.next hr, heff x hx]

theorem faultsBy_linear_two (f : VSlot) (s : State) : ∀ i ∈ [Instr.vfadd f, .vfsub f, .vsel f, .vscal f],
    FaultsBy i s (treeClash none [tagA f s, tagB f s]) := by
  simp only [List.forall_mem_cons, List.not_mem_nil, false_implies, implies_true, and_true]
  refine ⟨?_, ?_, ?_, ?_⟩
  all_goals exact VectorOp.faultsBy (f := f) { exec_eq := fun _ => rfl } fun x hx => vOp_clash hx

theorem faultsBy_plain_one (f : VSlot) (s : State) : ∀ i ∈ [Instr.vfabs f, .vfspec f, .vfclass f, .vrmax f, .vrmin f],
    FaultsBy i s (firstHaar [tagA f s]) := by
  simp only [List.forall_mem_cons, List.not_mem_nil, false_implies, implies_true, and_true]
  refine ⟨?vfabs, ?vfspec, ?vfclass, ?vrmax, ?vrmin⟩
  case vrmax | vrmin => exact VectorOp.faultsBy (f := f) { exec_eq := fun _ => rfl } fun x hx => vReduce_haar hx
  all_goals exact VectorOp.faultsBy (f := f) { exec_eq := fun _ => rfl } fun x hx => vOp_haar hx

theorem faultsBy_plain_two (f : VSlot) (s : State) : ∀ i ∈ [Instr.vfmin f, .vfmax f, .vfcmp f, .vicmp f, .viadd f, .visub f,
    .vimul f, .viand f, .vior f, .vixor f, .vishl f, .vishr f, .visar f, .vimin f, .vimax f],
    FaultsBy i s (firstHaar [tagA f s, tagB f s]) := by
  simp only [List.forall_mem_cons, List.not_mem_nil, false_implies, implies_true, and_true]
  refine ⟨?_, ?_, ?vfcmp, ?vicmp, ?_, ?_, ?_, ?_, ?_, ?_, ?_, ?_, ?_, ?_, ?_⟩
  case vfcmp | vicmp => exact VectorOp.faultsBy (f := f) { exec_eq := fun _ => rfl } fun x hx => vCompare_haar hx
  all_goals exact VectorOp.faultsBy (f := f) { exec_eq := fun _ => rfl } fun x hx => vOp_haar hx

theorem faultsBy_product {f : VSlot} {s : State} (h : bothHaar f s = true) :
    ∀ i ∈ [Instr.vfmul f, .vfma f, .vfms f, .vfnma f], FaultsBy i s (some (tagA f s)) := by
  simp only [List.forall_mem_cons, List.not_mem_nil, false_implies, implies_true, and_true]
  refine ⟨?vfmul, ?_, ?_, ?_⟩
  case vfmul => exact VectorOp.faultsBy (f := f) { exec_eq := fun _ => rfl } fun x hx => Option.some_inj.1 hx ▸ vf2_both h _
  all_goals exact VectorOp.faultsBy (f := f) { exec_eq := fun _ => rfl } fun x hx => Option.some_inj.1 hx ▸ vf3_both h _

/-- Settles O35: the check of the class names the second of two HAAR sources that clash, and the first HAAR source of an operation
that takes none; the result's tag by its fields. -/
theorem domainFaults : Obligations.DomainFaults := by
  unfold Obligations.DomainFaults
  intro f s hq
  dsimp only
  refine ⟨fun i hi hr ha hb hclash => ?clash, fun i hi hr => ⟨fun ha => ?first, fun ha hb => ?second⟩, fun i hi hr ha => ?one,
    fun i hi hr ha hb => ?product, fun l fd hp => domainOf_plain hp fd, fun l fd t ht hfd hhaar hagree => ?tag⟩
  case clash =>
    rw [← tagA_snd hr.2.2.1] at ha hclash
    rw [← tagB_snd hr.2.2.1] at hb hclash
    rw [faultsBy_linear_two f s i hi hr _ (treeClash_pair ha hb hclash), domainFault_tagB]
  case first =>
    rw [← tagA_snd hr.2.2.1] at ha
    rw [faultsBy_plain_two f s i hi hr _ (firstHaar_head ha _), domainFault_tagA hq]
  case second =>
    rw [← tagA_snd hr.2.2.1] at ha
    rw [← tagB_snd hr.2.2.1] at hb
    rw [faultsBy_plain_two f s i hi hr _ (firstHaar_second ha hb _), domainFault_tagB]
  case one =>
    rw [← tagA_snd hr.2.2.1] at ha
    rw [faultsBy_plain_one f s i hi hr _ (firstHaar_head ha _), domainFault_tagA hq]
  case product =>
    have hboth : bothHaar f s = true := by rw [bothHaar_eq hr.2.2, ha, hb]; rfl
    rw [faultsBy_product hboth i hi hr _ rfl, domainFault_tagA hq]
  case tag =>
    rw [domainOf_haar ht hhaar hagree, tagHaar_mkTag, tagL_mkTag, tagLay_mkTag, tagFmt_mkTag, tagExact_mkTag]
    refine ⟨rfl, tagL_mod t, tagLay_mod t, Nat.mod_eq_of_lt hfd, ?_⟩
    simp only [List.all_eq_true, List.mem_filter, and_imp]

end Sys2Proof.Machine
end
